-- ==== Sys2Proof/Word.lean ====
section
/-! DEFINITION. The machine's words, and the sparse tables that State holds its memories and register files in. -/

namespace Sys2Proof

/-- A byte of memory. -/
abbrev Byte := BitVec 8
/-- A scalar register, an address word or a dword of memory (R2, R15, R30). -/
abbrev Word := BitVec 64
/-- A vector register (R15). -/
abbrev Vec := BitVec 512

/-- A sparse table: (key, value) pairs, keys strictly rising, no pair holding the value an absent key reads as. -/
abbrev Sparse (α : Type) := List (Nat × α)

/-- sext(v, n) of N34, from the low n bits of a natural number to 64 bits. -/
def sext (n v : Nat) : Word := BitVec.signExtend 64 (BitVec.ofNat n v)

/-- Bits hi:lo of a natural number (N36). -/
def bits (v hi lo : Nat) : Nat := v / 2 ^ lo % 2 ^ (hi - lo + 1)

end Sys2Proof
end

