-- ==== Sys2Proof/Syntax.lean ====
section
/-! DEFINITION. The instructions: one constructor for each row of spec/opcode_table.json, in the table's order.
Rows with a word are core instructions (R41) or Glaze words (R242); the others are operations of the engines and
events of the device, whose constructors name what the event is about. -/

namespace Sys2Proof

/-- A scalar register field (R36). -/
abbrev G := Fin 64
/-- A vector register field (R36). -/
abbrev V := Fin 32
/-- A mask register field (R36). -/
abbrev K := Fin 8
/-- A lookahead window, in instructions (R36, R39). -/
abbrev La := Fin 16
/-- A Glaze source code; 0x13 to 0x1F are reserved (R242). -/
abbrev GSrc := Fin 32
/-- A Glaze destination; 0x9 to 0xF are reserved (R242). -/
abbrev GDst := Fin 16

/-- The scopes of R33 in the order of their sc codes (R36). -/
inductive Scope where
  | core | quad | clu | die | pkg | pod
  deriving DecidableEq, Repr

/-- The access sizes and element widths .b .h .w .d (N16, R36, R106). -/
inductive Width where
  | b | h | w | d
  deriving DecidableEq, Repr

/-- The types of fcvt and vcvt in the order of their codes (R96). -/
inductive NumTy where
  | f64 | f32 | f16 | bf16 | i64 | u64 | i32 | u32
  deriving DecidableEq, Repr

/-- The element types of vcmp (R107). -/
inductive CmpTy where
  | f64 | f32 | i8 | i16 | i32 | i64
  deriving DecidableEq, Repr

/-- The engines that can meet a transient condition (R258, R263, R264). -/
inductive EngineKind where
  | matrix | copy | blockTransfer
  deriving DecidableEq, Repr

/-- What a management command carries beside its code and its body (R221): sender, sequence number, tag, and the status, the body length and the
reserved field that its header gives. -/
structure MgmtHeader where
  host : Word
  sequence : Nat
  tag : List Byte
  status : Nat := 0
  bodyLength : Nat := 0
  reserved : Nat := 0
  deriving DecidableEq, Repr

/-- A physical range: a pa_handle (R183) and a length in bytes, with a rights mask (all rights for a grant, R185). -/
structure PhysRange where
  handle : Word
  length : Nat
  rights : Nat
  deriving DecidableEq, Repr

/-- An owner key as a host adds it (R185); without a limit it has the default one. -/
structure KeyDesc where
  id : Nat
  publicKey : List Byte
  world : Nat
  grants : List PhysRange
  shares : List PhysRange
  guilt : Nat
  limit : Option Nat
  runLimit : Nat
  deriving DecidableEq, Repr

/-- An extent record (R182). -/
structure Extent where
  vaBase : Nat
  length : Nat
  handle : Word
  rights : Nat
  flags : Nat
  deriving DecidableEq, Repr

/-- A queue descriptor (R199). -/
structure QueueDesc where
  number : Nat
  owner : Nat
  control : Word
  slotsBase : Word
  slots : Nat
  timelines : Word
  timelineCount : Nat
  mapping : List Extent
  deriving DecidableEq, Repr

/-- A window (R220). -/
structure WindowDesc where
  number : Nat
  key : Nat
  handle : Word
  length : Nat
  rights : Nat
  deriving DecidableEq, Repr

/-- The setting of a halt group (R216): its members as core numbers. -/
structure HaltDesc where
  group : Nat
  members : List Nat
  armed : Bool
  haltOnFault : Bool
  deriving DecidableEq, Repr

/-- The instructions, operations and events of spec/opcode_table.json. -/
inductive Instr where
  /-- ADD (R49). Writes the 64-bit sum of g[a] and g[b] to g[d]. -/
  | add (d a b : G)
  /-- SUB (R49). Writes g[a] minus g[b], modulo 2^64, to g[d]. -/
  | sub (d a b : G)
  /-- AND (R49). Writes the bitwise AND of g[a] and g[b] to g[d]. -/
  | and (d a b : G)
  /-- OR (R49). Writes the bitwise OR of g[a] and g[b] to g[d]. -/
  | or (d a b : G)
  /-- XOR (R49). Writes the bitwise XOR of g[a] and g[b] to g[d]. -/
  | xor (d a b : G)
  /-- ANDN (R49). Writes g[a] AND NOT g[b] to g[d]. -/
  | andn (d a b : G)
  /-- ORN (R49). Writes g[a] OR NOT g[b] to g[d]. -/
  | orn (d a b : G)
  /-- SLL (R49). Shifts g[a] left by g[b] AND 63 and writes the result to g[d]. -/
  | sll (d a b : G)
  /-- SRL (R49). Shifts g[a] right logically by g[b] AND 63 and writes the result to g[d]. -/
  | srl (d a b : G)
  /-- SRA (R49). Shifts g[a] right arithmetically by g[b] AND 63 and writes the result to g[d]. -/
  | sra (d a b : G)
  /-- ROL (R49). Rotates g[a] left by g[b] AND 63 and writes the result to g[d]. -/
  | rol (d a b : G)
  /-- ROR (R49). Rotates g[a] right by g[b] AND 63 and writes the result to g[d]. -/
  | ror (d a b : G)
  /-- SLT (R49). Writes 1 to g[d] if g[a] is less than g[b] as signed integers, else 0. -/
  | slt (d a b : G)
  /-- SLTU (R49). Writes 1 to g[d] if g[a] is less than g[b] as unsigned integers, else 0. -/
  | sltu (d a b : G)
  /-- SEQ (R49). Writes 1 to g[d] if g[a] equals g[b], else 0. -/
  | seq (d a b : G)
  /-- SNE (R49). Writes 1 to g[d] if g[a] differs from g[b], else 0. -/
  | sne (d a b : G)
  /-- MIN (R49). Writes the smaller of g[a] and g[b], as signed integers, to g[d]. -/
  | min (d a b : G)
  /-- MAX (R49). Writes the larger of g[a] and g[b], as signed integers, to g[d]. -/
  | max (d a b : G)
  /-- MINU (R49). Writes the smaller of g[a] and g[b], as unsigned integers, to g[d]. -/
  | minu (d a b : G)
  /-- MAXU (R49). Writes the larger of g[a] and g[b], as unsigned integers, to g[d]. -/
  | maxu (d a b : G)
  /-- MUL (R49). Writes the low 64 bits of the product of g[a] and g[b] to g[d]. -/
  | mul (d a b : G)
  /-- MULH (R49). Writes the high 64 bits of the signed product of g[a] and g[b] to g[d]. -/
  | mulh (d a b : G)
  /-- MULHU (R49). Writes the high 64 bits of the unsigned product of g[a] and g[b] to g[d]. -/
  | mulhu (d a b : G)
  /-- MULHSU (R49). Writes the high 64 bits of signed g[a] times unsigned g[b] to g[d]. -/
  | mulhsu (d a b : G)
  /-- DIV (R49). Writes the signed quotient of g[a] by g[b] to g[d], with fixed results for zero and overflow cases. -/
  | div (d a b : G)
  /-- DIVU (R49). Writes the unsigned quotient of g[a] by g[b] to g[d], or all ones when g[b] is zero. -/
  | divu (d a b : G)
  /-- REM (R49). Writes the signed remainder of g[a] by g[b] to g[d]. -/
  | rem (d a b : G)
  /-- REMU (R49). Writes the unsigned remainder of g[a] by g[b] to g[d]. -/
  | remu (d a b : G)
  /-- CLZ (R49). Writes the number of leading zero bits of g[a] to g[d]. -/
  | clz (d a : G)
  /-- CTZ (R49). Writes the number of trailing zero bits of g[a] to g[d]. -/
  | ctz (d a : G)
  /-- POPC (R49). Writes the number of one bits of g[a] to g[d]. -/
  | popc (d a : G)
  /-- BREV (R49). Writes g[a] with its bit order reversed to g[d]. -/
  | brev (d a : G)
  /-- BSWAP (R49). Writes g[a] with its byte order reversed to g[d]. -/
  | bswap (d a : G)
  /-- SEXT_B (R49). Writes the low byte of g[a], sign-extended, to g[d]. -/
  | sextB (d a : G)
  /-- SEXT_H (R49). Writes the low 16 bits of g[a], sign-extended, to g[d]. -/
  | sextH (d a : G)
  /-- SEXT_W (R49). Writes the low 32 bits of g[a], sign-extended, to g[d]. -/
  | sextW (d a : G)
  /-- ZEXT_W (R49). Writes the low 32 bits of g[a], zero-extended, to g[d]. -/
  | zextW (d a : G)
  /-- ADDI (R50). Writes g[a] plus the sign-extended 13-bit immediate to g[d]. -/
  | addi (d a : G) (imm : BitVec 13)
  /-- ANDI (R50). Writes g[a] AND the sign-extended immediate to g[d]. -/
  | andi (d a : G) (imm : BitVec 13)
  /-- ORI (R50). Writes g[a] OR the sign-extended immediate to g[d]. -/
  | ori (d a : G) (imm : BitVec 13)
  /-- XORI (R50). Writes g[a] XOR the sign-extended immediate to g[d]. -/
  | xori (d a : G) (imm : BitVec 13)
  /-- SLTI (R50). Writes 1 to g[d] if g[a] is less than the immediate as signed integers, else 0. -/
  | slti (d a : G) (imm : BitVec 13)
  /-- SLTIU (R50). Writes 1 to g[d] if g[a] is less than the sign-extended immediate as unsigned integers, else 0. -/
  | sltiu (d a : G) (imm : BitVec 13)
  /-- SLLI (R51). Shifts g[a] left by the immediate amount into g[d]. -/
  | slli (d a : G) (amount : Fin 64)
  /-- SRLI (R51). Shifts g[a] right logically by the immediate amount into g[d]. -/
  | srli (d a : G) (amount : Fin 64)
  /-- SRAI (R51). Shifts g[a] right arithmetically by the immediate amount into g[d]. -/
  | srai (d a : G) (amount : Fin 64)
  /-- RORI (R51). Rotates g[a] right by the immediate amount into g[d]. -/
  | rori (d a : G) (amount : Fin 64)
  /-- LUI (R52). Writes the sign-extended 19-bit immediate times 2^13 to g[d]. -/
  | lui (d : G) (imm : BitVec 19)
  /-- ADPC (R52). Writes code VA plus PC plus the immediate times 2^13 to g[d]. -/
  | adpc (d : G) (imm : BitVec 19)
  /-- BFX (R53). Extracts a bit field of g[a] into g[d], sign- or zero-extended. -/
  | bfx (d a : G) (lsb wm1 : Fin 64) (sx : Bool)
  /-- BFI (R53). Inserts the low bits of g[a] into a bit field of g[d]. -/
  | bfi (d a : G) (lsb wm1 : Fin 64)
  /-- MADR (R55). Builds an absolute mesh address from coordinates in g[a] and unit and offset in g[b]. -/
  | madr (d a b : G)
  /-- MREL (R55). Builds a relative mesh address from coordinate deltas in g[a] and unit and offset in g[b]. -/
  | mrel (d a b : G)
  /-- MABS (R55). Resolves and checks a mesh address and writes it as an absolute footprint-virtual address. -/
  | mabs (d a : G)
  /-- MCRD (R55). Resolves and checks a mesh address and writes its unit and coordinates to g[d]. -/
  | mcrd (d a : G)
  /-- BEQ (R56). Branches when g[a] equals g[b]. -/
  | beq (a b : G) (imm : BitVec 13)
  /-- BNE (R56). Branches when g[a] differs from g[b]. -/
  | bne (a b : G) (imm : BitVec 13)
  /-- BLT (R56). Branches when g[a] is less than g[b] as signed integers. -/
  | blt (a b : G) (imm : BitVec 13)
  /-- BGE (R56). Branches when g[a] is at least g[b] as signed integers. -/
  | bge (a b : G) (imm : BitVec 13)
  /-- BLTU (R56). Branches when g[a] is less than g[b] as unsigned integers. -/
  | bltu (a b : G) (imm : BitVec 13)
  /-- BGEU (R56). Branches when g[a] is at least g[b] as unsigned integers. -/
  | bgeu (a b : G) (imm : BitVec 13)
  /-- JAL (R57). Writes PC + 4 to g[d] and jumps PC-relative. -/
  | jal (d : G) (imm : BitVec 19)
  /-- JALR (R57). Writes PC + 4 to g[d] and jumps to g[a] plus the immediate, trapping ALIGN on a misaligned target. -/
  | jalr (d a : G) (imm : BitVec 13)
  /-- LOOP (R58). Opens a hardware loop level with the count in g[a], or skips the body when the count is zero. -/
  | loop (a : G) (imm : BitVec 13)
  /-- LOOPI (R58). Opens a hardware loop level with an immediate count, or skips the body when the count is zero. -/
  | loopi (count : BitVec 10) (len : BitVec 9)
  /-- ITER_CLAIM (R62). Sends a claim on the fetch descriptor at g[a] to its home and receives the chunk in g[d]. -/
  | iterClaim (d a : G)
  /-- ITER_NEXT (R62). Advances within the chunk in g[b], or claims a new chunk from the descriptor at g[a]. -/
  | iterNext (d a b : G)
  /-- LD_B (R63). Loads a sign-extended byte into g[d]. -/
  | ldB (d a : G) (imm : BitVec 9) (la : La)
  /-- LD_H (R63). Loads a sign-extended half into g[d]. -/
  | ldH (d a : G) (imm : BitVec 9) (la : La)
  /-- LD_W (R63). Loads a sign-extended word into g[d]. -/
  | ldW (d a : G) (imm : BitVec 9) (la : La)
  /-- LD_D (R63). Loads a dword into g[d]. -/
  | ldD (d a : G) (imm : BitVec 9) (la : La)
  /-- LD_BU (R63). Loads a zero-extended byte into g[d]. -/
  | ldBu (d a : G) (imm : BitVec 9) (la : La)
  /-- LD_HU (R63). Loads a zero-extended half into g[d]. -/
  | ldHu (d a : G) (imm : BitVec 9) (la : La)
  /-- LD_WU (R63). Loads a zero-extended word into g[d]. -/
  | ldWu (d a : G) (imm : BitVec 9) (la : La)
  /-- LDA (R65). Loads a zero-extended value as an acquire at the named scope. -/
  | lda (d a : G) (sz : Width) (sc : Scope) (la : La)
  /-- ST_B (R63). Stores the low byte of g[s]. -/
  | stB (a s : G) (imm : BitVec 9) (la : La)
  /-- ST_H (R63). Stores the low half of g[s]. -/
  | stH (a s : G) (imm : BitVec 9) (la : La)
  /-- ST_W (R63). Stores the low word of g[s]. -/
  | stW (a s : G) (imm : BitVec 9) (la : La)
  /-- ST_D (R63). Stores the dword g[s]. -/
  | stD (a s : G) (imm : BitVec 9) (la : La)
  /-- STL (R65). Stores the low bytes of g[s] as a release at the named scope. -/
  | stl (a s : G) (sz : Width) (sc : Scope) (la : La)
  /-- STORE_ACKNOWLEDGEMENT (R63). A store performed at pod scope is acknowledged and leaves its firing's count of unacknowledged stores. -/
  | storeAcknowledgement (n : Nat)
  /-- LATE_RESULT (R39). A reply for an outstanding long-latency request arrives and is written to its register, forwarded, or discarded if cancelled. -/
  | lateResult (n : Nat)
  /-- LDF_E (R148). Waits for a FULL scratchpad word, takes its value and leaves it EMPTY, as an acquire. -/
  | ldfE (d a : G)
  /-- LDF_F (R148). Waits for a FULL scratchpad word and reads it, leaving it FULL, as an acquire. -/
  | ldfF (d a : G)
  /-- STE (R148). Waits for an EMPTY scratchpad word, writes it and sets it FULL, as a release. -/
  | ste (a b : G)
  /-- FILL (R148). Writes a scratchpad word and sets it FULL at once, as a release. -/
  | fill (a b : G)
  /-- PURGE (R152). Sets EMPTY the tags of a run of scratchpad words in ascending order. -/
  | purge (a b : G) (la : La)
  /-- PROBE (R152). Reports a word's FULL tag and non-empty queue without waiting. -/
  | probe (d a : G) (la : La)
  /-- AMO_ADD (R140). Atomically adds g[b] to the dword at its home and returns the old value. -/
  | amoAdd (d a b : G) (la : La)
  /-- AMO_AND (R140). Atomically ANDs g[b] into the dword and returns the old value. -/
  | amoAnd (d a b : G) (la : La)
  /-- AMO_OR (R140). Atomically ORs g[b] into the dword and returns the old value. -/
  | amoOr (d a b : G) (la : La)
  /-- AMO_XOR (R140). Atomically XORs g[b] into the dword and returns the old value. -/
  | amoXor (d a b : G) (la : La)
  /-- AMO_MIN (R140). Atomically keeps the signed minimum and returns the old value. -/
  | amoMin (d a b : G) (la : La)
  /-- AMO_MAX (R140). Atomically keeps the signed maximum and returns the old value. -/
  | amoMax (d a b : G) (la : La)
  /-- AMO_SWAP (R140). Atomically replaces the dword with g[b] and returns the old value. -/
  | amoSwap (d a b : G) (la : La)
  /-- AMO_FADDD (R140). Atomically adds g[b] as binary64 to the dword and returns the old value. -/
  | amoFaddd (d a b : G) (la : La)
  /-- AMOP_ADD (R140). Posts an atomic add to the dword at its home, as a release. -/
  | amopAdd (a b : G) (la : La)
  /-- AMOP_AND (R140). Posts an atomic AND to the dword at its home. -/
  | amopAnd (a b : G) (la : La)
  /-- AMOP_OR (R140). Posts an atomic OR to the dword at its home. -/
  | amopOr (a b : G) (la : La)
  /-- AMOP_XOR (R140). Posts an atomic XOR to the dword at its home. -/
  | amopXor (a b : G) (la : La)
  /-- AMOP_MIN (R140). Posts an atomic signed minimum to the dword at its home. -/
  | amopMin (a b : G) (la : La)
  /-- AMOP_MAX (R140). Posts an atomic signed maximum to the dword at its home. -/
  | amopMax (a b : G) (la : La)
  /-- AMOP_SWAP (R140). Posts an atomic swap to the dword at its home. -/
  | amopSwap (a b : G) (la : La)
  /-- AMOP_FADDD (R140). Posts an atomic binary64 add to the dword at its home. -/
  | amopFaddd (a b : G) (la : La)
  /-- CAS_D (R141). Atomically compares a dword with g[d] and writes g[b] on a match, returning the old value. -/
  | casD (d a b : G) (la : La)
  /-- CAS_W (R141). Atomically compares a word with g[d] and writes the low word of g[b] on a match, returning the old value. -/
  | casW (d a b : G) (la : La)
  /-- DEC (R117). Sends a decrement of one lane of a readiness word to its home, as a release. -/
  | dec (a b : G) (lane : Fin 4) (la : La)
  /-- MSG (R142). Checks and sends a HANDLE message image with inline words to a target core, as a posted release. -/
  | msg (a b : G) (la : La)
  /-- MSG_REPLY (R143). Sends g[b] as the REPLY of the message being handled. -/
  | msgReply (b : G) (la : La)
  /-- SPAWN (R144). Checks a task packet image and sends it as a TASK message, receiving 0 on acceptance or 1 on bounce. -/
  | spawn (d a b : G) (la : La)
  /-- DLG (R145). Sends a task packet as a DELEGATE message to S of the target and receives its REPLY in g[d]. -/
  | dlg (d a b : G) (la : La)
  /-- DLG_P (R145). Sends a task packet as a posted DELEGATE message to S of the target. -/
  | dlgP (a b : G) (la : La)
  /-- MCST (R146). Multicasts a 256-byte line to a group of member packages. -/
  | mcst (d a : G) (la : La)
  /-- DONE (R153). Ends the firing or delegated routine, sends its successors and frees its allotment. -/
  | done
  /-- SHRINK (R153). Reduces the thread's allotment to the value in g[a]. -/
  | shrink (a : G)
  /-- ARM (R153). Sends an operation that writes a readiness word and its rates for a codelet. -/
  | arm (a b : G)
  /-- READY (R153). Sends an operation that runs the release step on a readiness word without changing a count. -/
  | ready (a : G)
  /-- MIGR (R153). Moves the firing to the core at g[a]. -/
  | migr (a : G)
  /-- FENCE_ACQ (R154). Makes every earlier load and reply-returning instruction an acquire at the scope. -/
  | fenceAcq (sc : Scope)
  /-- FENCE_REL (R154). Orders every earlier access before any later store, atomic, message or engine command at the scope. -/
  | fenceRel (sc : Scope)
  /-- FENCE_FULL (R154). Orders every earlier access before any later access at the scope. -/
  | fenceFull (sc : Scope)
  /-- FENCE_ENG (R154). Waits for the thread's engine numbers on every channel and acquires their operations. -/
  | fenceEng (sc : Scope)
  /-- BAR_ARRIVE (R155). Counts one arrival at a barrier and records the phase without waiting. -/
  | barArrive (sc : Scope) (id : Fin 8) (a : G)
  /-- BAR_WAIT (R155). Waits until the recorded barrier phase completes, then acquires at the scope. -/
  | barWait (sc : Scope) (id : Fin 8)
  /-- BAR_SYNC (R155). Arrives at a barrier and then waits for the phase. -/
  | barSync (sc : Scope) (id : Fin 8) (a : G)
  /-- WAITT (R156). Waits until a timeline channel's watermark reaches g[a] and acquires the covered operations. -/
  | waitt (ch : Fin 8) (a : G)
  /-- SRR (R67). Reads a special register into g[d]. -/
  | srr (d : G) (index : BitVec 12)
  /-- SRW (R67). Writes g[a] to a special register. -/
  | srw (index : BitVec 12) (a : G)
  /-- TRAP (R205). Raises the precise trap TRAP with TRAPVAL = g[a]. -/
  | trap (a : G)
  /-- ERET (R205). Returns from firmware mode to TRAPPC in capsule mode. -/
  | eret
  /-- BKPT (R205). Halts an armed halt group or writes a breakpoint record. -/
  | bkpt (a : G)
  /-- REPORT (R118). Issues a user report record to the capsule's report extent. -/
  | report (a b : G)
  /-- REPORT_RECORD_WRITE (R118). Once the earlier accesses are performed at pod scope, the user report record is written and leaves the outstanding count. -/
  | reportRecordWrite (n : Nat)
  /-- SUBMIT (R205). Checks a derived capsule image and hands it to admission. -/
  | submit (d a b : G)
  /-- CPS_SRC (R244). Writes the copy shadow register SRC. -/
  | cpsSrc (a : G) (la : La)
  /-- CPS_DST (R244). Writes the copy shadow register DST. -/
  | cpsDst (a : G) (la : La)
  /-- CPS_SSTR (R244). Writes the copy shadow register SSTR. -/
  | cpsSstr (a : G) (la : La)
  /-- CPS_DSTR (R244). Writes the copy shadow register DSTR. -/
  | cpsDstr (a : G) (la : La)
  /-- CPS_SHAPE (R244). Writes the copy shadow register SHAPE. -/
  | cpsShape (a : G) (la : La)
  /-- CPS_FMT (R244). Writes the copy shadow register FMT. -/
  | cpsFmt (a : G) (la : La)
  /-- CPS_CHAN (R244). Writes the copy shadow register CHAN. -/
  | cpsChan (a : G) (la : La)
  /-- CPGO (R245). Checks the copy shadow registers and hands the copy engine one copy, taking a timeline number. -/
  | cpgo (d : G) (la : La)
  /-- BTX (R264). Reads a block-transfer descriptor and sends the transfer to its row's block-transfer engine. -/
  | btx (d a : G) (la : La)
  /-- QPUSH (R246). Reads a TCW, checks it and enqueues it in the core's matrix queue. -/
  | qpush (a : G) (la : La)
  /-- QSTAT (R260). Reads the core's matrix queue status word. -/
  | qstat (d : G)
  /-- QSTAT_CLR (R260). Reads the matrix queue status word and empties every FAULTED slot. -/
  | qstatClr (d : G)
  /-- SET_OPEN (R286). Opens the lowest free Setter session with its output at a scratchpad address. -/
  | setOpen (d a : G) (la : La)
  /-- SET_PUT (R287). Hands the Setter a run of constraint records for a session, taking a channel-5 number. -/
  | setPut (d a b : G) (la : La)
  /-- SET_TAKE (R295). Returns a session word and acquires the session's output below its position. -/
  | setTake (d a : G) (la : La)
  /-- SET_CLOSE (R288). Closes a Setter session, taking a channel-5 number. -/
  | setClose (d a : G) (la : La)
  /-- SET_STAT (R296). Returns the Setter's status word without acquiring. -/
  | setStat (d : G) (la : La)
  /-- FADD_D (R92). Binary64 addition. -/
  | faddD (d a b : G)
  /-- FSUB_D (R92). Binary64 subtraction. -/
  | fsubD (d a b : G)
  /-- FMUL_D (R92). Binary64 multiplication. -/
  | fmulD (d a b : G)
  /-- FDIV_D (R92). Binary64 division. -/
  | fdivD (d a b : G)
  /-- FSQRT_D (R92). Binary64 square root. -/
  | fsqrtD (d a : G)
  /-- FMIN_D (R93). Binary64 minimum with the NaN and zero rules. -/
  | fminD (d a b : G)
  /-- FMAX_D (R93). Binary64 maximum with the NaN and zero rules. -/
  | fmaxD (d a b : G)
  /-- FSGNJ_D (R92). Binary64 value with the sign of g[b]. -/
  | fsgnjD (d a b : G)
  /-- FSGNJN_D (R92). Binary64 value with the inverted sign of g[b]. -/
  | fsgnjnD (d a b : G)
  /-- FSGNJX_D (R92). Binary64 value with the XOR of both signs. -/
  | fsgnjxD (d a b : G)
  /-- FCLASS_D (R94). Writes the class mask of a binary64 value. -/
  | fclassD (d a : G)
  /-- FEQ_D (R93). Binary64 equality comparison. -/
  | feqD (d a b : G)
  /-- FLT_D (R93). Binary64 less-than comparison. -/
  | fltD (d a b : G)
  /-- FLE_D (R93). Binary64 less-or-equal comparison. -/
  | fleD (d a b : G)
  /-- FADD_S (R92). Binary32 addition. -/
  | faddS (d a b : G)
  /-- FSUB_S (R92). Binary32 subtraction. -/
  | fsubS (d a b : G)
  /-- FMUL_S (R92). Binary32 multiplication. -/
  | fmulS (d a b : G)
  /-- FDIV_S (R92). Binary32 division. -/
  | fdivS (d a b : G)
  /-- FSQRT_S (R92). Binary32 square root. -/
  | fsqrtS (d a : G)
  /-- FMIN_S (R93). Binary32 minimum. -/
  | fminS (d a b : G)
  /-- FMAX_S (R93). Binary32 maximum. -/
  | fmaxS (d a b : G)
  /-- FSGNJ_S (R92). Binary32 value with the sign of g[b]. -/
  | fsgnjS (d a b : G)
  /-- FSGNJN_S (R92). Binary32 value with the inverted sign of g[b]. -/
  | fsgnjnS (d a b : G)
  /-- FSGNJX_S (R92). Binary32 value with the XOR of both signs. -/
  | fsgnjxS (d a b : G)
  /-- FCLASS_S (R94). Writes the class mask of a binary32 value. -/
  | fclassS (d a : G)
  /-- FEQ_S (R93). Binary32 equality comparison. -/
  | feqS (d a b : G)
  /-- FLT_S (R93). Binary32 less-than comparison. -/
  | fltS (d a b : G)
  /-- FLE_S (R93). Binary32 less-or-equal comparison. -/
  | fleS (d a b : G)
  /-- FMA_D (R95). Binary64 fused multiply-add with one rounding. -/
  | fmaD (d a b c : G)
  /-- FMS_D (R95). Binary64 fused multiply-subtract with one rounding. -/
  | fmsD (d a b c : G)
  /-- FMA_S (R95). Binary32 fused multiply-add with one rounding. -/
  | fmaS (d a b c : G)
  /-- FMS_S (R95). Binary32 fused multiply-subtract with one rounding. -/
  | fmsS (d a b c : G)
  /-- FCVT (R96). Converts between floating and integer types, optionally toward zero. -/
  | fcvt (d a : G) (rtz : Bool) (dst src : NumTy)
  /-- VLD (R101). Loads the active elements of a vector register from consecutive bytes. -/
  | vld (d : V) (a : G) (imm : BitVec 8) (sz : Width) (la : La)
  /-- VST (R101). Stores the active elements of a vector register to consecutive bytes. -/
  | vst (d : V) (a : G) (imm : BitVec 8) (sz : Width) (la : La)
  /-- VLDS (R102). Loads active 64-bit lanes from strided addresses. -/
  | vlds (d : V) (a b : G) (k : K) (la : La)
  /-- VSTS (R102). Stores active 64-bit lanes to strided addresses. -/
  | vsts (d : V) (a b : G) (k : K) (la : La)
  /-- VGTH (R102). Gathers active 64-bit lanes from base plus vector indices. -/
  | vgth (d : V) (a : G) (b : V) (k : K) (la : La)
  /-- VSCT (R102). Scatters active 64-bit lanes to base plus vector indices. -/
  | vsct (d : V) (a : G) (b : V) (k : K) (la : La)
  /-- VFADD_D (R104). Element-wise binary64 addition. -/
  | vfaddD (d a b : V) (k : K)
  /-- VFSUB_D (R104). Element-wise binary64 subtraction. -/
  | vfsubD (d a b : V) (k : K)
  /-- VFMUL_D (R104). Element-wise binary64 multiplication. -/
  | vfmulD (d a b : V) (k : K)
  /-- VFDIV_D (R104). Element-wise binary64 division. -/
  | vfdivD (d a b : V) (k : K)
  /-- VFSQRT_D (R104). Element-wise binary64 square root. -/
  | vfsqrtD (d a : V) (k : K)
  /-- VFMIN_D (R104). Element-wise binary64 minimum. -/
  | vfminD (d a b : V) (k : K)
  /-- VFMAX_D (R104). Element-wise binary64 maximum. -/
  | vfmaxD (d a b : V) (k : K)
  /-- VFSGNJ_D (R104). Element-wise binary64 sign injection. -/
  | vfsgnjD (d a b : V) (k : K)
  /-- VFSGNJN_D (R104). Element-wise binary64 inverted sign injection. -/
  | vfsgnjnD (d a b : V) (k : K)
  /-- VFSGNJX_D (R104). Element-wise binary64 XOR sign injection. -/
  | vfsgnjxD (d a b : V) (k : K)
  /-- VFCLASS_D (R104). Element-wise binary64 class mask. -/
  | vfclassD (d a : V) (k : K)
  /-- VFADD_S (R104). Element-wise binary32 addition. -/
  | vfaddS (d a b : V) (k : K)
  /-- VFSUB_S (R104). Element-wise binary32 subtraction. -/
  | vfsubS (d a b : V) (k : K)
  /-- VFMUL_S (R104). Element-wise binary32 multiplication. -/
  | vfmulS (d a b : V) (k : K)
  /-- VFDIV_S (R104). Element-wise binary32 division. -/
  | vfdivS (d a b : V) (k : K)
  /-- VFSQRT_S (R104). Element-wise binary32 square root. -/
  | vfsqrtS (d a : V) (k : K)
  /-- VFMIN_S (R104). Element-wise binary32 minimum. -/
  | vfminS (d a b : V) (k : K)
  /-- VFMAX_S (R104). Element-wise binary32 maximum. -/
  | vfmaxS (d a b : V) (k : K)
  /-- VFSGNJ_S (R104). Element-wise binary32 sign injection. -/
  | vfsgnjS (d a b : V) (k : K)
  /-- VFSGNJN_S (R104). Element-wise binary32 inverted sign injection. -/
  | vfsgnjnS (d a b : V) (k : K)
  /-- VFSGNJX_S (R104). Element-wise binary32 XOR sign injection. -/
  | vfsgnjxS (d a b : V) (k : K)
  /-- VFCLASS_S (R104). Element-wise binary32 class mask. -/
  | vfclassS (d a : V) (k : K)
  /-- VFMA_D (R105). Element-wise binary64 fused multiply-add. -/
  | vfmaD (d a b c : V) (k : K)
  /-- VFMS_D (R105). Element-wise binary64 fused multiply-subtract. -/
  | vfmsD (d a b c : V) (k : K)
  /-- VFNMA_D (R105). Element-wise binary64 negated-product multiply-add. -/
  | vfnmaD (d a b c : V) (k : K)
  /-- VFNMS_D (R105). Element-wise binary64 negated-product multiply-subtract. -/
  | vfnmsD (d a b c : V) (k : K)
  /-- VFMA_S (R105). Element-wise binary32 fused multiply-add. -/
  | vfmaS (d a b c : V) (k : K)
  /-- VFMS_S (R105). Element-wise binary32 fused multiply-subtract. -/
  | vfmsS (d a b c : V) (k : K)
  /-- VFNMA_S (R105). Element-wise binary32 negated-product multiply-add. -/
  | vfnmaS (d a b c : V) (k : K)
  /-- VFNMS_S (R105). Element-wise binary32 negated-product multiply-subtract. -/
  | vfnmsS (d a b c : V) (k : K)
  /-- VADD (R106). Element-wise integer addition modulo 2^w. -/
  | vadd (d a b : V) (wc : Width) (k : K)
  /-- VSUB (R106). Element-wise integer subtraction modulo 2^w. -/
  | vsub (d a b : V) (wc : Width) (k : K)
  /-- VADDS (R106). Element-wise signed saturating addition. -/
  | vadds (d a b : V) (wc : Width) (k : K)
  /-- VADDUS (R106). Element-wise unsigned saturating addition. -/
  | vaddus (d a b : V) (wc : Width) (k : K)
  /-- VSUBS (R106). Element-wise signed saturating subtraction. -/
  | vsubs (d a b : V) (wc : Width) (k : K)
  /-- VSUBUS (R106). Element-wise unsigned saturating subtraction. -/
  | vsubus (d a b : V) (wc : Width) (k : K)
  /-- VMUL (R106). Element-wise low product. -/
  | vmul (d a b : V) (wc : Width) (k : K)
  /-- VMULH (R106). Element-wise signed high product. -/
  | vmulh (d a b : V) (wc : Width) (k : K)
  /-- VMULHU (R106). Element-wise unsigned high product. -/
  | vmulhu (d a b : V) (wc : Width) (k : K)
  /-- VAND (R106). Element-wise AND. -/
  | vand (d a b : V) (wc : Width) (k : K)
  /-- VOR (R106). Element-wise OR. -/
  | vor (d a b : V) (wc : Width) (k : K)
  /-- VXOR (R106). Element-wise XOR. -/
  | vxor (d a b : V) (wc : Width) (k : K)
  /-- VSLL (R106). Element-wise left shift. -/
  | vsll (d a b : V) (wc : Width) (k : K)
  /-- VSRL (R106). Element-wise logical right shift. -/
  | vsrl (d a b : V) (wc : Width) (k : K)
  /-- VSRA (R106). Element-wise arithmetic right shift. -/
  | vsra (d a b : V) (wc : Width) (k : K)
  /-- VMIN (R106). Element-wise signed minimum. -/
  | vmin (d a b : V) (wc : Width) (k : K)
  /-- VMAX (R106). Element-wise signed maximum. -/
  | vmax (d a b : V) (wc : Width) (k : K)
  /-- VMINU (R106). Element-wise unsigned minimum. -/
  | vminu (d a b : V) (wc : Width) (k : K)
  /-- VMAXU (R106). Element-wise unsigned maximum. -/
  | vmaxu (d a b : V) (wc : Width) (k : K)
  /-- VABS (R106). Element-wise saturating absolute value. -/
  | vabs (d a : V) (wc : Width) (k : K)
  /-- VCMP (R107). Compares elements and writes a lane mask register. -/
  | vcmp (kd : K) (a b : V) (cond : Fin 6) (ty : CmpTy) (any : Bool) (k : K)
  /-- VSEL (R108). Selects each 64-bit lane from one of two registers by a mask. -/
  | vsel (d a b : V) (k : K)
  /-- VRED_FADD (R109). Reduces active elements by floating addition in the pairwise tree. -/
  | vredFadd (d a : V) (wc : Width) (k : K)
  /-- VRED_FMIN (R109). Reduces active elements by floating minimum. -/
  | vredFmin (d a : V) (wc : Width) (k : K)
  /-- VRED_FMAX (R109). Reduces active elements by floating maximum. -/
  | vredFmax (d a : V) (wc : Width) (k : K)
  /-- VRED_ADD (R109). Reduces active elements by integer addition. -/
  | vredAdd (d a : V) (wc : Width) (k : K)
  /-- VRED_AND (R109). Reduces active elements by AND. -/
  | vredAnd (d a : V) (wc : Width) (k : K)
  /-- VRED_OR (R109). Reduces active elements by OR. -/
  | vredOr (d a : V) (wc : Width) (k : K)
  /-- VRED_XOR (R109). Reduces active elements by XOR. -/
  | vredXor (d a : V) (wc : Width) (k : K)
  /-- VRED_MIN (R109). Reduces active elements by signed minimum. -/
  | vredMin (d a : V) (wc : Width) (k : K)
  /-- VRED_MAX (R109). Reduces active elements by signed maximum. -/
  | vredMax (d a : V) (wc : Width) (k : K)
  /-- VRED_MINU (R109). Reduces active elements by unsigned minimum. -/
  | vredMinu (d a : V) (wc : Width) (k : K)
  /-- VRED_MAXU (R109). Reduces active elements by unsigned maximum. -/
  | vredMaxu (d a : V) (wc : Width) (k : K)
  /-- SPLAT (R110). Copies a scalar register into every active vector element. -/
  | splat (d : V) (g : G) (wc : Width) (k : K)
  /-- EXTR (R110). Extracts one vector element into a scalar register. -/
  | extr (g : G) (v : V) (idx : Fin 16) (wc : Width)
  /-- INS (R110). Inserts a scalar into one vector element. -/
  | ins (v : V) (g : G) (idx : Fin 16) (wc : Width)
  /-- EXTR_K (R110). Copies a mask register into a scalar register. -/
  | extrK (g : G) (kd : K)
  /-- INS_K (R110). Copies the low byte of a scalar register into a mask register. -/
  | insK (kd : K) (g : G)
  /-- VPERM (R111). Permutes elements of a register by indices in another. -/
  | vperm (d a b : V) (wc : Width) (k : K)
  /-- VCVT (R112). Converts active elements between types as fcvt does. -/
  | vcvt (d a : V) (rtz : Bool) (dst src : NumTy) (k : K)
  /-- KAND (R113). ANDs two mask registers. -/
  | kand (kd ka kb : K)
  /-- KOR (R113). ORs two mask registers. -/
  | kor (kd ka kb : K)
  /-- KXOR (R113). XORs two mask registers. -/
  | kxor (kd ka kb : K)
  /-- KANDN (R113). ANDs a mask with the complement of another. -/
  | kandn (kd ka kb : K)
  /-- KNOT (R113). Complements a mask register. -/
  | knot (kd ka : K)
  /-- KLI (R113). Loads an 8-bit immediate into a mask register. -/
  | kli (kd : K) (imm : BitVec 8)
  /-- GZ_ADD (R272). Drain addition of two sources. -/
  | gzAdd (d : GDst) (a b : GSrc)
  /-- GZ_SUB (R272). Drain subtraction. -/
  | gzSub (d : GDst) (a b : GSrc)
  /-- GZ_MUL (R272). Drain multiplication. -/
  | gzMul (d : GDst) (a b : GSrc)
  /-- GZ_FMA (R272). Drain fused multiply-add. -/
  | gzFma (d : GDst) (a b c : GSrc)
  /-- GZ_MIN (R272). Drain minimum. -/
  | gzMin (d : GDst) (a b : GSrc)
  /-- GZ_MAX (R272). Drain maximum. -/
  | gzMax (d : GDst) (a b : GSrc)
  /-- GZ_RELU (R243). Drain rectified linear unit. -/
  | gzRelu (d : GDst) (a : GSrc)
  /-- GZ_CLAMP (R272). Drain clamp between two bounds. -/
  | gzClamp (d : GDst) (a b c : GSrc)
  /-- GZ_ABS (R272). Drain absolute value. -/
  | gzAbs (d : GDst) (a : GSrc)
  /-- GZ_NEG (R272). Drain negation. -/
  | gzNeg (d : GDst) (a : GSrc)
  /-- GZ_EXP2 (R273). Drain power of two. -/
  | gzExp2 (d : GDst) (a : GSrc)
  /-- GZ_RCP (R273). Drain reciprocal. -/
  | gzRcp (d : GDst) (a : GSrc)
  /-- GZ_RSQ (R273). Drain reciprocal square root. -/
  | gzRsq (d : GDst) (a : GSrc)
  /-- GZ_SEL (R272). Drain selection by a condition on a third source. -/
  | gzSel (cc : Fin 32) (d : GDst) (a b c : GSrc)
  /-- GZ_LDR (R272). Drain load of a row-vector value. -/
  | gzLdr (n : Fin 32) (d : GDst)
  /-- GZ_LDC (R272). Drain load of a column-vector value. -/
  | gzLdc (n : Fin 32) (d : GDst)
  /-- GZ_CVT (R272). Drain rounding to a narrower float format and back. -/
  | gzCvt (fmt : Fin 32) (d : GDst) (a : GSrc)
  /-- GZ_BSCL (R274). Latches the block scales of the segment. -/
  | gzBscl (a : GSrc)
  /-- GZ_ST (R274). Stores the segment row in the output format. -/
  | gzSt (a : GSrc)
  /-- GZ_STT (R274). Stores the segment transposed. -/
  | gzStt (a : GSrc)
  /-- GZ_REDR (R275). Reduces the segment and stores the row result. -/
  | gzRedr (n : Fin 8) (op : Fin 4) (a : GSrc)
  /-- GZ_END (R272). Ends the drain segment. -/
  | gzEnd
  /-- MMA (R254). The matrix unit starts a dense multiply TCW and forms the tile, running its drain if named. -/
  | mma (cluster : Nat)
  /-- MMAS (R254). The matrix unit starts a sparse-A multiply TCW. -/
  | mmas (cluster : Nat)
  /-- MZERO (R255). The matrix unit zeroes a tile. -/
  | mzero (cluster : Nat)
  /-- MACCLD (R255). The matrix unit loads a tile from memory bits unchanged. -/
  | maccld (cluster : Nat)
  /-- MDRAIN (R255). The matrix unit runs a drain program over a tile. -/
  | mdrain (cluster : Nat)
  /-- MDPL (R268). The matrix unit checks and loads Glaze words into a drain directory entry. -/
  | mdpl (cluster : Nat)
  /-- MSIG (R255). A TCW that completes once every earlier TCW of its queue is complete. -/
  | msig (cluster : Nat)
  /-- TCW_COMPLETION (R246). A TCW completes, its numbers complete in push order and its slot empties. -/
  | tcwCompletion (core : Nat)
  /-- COPY (R262). The copy engine starts an accepted copy and moves or converts its rows. -/
  | copy (cluster n : Nat)
  /-- COPY_COMPLETION (R266). A copy completes, its number and token are written and TLW advances. -/
  | copyCompletion (cluster n : Nat)
  /-- BLOCK_TRANSFER_ARRIVAL (R265). A block transfer reaches its engine and is accepted or refused with a ticket and hint. -/
  | blockTransferArrival (n : Nat)
  /-- BLOCK_TRANSFER_RETRY (R265). After the hint's cycles the sender's interface retries a refused transfer. -/
  | blockTransferRetry (n : Nat)
  /-- BLOCK_TRANSFER_COMPLETION (R264). A block transfer completes and its number is written. -/
  | blockTransferCompletion (engine n : Nat)
  /-- TRANSIENT_CONDITION (R258). An engine access meets a transient condition and restarts from its progress point. -/
  | transientCondition (engine : EngineKind) (unit : Nat) (n : Nat)
  /-- SETTER_PUT (R287). The Setter begins performing an accepted set.put after every earlier operation. -/
  | setterPut (cluster : Nat)
  /-- PLACE (R283). The Setter places one record into a shelf, emitting shelves as they fill or the window overflows. -/
  | place (cluster : Nat)
  /-- SESSION_CLOSE (R288). The Setter emits every open shelf and the end mark, frees the session and completes the close number. -/
  | sessionClose (cluster : Nat)
  /-- HANDLE (R48). H runs a HANDLE message's inline words to completion. -/
  | handle (core : Nat)
  /-- AMO_HANDLER (R140). H performs an amo at its home and sends the old value as REPLY. -/
  | amoHandler (core : Nat)
  /-- AMOP_HANDLER (R140). H performs a posted amop at its home. -/
  | amopHandler (core : Nat)
  /-- CAS_HANDLER (R141). H performs a compare-and-swap at its home. -/
  | casHandler (core : Nat)
  /-- CLAIM_HANDLER (R62). H claims a chunk of a fetch descriptor at its home. -/
  | claimHandler (core : Nat)
  /-- DEC_HANDLER (R117). H decrements a readiness lane, reporting UNDERFLOW or running the release step. -/
  | decHandler (core : Nat)
  /-- ARM_HANDLER (R153). H writes a readiness word and its rate dword for arm. -/
  | armHandler (core : Nat)
  /-- READY_HANDLER (R153). H runs the release step on a readiness word for ready. -/
  | readyHandler (core : Nat)
  /-- READY_ENTRY_APPEND (R122). A ready entry waiting for room is appended to a ring once an entry is taken. -/
  | readyEntryAppend (core : Nat)
  /-- TASK (R124). A TASK message reaches its target and is discarded, bounced or accepted as a ready entry. -/
  | task (n : Nat)
  /-- BOUNCE_REFUSAL (R124). A bounce refusal reaches the sender, removes its unit and makes spawn return 1. -/
  | bounceRefusal (n : Nat)
  /-- REGISTER_CONTEXT (R127). A migrating register context is accepted at its target as a source-2 entry. -/
  | registerContext (n : Nat)
  /-- DEPARTURE (R127). A migrating firing departs once its window, stores and late results allow. -/
  | departure (thread : Nat)
  /-- FORWARDING_ENTRY_EXPIRY (R127). The old core's forwarding entry ends 512 cycles after departure. -/
  | forwardingEntryExpiry (core : Nat)
  /-- DELEGATE (R145). S starts a delegated routine from a DELEGATE message in arrival order. -/
  | delegate (core : Nat)
  /-- REPLY (R137). A REPLY is written to a reply window register, a scratchpad word as a fill, or plain memory. -/
  | reply (n : Nat)
  /-- MCST_LINE (R146). A multicast line is written at a member package and acknowledged. -/
  | mcstLine (n : Nat)
  /-- MCST_ACKNOWLEDGEMENT (R146). The last member acknowledgement completes an mcst's number. -/
  | mcstAcknowledgement (n : Nat)
  /-- FIRING_START (R123). A free task thread takes the head ready entry and starts the firing once its allotment is available. -/
  | firingStart (thread : Nat)
  /-- CAPSULE_COMPLETION (R130). The device detects that the outstanding count, watermarks and stores all allow completion and ends the capsule. -/
  | capsuleCompletion (capsule : Nat)
  /-- COMPLETION_WAVE (R131). Footprint package 0 collects quiet states and unit counts from every gang member. -/
  | completionWave (capsule : Nat)
  /-- CROSS_PACKAGE_ACKNOWLEDGEMENT (R131). A receiving package's acknowledgement removes the sender's unit for a cross-package message. -/
  | crossPackageAcknowledgement (capsule package : Nat)
  /-- SCANNER_VISIT (R160). The queue scanner visits a mapped queue and performs, hands over or rejects its entries. -/
  | scannerVisit (queue : Nat)
  /-- ADMISSION (R193). Admission reads and checks a capsule image or resume record, refusing it with a code on failure. -/
  | admission (n : Nat)
  /-- PLACEMENT (R190). A waiting capsule is placed, loaded and started once clusters and SRAM allow. -/
  | placement (capsule : Nat)
  /-- MISSED_DEADLINE (R191). An unplaced capsule reaches its deadline tick and is refused with code 14. -/
  | missedDeadline (capsule : Nat)
  /-- DEADLINE_WATCHDOG (R191). A placed capsule still running at its deadline tick is killed with WATCHDOG. -/
  | deadlineWatchdog (capsule : Nat)
  /-- RUN_LIMIT (R191). A capsule whose run time exceeds its key's run limit is killed with WATCHDOG. -/
  | runLimit (capsule : Nat)
  /-- READY_NOTICE (R192). A placed gang member's ready notice reaches footprint package 0. -/
  | readyNotice (capsule package : Nat)
  /-- GO (R192). At the start tick minus 20 us package 0 sends GO when it holds every notice. -/
  | go (capsule : Nat)
  /-- GANG_START (R192). At the start tick a member starts its entry firings, or kills the gang if it holds no GO. -/
  | gangStart (capsule : Nat)
  /-- PREEMPT_INTERRUPT (R175). A core takes PREEMPT at a thread's window-free boundary and saves each live firing. -/
  | preemptInterrupt (core : Nat)
  /-- RESUME_RECORD_WRITE (R206). Once saved stores are performed, the resume record, spill area and MAC are written and the clusters freed. -/
  | resumeRecordWrite (capsule : Nat)
  /-- CONTINUATION_PUBLISH (R210). Firmware takes the publish lock and publishes the continuation entry in the home queue. -/
  | continuationPublish (capsule : Nat)
  /-- PUBLISH_RETRY (R210). Firmware retries the publish lock after 1 us. -/
  | publishRetry (capsule : Nat)
  /-- KILL_MESSAGE (R214). A core receiving the kill resets the capsule's threads and discards its work. -/
  | killMessage (core : Nat)
  /-- ROUTER_DISCARD_EXPIRY (R214). A router stops discarding the capsule's packets 4,096 cycles after its receipt. -/
  | routerDiscardExpiry (capsule cluster : Nat)
  /-- PURGE_CONFIRMED (R214). The purge reduction completes, the final record and end notice are written and everything is wiped. -/
  | purgeConfirmed (capsule : Nat)
  /-- HALT (R216). A halt reaches the members of a halt group, which stop at window-free boundaries. -/
  | halt (group : Nat)
  /-- RESUME (R216). A resume releases the halted members of a group. -/
  | resume (group : Nat)
  /-- FIREWALL_DROP (R233). A capsule packet addressed into the saggar column is dropped and reported as RIGHTS. -/
  | firewallDrop (n : Nat)
  /-- RMA_READ (R219). A host RMA read of a window. -/
  | rmaRead (host window offset length : Nat)
  /-- RMA_WRITE (R219). An owner host RMA write to a window. -/
  | rmaWrite (host window offset : Nat) (data : List Byte)
  /-- FETCH_ADD (R171). An owner host 64-bit fetch-add on a window with A. -/
  | fetchAdd (port host window offset : Nat) (value : Word)
  /-- SWAP (R171). An owner host 64-bit swap on a window with A. -/
  | swap (port host window offset : Nat) (value : Word)
  /-- COMPARE_SWAP (R171). An owner host 64-bit compare-swap on a window with A. -/
  | compareSwap (port host window offset : Nat) (compare value : Word)
  /-- CLAIM (R223). A host claims ownership or says hello, opening a session. -/
  | claim (h : MgmtHeader) (priority : Nat) (key share signature : List Byte)
  /-- CLAIM_WINDOW_CLOSE (R223). The 10 ms claim window closes and the lowest claim wins. -/
  | claimWindowClose
  /-- HANDOVER (R224). The owner names a successor host. -/
  | handover (h : MgmtHeader) (successor : Word)
  /-- ACCEPT (R224). The named successor accepts and becomes owner. -/
  | accept (h : MgmtHeader)
  /-- HANDOVER_LAPSE (R224). A handover unaccepted for 1 s lapses. -/
  | handoverLapse
  /-- KEEPALIVE (R222). A host keeps its session alive. -/
  | keepalive (h : MgmtHeader)
  /-- KEEPALIVE_TIMEOUT (R224). The owner slot falls vacant after 5 s without a keepalive. -/
  | keepaliveTimeout
  /-- READ_CAPABILITY (R226). Returns bytes of the capability list. -/
  | readCapability (h : MgmtHeader) (offset length : Nat)
  /-- MEASURE (R234). Returns the signed firmware and configuration measurement for a nonce. -/
  | measure (h : MgmtHeader) (nonce : List Byte)
  /-- READ_LOG (R222). Returns error-log records with protected worlds withheld. -/
  | readLog (h : MgmtHeader)
  /-- STATUS (R222). Returns the bring-up stage, owner host and PTP lock. -/
  | status (h : MgmtHeader)
  /-- ADD_KEY (R185). Adds an owner key to the table. -/
  | addKey (h : MgmtHeader) (key : KeyDesc)
  /-- REVOKE_KEY (R196). Revokes an owner key, refusing its unstarted capsules. -/
  | revokeKey (h : MgmtHeader) (key : Nat)
  /-- SET_GUILT_AND_LIMIT (R201). Writes a key's guilt and limit, lifting a bar when guilt falls below limit. -/
  | setGuiltAndLimit (h : MgmtHeader) (key guilt limit : Nat)
  /-- SET_RUN_LIMIT (R185). Sets a key's run limit. -/
  | setRunLimit (h : MgmtHeader) (key limit : Nat)
  /-- MAP_QUEUE (R199). Maps a queue and sets its control block to RUN. -/
  | mapQueue (h : MgmtHeader) (queue : QueueDesc)
  /-- UNMAP_QUEUE (R199). Unmaps a queue after the visit in progress. -/
  | unmapQueue (h : MgmtHeader) (queue : Nat)
  /-- STOP_QUEUE (R202). Stops a queue, writing STOPPED at the end of the visit in progress. -/
  | stopQueue (h : MgmtHeader) (queue : Nat)
  /-- RESTART_QUEUE (R202). Restarts a stopped queue in RUN or ERROR. -/
  | restartQueue (h : MgmtHeader) (queue : Nat)
  /-- REGISTER_OWNER_REPORT_RING (R225). Registers an owner report ring for a key. -/
  | registerOwnerReportRing (h : MgmtHeader) (key : Nat) (base : Word) (slots : Nat)
  /-- REGISTER_EVENT_ADDRESS (R222). Registers a host address for ring-write events. -/
  | registerEventAddress (h : MgmtHeader) (key : Nat) (address : Nat)
  /-- MAP_WINDOW (R220). Maps an RMA window over a key's grant or share. -/
  | mapWindow (h : MgmtHeader) (window : WindowDesc)
  /-- UNMAP_WINDOW (R220). Unmaps an RMA window. -/
  | unmapWindow (h : MgmtHeader) (window : Nat)
  /-- KILL_CAPSULE (R222). The owner host kills a capsule by ID. -/
  | killCapsule (h : MgmtHeader) (id : Word)
  /-- POD_TABLE (R229). Writes the package's pod ID and peer fabric addresses. -/
  | podTable (h : MgmtHeader) (own : Nat) (peers : List (Nat × Nat))
  /-- STAGE_FIRMWARE (R235). Writes a vendor-signed firmware image to the standby flash half. -/
  | stageFirmware (h : MgmtHeader) (image : List Byte)
  /-- ACTIVATE_FIRMWARE (R235). Makes the staged firmware current at one switch point. -/
  | activateFirmware (h : MgmtHeader)
  /-- OPEN_DEBUG_SESSION (R238). Requests a debug session at a tier, reserving its die. -/
  | openDebugSession (h : MgmtHeader) (tier die key : Nat) (signatures : List Byte)
  /-- DEBUG_SESSION_START (R238). The reserved die empties, is wiped and the debug session opens. -/
  | debugSessionStart (session : Nat)
  /-- CLOSE_DEBUG_SESSION (R238). Closes a debug session and wipes as its tier requires. -/
  | closeDebugSession (h : MgmtHeader) (session : Nat)
  /-- SET_HALT_GROUP (R216). Sets halt-group membership, arming and halt on fault. -/
  | setHaltGroup (h : MgmtHeader) (group : HaltDesc)
  /-- POWER_LIMIT (R239). Sets the module's power limit. -/
  | powerLimit (h : MgmtHeader) (watts : Nat)
  /-- POWER_ON (R231). Main power comes on and the saggar column boots its ROM and verifies the configuration table. -/
  | powerOn
  /-- DIE_LINK_TRAINING (R231). The die-to-die links finish training or exceed their bound. -/
  | dieLinkTraining (usable : List Nat)
  /-- PORT_TRAINING (R231). The Ultra Ethernet ports finish training or exceed their bound. -/
  | portTraining (ports : List Nat)
  /-- CXL_ENUMERATION (R231). The CXL ports train and the interleave set forms. -/
  | cxlEnumeration (ports : List (Nat × Nat))
  /-- PTP_LOCK (R228). PTP lock is reached, setting or slewing PODTICK. -/
  | ptpLock (podTime : Nat)
  /-- LOCK_LOSS (R228). PTP lock is lost and PODTICK runs on the local clock. -/
  | lockLoss
  /-- CXL_PORT_FAILURE (R230). A CXL port fails after bring-up and the interleave set gives MEMERR. -/
  | cxlPortFailure (port : Nat)
  /-- THERMAL_THROTTLE (R239). Junction temperature reaches 105 deg C and the clock is throttled. -/
  | thermalThrottle
  /-- THERMAL_SHUTDOWN (R239). Junction temperature reaches 115 deg C and the device removes its own power. -/
  | thermalShutdown
  /-- POWER_OFF (R240). The board controller removes main power, ending every capsule with no record. -/
  | powerOff
  /-- RESET (R240). The board controller resets the module. -/
  | reset
  /-- FETCH_FAULT (R34). A fetch at a PC outside every extent, or from an extent without X, faults EXTENT or RIGHTS at that address. -/
  | fetchFault
  /-- ILLEGAL_INSTRUCTION_WORD (R37). A fetched word whose op is 0x00, 0x7F or reserved, or whose selector is unassigned, traps ILLEGAL precisely. -/
  | illegalInstructionWord (word : BitVec 32)
  /-- UNSUPPORTED_UET_REQUEST (R218). A request for an unsupported delivery service or operation is answered with a remote operation error and has no effect. -/
  | unsupportedUetRequest (host : Nat)
  /-- UNKNOWN_MANAGEMENT_COMMAND (R222). A management send that carries an unassigned command code is answered with status 2. -/
  | unknownManagementCommand (h : MgmtHeader) (code : Nat)
  /-- PTP_LOCK_TIMEOUT (R231). Stage 5 ends without a first PTP lock after its 10 s bound, and the device goes on free-running into stage 6. -/
  | ptpLockTimeout
  /-- POWER_LIMIT_THROTTLE (R239). While the 10 ms average power would exceed the limit, the device lowers the main clock in 75 MHz steps, down to 1.2 GHz. -/
  | powerLimitThrottle
  deriving DecidableEq, Repr

end Sys2Proof
end

