-- ==== Sys2Proof/WellFormed.lean ====
section
/-! DEFINITION. Which terms of Instr are instructions that some word encodes: the limits of R36 and of the
instructions' own rules that the fields' types do not carry. -/

namespace Sys2Proof

/-- bar takes the scopes quad to pod (R155). -/
def barOk : Scope → Bool
  | .core => false
  | .quad | .clu | .die | .pkg | .pod => true

/-- The float types of R96. -/
def NumTy.isFloat : NumTy → Bool
  | .f64 | .f32 | .f16 | .bf16 => true
  | .i64 | .u64 | .i32 | .u32 => false

/-- The type pairs that fcvt and vcvt convert: never a type to itself, never an integer type to an integer type (R96). -/
def cvtOk (dst src : NumTy) : Bool := (dst != src) && (dst.isFloat || src.isFloat)

/-- The float types of vcmp (R107). -/
def CmpTy.isFloat : CmpTy → Bool
  | .f64 | .f32 => true
  | .i8 | .i16 | .i32 | .i64 => false

/-- The widths that the floating reductions take (R109). -/
def floatWidth : Width → Bool
  | .w | .d => true
  | .b | .h => false

/-- The lane indices of extr and ins: 0 to 7 for .d and 0 to 15 otherwise (R110). -/
def idxOk (idx : Fin 16) : Width → Bool
  | .d => decide (idx.val ≤ 7)
  | .b | .h | .w => true

/-- Glaze sources 0x00 to 0x12 are assigned (R242, R271). -/
def srcOk (s : GSrc) : Bool := decide (s.val ≤ 0x12)

/-- Glaze destinations 0x0 to 0x8 are assigned (R242, R271). -/
def dstOk (d : GDst) : Bool := decide (d.val ≤ 8)

/-- Well-formed instructions. Events and engine operations have no word and no further limits. -/
def Instr.wf : Instr → Bool
  | .add _ _ _ => true
  | .sub _ _ _ => true
  | .and _ _ _ => true
  | .or _ _ _ => true
  | .xor _ _ _ => true
  | .andn _ _ _ => true
  | .orn _ _ _ => true
  | .sll _ _ _ => true
  | .srl _ _ _ => true
  | .sra _ _ _ => true
  | .rol _ _ _ => true
  | .ror _ _ _ => true
  | .slt _ _ _ => true
  | .sltu _ _ _ => true
  | .seq _ _ _ => true
  | .sne _ _ _ => true
  | .min _ _ _ => true
  | .max _ _ _ => true
  | .minu _ _ _ => true
  | .maxu _ _ _ => true
  | .mul _ _ _ => true
  | .mulh _ _ _ => true
  | .mulhu _ _ _ => true
  | .mulhsu _ _ _ => true
  | .div _ _ _ => true
  | .divu _ _ _ => true
  | .rem _ _ _ => true
  | .remu _ _ _ => true
  | .clz _ _ => true
  | .ctz _ _ => true
  | .popc _ _ => true
  | .brev _ _ => true
  | .bswap _ _ => true
  | .sextB _ _ => true
  | .sextH _ _ => true
  | .sextW _ _ => true
  | .zextW _ _ => true
  | .addi _ _ _ => true
  | .andi _ _ _ => true
  | .ori _ _ _ => true
  | .xori _ _ _ => true
  | .slti _ _ _ => true
  | .sltiu _ _ _ => true
  | .slli _ _ _ => true
  | .srli _ _ _ => true
  | .srai _ _ _ => true
  | .rori _ _ _ => true
  | .lui _ _ => true
  | .adpc _ _ => true
  | .bfx _ _ lsb wm1 _ => decide (lsb.val + wm1.val + 1 ≤ 64)
  | .bfi _ _ lsb wm1 => decide (lsb.val + wm1.val + 1 ≤ 64)
  | .madr _ _ _ => true
  | .mrel _ _ _ => true
  | .mabs _ _ => true
  | .mcrd _ _ => true
  | .beq _ _ _ => true
  | .bne _ _ _ => true
  | .blt _ _ _ => true
  | .bge _ _ _ => true
  | .bltu _ _ _ => true
  | .bgeu _ _ _ => true
  | .jal _ _ => true
  | .jalr _ _ _ => true
  | .loop _ _ => true
  | .loopi _ _ => true
  | .iterClaim _ _ => true
  | .iterNext _ _ _ => true
  | .ldB _ _ _ _ => true
  | .ldH _ _ _ _ => true
  | .ldW _ _ _ _ => true
  | .ldD _ _ _ _ => true
  | .ldBu _ _ _ _ => true
  | .ldHu _ _ _ _ => true
  | .ldWu _ _ _ _ => true
  | .lda _ _ _ _ _ => true
  | .stB _ _ _ _ => true
  | .stH _ _ _ _ => true
  | .stW _ _ _ _ => true
  | .stD _ _ _ _ => true
  | .stl _ _ _ _ _ => true
  | .storeAcknowledgement _ => true
  | .lateResult _ => true
  | .ldfE _ _ => true
  | .ldfF _ _ => true
  | .ste _ _ => true
  | .fill _ _ => true
  | .purge _ _ _ => true
  | .probe _ _ _ => true
  | .amoAdd _ _ _ _ => true
  | .amoAnd _ _ _ _ => true
  | .amoOr _ _ _ _ => true
  | .amoXor _ _ _ _ => true
  | .amoMin _ _ _ _ => true
  | .amoMax _ _ _ _ => true
  | .amoSwap _ _ _ _ => true
  | .amoFaddd _ _ _ _ => true
  | .amopAdd _ _ _ => true
  | .amopAnd _ _ _ => true
  | .amopOr _ _ _ => true
  | .amopXor _ _ _ => true
  | .amopMin _ _ _ => true
  | .amopMax _ _ _ => true
  | .amopSwap _ _ _ => true
  | .amopFaddd _ _ _ => true
  | .casD d _ _ la => (d.val != 0 || la.val == 0)
  | .casW d _ _ la => (d.val != 0 || la.val == 0)
  | .dec _ _ _ _ => true
  | .msg _ _ _ => true
  | .msgReply _ _ => true
  | .spawn _ _ _ _ => true
  | .dlg _ _ _ _ => true
  | .dlgP _ _ _ => true
  | .mcst _ _ _ => true
  | .done => true
  | .shrink _ => true
  | .arm _ _ => true
  | .ready _ => true
  | .migr _ => true
  | .fenceAcq _ => true
  | .fenceRel _ => true
  | .fenceFull _ => true
  | .fenceEng _ => true
  | .barArrive sc id a => barOk sc && (id.val != 0 || a.val == 0)
  | .barWait sc _ => barOk sc
  | .barSync sc id a => barOk sc && (id.val != 0 || a.val == 0)
  | .waitt _ _ => true
  | .srr _ _ => true
  | .srw _ _ => true
  | .trap _ => true
  | .eret => true
  | .bkpt _ => true
  | .report _ _ => true
  | .reportRecordWrite _ => true
  | .submit _ _ _ => true
  | .cpsSrc _ _ => true
  | .cpsDst _ _ => true
  | .cpsSstr _ _ => true
  | .cpsDstr _ _ => true
  | .cpsShape _ _ => true
  | .cpsFmt _ _ => true
  | .cpsChan _ _ => true
  | .cpgo _ _ => true
  | .btx _ _ _ => true
  | .qpush _ _ => true
  | .qstat _ => true
  | .qstatClr _ => true
  | .setOpen _ _ _ => true
  | .setPut _ _ _ _ => true
  | .setTake _ _ _ => true
  | .setClose _ _ _ => true
  | .setStat _ _ => true
  | .faddD _ _ _ => true
  | .fsubD _ _ _ => true
  | .fmulD _ _ _ => true
  | .fdivD _ _ _ => true
  | .fsqrtD _ _ => true
  | .fminD _ _ _ => true
  | .fmaxD _ _ _ => true
  | .fsgnjD _ _ _ => true
  | .fsgnjnD _ _ _ => true
  | .fsgnjxD _ _ _ => true
  | .fclassD _ _ => true
  | .feqD _ _ _ => true
  | .fltD _ _ _ => true
  | .fleD _ _ _ => true
  | .faddS _ _ _ => true
  | .fsubS _ _ _ => true
  | .fmulS _ _ _ => true
  | .fdivS _ _ _ => true
  | .fsqrtS _ _ => true
  | .fminS _ _ _ => true
  | .fmaxS _ _ _ => true
  | .fsgnjS _ _ _ => true
  | .fsgnjnS _ _ _ => true
  | .fsgnjxS _ _ _ => true
  | .fclassS _ _ => true
  | .feqS _ _ _ => true
  | .fltS _ _ _ => true
  | .fleS _ _ _ => true
  | .fmaD _ _ _ _ => true
  | .fmsD _ _ _ _ => true
  | .fmaS _ _ _ _ => true
  | .fmsS _ _ _ _ => true
  | .fcvt _ _ _ dst src => cvtOk dst src
  | .vld _ _ _ _ _ => true
  | .vst _ _ _ _ _ => true
  | .vlds _ _ _ _ _ => true
  | .vsts _ _ _ _ _ => true
  | .vgth _ _ _ _ _ => true
  | .vsct _ _ _ _ _ => true
  | .vfaddD _ _ _ _ => true
  | .vfsubD _ _ _ _ => true
  | .vfmulD _ _ _ _ => true
  | .vfdivD _ _ _ _ => true
  | .vfsqrtD _ _ _ => true
  | .vfminD _ _ _ _ => true
  | .vfmaxD _ _ _ _ => true
  | .vfsgnjD _ _ _ _ => true
  | .vfsgnjnD _ _ _ _ => true
  | .vfsgnjxD _ _ _ _ => true
  | .vfclassD _ _ _ => true
  | .vfaddS _ _ _ _ => true
  | .vfsubS _ _ _ _ => true
  | .vfmulS _ _ _ _ => true
  | .vfdivS _ _ _ _ => true
  | .vfsqrtS _ _ _ => true
  | .vfminS _ _ _ _ => true
  | .vfmaxS _ _ _ _ => true
  | .vfsgnjS _ _ _ _ => true
  | .vfsgnjnS _ _ _ _ => true
  | .vfsgnjxS _ _ _ _ => true
  | .vfclassS _ _ _ => true
  | .vfmaD _ _ _ _ _ => true
  | .vfmsD _ _ _ _ _ => true
  | .vfnmaD _ _ _ _ _ => true
  | .vfnmsD _ _ _ _ _ => true
  | .vfmaS _ _ _ _ _ => true
  | .vfmsS _ _ _ _ _ => true
  | .vfnmaS _ _ _ _ _ => true
  | .vfnmsS _ _ _ _ _ => true
  | .vadd _ _ _ _ _ => true
  | .vsub _ _ _ _ _ => true
  | .vadds _ _ _ _ _ => true
  | .vaddus _ _ _ _ _ => true
  | .vsubs _ _ _ _ _ => true
  | .vsubus _ _ _ _ _ => true
  | .vmul _ _ _ _ _ => true
  | .vmulh _ _ _ _ _ => true
  | .vmulhu _ _ _ _ _ => true
  | .vand _ _ _ _ _ => true
  | .vor _ _ _ _ _ => true
  | .vxor _ _ _ _ _ => true
  | .vsll _ _ _ _ _ => true
  | .vsrl _ _ _ _ _ => true
  | .vsra _ _ _ _ _ => true
  | .vmin _ _ _ _ _ => true
  | .vmax _ _ _ _ _ => true
  | .vminu _ _ _ _ _ => true
  | .vmaxu _ _ _ _ _ => true
  | .vabs _ _ _ _ => true
  | .vcmp kd _ _ cond ty _ _ => (kd.val != 0) && (!ty.isFloat || cond.val != 5)
  | .vsel _ _ _ _ => true
  | .vredFadd _ _ wc _ => floatWidth wc
  | .vredFmin _ _ wc _ => floatWidth wc
  | .vredFmax _ _ wc _ => floatWidth wc
  | .vredAdd _ _ _ _ => true
  | .vredAnd _ _ _ _ => true
  | .vredOr _ _ _ _ => true
  | .vredXor _ _ _ _ => true
  | .vredMin _ _ _ _ => true
  | .vredMax _ _ _ _ => true
  | .vredMinu _ _ _ _ => true
  | .vredMaxu _ _ _ _ => true
  | .splat _ _ _ _ => true
  | .extr _ _ idx wc => idxOk idx wc
  | .ins _ _ idx wc => idxOk idx wc
  | .extrK _ _ => true
  | .insK kd _ => kd.val != 0
  | .vperm _ _ _ _ _ => true
  | .vcvt _ _ _ dst src _ => cvtOk dst src
  | .kand kd _ _ => kd.val != 0
  | .kor kd _ _ => kd.val != 0
  | .kxor kd _ _ => kd.val != 0
  | .kandn kd _ _ => kd.val != 0
  | .knot kd _ => kd.val != 0
  | .kli kd _ => kd.val != 0
  | .gzAdd d a b => dstOk d && srcOk a && srcOk b
  | .gzSub d a b => dstOk d && srcOk a && srcOk b
  | .gzMul d a b => dstOk d && srcOk a && srcOk b
  | .gzFma d a b c => dstOk d && srcOk a && srcOk b && srcOk c
  | .gzMin d a b => dstOk d && srcOk a && srcOk b
  | .gzMax d a b => dstOk d && srcOk a && srcOk b
  | .gzRelu d a => dstOk d && srcOk a
  | .gzClamp d a b c => dstOk d && srcOk a && srcOk b && srcOk c
  | .gzAbs d a => dstOk d && srcOk a
  | .gzNeg d a => dstOk d && srcOk a
  | .gzExp2 d a => dstOk d && srcOk a
  | .gzRcp d a => dstOk d && srcOk a
  | .gzRsq d a => dstOk d && srcOk a
  | .gzSel cc d a b c => decide (cc.val ≤ 3) && dstOk d && srcOk a && srcOk b && srcOk c
  | .gzLdr _ d => dstOk d
  | .gzLdc _ d => dstOk d
  | .gzCvt fmt d a => decide (1 ≤ fmt.val ∧ fmt.val ≤ 4) && dstOk d && srcOk a
  | .gzBscl a => srcOk a
  | .gzSt a => srcOk a
  | .gzStt a => srcOk a
  | .gzRedr _ op a => decide (op.val ≤ 2) && srcOk a
  | .gzEnd => true
  | .mma _ => true
  | .mmas _ => true
  | .mzero _ => true
  | .maccld _ => true
  | .mdrain _ => true
  | .mdpl _ => true
  | .msig _ => true
  | .tcwCompletion _ => true
  | .copy _ _ => true
  | .copyCompletion _ _ => true
  | .blockTransferArrival _ => true
  | .blockTransferRetry _ => true
  | .blockTransferCompletion _ _ => true
  | .transientCondition _ _ _ => true
  | .setterPut _ => true
  | .place _ => true
  | .sessionClose _ => true
  | .handle _ => true
  | .amoHandler _ => true
  | .amopHandler _ => true
  | .casHandler _ => true
  | .claimHandler _ => true
  | .decHandler _ => true
  | .armHandler _ => true
  | .readyHandler _ => true
  | .readyEntryAppend _ => true
  | .task _ => true
  | .bounceRefusal _ => true
  | .registerContext _ => true
  | .departure _ => true
  | .forwardingEntryExpiry _ => true
  | .delegate _ => true
  | .reply _ => true
  | .mcstLine _ => true
  | .mcstAcknowledgement _ => true
  | .firingStart _ => true
  | .capsuleCompletion _ => true
  | .completionWave _ => true
  | .crossPackageAcknowledgement _ _ => true
  | .scannerVisit _ => true
  | .admission _ => true
  | .placement _ => true
  | .missedDeadline _ => true
  | .deadlineWatchdog _ => true
  | .runLimit _ => true
  | .readyNotice _ _ => true
  | .go _ => true
  | .gangStart _ => true
  | .preemptInterrupt _ => true
  | .resumeRecordWrite _ => true
  | .continuationPublish _ => true
  | .publishRetry _ => true
  | .killMessage _ => true
  | .routerDiscardExpiry _ _ => true
  | .purgeConfirmed _ => true
  | .halt _ => true
  | .resume _ => true
  | .firewallDrop _ => true
  | .rmaRead _ _ _ _ => true
  | .rmaWrite _ _ _ _ => true
  | .fetchAdd _ _ _ _ _ => true
  | .swap _ _ _ _ _ => true
  | .compareSwap _ _ _ _ _ _ => true
  | .claim _ _ _ _ _ => true
  | .claimWindowClose => true
  | .handover _ _ => true
  | .accept _ => true
  | .handoverLapse => true
  | .keepalive _ => true
  | .keepaliveTimeout => true
  | .readCapability _ _ _ => true
  | .measure _ _ => true
  | .readLog _ => true
  | .status _ => true
  | .addKey _ _ => true
  | .revokeKey _ _ => true
  | .setGuiltAndLimit _ _ _ _ => true
  | .setRunLimit _ _ _ => true
  | .mapQueue _ _ => true
  | .unmapQueue _ _ => true
  | .stopQueue _ _ => true
  | .restartQueue _ _ => true
  | .registerOwnerReportRing _ _ _ _ => true
  | .registerEventAddress _ _ _ => true
  | .mapWindow _ _ => true
  | .unmapWindow _ _ => true
  | .killCapsule _ _ => true
  | .podTable _ _ _ => true
  | .stageFirmware _ _ => true
  | .activateFirmware _ => true
  | .openDebugSession _ _ _ _ _ => true
  | .debugSessionStart _ => true
  | .closeDebugSession _ _ => true
  | .setHaltGroup _ _ => true
  | .powerLimit _ _ => true
  | .powerOn => true
  | .dieLinkTraining _ => true
  | .portTraining _ => true
  | .cxlEnumeration _ => true
  | .ptpLock _ => true
  | .lockLoss => true
  | .cxlPortFailure _ => true
  | .thermalThrottle => true
  | .thermalShutdown => true
  | .powerOff => true
  | .reset => true
  | .fetchFault => true
  | .illegalInstructionWord _ => true
  | .unsupportedUetRequest _ => true
  | .unknownManagementCommand _ _ => true
  | .ptpLockTimeout => true
  | .powerLimitThrottle => true

/-- What a row of the table is. -/
inductive RowKind where
  | core | glaze | event
  deriving DecidableEq, Repr

/-- Core instructions have a word of R41, Glaze words a word of R242, events and engine operations none. -/
def Instr.kind : Instr → RowKind
  | .add .. => .core
  | .sub .. => .core
  | .and .. => .core
  | .or .. => .core
  | .xor .. => .core
  | .andn .. => .core
  | .orn .. => .core
  | .sll .. => .core
  | .srl .. => .core
  | .sra .. => .core
  | .rol .. => .core
  | .ror .. => .core
  | .slt .. => .core
  | .sltu .. => .core
  | .seq .. => .core
  | .sne .. => .core
  | .min .. => .core
  | .max .. => .core
  | .minu .. => .core
  | .maxu .. => .core
  | .mul .. => .core
  | .mulh .. => .core
  | .mulhu .. => .core
  | .mulhsu .. => .core
  | .div .. => .core
  | .divu .. => .core
  | .rem .. => .core
  | .remu .. => .core
  | .clz .. => .core
  | .ctz .. => .core
  | .popc .. => .core
  | .brev .. => .core
  | .bswap .. => .core
  | .sextB .. => .core
  | .sextH .. => .core
  | .sextW .. => .core
  | .zextW .. => .core
  | .addi .. => .core
  | .andi .. => .core
  | .ori .. => .core
  | .xori .. => .core
  | .slti .. => .core
  | .sltiu .. => .core
  | .slli .. => .core
  | .srli .. => .core
  | .srai .. => .core
  | .rori .. => .core
  | .lui .. => .core
  | .adpc .. => .core
  | .bfx .. => .core
  | .bfi .. => .core
  | .madr .. => .core
  | .mrel .. => .core
  | .mabs .. => .core
  | .mcrd .. => .core
  | .beq .. => .core
  | .bne .. => .core
  | .blt .. => .core
  | .bge .. => .core
  | .bltu .. => .core
  | .bgeu .. => .core
  | .jal .. => .core
  | .jalr .. => .core
  | .loop .. => .core
  | .loopi .. => .core
  | .iterClaim .. => .core
  | .iterNext .. => .core
  | .ldB .. => .core
  | .ldH .. => .core
  | .ldW .. => .core
  | .ldD .. => .core
  | .ldBu .. => .core
  | .ldHu .. => .core
  | .ldWu .. => .core
  | .lda .. => .core
  | .stB .. => .core
  | .stH .. => .core
  | .stW .. => .core
  | .stD .. => .core
  | .stl .. => .core
  | .storeAcknowledgement .. => .event
  | .lateResult .. => .event
  | .ldfE .. => .core
  | .ldfF .. => .core
  | .ste .. => .core
  | .fill .. => .core
  | .purge .. => .core
  | .probe .. => .core
  | .amoAdd .. => .core
  | .amoAnd .. => .core
  | .amoOr .. => .core
  | .amoXor .. => .core
  | .amoMin .. => .core
  | .amoMax .. => .core
  | .amoSwap .. => .core
  | .amoFaddd .. => .core
  | .amopAdd .. => .core
  | .amopAnd .. => .core
  | .amopOr .. => .core
  | .amopXor .. => .core
  | .amopMin .. => .core
  | .amopMax .. => .core
  | .amopSwap .. => .core
  | .amopFaddd .. => .core
  | .casD .. => .core
  | .casW .. => .core
  | .dec .. => .core
  | .msg .. => .core
  | .msgReply .. => .core
  | .spawn .. => .core
  | .dlg .. => .core
  | .dlgP .. => .core
  | .mcst .. => .core
  | .done => .core
  | .shrink .. => .core
  | .arm .. => .core
  | .ready .. => .core
  | .migr .. => .core
  | .fenceAcq .. => .core
  | .fenceRel .. => .core
  | .fenceFull .. => .core
  | .fenceEng .. => .core
  | .barArrive .. => .core
  | .barWait .. => .core
  | .barSync .. => .core
  | .waitt .. => .core
  | .srr .. => .core
  | .srw .. => .core
  | .trap .. => .core
  | .eret => .core
  | .bkpt .. => .core
  | .report .. => .core
  | .reportRecordWrite .. => .event
  | .submit .. => .core
  | .cpsSrc .. => .core
  | .cpsDst .. => .core
  | .cpsSstr .. => .core
  | .cpsDstr .. => .core
  | .cpsShape .. => .core
  | .cpsFmt .. => .core
  | .cpsChan .. => .core
  | .cpgo .. => .core
  | .btx .. => .core
  | .qpush .. => .core
  | .qstat .. => .core
  | .qstatClr .. => .core
  | .setOpen .. => .core
  | .setPut .. => .core
  | .setTake .. => .core
  | .setClose .. => .core
  | .setStat .. => .core
  | .faddD .. => .core
  | .fsubD .. => .core
  | .fmulD .. => .core
  | .fdivD .. => .core
  | .fsqrtD .. => .core
  | .fminD .. => .core
  | .fmaxD .. => .core
  | .fsgnjD .. => .core
  | .fsgnjnD .. => .core
  | .fsgnjxD .. => .core
  | .fclassD .. => .core
  | .feqD .. => .core
  | .fltD .. => .core
  | .fleD .. => .core
  | .faddS .. => .core
  | .fsubS .. => .core
  | .fmulS .. => .core
  | .fdivS .. => .core
  | .fsqrtS .. => .core
  | .fminS .. => .core
  | .fmaxS .. => .core
  | .fsgnjS .. => .core
  | .fsgnjnS .. => .core
  | .fsgnjxS .. => .core
  | .fclassS .. => .core
  | .feqS .. => .core
  | .fltS .. => .core
  | .fleS .. => .core
  | .fmaD .. => .core
  | .fmsD .. => .core
  | .fmaS .. => .core
  | .fmsS .. => .core
  | .fcvt .. => .core
  | .vld .. => .core
  | .vst .. => .core
  | .vlds .. => .core
  | .vsts .. => .core
  | .vgth .. => .core
  | .vsct .. => .core
  | .vfaddD .. => .core
  | .vfsubD .. => .core
  | .vfmulD .. => .core
  | .vfdivD .. => .core
  | .vfsqrtD .. => .core
  | .vfminD .. => .core
  | .vfmaxD .. => .core
  | .vfsgnjD .. => .core
  | .vfsgnjnD .. => .core
  | .vfsgnjxD .. => .core
  | .vfclassD .. => .core
  | .vfaddS .. => .core
  | .vfsubS .. => .core
  | .vfmulS .. => .core
  | .vfdivS .. => .core
  | .vfsqrtS .. => .core
  | .vfminS .. => .core
  | .vfmaxS .. => .core
  | .vfsgnjS .. => .core
  | .vfsgnjnS .. => .core
  | .vfsgnjxS .. => .core
  | .vfclassS .. => .core
  | .vfmaD .. => .core
  | .vfmsD .. => .core
  | .vfnmaD .. => .core
  | .vfnmsD .. => .core
  | .vfmaS .. => .core
  | .vfmsS .. => .core
  | .vfnmaS .. => .core
  | .vfnmsS .. => .core
  | .vadd .. => .core
  | .vsub .. => .core
  | .vadds .. => .core
  | .vaddus .. => .core
  | .vsubs .. => .core
  | .vsubus .. => .core
  | .vmul .. => .core
  | .vmulh .. => .core
  | .vmulhu .. => .core
  | .vand .. => .core
  | .vor .. => .core
  | .vxor .. => .core
  | .vsll .. => .core
  | .vsrl .. => .core
  | .vsra .. => .core
  | .vmin .. => .core
  | .vmax .. => .core
  | .vminu .. => .core
  | .vmaxu .. => .core
  | .vabs .. => .core
  | .vcmp .. => .core
  | .vsel .. => .core
  | .vredFadd .. => .core
  | .vredFmin .. => .core
  | .vredFmax .. => .core
  | .vredAdd .. => .core
  | .vredAnd .. => .core
  | .vredOr .. => .core
  | .vredXor .. => .core
  | .vredMin .. => .core
  | .vredMax .. => .core
  | .vredMinu .. => .core
  | .vredMaxu .. => .core
  | .splat .. => .core
  | .extr .. => .core
  | .ins .. => .core
  | .extrK .. => .core
  | .insK .. => .core
  | .vperm .. => .core
  | .vcvt .. => .core
  | .kand .. => .core
  | .kor .. => .core
  | .kxor .. => .core
  | .kandn .. => .core
  | .knot .. => .core
  | .kli .. => .core
  | .gzAdd .. => .glaze
  | .gzSub .. => .glaze
  | .gzMul .. => .glaze
  | .gzFma .. => .glaze
  | .gzMin .. => .glaze
  | .gzMax .. => .glaze
  | .gzRelu .. => .glaze
  | .gzClamp .. => .glaze
  | .gzAbs .. => .glaze
  | .gzNeg .. => .glaze
  | .gzExp2 .. => .glaze
  | .gzRcp .. => .glaze
  | .gzRsq .. => .glaze
  | .gzSel .. => .glaze
  | .gzLdr .. => .glaze
  | .gzLdc .. => .glaze
  | .gzCvt .. => .glaze
  | .gzBscl .. => .glaze
  | .gzSt .. => .glaze
  | .gzStt .. => .glaze
  | .gzRedr .. => .glaze
  | .gzEnd => .glaze
  | .mma .. => .event
  | .mmas .. => .event
  | .mzero .. => .event
  | .maccld .. => .event
  | .mdrain .. => .event
  | .mdpl .. => .event
  | .msig .. => .event
  | .tcwCompletion .. => .event
  | .copy .. => .event
  | .copyCompletion .. => .event
  | .blockTransferArrival .. => .event
  | .blockTransferRetry .. => .event
  | .blockTransferCompletion .. => .event
  | .transientCondition .. => .event
  | .setterPut .. => .event
  | .place .. => .event
  | .sessionClose .. => .event
  | .handle .. => .event
  | .amoHandler .. => .event
  | .amopHandler .. => .event
  | .casHandler .. => .event
  | .claimHandler .. => .event
  | .decHandler .. => .event
  | .armHandler .. => .event
  | .readyHandler .. => .event
  | .readyEntryAppend .. => .event
  | .task .. => .event
  | .bounceRefusal .. => .event
  | .registerContext .. => .event
  | .departure .. => .event
  | .forwardingEntryExpiry .. => .event
  | .delegate .. => .event
  | .reply .. => .event
  | .mcstLine .. => .event
  | .mcstAcknowledgement .. => .event
  | .firingStart .. => .event
  | .capsuleCompletion .. => .event
  | .completionWave .. => .event
  | .crossPackageAcknowledgement .. => .event
  | .scannerVisit .. => .event
  | .admission .. => .event
  | .placement .. => .event
  | .missedDeadline .. => .event
  | .deadlineWatchdog .. => .event
  | .runLimit .. => .event
  | .readyNotice .. => .event
  | .go .. => .event
  | .gangStart .. => .event
  | .preemptInterrupt .. => .event
  | .resumeRecordWrite .. => .event
  | .continuationPublish .. => .event
  | .publishRetry .. => .event
  | .killMessage .. => .event
  | .routerDiscardExpiry .. => .event
  | .purgeConfirmed .. => .event
  | .halt .. => .event
  | .resume .. => .event
  | .firewallDrop .. => .event
  | .rmaRead .. => .event
  | .rmaWrite .. => .event
  | .fetchAdd .. => .event
  | .swap .. => .event
  | .compareSwap .. => .event
  | .claim .. => .event
  | .claimWindowClose => .event
  | .handover .. => .event
  | .accept .. => .event
  | .handoverLapse => .event
  | .keepalive .. => .event
  | .keepaliveTimeout => .event
  | .readCapability .. => .event
  | .measure .. => .event
  | .readLog .. => .event
  | .status .. => .event
  | .addKey .. => .event
  | .revokeKey .. => .event
  | .setGuiltAndLimit .. => .event
  | .setRunLimit .. => .event
  | .mapQueue .. => .event
  | .unmapQueue .. => .event
  | .stopQueue .. => .event
  | .restartQueue .. => .event
  | .registerOwnerReportRing .. => .event
  | .registerEventAddress .. => .event
  | .mapWindow .. => .event
  | .unmapWindow .. => .event
  | .killCapsule .. => .event
  | .podTable .. => .event
  | .stageFirmware .. => .event
  | .activateFirmware .. => .event
  | .openDebugSession .. => .event
  | .debugSessionStart .. => .event
  | .closeDebugSession .. => .event
  | .setHaltGroup .. => .event
  | .powerLimit .. => .event
  | .powerOn => .event
  | .dieLinkTraining .. => .event
  | .portTraining .. => .event
  | .cxlEnumeration .. => .event
  | .ptpLock .. => .event
  | .lockLoss => .event
  | .cxlPortFailure .. => .event
  | .thermalThrottle => .event
  | .thermalShutdown => .event
  | .powerOff => .event
  | .reset => .event
  | .fetchFault => .event
  | .illegalInstructionWord .. => .event
  | .unsupportedUetRequest .. => .event
  | .unknownManagementCommand .. => .event
  | .ptpLockTimeout => .event
  | .powerLimitThrottle => .event

end Sys2Proof
end

