-- ==== Sys2Proof/Decode.lean ====
section
/-! DEFINITION. The decoder of core instruction words (R34 to R41) and of Glaze words (R242), total on every number,
answering none for a word that is no instruction
(Lean's runtime numbers at most 245 constructors with fields, so the functions that build an Instr are marked
noncomputable: the kernel evaluates them all the same); and the encoder, written from the same tables. A word is read as a
natural number below 2^32 with bit 0 the least significant. -/

namespace Sys2Proof

noncomputable section

/-- Field readers of R35: a g register at bit lo. -/
def gAt (w lo : Nat) : G := Fin.ofNat 64 (w / 2 ^ lo)
/-- A v register at bit lo. -/
def vAt (w lo : Nat) : V := Fin.ofNat 32 (w / 2 ^ lo)
/-- A governing mask at bit lo. -/
def kAt (w lo : Nat) : K := Fin.ofNat 8 (w / 2 ^ lo)
/-- A lookahead field at bit lo. -/
def laAt (w lo : Nat) : La := Fin.ofNat 16 (w / 2 ^ lo)
/-- The field of n bits at bit lo. -/
def fieldAt (w lo n : Nat) : Nat := w / 2 ^ lo % 2 ^ n
/-- An immediate of n bits at bit lo. -/
def immAt (n w lo : Nat) : BitVec n := BitVec.ofNat n (w / 2 ^ lo)

/-- The scope code sc of R36; 6 and 7 are no scopes. -/
def scopeOf : Nat → Option Scope
  | 0 => some .core | 1 => some .quad | 2 => some .clu | 3 => some .die | 4 => some .pkg | 5 => some .pod
  | _ => none

/-- The scope code of a scope (R36). -/
def Scope.code : Scope → Nat
  | .core => 0 | .quad => 1 | .clu => 2 | .die => 3 | .pkg => 4 | .pod => 5

/-- The width code of R36 and R106. -/
def widthOf (n : Nat) : Width :=
  if n % 4 = 0 then .b else if n % 4 = 1 then .h else if n % 4 = 2 then .w else .d

/-- The code of a width. -/
def Width.code : Width → Nat
  | .b => 0 | .h => 1 | .w => 2 | .d => 3

/-- The type codes of R96. -/
def numTyOf (n : Nat) : NumTy :=
  if n % 8 = 0 then .f64 else if n % 8 = 1 then .f32 else if n % 8 = 2 then .f16 else if n % 8 = 3 then .bf16
  else if n % 8 = 4 then .i64 else if n % 8 = 5 then .u64 else if n % 8 = 6 then .i32 else .u32

/-- The code of a type (R96). -/
def NumTy.code : NumTy → Nat
  | .f64 => 0 | .f32 => 1 | .f16 => 2 | .bf16 => 3 | .i64 => 4 | .u64 => 5 | .i32 => 6 | .u32 => 7

/-- The element types of vcmp; 2 and 3 are unassigned (R107). -/
def cmpTyOf : Nat → Option CmpTy
  | 0 => some .f64 | 1 => some .f32 | 4 => some .i8 | 5 => some .i16 | 6 => some .i32 | 7 => some .i64
  | _ => none

/-- The code of a vcmp type (R107). -/
def CmpTy.code : CmpTy → Nat
  | .f64 => 0 | .f32 => 1 | .i8 => 4 | .i16 => 5 | .i32 => 6 | .i64 => 7

/-- An instruction that fulfils its own limits, none otherwise. -/
def checked (i : Instr) : Option Instr := if i.wf then some i else none

/-- x when the field that must be zero is zero (R37). -/
def zeroed (f : Nat) (x : Option Instr) : Option Instr := if f = 0 then x else none

/-- The ALU group (R49): the unary rows need b zero. -/
def decodeAlu (fn : Nat) (d a b : G) : Option Instr :=
  match fn with
  | 0x00 => some (.add d a b)
  | 0x01 => some (.sub d a b)
  | 0x02 => some (.and d a b)
  | 0x03 => some (.or d a b)
  | 0x04 => some (.xor d a b)
  | 0x05 => some (.andn d a b)
  | 0x06 => some (.orn d a b)
  | 0x08 => some (.sll d a b)
  | 0x09 => some (.srl d a b)
  | 0x0A => some (.sra d a b)
  | 0x0B => some (.rol d a b)
  | 0x0C => some (.ror d a b)
  | 0x10 => some (.slt d a b)
  | 0x11 => some (.sltu d a b)
  | 0x12 => some (.seq d a b)
  | 0x13 => some (.sne d a b)
  | 0x14 => some (.min d a b)
  | 0x15 => some (.max d a b)
  | 0x16 => some (.minu d a b)
  | 0x17 => some (.maxu d a b)
  | 0x20 => some (.mul d a b)
  | 0x21 => some (.mulh d a b)
  | 0x22 => some (.mulhu d a b)
  | 0x23 => some (.mulhsu d a b)
  | 0x24 => some (.div d a b)
  | 0x25 => some (.divu d a b)
  | 0x26 => some (.rem d a b)
  | 0x27 => some (.remu d a b)
  | 0x30 => zeroed b.val (some (.clz d a))
  | 0x31 => zeroed b.val (some (.ctz d a))
  | 0x32 => zeroed b.val (some (.popc d a))
  | 0x33 => zeroed b.val (some (.brev d a))
  | 0x34 => zeroed b.val (some (.bswap d a))
  | 0x38 => zeroed b.val (some (.sextB d a))
  | 0x39 => zeroed b.val (some (.sextH d a))
  | 0x3A => zeroed b.val (some (.sextW d a))
  | 0x3B => zeroed b.val (some (.zextW d a))
  | _ => none

/-- Shift immediates (R51). -/
def decodeShift (fn : Nat) (d a : G) (amount : Fin 64) : Option Instr :=
  match fn with
  | 0x00 => some (.slli d a amount)
  | 0x01 => some (.srli d a amount)
  | 0x02 => some (.srai d a amount)
  | 0x03 => some (.rori d a amount)
  | _ => none

/-- The MESH group (R55). -/
def decodeMesh (fn : Nat) (d a b : G) : Option Instr :=
  match fn with
  | 0x00 => some (.madr d a b)
  | 0x01 => some (.mrel d a b)
  | 0x02 => zeroed b.val (some (.mabs d a))
  | 0x03 => zeroed b.val (some (.mcrd d a))
  | _ => none

/-- The ITER group (R62). -/
def decodeIter (fn : Nat) (d a b : G) : Option Instr :=
  match fn with
  | 0x00 => zeroed b.val (some (.iterClaim d a))
  | 0x01 => some (.iterNext d a b)
  | _ => none

/-- amo (R140). -/
def decodeAmo (fn3 : Nat) (d a b : G) (la : La) : Option Instr :=
  match fn3 with
  | 0x00 => some (.amoAdd d a b la)
  | 0x01 => some (.amoAnd d a b la)
  | 0x02 => some (.amoOr d a b la)
  | 0x03 => some (.amoXor d a b la)
  | 0x04 => some (.amoMin d a b la)
  | 0x05 => some (.amoMax d a b la)
  | 0x06 => some (.amoSwap d a b la)
  | 0x07 => some (.amoFaddd d a b la)
  | _ => none

/-- amop (R140). -/
def decodeAmop (fn3 : Nat) (a b : G) (la : La) : Option Instr :=
  match fn3 with
  | 0x00 => some (.amopAdd a b la)
  | 0x01 => some (.amopAnd a b la)
  | 0x02 => some (.amopOr a b la)
  | 0x03 => some (.amopXor a b la)
  | 0x04 => some (.amopMin a b la)
  | 0x05 => some (.amopMax a b la)
  | 0x06 => some (.amopSwap a b la)
  | 0x07 => some (.amopFaddd a b la)
  | _ => none

/-- The FIRE group (R153). -/
def decodeFire (fn : Nat) (d a b : G) : Option Instr :=
  match fn with
  | 0x00 => zeroed (d.val + a.val + b.val) (some .done)
  | 0x01 => zeroed (d.val + b.val) (some (.shrink a))
  | 0x02 => zeroed d.val (some (.arm a b))
  | 0x03 => zeroed (d.val + b.val) (some (.ready a))
  | 0x04 => zeroed (d.val + b.val) (some (.migr a))
  | _ => none

/-- The SYS group (R205). -/
def decodeSys (fn : Nat) (d a b : G) : Option Instr :=
  match fn with
  | 0x00 => zeroed (d.val + b.val) (some (.trap a))
  | 0x01 => zeroed (d.val + a.val + b.val) (some .eret)
  | 0x02 => zeroed (d.val + b.val) (some (.bkpt a))
  | 0x03 => zeroed d.val (some (.report a b))
  | 0x04 => some (.submit d a b)
  | _ => none

/-- fence (R154): fn is kind * 8 + scope. -/
def decodeFence (kind : Nat) (sc : Scope) : Option Instr :=
  match kind with
  | 0x00 => some (.fenceAcq sc)
  | 0x01 => some (.fenceRel sc)
  | 0x02 => some (.fenceFull sc)
  | 0x03 => some (.fenceEng sc)
  | _ => none

/-- bar (R155): fn is form * 8 + scope, b the barrier id, a g register except for wait. -/
def decodeBar (form : Nat) (sc : Scope) (id : Fin 8) (a : G) : Option Instr :=
  match form with
  | 0x00 => checked (.barArrive sc id a)
  | 0x01 => zeroed a.val (checked (.barWait sc id))
  | 0x02 => checked (.barSync sc id a)
  | _ => none

/-- cps (R244). -/
def decodeCps (fn3 : Nat) (a : G) (la : La) : Option Instr :=
  match fn3 with
  | 0x00 => some (.cpsSrc a la)
  | 0x01 => some (.cpsDst a la)
  | 0x02 => some (.cpsSstr a la)
  | 0x03 => some (.cpsDstr a la)
  | 0x04 => some (.cpsShape a la)
  | 0x05 => some (.cpsFmt a la)
  | 0x06 => some (.cpsChan a la)
  | _ => none

/-- SETR (R285, R295, R296). -/
def decodeSetr (fn3 : Nat) (d a b : G) (la : La) : Option Instr :=
  match fn3 with
  | 0x00 => zeroed b.val (some (.setOpen d a la))
  | 0x01 => some (.setPut d a b la)
  | 0x02 => zeroed b.val (some (.setTake d a la))
  | 0x03 => zeroed b.val (some (.setClose d a la))
  | 0x04 => zeroed (a.val + b.val) (some (.setStat d la))
  | _ => none

/-- FPD (R92). -/
def decodeFpD (fn : Nat) (d a b : G) : Option Instr :=
  match fn with
  | 0x00 => some (.faddD d a b)
  | 0x01 => some (.fsubD d a b)
  | 0x02 => some (.fmulD d a b)
  | 0x03 => some (.fdivD d a b)
  | 0x05 => some (.fminD d a b)
  | 0x06 => some (.fmaxD d a b)
  | 0x08 => some (.fsgnjD d a b)
  | 0x09 => some (.fsgnjnD d a b)
  | 0x0A => some (.fsgnjxD d a b)
  | 0x10 => some (.feqD d a b)
  | 0x11 => some (.fltD d a b)
  | 0x12 => some (.fleD d a b)
  | 0x04 => zeroed b.val (some (.fsqrtD d a))
  | 0x0C => zeroed b.val (some (.fclassD d a))
  | _ => none

/-- VFD (R104). -/
def decodeVfD (fn : Nat) (d a b : V) (k : K) : Option Instr :=
  match fn with
  | 0x00 => some (.vfaddD d a b k)
  | 0x01 => some (.vfsubD d a b k)
  | 0x02 => some (.vfmulD d a b k)
  | 0x03 => some (.vfdivD d a b k)
  | 0x05 => some (.vfminD d a b k)
  | 0x06 => some (.vfmaxD d a b k)
  | 0x08 => some (.vfsgnjD d a b k)
  | 0x09 => some (.vfsgnjnD d a b k)
  | 0x0A => some (.vfsgnjxD d a b k)
  | 0x04 => zeroed b.val (some (.vfsqrtD d a k))
  | 0x0C => zeroed b.val (some (.vfclassD d a k))
  | _ => none

/-- vfma (R105). -/
def decodeVfmaD (n : Nat) (d a b c : V) (k : K) : Option Instr :=
  match n with
  | 0x00 => some (.vfmaD d a b c k)
  | 0x01 => some (.vfmsD d a b c k)
  | 0x02 => some (.vfnmaD d a b c k)
  | 0x03 => some (.vfnmsD d a b c k)
  | _ => none

/-- FPS (R92). -/
def decodeFpS (fn : Nat) (d a b : G) : Option Instr :=
  match fn with
  | 0x00 => some (.faddS d a b)
  | 0x01 => some (.fsubS d a b)
  | 0x02 => some (.fmulS d a b)
  | 0x03 => some (.fdivS d a b)
  | 0x05 => some (.fminS d a b)
  | 0x06 => some (.fmaxS d a b)
  | 0x08 => some (.fsgnjS d a b)
  | 0x09 => some (.fsgnjnS d a b)
  | 0x0A => some (.fsgnjxS d a b)
  | 0x10 => some (.feqS d a b)
  | 0x11 => some (.fltS d a b)
  | 0x12 => some (.fleS d a b)
  | 0x04 => zeroed b.val (some (.fsqrtS d a))
  | 0x0C => zeroed b.val (some (.fclassS d a))
  | _ => none

/-- VFS (R104). -/
def decodeVfS (fn : Nat) (d a b : V) (k : K) : Option Instr :=
  match fn with
  | 0x00 => some (.vfaddS d a b k)
  | 0x01 => some (.vfsubS d a b k)
  | 0x02 => some (.vfmulS d a b k)
  | 0x03 => some (.vfdivS d a b k)
  | 0x05 => some (.vfminS d a b k)
  | 0x06 => some (.vfmaxS d a b k)
  | 0x08 => some (.vfsgnjS d a b k)
  | 0x09 => some (.vfsgnjnS d a b k)
  | 0x0A => some (.vfsgnjxS d a b k)
  | 0x04 => zeroed b.val (some (.vfsqrtS d a k))
  | 0x0C => zeroed b.val (some (.vfclassS d a k))
  | _ => none

/-- vfma (R105). -/
def decodeVfmaS (n : Nat) (d a b c : V) (k : K) : Option Instr :=
  match n with
  | 0x00 => some (.vfmaS d a b c k)
  | 0x01 => some (.vfmsS d a b c k)
  | 0x02 => some (.vfnmaS d a b c k)
  | 0x03 => some (.vfnmsS d a b c k)
  | _ => none

/-- VINT (R106): fn is op * 4 + wc. -/
def decodeVint (op : Nat) (d a b : V) (wc : Width) (k : K) : Option Instr :=
  match op with
  | 0x00 => some (.vadd d a b wc k)
  | 0x01 => some (.vsub d a b wc k)
  | 0x02 => some (.vadds d a b wc k)
  | 0x03 => some (.vaddus d a b wc k)
  | 0x04 => some (.vsubs d a b wc k)
  | 0x05 => some (.vsubus d a b wc k)
  | 0x06 => some (.vmul d a b wc k)
  | 0x07 => some (.vmulh d a b wc k)
  | 0x08 => some (.vmulhu d a b wc k)
  | 0x09 => some (.vand d a b wc k)
  | 0x0A => some (.vor d a b wc k)
  | 0x0B => some (.vxor d a b wc k)
  | 0x0C => some (.vsll d a b wc k)
  | 0x0D => some (.vsrl d a b wc k)
  | 0x0E => some (.vsra d a b wc k)
  | 0x0F => some (.vmin d a b wc k)
  | 0x10 => some (.vmax d a b wc k)
  | 0x11 => some (.vminu d a b wc k)
  | 0x12 => some (.vmaxu d a b wc k)
  | 0x13 => zeroed b.val (some (.vabs d a wc k))
  | _ => none

/-- vred (R109): fn is op * 4 + wc. -/
def decodeVred (op : Nat) (d a : V) (wc : Width) (k : K) : Option Instr :=
  match op with
  | 0x00 => checked (.vredFadd d a wc k)
  | 0x01 => checked (.vredFmin d a wc k)
  | 0x02 => checked (.vredFmax d a wc k)
  | 0x04 => checked (.vredAdd d a wc k)
  | 0x05 => checked (.vredAnd d a wc k)
  | 0x06 => checked (.vredOr d a wc k)
  | 0x07 => checked (.vredXor d a wc k)
  | 0x08 => checked (.vredMin d a wc k)
  | 0x09 => checked (.vredMax d a wc k)
  | 0x0A => checked (.vredMinu d a wc k)
  | 0x0B => checked (.vredMaxu d a wc k)
  | _ => none

/-- VMOV (R110): fn is group * 4 + wc, and 0x0C, 0x0D for the mask forms. -/
def decodeVmov (fn : Nat) (k : K) (g : G) (idx : Fin 16) (vd : V) : Option Instr :=
  match fn / 4 with
  | 0 => zeroed idx.val (some (.splat vd g (widthOf fn) k))
  | 1 => zeroed k.val (checked (.extr g vd idx (widthOf fn)))
  | 2 => zeroed k.val (checked (.ins vd g idx (widthOf fn)))
  | 3 => zeroed (idx.val + k.val + vd.val / 8)
      (if fn % 4 = 0 then some (.extrK g (Fin.ofNat 8 vd.val))
       else if fn % 4 = 1 then checked (.insK (Fin.ofNat 8 vd.val) g) else none)
  | _ => none

/-- KOP (R113): the k field is zero and the register fields name k registers. -/
def decodeKop (fn : Nat) (k : K) (d a b : V) : Option Instr :=
  let kd : K := Fin.ofNat 8 d.val
  let ka : K := Fin.ofNat 8 a.val
  let kb : K := Fin.ofNat 8 b.val
  zeroed (k.val + d.val / 8) (
    match fn with
    | 0x00 => zeroed (a.val / 8 + b.val / 8) (checked (.kand kd ka kb))
    | 0x01 => zeroed (a.val / 8 + b.val / 8) (checked (.kor kd ka kb))
    | 0x02 => zeroed (a.val / 8 + b.val / 8) (checked (.kxor kd ka kb))
    | 0x03 => zeroed (a.val / 8 + b.val / 8) (checked (.kandn kd ka kb))
    | 0x04 => zeroed (a.val / 8 + b.val) (checked (.knot kd ka))
    | 0x05 => zeroed (b.val / 8) (checked (.kli kd (BitVec.ofNat 8 (a.val + 32 * b.val))))
    | _ => none)

/-- vcmp (R107): fn is any * 0x40 + cond * 8 + type; vd names a k register other than k0. -/
def decodeVcmp (fn : Nat) (k : K) (d a b : V) : Option Instr :=
  zeroed (d.val / 8) (
    match cmpTyOf (fn % 8) with
    | none => none
    | some ty =>
      if h : fn / 8 % 8 < 6 then checked (.vcmp (Fin.ofNat 8 d.val) a b ⟨fn / 8 % 8, h⟩ ty (fn / 64 % 2 == 1) k)
      else none)

/-- The R-format and I-format words below op 0x20 (R41). -/
def decodeLow (op w : Nat) : Option Instr :=
  let d := gAt w 7
  let a := gAt w 13
  let b := gAt w 19
  let fn := fieldAt w 25 7
  let imm := immAt 13 w 19
  let off : BitVec 13 := BitVec.ofNat 13 (fieldAt w 7 6 + 64 * fieldAt w 25 7)
  match op with
  | 0x01 => decodeAlu fn d a b
  | 0x02 => some (.addi d a imm)
  | 0x03 => some (.andi d a imm)
  | 0x04 => some (.ori d a imm)
  | 0x05 => some (.xori d a imm)
  | 0x06 => some (.slti d a imm)
  | 0x07 => some (.sltiu d a imm)
  | 0x08 => decodeShift fn d a (Fin.ofNat 64 (fieldAt w 19 6))
  | 0x09 => some (.lui d (immAt 19 w 13))
  | 0x0A => some (.adpc d (immAt 19 w 13))
  | 0x0B => checked (.bfx d a (gAt w 19) (gAt w 25) (fieldAt w 31 1 == 1))
  | 0x0C => zeroed (fieldAt w 31 1) (checked (.bfi d a (gAt w 19) (gAt w 25)))
  | 0x0D => decodeMesh fn d a b
  | 0x10 => some (.beq a b off)
  | 0x11 => some (.bne a b off)
  | 0x12 => some (.blt a b off)
  | 0x13 => some (.bge a b off)
  | 0x14 => some (.bltu a b off)
  | 0x15 => some (.bgeu a b off)
  | 0x16 => some (.jal d (immAt 19 w 13))
  | 0x17 => some (.jalr d a imm)
  | 0x18 => zeroed d.val (some (.loop a imm))
  | 0x19 => zeroed d.val (some (.loopi (immAt 10 w 22) (immAt 9 w 13)))
  | 0x1A => decodeIter fn d a b
  | _ => none

/-- Loads, stores and the formats Q and M from op 0x20 to 0x37 (R41). -/
def decodeMem (op w : Nat) : Option Instr :=
  let d := gAt w 7
  let a := gAt w 13
  let b := gAt w 19
  let la := laAt w 28
  let lm := laAt w 25
  let imm := immAt 9 w 19
  let fn3 := fieldAt w 29 3
  match op with
  | 0x20 => some (.ldB d a imm la)
  | 0x21 => some (.ldH d a imm la)
  | 0x22 => some (.ldW d a imm la)
  | 0x23 => some (.ldD d a imm la)
  | 0x24 => some (.ldBu d a imm la)
  | 0x25 => some (.ldHu d a imm la)
  | 0x26 => some (.ldWu d a imm la)
  | 0x27 => zeroed (fieldAt w 24 4)
      (match scopeOf (fieldAt w 19 3) with
       | some sc => some (.lda d a (widthOf (fieldAt w 22 2)) sc la)
       | none => none)
  | 0x28 => some (.stB a d imm la)
  | 0x29 => some (.stH a d imm la)
  | 0x2A => some (.stW a d imm la)
  | 0x2B => some (.stD a d imm la)
  | 0x2C => zeroed (fieldAt w 24 4)
      (match scopeOf (fieldAt w 19 3) with
       | some sc => some (.stl a d (widthOf (fieldAt w 22 2)) sc la)
       | none => none)
  | 0x2D => zeroed (b.val + lm.val)
      (if fn3 = 0 then some (.ldfE d a) else if fn3 = 1 then some (.ldfF d a) else none)
  | 0x2E => zeroed (d.val + lm.val)
      (if fn3 = 0 then some (.ste a b) else if fn3 = 1 then some (.fill a b) else none)
  | 0x2F =>
      if fn3 = 0 then zeroed d.val (some (.purge a b lm))
      else if fn3 = 1 then zeroed b.val (some (.probe d a lm)) else none
  | 0x30 => decodeAmo fn3 d a b lm
  | 0x31 => zeroed d.val (decodeAmop fn3 a b lm)
  | 0x32 => if fn3 = 0 then checked (.casD d a b lm) else if fn3 = 1 then checked (.casW d a b lm) else none
  | 0x33 => if h : fn3 < 4 then zeroed d.val (some (.dec a b ⟨fn3, h⟩ lm)) else none
  | 0x34 =>
      if fn3 = 0 then zeroed d.val (some (.msg a b lm))
      else if fn3 = 1 then zeroed (d.val + a.val) (some (.msgReply b lm)) else none
  | 0x35 => if fn3 = 0 then some (.spawn d a b lm) else none
  | 0x36 =>
      if fn3 = 0 then some (.dlg d a b lm)
      else if fn3 = 1 then zeroed d.val (some (.dlgP a b lm)) else none
  | 0x37 => if fn3 = 0 then zeroed b.val (some (.mcst d a lm)) else none
  | _ => none

/-- Firings, synchronisation, system and engine commands from op 0x38 to 0x46 (R41). -/
def decodeSync (op w : Nat) : Option Instr :=
  let d := gAt w 7
  let a := gAt w 13
  let b := gAt w 19
  let lm := laAt w 25
  let fn := fieldAt w 25 7
  let fn3 := fieldAt w 29 3
  let index := immAt 12 w 19
  match op with
  | 0x38 => decodeFire fn d a b
  | 0x39 => zeroed (d.val + a.val + b.val)
      (match scopeOf (fn % 8) with
       | some sc => decodeFence (fn / 8) sc
       | none => none)
  | 0x3A => zeroed (d.val + b.val / 8)
      (match scopeOf (fn % 8) with
       | some sc => decodeBar (fn / 8) sc (Fin.ofNat 8 b.val) a
       | none => none)
  | 0x3B => zeroed (d.val + fieldAt w 22 10) (some (.waitt (Fin.ofNat 8 (fieldAt w 19 3)) a))
  | 0x3C => zeroed (a.val + fieldAt w 31 1) (some (.srr d index))
  | 0x3D => zeroed (d.val + fieldAt w 31 1) (some (.srw index a))
  | 0x3E => decodeSys fn d a b
  | 0x40 => zeroed (d.val + b.val) (decodeCps fn3 a lm)
  | 0x41 => zeroed (fn3 + a.val + b.val) (some (.cpgo d lm))
  | 0x42 => zeroed (fn3 + b.val) (some (.btx d a lm))
  | 0x44 => zeroed (fn3 + d.val + b.val) (some (.qpush a lm))
  | 0x45 => zeroed (a.val + b.val) (if fn = 0 then some (.qstat d) else if fn = 1 then some (.qstatClr d) else none)
  | 0x46 => decodeSetr fn3 d a b lm
  | _ => none

/-- Floating-point and vector words from op 0x50 to 0x71 (R41). -/
def decodeFloat (op w : Nat) : Option Instr :=
  let d := gAt w 7
  let a := gAt w 13
  let b := gAt w 19
  let c := gAt w 25
  let fn := fieldAt w 25 7
  let vd := vAt w 7
  let va := vAt w 12
  let vb := vAt w 17
  let k := kAt w 22
  let ga := gAt w 12
  match op with
  | 0x50 => decodeFpD fn d a b
  | 0x51 => decodeFpS fn d a b
  | 0x53 => if fieldAt w 31 1 = 0 then some (.fmaD d a b c) else some (.fmsD d a b c)
  | 0x54 => if fieldAt w 31 1 = 0 then some (.fmaS d a b c) else some (.fmsS d a b c)
  | 0x55 => zeroed b.val (checked (.fcvt d a (fn / 64 % 2 == 1) (numTyOf (fn / 8)) (numTyOf fn)))
  | 0x60 => some (.vld vd ga (immAt 8 w 18) (widthOf (fieldAt w 30 2)) (laAt w 26))
  | 0x61 => some (.vst vd ga (immAt 8 w 18) (widthOf (fieldAt w 30 2)) (laAt w 26))
  | 0x62 => zeroed (fieldAt w 31 1) (some (.vlds vd ga (gAt w 18) (kAt w 28) (laAt w 24)))
  | 0x63 => zeroed (fieldAt w 31 1) (some (.vsts vd ga (gAt w 18) (kAt w 28) (laAt w 24)))
  | 0x64 => zeroed (fieldAt w 31 1 + fieldAt w 23 1) (some (.vgth vd ga (vAt w 18) (kAt w 28) (laAt w 24)))
  | 0x65 => zeroed (fieldAt w 31 1 + fieldAt w 23 1) (some (.vsct vd ga (vAt w 18) (kAt w 28) (laAt w 24)))
  | 0x66 => decodeVfD fn vd va vb k
  | 0x67 => decodeVfS fn vd va vb k
  | 0x68 => decodeVfmaD (fieldAt w 30 2) vd va vb (vAt w 22) (kAt w 27)
  | 0x69 => decodeVfmaS (fieldAt w 30 2) vd va vb (vAt w 22) (kAt w 27)
  | 0x6A => decodeVint (fn / 4) vd va vb (widthOf fn) k
  | 0x6B => decodeVcmp fn k vd va vb
  | 0x6C => if fn = 0 then some (.vsel vd va vb k) else none
  | 0x6D => zeroed vb.val (decodeVred (fn / 4) vd va (widthOf fn) k)
  | 0x6E => decodeVmov fn k (gAt w 16) (Fin.ofNat 16 (fieldAt w 12 4)) vd
  | 0x6F => if fn < 4 then some (.vperm vd va vb (widthOf fn) k) else none
  | 0x70 => zeroed vb.val (checked (.vcvt vd va (fn / 64 % 2 == 1) (numTyOf (fn / 8)) (numTyOf fn) k))
  | 0x71 => decodeKop fn k vd va vb
  | _ => none

/-- The decoder of core instruction words (R34 to R41): none is a word that traps ILLEGAL by R37 from its bits alone. -/
def decodeWord (w : Nat) : Option Instr :=
  let op := w % 128
  if op < 0x20 then decodeLow op w
  else if op < 0x38 then decodeMem op w
  else if op < 0x50 then decodeSync op w
  else decodeFloat op w

/-- The decoder of Glaze words (R242, R271): none is a word that is not valid. -/
def decodeGlaze (w : Nat) : Option Instr :=
  let d : GDst := Fin.ofNat 16 (w / 2 ^ 8)
  let a := vAt w 12
  let b := vAt w 17
  let c := vAt w 22
  let m := vAt w 27
  let noB := b.val + c.val + m.val
  let noC := c.val + m.val
  match w % 256 with
  | 0x01 => zeroed noC (checked (.gzAdd d a b))
  | 0x02 => zeroed noC (checked (.gzSub d a b))
  | 0x03 => zeroed noC (checked (.gzMul d a b))
  | 0x04 => zeroed m.val (checked (.gzFma d a b c))
  | 0x05 => zeroed noC (checked (.gzMin d a b))
  | 0x06 => zeroed noC (checked (.gzMax d a b))
  | 0x07 => zeroed noB (checked (.gzRelu d a))
  | 0x08 => zeroed m.val (checked (.gzClamp d a b c))
  | 0x09 => zeroed noB (checked (.gzAbs d a))
  | 0x0A => zeroed noB (checked (.gzNeg d a))
  | 0x0B => zeroed noB (checked (.gzExp2 d a))
  | 0x0C => zeroed noB (checked (.gzRcp d a))
  | 0x0D => zeroed noB (checked (.gzRsq d a))
  | 0x0E => checked (.gzSel m d a b c)
  | 0x0F => zeroed (a.val + b.val + c.val) (checked (.gzLdr m d))
  | 0x10 => zeroed (a.val + b.val + c.val) (checked (.gzLdc m d))
  | 0x11 => zeroed (b.val + c.val) (checked (.gzCvt m d a))
  | 0x12 => zeroed (noB + d.val) (checked (.gzBscl a))
  | 0x13 => zeroed (noB + d.val) (checked (.gzSt a))
  | 0x14 => zeroed (noB + d.val) (checked (.gzStt a))
  | 0x15 => zeroed (b.val + c.val + d.val) (checked (.gzRedr (Fin.ofNat 8 (m.val / 4)) (Fin.ofNat 4 m.val) a))
  | 0x16 => zeroed (noB + a.val + d.val) (some .gzEnd)
  | _ => none

/-- Format R of R35: op, fn, d, a, b. -/
def encR (op fn d a b : Nat) : Nat := op + 2 ^ 7 * d + 2 ^ 13 * a + 2 ^ 19 * b + 2 ^ 25 * fn
/-- Format I: op, imm13, d, a. -/
def encI (op imm d a : Nat) : Nat := op + 2 ^ 7 * d + 2 ^ 13 * a + 2 ^ 19 * imm
/-- Format S/B: op, the 13-bit offset, a, b. -/
def encB (op imm a b : Nat) : Nat := op + 2 ^ 7 * (imm % 64) + 2 ^ 13 * a + 2 ^ 19 * b + 2 ^ 25 * (imm / 64)
/-- Formats U and J: op, imm19, d. -/
def encU (op imm d : Nat) : Nat := op + 2 ^ 7 * d + 2 ^ 13 * imm
/-- Formats L and LS: op, la, imm9, a, and d or s. -/
def encL (op la imm a d : Nat) : Nat := op + 2 ^ 7 * d + 2 ^ 13 * a + 2 ^ 19 * imm + 2 ^ 28 * la
/-- Format Q: op, la, sz, sc, a, and d or s. -/
def encQ (op la sz sc a d : Nat) : Nat := op + 2 ^ 7 * d + 2 ^ 13 * a + 2 ^ 19 * sc + 2 ^ 22 * sz + 2 ^ 28 * la
/-- Format M: op, fn3, la, d, a, b. -/
def encM (op fn3 la d a b : Nat) : Nat := op + 2 ^ 7 * d + 2 ^ 13 * a + 2 ^ 19 * b + 2 ^ 25 * la + 2 ^ 29 * fn3
/-- Format F4: op, n, d, a, b, c. -/
def encF4 (op n d a b c : Nat) : Nat := op + 2 ^ 7 * d + 2 ^ 13 * a + 2 ^ 19 * b + 2 ^ 25 * c + 2 ^ 31 * n
/-- Format V: op, fn, k, vd, va, vb. -/
def encV (op fn k d a b : Nat) : Nat := op + 2 ^ 7 * d + 2 ^ 12 * a + 2 ^ 17 * b + 2 ^ 22 * k + 2 ^ 25 * fn
/-- Format VX: op, fn, k, g, idx, vd. -/
def encVX (op fn k g idx d : Nat) : Nat := op + 2 ^ 7 * d + 2 ^ 12 * idx + 2 ^ 16 * g + 2 ^ 22 * k + 2 ^ 25 * fn
/-- Format VM: op, sz, la, imm8, a, vd. -/
def encVM (op sz la imm a d : Nat) : Nat := op + 2 ^ 7 * d + 2 ^ 12 * a + 2 ^ 18 * imm + 2 ^ 26 * la + 2 ^ 30 * sz
/-- Format VS: op, k, la, b or vb, a, vd. -/
def encVS (op k la b a d : Nat) : Nat := op + 2 ^ 7 * d + 2 ^ 12 * a + 2 ^ 18 * b + 2 ^ 24 * la + 2 ^ 28 * k
/-- Format VF4: op, n, k, vd, va, vb, vc. -/
def encVF4 (op n k d a b c : Nat) : Nat :=
  op + 2 ^ 7 * d + 2 ^ 12 * a + 2 ^ 17 * b + 2 ^ 22 * c + 2 ^ 27 * k + 2 ^ 30 * n
/-- A Glaze word (R242): gop, dst, sa, sb, sc, mod. -/
def encG (gop d a b c m : Nat) : Nat := gop + 2 ^ 8 * d + 2 ^ 12 * a + 2 ^ 17 * b + 2 ^ 22 * c + 2 ^ 27 * m

/-- The encoder: the word of a core instruction or of a Glaze word, 0 for a row that has no word. -/
def encode : Instr → Nat
  | .add d a b => encR 0x01 0x00 d a b
  | .sub d a b => encR 0x01 0x01 d a b
  | .and d a b => encR 0x01 0x02 d a b
  | .or d a b => encR 0x01 0x03 d a b
  | .xor d a b => encR 0x01 0x04 d a b
  | .andn d a b => encR 0x01 0x05 d a b
  | .orn d a b => encR 0x01 0x06 d a b
  | .sll d a b => encR 0x01 0x08 d a b
  | .srl d a b => encR 0x01 0x09 d a b
  | .sra d a b => encR 0x01 0x0A d a b
  | .rol d a b => encR 0x01 0x0B d a b
  | .ror d a b => encR 0x01 0x0C d a b
  | .slt d a b => encR 0x01 0x10 d a b
  | .sltu d a b => encR 0x01 0x11 d a b
  | .seq d a b => encR 0x01 0x12 d a b
  | .sne d a b => encR 0x01 0x13 d a b
  | .min d a b => encR 0x01 0x14 d a b
  | .max d a b => encR 0x01 0x15 d a b
  | .minu d a b => encR 0x01 0x16 d a b
  | .maxu d a b => encR 0x01 0x17 d a b
  | .mul d a b => encR 0x01 0x20 d a b
  | .mulh d a b => encR 0x01 0x21 d a b
  | .mulhu d a b => encR 0x01 0x22 d a b
  | .mulhsu d a b => encR 0x01 0x23 d a b
  | .div d a b => encR 0x01 0x24 d a b
  | .divu d a b => encR 0x01 0x25 d a b
  | .rem d a b => encR 0x01 0x26 d a b
  | .remu d a b => encR 0x01 0x27 d a b
  | .clz d a => encR 0x01 0x30 d a 0
  | .ctz d a => encR 0x01 0x31 d a 0
  | .popc d a => encR 0x01 0x32 d a 0
  | .brev d a => encR 0x01 0x33 d a 0
  | .bswap d a => encR 0x01 0x34 d a 0
  | .sextB d a => encR 0x01 0x38 d a 0
  | .sextH d a => encR 0x01 0x39 d a 0
  | .sextW d a => encR 0x01 0x3A d a 0
  | .zextW d a => encR 0x01 0x3B d a 0
  | .addi d a imm => encI 0x02 imm.toNat d a
  | .andi d a imm => encI 0x03 imm.toNat d a
  | .ori d a imm => encI 0x04 imm.toNat d a
  | .xori d a imm => encI 0x05 imm.toNat d a
  | .slti d a imm => encI 0x06 imm.toNat d a
  | .sltiu d a imm => encI 0x07 imm.toNat d a
  | .slli d a amount => encR 0x08 0 d a amount
  | .srli d a amount => encR 0x08 1 d a amount
  | .srai d a amount => encR 0x08 2 d a amount
  | .rori d a amount => encR 0x08 3 d a amount
  | .lui d imm => encU 0x09 imm.toNat d
  | .adpc d imm => encU 0x0A imm.toNat d
  | .bfx d a lsb wm1 sx => encR 0x0B (wm1.val + 64 * sx.toNat) d a lsb
  | .bfi d a lsb wm1 => encR 0x0C wm1 d a lsb
  | .madr d a b => encR 0x0D 0 d a b
  | .mrel d a b => encR 0x0D 1 d a b
  | .mabs d a => encR 0x0D 2 d a 0
  | .mcrd d a => encR 0x0D 3 d a 0
  | .beq a b imm => encB 0x10 imm.toNat a b
  | .bne a b imm => encB 0x11 imm.toNat a b
  | .blt a b imm => encB 0x12 imm.toNat a b
  | .bge a b imm => encB 0x13 imm.toNat a b
  | .bltu a b imm => encB 0x14 imm.toNat a b
  | .bgeu a b imm => encB 0x15 imm.toNat a b
  | .jal d imm => encU 0x16 imm.toNat d
  | .jalr d a imm => encI 0x17 imm.toNat d a
  | .loop a imm => encI 0x18 imm.toNat 0 a
  | .loopi count len => encU 0x19 (len.toNat + 2 ^ 9 * count.toNat) 0
  | .iterClaim d a => encR 0x1A 0 d a 0
  | .iterNext d a b => encR 0x1A 1 d a b
  | .ldB d a imm la => encL 0x20 la imm.toNat a d
  | .ldH d a imm la => encL 0x21 la imm.toNat a d
  | .ldW d a imm la => encL 0x22 la imm.toNat a d
  | .ldD d a imm la => encL 0x23 la imm.toNat a d
  | .ldBu d a imm la => encL 0x24 la imm.toNat a d
  | .ldHu d a imm la => encL 0x25 la imm.toNat a d
  | .ldWu d a imm la => encL 0x26 la imm.toNat a d
  | .lda d a sz sc la => encQ 0x27 la sz.code sc.code a d
  | .stB a s imm la => encL 0x28 la imm.toNat a s
  | .stH a s imm la => encL 0x29 la imm.toNat a s
  | .stW a s imm la => encL 0x2A la imm.toNat a s
  | .stD a s imm la => encL 0x2B la imm.toNat a s
  | .stl a s sz sc la => encQ 0x2C la sz.code sc.code a s
  | .storeAcknowledgement .. => 0
  | .lateResult .. => 0
  | .ldfE d a => encM 0x2D 0 0 d a 0
  | .ldfF d a => encM 0x2D 1 0 d a 0
  | .ste a b => encM 0x2E 0 0 0 a b
  | .fill a b => encM 0x2E 1 0 0 a b
  | .purge a b la => encM 0x2F 0 la 0 a b
  | .probe d a la => encM 0x2F 1 la d a 0
  | .amoAdd d a b la => encM 0x30 0 la d a b
  | .amoAnd d a b la => encM 0x30 1 la d a b
  | .amoOr d a b la => encM 0x30 2 la d a b
  | .amoXor d a b la => encM 0x30 3 la d a b
  | .amoMin d a b la => encM 0x30 4 la d a b
  | .amoMax d a b la => encM 0x30 5 la d a b
  | .amoSwap d a b la => encM 0x30 6 la d a b
  | .amoFaddd d a b la => encM 0x30 7 la d a b
  | .amopAdd a b la => encM 0x31 0 la 0 a b
  | .amopAnd a b la => encM 0x31 1 la 0 a b
  | .amopOr a b la => encM 0x31 2 la 0 a b
  | .amopXor a b la => encM 0x31 3 la 0 a b
  | .amopMin a b la => encM 0x31 4 la 0 a b
  | .amopMax a b la => encM 0x31 5 la 0 a b
  | .amopSwap a b la => encM 0x31 6 la 0 a b
  | .amopFaddd a b la => encM 0x31 7 la 0 a b
  | .casD d a b la => encM 0x32 0 la d a b
  | .casW d a b la => encM 0x32 1 la d a b
  | .dec a b lane la => encM 0x33 lane la 0 a b
  | .msg a b la => encM 0x34 0 la 0 a b
  | .msgReply b la => encM 0x34 1 la 0 0 b
  | .spawn d a b la => encM 0x35 0 la d a b
  | .dlg d a b la => encM 0x36 0 la d a b
  | .dlgP a b la => encM 0x36 1 la 0 a b
  | .mcst d a la => encM 0x37 0 la d a 0
  | .done => encR 0x38 0 0 0 0
  | .shrink a => encR 0x38 1 0 a 0
  | .arm a b => encR 0x38 2 0 a b
  | .ready a => encR 0x38 3 0 a 0
  | .migr a => encR 0x38 4 0 a 0
  | .fenceAcq sc => encR 0x39 (0 + sc.code) 0 0 0
  | .fenceRel sc => encR 0x39 (8 + sc.code) 0 0 0
  | .fenceFull sc => encR 0x39 (16 + sc.code) 0 0 0
  | .fenceEng sc => encR 0x39 (24 + sc.code) 0 0 0
  | .barArrive sc id a => encR 0x3A sc.code 0 a id
  | .barWait sc id => encR 0x3A (8 + sc.code) 0 0 id
  | .barSync sc id a => encR 0x3A (16 + sc.code) 0 a id
  | .waitt ch a => encI 0x3B ch 0 a
  | .srr d index => encI 0x3C index.toNat d 0
  | .srw index a => encI 0x3D index.toNat 0 a
  | .trap a => encR 0x3E 0 0 a 0
  | .eret => encR 0x3E 1 0 0 0
  | .bkpt a => encR 0x3E 2 0 a 0
  | .report a b => encR 0x3E 3 0 a b
  | .reportRecordWrite .. => 0
  | .submit d a b => encR 0x3E 4 d a b
  | .cpsSrc a la => encM 0x40 0 la 0 a 0
  | .cpsDst a la => encM 0x40 1 la 0 a 0
  | .cpsSstr a la => encM 0x40 2 la 0 a 0
  | .cpsDstr a la => encM 0x40 3 la 0 a 0
  | .cpsShape a la => encM 0x40 4 la 0 a 0
  | .cpsFmt a la => encM 0x40 5 la 0 a 0
  | .cpsChan a la => encM 0x40 6 la 0 a 0
  | .cpgo d la => encM 0x41 0 la d 0 0
  | .btx d a la => encM 0x42 0 la d a 0
  | .qpush a la => encM 0x44 0 la 0 a 0
  | .qstat d => encR 0x45 0 d 0 0
  | .qstatClr d => encR 0x45 1 d 0 0
  | .setOpen d a la => encM 0x46 0 la d a 0
  | .setPut d a b la => encM 0x46 1 la d a b
  | .setTake d a la => encM 0x46 2 la d a 0
  | .setClose d a la => encM 0x46 3 la d a 0
  | .setStat d la => encM 0x46 4 la d 0 0
  | .faddD d a b => encR 0x50 0x00 d a b
  | .fsubD d a b => encR 0x50 0x01 d a b
  | .fmulD d a b => encR 0x50 0x02 d a b
  | .fdivD d a b => encR 0x50 0x03 d a b
  | .fsqrtD d a => encR 0x50 0x04 d a 0
  | .fminD d a b => encR 0x50 0x05 d a b
  | .fmaxD d a b => encR 0x50 0x06 d a b
  | .fsgnjD d a b => encR 0x50 0x08 d a b
  | .fsgnjnD d a b => encR 0x50 0x09 d a b
  | .fsgnjxD d a b => encR 0x50 0x0A d a b
  | .fclassD d a => encR 0x50 0x0C d a 0
  | .feqD d a b => encR 0x50 0x10 d a b
  | .fltD d a b => encR 0x50 0x11 d a b
  | .fleD d a b => encR 0x50 0x12 d a b
  | .faddS d a b => encR 0x51 0x00 d a b
  | .fsubS d a b => encR 0x51 0x01 d a b
  | .fmulS d a b => encR 0x51 0x02 d a b
  | .fdivS d a b => encR 0x51 0x03 d a b
  | .fsqrtS d a => encR 0x51 0x04 d a 0
  | .fminS d a b => encR 0x51 0x05 d a b
  | .fmaxS d a b => encR 0x51 0x06 d a b
  | .fsgnjS d a b => encR 0x51 0x08 d a b
  | .fsgnjnS d a b => encR 0x51 0x09 d a b
  | .fsgnjxS d a b => encR 0x51 0x0A d a b
  | .fclassS d a => encR 0x51 0x0C d a 0
  | .feqS d a b => encR 0x51 0x10 d a b
  | .fltS d a b => encR 0x51 0x11 d a b
  | .fleS d a b => encR 0x51 0x12 d a b
  | .fmaD d a b c => encF4 0x53 0 d a b c
  | .fmsD d a b c => encF4 0x53 1 d a b c
  | .fmaS d a b c => encF4 0x54 0 d a b c
  | .fmsS d a b c => encF4 0x54 1 d a b c
  | .fcvt d a rtz dst src => encR 0x55 (src.code + 8 * dst.code + 64 * rtz.toNat) d a 0
  | .vld d a imm sz la => encVM 0x60 sz.code la imm.toNat a d
  | .vst d a imm sz la => encVM 0x61 sz.code la imm.toNat a d
  | .vlds d a b k la => encVS 0x62 k la b a d
  | .vsts d a b k la => encVS 0x63 k la b a d
  | .vgth d a b k la => encVS 0x64 k la b a d
  | .vsct d a b k la => encVS 0x65 k la b a d
  | .vfaddD d a b k => encV 0x66 0x00 k d a b
  | .vfsubD d a b k => encV 0x66 0x01 k d a b
  | .vfmulD d a b k => encV 0x66 0x02 k d a b
  | .vfdivD d a b k => encV 0x66 0x03 k d a b
  | .vfsqrtD d a k => encV 0x66 0x04 k d a 0
  | .vfminD d a b k => encV 0x66 0x05 k d a b
  | .vfmaxD d a b k => encV 0x66 0x06 k d a b
  | .vfsgnjD d a b k => encV 0x66 0x08 k d a b
  | .vfsgnjnD d a b k => encV 0x66 0x09 k d a b
  | .vfsgnjxD d a b k => encV 0x66 0x0A k d a b
  | .vfclassD d a k => encV 0x66 0x0C k d a 0
  | .vfaddS d a b k => encV 0x67 0x00 k d a b
  | .vfsubS d a b k => encV 0x67 0x01 k d a b
  | .vfmulS d a b k => encV 0x67 0x02 k d a b
  | .vfdivS d a b k => encV 0x67 0x03 k d a b
  | .vfsqrtS d a k => encV 0x67 0x04 k d a 0
  | .vfminS d a b k => encV 0x67 0x05 k d a b
  | .vfmaxS d a b k => encV 0x67 0x06 k d a b
  | .vfsgnjS d a b k => encV 0x67 0x08 k d a b
  | .vfsgnjnS d a b k => encV 0x67 0x09 k d a b
  | .vfsgnjxS d a b k => encV 0x67 0x0A k d a b
  | .vfclassS d a k => encV 0x67 0x0C k d a 0
  | .vfmaD d a b c k => encVF4 0x68 0 k d a b c
  | .vfmsD d a b c k => encVF4 0x68 1 k d a b c
  | .vfnmaD d a b c k => encVF4 0x68 2 k d a b c
  | .vfnmsD d a b c k => encVF4 0x68 3 k d a b c
  | .vfmaS d a b c k => encVF4 0x69 0 k d a b c
  | .vfmsS d a b c k => encVF4 0x69 1 k d a b c
  | .vfnmaS d a b c k => encVF4 0x69 2 k d a b c
  | .vfnmsS d a b c k => encVF4 0x69 3 k d a b c
  | .vadd d a b wc k => encV 0x6A (0 + wc.code) k d a b
  | .vsub d a b wc k => encV 0x6A (4 + wc.code) k d a b
  | .vadds d a b wc k => encV 0x6A (8 + wc.code) k d a b
  | .vaddus d a b wc k => encV 0x6A (12 + wc.code) k d a b
  | .vsubs d a b wc k => encV 0x6A (16 + wc.code) k d a b
  | .vsubus d a b wc k => encV 0x6A (20 + wc.code) k d a b
  | .vmul d a b wc k => encV 0x6A (24 + wc.code) k d a b
  | .vmulh d a b wc k => encV 0x6A (28 + wc.code) k d a b
  | .vmulhu d a b wc k => encV 0x6A (32 + wc.code) k d a b
  | .vand d a b wc k => encV 0x6A (36 + wc.code) k d a b
  | .vor d a b wc k => encV 0x6A (40 + wc.code) k d a b
  | .vxor d a b wc k => encV 0x6A (44 + wc.code) k d a b
  | .vsll d a b wc k => encV 0x6A (48 + wc.code) k d a b
  | .vsrl d a b wc k => encV 0x6A (52 + wc.code) k d a b
  | .vsra d a b wc k => encV 0x6A (56 + wc.code) k d a b
  | .vmin d a b wc k => encV 0x6A (60 + wc.code) k d a b
  | .vmax d a b wc k => encV 0x6A (64 + wc.code) k d a b
  | .vminu d a b wc k => encV 0x6A (68 + wc.code) k d a b
  | .vmaxu d a b wc k => encV 0x6A (72 + wc.code) k d a b
  | .vabs d a wc k => encV 0x6A (76 + wc.code) k d a 0
  | .vcmp kd a b cond ty any k => encV 0x6B (ty.code + 8 * cond.val + 64 * any.toNat) k kd a b
  | .vsel d a b k => encV 0x6C 0 k d a b
  | .vredFadd d a wc k => encV 0x6D (0 + wc.code) k d a 0
  | .vredFmin d a wc k => encV 0x6D (4 + wc.code) k d a 0
  | .vredFmax d a wc k => encV 0x6D (8 + wc.code) k d a 0
  | .vredAdd d a wc k => encV 0x6D (16 + wc.code) k d a 0
  | .vredAnd d a wc k => encV 0x6D (20 + wc.code) k d a 0
  | .vredOr d a wc k => encV 0x6D (24 + wc.code) k d a 0
  | .vredXor d a wc k => encV 0x6D (28 + wc.code) k d a 0
  | .vredMin d a wc k => encV 0x6D (32 + wc.code) k d a 0
  | .vredMax d a wc k => encV 0x6D (36 + wc.code) k d a 0
  | .vredMinu d a wc k => encV 0x6D (40 + wc.code) k d a 0
  | .vredMaxu d a wc k => encV 0x6D (44 + wc.code) k d a 0
  | .splat d g wc k => encVX 0x6E wc.code k g 0 d
  | .extr g v idx wc => encVX 0x6E (4 + wc.code) 0 g idx v
  | .ins v g idx wc => encVX 0x6E (8 + wc.code) 0 g idx v
  | .extrK g kd => encVX 0x6E 12 0 g 0 kd
  | .insK kd g => encVX 0x6E 13 0 g 0 kd
  | .vperm d a b wc k => encV 0x6F wc.code k d a b
  | .vcvt d a rtz dst src k => encV 0x70 (src.code + 8 * dst.code + 64 * rtz.toNat) k d a 0
  | .kand kd ka kb => encV 0x71 0 0 kd ka kb
  | .kor kd ka kb => encV 0x71 1 0 kd ka kb
  | .kxor kd ka kb => encV 0x71 2 0 kd ka kb
  | .kandn kd ka kb => encV 0x71 3 0 kd ka kb
  | .knot kd ka => encV 0x71 4 0 kd ka 0
  | .kli kd imm => encV 0x71 5 0 kd (imm.toNat % 32) (imm.toNat / 32)
  | .gzAdd d a b => encG 0x01 d a b 0 0
  | .gzSub d a b => encG 0x02 d a b 0 0
  | .gzMul d a b => encG 0x03 d a b 0 0
  | .gzFma d a b c => encG 0x04 d a b c 0
  | .gzMin d a b => encG 0x05 d a b 0 0
  | .gzMax d a b => encG 0x06 d a b 0 0
  | .gzRelu d a => encG 0x07 d a 0 0 0
  | .gzClamp d a b c => encG 0x08 d a b c 0
  | .gzAbs d a => encG 0x09 d a 0 0 0
  | .gzNeg d a => encG 0x0A d a 0 0 0
  | .gzExp2 d a => encG 0x0B d a 0 0 0
  | .gzRcp d a => encG 0x0C d a 0 0 0
  | .gzRsq d a => encG 0x0D d a 0 0 0
  | .gzSel cc d a b c => encG 0x0E d a b c cc
  | .gzLdr n d => encG 0x0F d 0 0 0 n
  | .gzLdc n d => encG 0x10 d 0 0 0 n
  | .gzCvt fmt d a => encG 0x11 d a 0 0 fmt
  | .gzBscl a => encG 0x12 0 a 0 0 0
  | .gzSt a => encG 0x13 0 a 0 0 0
  | .gzStt a => encG 0x14 0 a 0 0 0
  | .gzRedr n op a => encG 0x15 0 a 0 0 (op.val + 4 * n.val)
  | .gzEnd => encG 0x16 0 0 0 0 0
  | .mma .. => 0
  | .mmas .. => 0
  | .mzero .. => 0
  | .maccld .. => 0
  | .mdrain .. => 0
  | .mdpl .. => 0
  | .msig .. => 0
  | .tcwCompletion .. => 0
  | .copy .. => 0
  | .copyCompletion .. => 0
  | .blockTransferArrival .. => 0
  | .blockTransferRetry .. => 0
  | .blockTransferCompletion .. => 0
  | .transientCondition .. => 0
  | .setterPut .. => 0
  | .place .. => 0
  | .sessionClose .. => 0
  | .handle .. => 0
  | .amoHandler .. => 0
  | .amopHandler .. => 0
  | .casHandler .. => 0
  | .claimHandler .. => 0
  | .decHandler .. => 0
  | .armHandler .. => 0
  | .readyHandler .. => 0
  | .readyEntryAppend .. => 0
  | .task .. => 0
  | .bounceRefusal .. => 0
  | .registerContext .. => 0
  | .departure .. => 0
  | .forwardingEntryExpiry .. => 0
  | .delegate .. => 0
  | .reply .. => 0
  | .mcstLine .. => 0
  | .mcstAcknowledgement .. => 0
  | .firingStart .. => 0
  | .capsuleCompletion .. => 0
  | .completionWave .. => 0
  | .crossPackageAcknowledgement .. => 0
  | .scannerVisit .. => 0
  | .admission .. => 0
  | .placement .. => 0
  | .missedDeadline .. => 0
  | .deadlineWatchdog .. => 0
  | .runLimit .. => 0
  | .readyNotice .. => 0
  | .go .. => 0
  | .gangStart .. => 0
  | .preemptInterrupt .. => 0
  | .resumeRecordWrite .. => 0
  | .continuationPublish .. => 0
  | .publishRetry .. => 0
  | .killMessage .. => 0
  | .routerDiscardExpiry .. => 0
  | .purgeConfirmed .. => 0
  | .halt .. => 0
  | .resume .. => 0
  | .firewallDrop .. => 0
  | .rmaRead .. => 0
  | .rmaWrite .. => 0
  | .fetchAdd .. => 0
  | .swap .. => 0
  | .compareSwap .. => 0
  | .claim .. => 0
  | .claimWindowClose => 0
  | .handover .. => 0
  | .accept .. => 0
  | .handoverLapse => 0
  | .keepalive .. => 0
  | .keepaliveTimeout => 0
  | .readCapability .. => 0
  | .measure .. => 0
  | .readLog .. => 0
  | .status .. => 0
  | .addKey .. => 0
  | .revokeKey .. => 0
  | .setGuiltAndLimit .. => 0
  | .setRunLimit .. => 0
  | .mapQueue .. => 0
  | .unmapQueue .. => 0
  | .stopQueue .. => 0
  | .restartQueue .. => 0
  | .registerOwnerReportRing .. => 0
  | .registerEventAddress .. => 0
  | .mapWindow .. => 0
  | .unmapWindow .. => 0
  | .killCapsule .. => 0
  | .podTable .. => 0
  | .stageFirmware .. => 0
  | .activateFirmware .. => 0
  | .openDebugSession .. => 0
  | .debugSessionStart .. => 0
  | .closeDebugSession .. => 0
  | .setHaltGroup .. => 0
  | .powerLimit .. => 0
  | .powerOn => 0
  | .dieLinkTraining .. => 0
  | .portTraining .. => 0
  | .cxlEnumeration .. => 0
  | .ptpLock .. => 0
  | .lockLoss => 0
  | .cxlPortFailure .. => 0
  | .thermalThrottle => 0
  | .thermalShutdown => 0
  | .powerOff => 0
  | .reset => 0
  | .fetchFault => 0
  | .illegalInstructionWord .. => 0
  | .unsupportedUetRequest .. => 0
  | .unknownManagementCommand .. => 0
  | .ptpLockTimeout => 0
  | .powerLimitThrottle => 0

/-- The instruction that the decoder reads from a word numbered as spec/opcode_table.json numbers it: every core and
Glaze row has 32 bits, and the decoder reads a core word (a Glaze word lies in drain memory, where decodeGlaze reads it). (DESIGN CHOICE log 20) -/
def decodeTableWord (nbits w : Nat) : Option Instr :=
  if nbits ≤ 32 then decodeWord (w % 2 ^ 32) else none

end

end Sys2Proof
end

