-- ==== Sys2Proof/Machine/Sparse.lean ====
section
/-! DEFINITION. Reading and writing sparse tables: an absent key reads as the default d, and a write of d removes the key. -/

namespace Sys2Proof.Machine

/-- The value at key k, d when the key is absent. -/
def sget {α : Type} (d : α) : Sparse α → Nat → α
  | [], _ => d
  | (k', v) :: m, k => if k' = k then v else sget d m k

/-- Put (k, v) in front of the first larger key. -/
def sinsert {α : Type} (k : Nat) (v : α) : Sparse α → Sparse α
  | [] => [(k, v)]
  | (k', v') :: m => if k < k' then (k, v) :: (k', v') :: m else (k', v') :: sinsert k v m

/-- Remove every entry with key k. -/
def serase {α : Type} (k : Nat) : Sparse α → Sparse α
  | [] => []
  | (k', v) :: m => if k' = k then serase k m else (k', v) :: serase k m

/-- Write v at key k. -/
def sset {α : Type} [DecidableEq α] (d : α) (m : Sparse α) (k : Nat) (v : α) : Sparse α :=
  if v = d then serase k m else sinsert k v (serase k m)

/-- Keys strictly rise, all above the bound lo when there is one, and no value is the default: the canonical form. -/
def swfFrom {α : Type} [DecidableEq α] (d : α) : Option Nat → Sparse α → Bool
  | _, [] => true
  | lo, (k, v) :: m =>
    (match lo with
     | none => true
     | some b => decide (b < k)) && decide (v ≠ d) && swfFrom d (some k) m

/-- The canonical form of a sparse table. -/
def swf {α : Type} [DecidableEq α] (d : α) (m : Sparse α) : Bool := swfFrom d none m

/-- Keep the entries whose key is outside lo ≤ key < lo + n. -/
def sclear {α : Type} (lo n : Nat) (m : Sparse α) : Sparse α :=
  m.filter fun e => decide (e.1 < lo ∨ lo + n ≤ e.1)

/-- The entries with lo ≤ key < lo + n, their keys counted from lo. -/
def sslice {α : Type} (lo n : Nat) (m : Sparse α) : Sparse α :=
  (m.filter fun e => decide (lo ≤ e.1 ∧ e.1 < lo + n)).map fun e => (e.1 - lo, e.2)

/-- Write every entry of a slice at keys counted from base. -/
def smerge {α : Type} [DecidableEq α] (d : α) (base : Nat) (m : Sparse α) (slice : Sparse α) : Sparse α :=
  slice.foldl (fun acc e => sset d acc (base + e.1) e.2) m

end Sys2Proof.Machine
end

