-- ==== Sys2Proof/Config.lean ====
section
/-! DEFINITION. What the device fixes outside the instruction set, and the free values: constants without a body, which
nothing in Lean can evaluate. Each is named in the assumption log. -/

namespace Sys2Proof.Config

/-- Main-clock cycles beyond the first that pass in the step with this count (R18 CYCLE, DESIGN CHOICE log 5). -/
opaque freeCycles : Nat → Nat
/-- Nanoseconds of pod time that pass in the step with this count (R18 PODTICK, DESIGN CHOICE log 5). -/
opaque freeNs : Nat → Nat
/-- How far the CYCLE of a core stands ahead of the machine's count of cycles: cores are not synchronised (R18, DESIGN CHOICE log 113). -/
opaque cycleSkew : Nat → Nat
/-- Bytes that the manual calls unpredictable (R4): applied to the step count and to the byte's place (DESIGN CHOICE log 12). -/
opaque freeByte : Nat → Nat → Byte
/-- What a read of another package of the gang returns, applied to the step count and the address (DESIGN CHOICE log 8). -/
opaque peerByte : Nat → Nat → Byte
/-- The extent that a refusal for overlapping extents names, given their ranges (R194, DESIGN CHOICE log 41). -/
opaque overlapNamed : List (Nat × Nat) → Nat
/-- SHAKE256 (FIPS 202): the first n bytes of output, packed as a number with byte 0 the least significant (DESIGN CHOICE log 10). -/
opaque shake256 : List Byte → Nat → Nat
/-- The 512-bit KMAC256 resume tag under the resume key of a power-on, for a capsule digest and a record of so many bytes, its
bytes that are not 0 listed by offset (R208, DESIGN CHOICE log 10). -/
opaque resumeMac : Nat → Nat → List (Nat × Byte) → Nat → Nat
/-- Ed448ph verification of a seal: public key, image bytes up to the seal, seal (R186, DESIGN CHOICE log 10). -/
opaque sealVerifies : List Byte → List Byte → List Byte → Bool
/-- Verification of a claim: priority, public key, share and signature (R223, DESIGN CHOICE log 10). -/
opaque claimVerifies : Nat → List Byte → List Byte → List Byte → Bool
/-- The X448 secret of the device's own share and a host's (R223, DESIGN CHOICE log 10). -/
opaque x448 : List Byte → List Byte
/-- Verification of a management tag under a session key: host ID, command code, sequence number, body length, the numbers and bytes of
the body, and the tag (R221, DESIGN CHOICE log 10). -/
opaque tagVerifies : Nat → Word → Nat → Nat → Nat → List Nat → List Byte → Bool
/-- The tag of a management response under a session key, over all bytes before it; none is a host without a session (R221, DESIGN CHOICE
log 10, log 87). -/
opaque responseTag : Option Nat → List Byte → List Byte

/-- Verification of the signatures that authorise a debug session of a tier on a die for an owner key (R238, DESIGN CHOICE log 10). -/
opaque debugVerifies : Nat → Nat → Nat → List Byte → Bool
/-- Verification of a vendor-signed firmware image (R235, DESIGN CHOICE log 10). -/
opaque firmwareVerifies : List Byte → Bool
/-- The generation that a firmware image carries (R235, DESIGN CHOICE log 10). -/
opaque firmwareGeneration : List Byte → Nat
/-- The Ed448 signature of a measurement by the fused identity key (R234, DESIGN CHOICE log 10). -/
opaque measureSignature : List Byte → List Byte
/-- Bytes of the configuration table that the module's flash holds (R232, R234, DESIGN CHOICE log 26). -/
opaque configurationTable : List Byte
/-- Verification of a configuration table's signature: key, the bytes before the signature, the signature (R232, DESIGN CHOICE log 10). -/
opaque tableSigned : List Byte → List Byte → List Byte → Bool
/-- The keys that a configuration table may be signed with (R232, DESIGN CHOICE log 26). -/
opaque configurationKeys : List (List Byte)
/-- The four configuration-key digests and the highest generation that the fuses record (R232, DESIGN CHOICE log 26). -/
opaque fusedDigests : List Nat
opaque fusedGeneration : Nat
/-- The public half of the fused device identity key (R234, R240, DESIGN CHOICE log 26). -/
opaque identityKey : List Byte
/-- What the board controller's sensors show in a step, by the kind of reading (R240, DESIGN CHOICE log 77). -/
opaque sensors : Nat → Nat → List Byte
/-- The columns that a peer's saggar column takes from a capsule's footprint on that footprint package (R190, R232, DESIGN CHOICE log 8). -/
opaque peerNarrow : Word → Nat → Nat
/-- Firmware generation and image in flash at power-on (R234, R235, DESIGN CHOICE log 26). -/
opaque firmwareImage : List Byte
/-- The device's part stepping, serial and fabric addresses in the capability list (R227, DESIGN CHOICE log 26). -/
opaque deviceSerial : Nat
opaque deviceStepping : Nat
opaque fabricAddress : Nat → Nat
/-- The highest debug tier that the fuses permit (R227, R238, DESIGN CHOICE log 26). -/
opaque fusedDebugTier : Nat

/-- The main clock of the default role map in MHz (R1). -/
def mainClockMHz : Nat := 2250

end Sys2Proof.Config
end

