-- ==== Sys2Proof/Machine/State.lean ====
section
/-! DEFINITION. The state of one Pritar P4 package: threads, cores, clusters, dies, the IO die, the capsules that are
admitted or waiting, and what hosts see. It is plain data. Threads are numbered core * 4 + thread (R13), cores
cluster * 8 + core, clusters die * 96 + row * 12 + column, all physical. -/

namespace Sys2Proof.Machine

/-- Capsule mode and firmware mode of a thread (R204, R205). -/
inductive Mode where
  | capsule | firmware
  deriving DecidableEq, Repr

/-- A register that a late result is written to (R39). -/
inductive RegName where
  | g (n : Nat)
  | v (n : Nat)
  deriving DecidableEq, Repr

/-- A late result: the bits to write and which of them it writes (a vector load writes its active elements only). -/
structure Late where
  data : Vec
  mask : Vec
  deriving DecidableEq, Repr

/-- A pending destination (R39): the identity of its request, the register, the instructions left in its window, and
the value once it has arrived inside the window. -/
structure Pending where
  id : Nat
  reg : RegName
  left : Nat
  value : Option Late
  deriving DecidableEq, Repr

/-- Why a thread that holds work is not ready (R14). -/
inductive Wait where
  | nothing
  | scoreboard (r : RegName)
  | tag (addr : Nat)
  | timeline (ch n : Nat)
  | engines
  | phase (scope : Scope) (id : Nat) (phase : Nat)
  | matrixRoom
  | copyRoom
  | setterRoom
  | transferRoom
  | departure (target : Nat)
  | posted
  | reply
  deriving DecidableEq, Repr

/-- A barrier record that a thread holds after an arrival (R155, R126). -/
structure BarRec where
  scope : Scope
  id : Nat
  phase : Nat
  deriving DecidableEq, Repr

/-- The copy shadow registers (R244), and whether cps has written one since the last cpgo (R153). -/
structure Shadow where
  src : Word
  dst : Word
  sstr : Word
  dstr : Word
  shape : Word
  fmt : Word
  chan : Word
  written : Bool
  deriving DecidableEq, Repr

/-- An active message (R46) with what the network needs to know of it: its capsule, target core, the firing, core and
code offset that issued it, the request its REPLY answers, and its posted number (R147). A REPLY has kind 4 and its dword
as body; `reply` is then the address it is delivered to. `bounce` marks a refusal on its way back to the sender (R124).
`serial` orders the messages by issue; `key` is the memory key of an operation's target, `wrote` the target as the issuer wrote it.
A target at or above the core count stands for a peer package; `held`: a message for one has not left, since an earlier atomic of its firing is not
performed (R140). -/
structure Msg where
  kind : Nat
  words : List (BitVec 32)
  origin : Word
  reply : Word
  body : List Byte
  capsule : Nat
  target : Nat
  firing : Nat
  sender : Nat
  code : Word
  request : Nat
  number : Nat
  bounce : Bool
  serial : Nat
  key : Nat
  wrote : Word := 0
  held : Bool := false
  deriving DecidableEq, Repr

/-- One hardware thread: its register context, the firing it runs, and why it waits. `requests` are the outstanding
requests that a REPLY answers, each with whether it is an amo or a cas, which later accesses wait for (R140, R141).
`syncArrived`: the arrival of the bar.sync at the PC is counted already (R155). `words`: the inline words that H has yet to run (R48). -/
structure Thread where
  live : Bool
  mode : Mode
  pc : Word
  g : Sparse Word
  v : Sparse Vec
  k : Sparse (BitVec 8)
  sregs : Nat
  vregs : Nat
  fcr : Word
  vl : Word
  lstart : Sparse Word
  lend : Sparse Word
  lcount : Sparse Word
  ldepth : Word
  trapCause : Word
  trapPc : Word
  trapVal : Word
  firing : Nat
  codelet : Nat
  successors : List Word
  pending : List Pending
  requests : List (Nat × Bool)
  window : Nat
  unacked : Nat
  barRecs : List BarRec
  shadow : Shadow
  issued : Sparse Nat
  handling : Option Msg
  replied : Bool
  syncArrived : Bool
  words : List (BitVec 32)
  wait : Wait
  deriving DecidableEq, Repr

/-- A ready entry (R122). `message` is the packet or context it starts from; it stands for the locator. -/
structure Entry where
  codelet : Nat
  source : Nat
  locator : Nat
  message : Option Msg
  deriving DecidableEq, Repr

/-- Drain parameters of an mdparm (R44, R269). -/
structure Params where
  outbase : Word
  rowbase : Word
  colbase : Word
  outstride : Nat
  outfmt : Nat
  deriving DecidableEq, Repr

/-- States of a matrix queue slot (R249); EMPTY slots are not held. `finished` waits for its completion (R246), and `ending` is a TCW
whose fault ends its capsule (R257). -/
inductive SlotState where
  | queued | multiply | drain | finished | faulted | ending
  deriving DecidableEq, Repr

/-- A matrix queue slot (R249, R259): the TCW with its latched B format, the latched parameters, progress, and issuer. -/
structure Slot where
  tcw : Nat
  params : Params
  rowProgress : Nat
  state : SlotState
  first : Nat
  code : Word
  thread : Nat
  deriving DecidableEq, Repr

/-- A forwarding entry of a core (R127): the firing that departed, its target, the origin that its context named, the cycle of its end, and the
requests whose replies the firing awaits. -/
structure Forward where
  firing : Nat
  target : Nat
  origin : Word
  until_ : Nat
  owed : List Nat
  deriving DecidableEq, Repr

/-- One core: what its four threads share (R18, R22, R24, R122, R249, R266, R14, R216). -/
structure Core where
  capsule : Option Nat
  coord : Word
  foot : Word
  mqw : Word
  trapVec : Word
  issued : Sparse Nat
  tlw : Sparse Nat
  completed : List (Nat × Nat)
  inbox : List Msg
  ring : List Entry
  ringHead : Nat
  waiting : List Entry
  slots : List Slot
  params : Params
  unacked : Nat
  shared : Nat
  lastTask : Nat
  haltGroup : Option Nat
  halted : Bool
  discarding : Option Nat
  forwarding : List Forward
  deriving DecidableEq, Repr

/-- An accepted copy (R263): its latched shadow and formats, issuer, number, the next row, the keys of the bytes that its rows have written, and
whether all have moved. -/
structure CopyOp where
  shadow : Shadow
  sfmt : Nat
  dfmt : Nat
  chan : Nat
  thread : Nat
  reg : Nat
  firing : Nat
  request : Nat
  number : Nat
  code : Word
  next : Nat
  done : List Nat
  moved : Bool
  deriving DecidableEq, Repr

/-- An open shelf (R283, R300). -/
structure Shelf where
  number : Nat
  indices : List Nat
  bodies : List Nat
  deriving DecidableEq, Repr

/-- A Setter session (R290, R300): state 0 unused, 1 open, 2 closing, 3 closed. -/
structure Session where
  state : Nat
  emitted : Nat
  position : Nat
  base : Nat
  next : Nat
  shelves : List Shelf
  deriving DecidableEq, Repr

/-- An accepted Setter operation (R300): kind 1 set.put, 2 set.close. -/
structure SetterOp where
  kind : Nat
  session : Nat
  thread : Nat
  reg : Nat
  firing : Nat
  request : Nat
  code : Word
  number : Nat
  address : Word
  count : Nat
  next : Nat
  begun : Bool
  deriving DecidableEq, Repr

/-- A drain in progress (R243, R270, R279): the queue whose slot runs it, the segment's row and word, the segment's
copy of e and w0 to w7 as 32 elements each, the latched scale bytes, and the memory values that the segment has read: row
vector n at key n, column vector n at key 32 + n; and the column below which every store word of the segment has stored. -/
structure Drain where
  core : Nat
  row : Nat
  word : Nat
  e : List Word
  w : Sparse (List Word)
  latch : Option (List Nat)
  cache : Sparse (List Word)
  column : Nat
  deriving DecidableEq, Repr

/-- An accumulator tile that an accepted TCW of a core writes and no waitt has covered yet (R29): the channel-4 number that
covers it, and whether a store has left the tile unpredictable. -/
structure OpenTile where
  tile : Nat
  core : Nat
  number : Nat
  spoiled : Bool
  deriving DecidableEq, Repr

/-- One cluster: BFMT (R27), the arbiter (R250), drain memory and directory (R267), copies (R261), the Setter (R282). -/
structure Cluster where
  bfmt : Sparse Word
  cur : Nat
  credit : Nat
  drainMem : Sparse (BitVec 32)
  directory : List Nat
  drain : Option Drain
  openTiles : List OpenTile
  copies : List CopyOp
  sessions : Sparse Session
  setterOps : List SetterOp
  deriving DecidableEq, Repr

/-- Who of a peer package issued a tagged request (R148): the capsule here, its footprint package, the address as it named it, and the origin
word of its thread. -/
structure PeerIssuer where
  capsule : Nat
  package : Nat
  address : Word
  origin : Word
  deriving DecidableEq, Repr

/-- A waiting ldf or ste request at a scratchpad word (R149): kind 0 ldf.e, 1 ldf.f, 2 ste, and the address as the issuer wrote it. One of a peer's
core names its issuer, and its thread lies past those of this package. -/
structure TagReq where
  addr : Nat
  kind : Nat
  thread : Nat
  reg : Nat
  value : Word
  peer : Option PeerIssuer
  wrote : Word
  deriving DecidableEq, Repr

/-- An ldf or ste of a thread of this package that waits at a word of a peer package (R148): the address as sent, and the pod ID of its package. -/
structure AwayTag where
  thread : Nat
  kind : Nat
  reg : Nat
  address : Nat
  pod : Nat
  deriving DecidableEq, Repr

/-- A load reply that a peer package has yet to forward to a firing that migrated here (R127, R128): the peer's identity of the firing, ours, the
register, and an identity of the request here. -/
structure PeerLoad where
  capsule : Nat
  package : Nat
  theirs : Nat
  firing : Nat
  reg : Nat
  request : Nat
  deriving DecidableEq, Repr

/-- A block transfer (R264, R265): stage 0 on its way, 1 refused with a ticket (hint: the cycle of its retry), 2 accepted; the lines it
has moved, and what they were. -/
structure Transfer where
  src : Word
  dst : Word
  length : Nat
  capsule : Nat
  thread : Nat
  reg : Nat
  firing : Nat
  request : Nat
  number : Nat
  code : Word
  engine : Nat
  stage : Nat
  ticket : Nat
  hint : Nat
  next : Nat
  done : List Nat
  deriving DecidableEq, Repr

/-- A late result on its way to a register of a firing (R39, R63); far when it is no load reply, or comes from CXL memory or
a peer, so that migr waits for it (R127). -/
structure LoadReply where
  firing : Nat
  core : Nat
  request : Nat
  reg : RegName
  value : Late
  far : Bool
  deriving DecidableEq, Repr

/-- A report record (R118, R139, R194, R211). -/
structure Record where
  kind : Nat
  cause : Nat
  capsule : Word
  code : Word
  value : Word
  extent : Nat
  origin : Nat
  thread : Nat
  timeline : Word
  tick : Nat
  deriving DecidableEq, Repr

/-- A codelet descriptor (R119): kind 0 task, 1 actor, 2 entry. -/
structure Codelet where
  code : Nat
  sregs : Nat
  vregs : Nat
  kind : Nat
  rates : List Nat
  deriving DecidableEq, Repr

/-- An entry record (R180). -/
structure EntryRec where
  codelet : Nat
  mask : Nat
  package : Nat
  deriving DecidableEq, Repr

/-- A readiness record (R180). -/
structure ReadyRec where
  location : Nat
  offset : Nat
  word : Word
  rates : Word
  deriving DecidableEq, Repr

/-- What the header, the tables and the arguments of a capsule image say (R178, R180). -/
structure Image where
  va : Nat
  length : Nat
  flags : Nat
  codeVa : Nat
  codeDigest : Nat
  codeLength : Nat
  cols : Nat
  rows : Nat
  dies : Nat
  packages : Nat
  cls : Nat
  deadline : Nat
  gangStart : Nat
  reportVa : Nat
  resumeVa : Nat
  spillVa : Nat
  dsramKib : Nat
  owner : Nat
  parent : Word
  extents : List Extent
  codelets : List Codelet
  entries : List EntryRec
  members : List Nat
  readiness : List ReadyRec
  args : List Word
  deriving DecidableEq, Repr

/-- A barrier (R133): expected count (none while unset), arrivals, and the phases completed, whose lowest bit is the phase bit. -/
structure Barrier where
  expected : Option Nat
  arrived : Nat
  phase : Nat
  deriving DecidableEq, Repr

/-- A footprint die as placed (R20, R28, R190): physical die, first column, column count, first row, and where the
capsule's slice of the die SRAM begins. -/
structure PlacedDie where
  die : Nat
  col : Nat
  cols : Nat
  row : Nat
  sram : Nat
  deriving DecidableEq, Repr

/-- Where a capsule stands between its entry and its end (R191 to R196, R214, R175). -/
inductive Stage where
  | offered | placing | loaded | running | preempting | saved | publishing | killing | ended
  deriving DecidableEq, Repr

/-- A kill under way (R214): the final record, and the children it has discarded so far (R215). -/
structure Kill where
  final : Record
  children : Nat
  swept : List Nat
  deriving DecidableEq, Repr

/-- A firing saved at pre-emption (R175, R206): the thread it left and its register context. -/
structure Saved where
  thread : Nat
  context : Thread
  deriving DecidableEq, Repr

/-- What pre-emption has saved (R206 to R209, R300), beside the record's bytes, whose MAC names it: the device's own identities of
what the record holds (DESIGN CHOICE log 33). Threads keep their copy shadows and numbers only; `saved` are the register contexts. -/
structure Snapshot where
  tag : Nat
  placed : List PlacedDie
  cores : List (Nat × Core)
  clusters : List (Nat × Cluster)
  threads : List (Nat × Thread)
  saved : List Saved
  net : List Msg
  loads : List LoadReply
  transfers : List Transfer
  tags : Sparse Bool
  barriers : Sparse Barrier
  outstanding : Nat
  faultFirings : Nat
  dropped : Nat
  home : Nat
  deriving DecidableEq, Repr

/-- A capsule, from its handover to admission on (R178 to R198): `queue` is the queue of its entry, `home` its home queue, `resumes` the
pre-empted capsule that a continuation continues, `sequence` the number that its producer gave the entry (R157), `admitted` its place in the order of
placement (R191, DESIGN CHOICE log 96), `reached` and `answered` the cores that PREEMPT has reached and that have answered it (R175), `received` the
units from peers since the last wave (R131). -/
structure Capsule where
  id : Word
  image : Image
  owner : Nat
  queue : Nat
  home : Nat
  derived : Bool
  parent : Nat
  continuation : Bool
  resumes : Nat
  published : Option (Nat × Nat)
  recordVa : Nat
  recordLength : Nat
  mapping : List Extent
  order : Bool
  slot : Nat
  stage : Stage
  placed : List PlacedDie
  outstanding : Nat
  barriers : Sparse Barrier
  reportIndex : Nat
  dropped : Nat
  faultFirings : Nat
  runTime : Nat
  started : Option Nat
  sequence : Nat
  admitted : Nat
  kill : Option Kill
  saved : List Saved
  snap : Option Snapshot
  digest : Nat
  reached : List Nat
  answered : List Nat
  notices : List Nat
  waves : Nat
  received : Nat
  go : Bool
  refusal : Option Nat
  entryDone : Bool
  deriving DecidableEq, Repr

/-- An owner report ring (R225). -/
structure OwnerRing where
  base : Word
  slots : Nat
  deriving DecidableEq, Repr

/-- An owner key (R185) with its owner report ring and event address (R222, R225). -/
structure OwnerKey where
  desc : KeyDesc
  guilt : Nat
  limit : Nat
  runLimit : Nat
  revoked : Bool
  ring : Option OwnerRing
  event : Option Nat
  deriving DecidableEq, Repr

/-- The states of a queue (R158). -/
inductive QState where
  | run | error | stopped
  deriving DecidableEq, Repr

/-- A mapped queue (R199): the scanner's read copy and state, and the state it was in when stopped (R202). -/
structure Queue where
  desc : QueueDesc
  read : Nat
  state : QState
  wasError : Bool
  deriving DecidableEq, Repr

/-- A user report record that waits to be written (R118), with the firing that issued it and its serial. -/
structure PendingReport where
  capsule : Nat
  firing : Nat
  serial : Nat
  record : Record
  deriving DecidableEq, Repr

/-- What the device sends out (R171, R219, R221, R222, R229, R240): an RMA response, a management response, an event, a word for a peer at a
fabric address, the answer to an unsupported request, and what the board controller reads. -/
inductive Response where
  | rma (host status : Nat) (data : List Byte)
  | management (host : Word) (sequence command status : Nat) (body tag : List Byte)
  | event (address key kind : Nat) (capsule : Word)
  | peer (address : Nat) (what : Nat) (data : List Byte)
  | unsupported (host : Nat)
  | board (data : List Byte)
  deriving DecidableEq, Repr

/-- A host atomic that a port's atomic unit has read for, and whose write it has yet to perform (R171): the port, the host, the
dword's key, the value it read and the one it writes, and the steps left. -/
structure PortOp where
  port : Nat
  host : Nat
  key : Nat
  old : Word
  value : Option Word
  left : Nat
  deriving DecidableEq, Repr

/-- A debug session (R238): stage 0 requested, 1 open. -/
structure DebugSession where
  number : Nat
  tier : Nat
  die : Nat
  key : Nat
  stage : Nat
  deriving DecidableEq, Repr

/-- A halt group (R216). -/
structure HaltGroup where
  armed : Bool
  haltOnFault : Bool
  halted : Bool
  deriving DecidableEq, Repr

/-- Management and the device's surroundings (R218 to R240). `forged` are the lines whose MAC has failed, `integrity` the entries of
the error log that are marked as integrity failures (R237), `corrected` the corrected errors (R213), `slewed` the time in ns of the slew
under way that has not yet moved PODTICK (R228), `table` the configuration table in flash (R232),
`notices` the ready notices, by capsule digest and footprint package, for a gang of which no member has been admitted here yet (R192). -/
structure Mgmt where
  powered : Bool
  powerCount : Nat
  stage : Nat
  owner : Option Word
  sessions : List Word
  claims : List (Nat × Word × Nat)
  claimOpen : Bool
  claimTick : Nat
  sessionKeys : List (Word × Nat)
  handover : Option (Word × Nat)
  lastKeepalive : Nat
  locked : Bool
  slewing : Bool
  slewed : Nat
  podOffset : Int
  podId : Nat
  peers : List (Nat × Nat)
  notices : List (Nat × Nat)
  table : List Byte
  firmware : List Byte
  generation : Nat
  staged : Option (List Byte)
  errorLog : List (Record × Nat)
  integrity : List Nat
  forged : List Nat
  corrected : Nat
  debugSessions : List DebugSession
  groups : Sparse HaltGroup
  powerLimit : Nat
  clockMHz : Nat
  ports : List Nat
  usableDies : List Nat
  cxlPorts : List Nat
  cxlCapacity : Nat
  cxlFailed : Bool
  deriving DecidableEq, Repr

/-- One unit of an engine's work: a K-step of the TCW that multiplies (R256), the columns below n of a drain's store word (R279), a row of
a copy (R263), a line of a block transfer (R264), a shelf of a session that closes (R288, R295). -/
inductive Work where
  | kStep (cluster : Nat)
  | columns (cluster n : Nat)
  | row (cluster n : Nat)
  | line (n : Nat)
  | shelf (cluster : Nat)
  deriving DecidableEq, Repr

/-- What befalls a 64-byte line of memory: an error that is corrected, one that is not, or a MAC that fails on read (R213, R230, R237). -/
inductive MemoryEvent where
  | corrected
  | uncorrectable (line : Nat)
  | macFailure (line : Nat)
  deriving DecidableEq, Repr

/-- What a peer asks of the tags of this package (R148, R151, R152). -/
inductive TagOp where
  | ldfE | ldfF | ste | fill | purge | probe | withdraw
  deriving DecidableEq, Repr

/-- What reaches this package from footprint package `package` of a gang (R127, R131, R133, R146, R148, R192, R214, R229): a message with its
bytes on the wire, a plain store or load, a tagged operation with its value or count, the answer to a tagged operation of a thread here, a
forwarded load reply, an mcst line, an arrival at a pod barrier, a ready notice with the digest of its capsule, the kill of a gang with its cause, and
the word that a gang has completed. -/
inductive PeerInput where
  | message (package : Nat) (m : Msg) (wire : List Byte)
  | store (package capsule : Nat) (address : Word) (data : List Byte)
  | load (package capsule : Nat) (address : Word) (n : Nat)
  | tag (package capsule : Nat) (op : TagOp) (address value origin : Word)
  | tagDone (pod : Nat) (address : Nat) (value : Word)
  | lateResult (package capsule firing reg : Nat) (value : Word)
  | line (package capsule : Nat) (destination : Word) (data : List Byte) (code origin : Word) (number : Nat)
  | arrival (capsule id expected : Nat)
  | notice (package digest : Nat)
  | kill (id : Word) (cause : Nat)
  | completed (id : Word)
  deriving DecidableEq, Repr

/-- What the board controller reads on its bus (R240). -/
inductive BoardRead where
  | temperatures
  | currents
  | coolant
  | serial
  | identityKey
  deriving DecidableEq, Repr

/-- Who moves next: a core has a cycle, the core of a thread or one named, in which the order of R14 picks who issues; a cluster's drain runs its next word
(R271), an engine does one unit of its work, an event takes place, a line of memory errs, a peer reaches this package, or the board controller reads. -/
inductive Turn where
  | issue (thread : Nat)
  | cycle (core : Nat)
  | drain (cluster : Nat)
  | event (i : Instr)
  | work (w : Work)
  | memory (m : MemoryEvent)
  | peer (p : PeerInput)
  | board (r : BoardRead)
  deriving DecidableEq, Repr

/-- An mcst line on its way to a member, and an mcst that waits for acknowledgements (R146). -/
structure Mcst where
  package : Nat
  destination : Word
  line : List Byte
  thread : Nat
  reg : Nat
  firing : Nat
  request : Nat
  number : Nat
  capsule : Nat
  code : Word
  acked : Bool
  deriving DecidableEq, Repr

/-- The whole package. `mem` holds every byte that does not read 0, keyed as Machine/Ops.lean says; `tags` holds the
full scratchpad words. `who`, `agenda`, `steps` and `nextId` are the model's own (DESIGN CHOICE log 4, 5, 6). -/
structure State where
  who : Nat
  agenda : List Turn
  steps : Nat
  nextId : Nat
  cycle : Nat
  podTick : Nat
  threads : Sparse Thread
  cores : Sparse Core
  clusters : Sparse Cluster
  mem : List Host.Cell
  poison : List Nat
  tags : Sparse Bool
  tagQueue : List TagReq
  awayTags : List AwayTag
  peerLoads : List PeerLoad
  net : List Msg
  loads : List LoadReply
  stores : List (Nat × Nat)
  mcsts : List Mcst
  transfers : List Transfer
  tickets : Sparse Nat
  reports : List PendingReport
  capsules : Sparse Capsule
  worlds : List (Nat × Nat)
  routers : List (Nat × Nat × Nat)
  codeCache : List (Nat × Nat × Nat × Nat)
  scanned : Nat
  keys : List OwnerKey
  queues : List Queue
  windows : List WindowDesc
  portOps : List PortOp
  mgmt : Mgmt
  outbox : List Response
  deriving DecidableEq, Repr

/-- Why the machine stops. -/
inductive Fault where
  /-- Raised by `step` alone: no part of the device is powered, so nothing can move until main power comes on (R240).
  Safe: the model stops where the device stops. -/
  | poweredOff
  deriving DecidableEq, Repr

/-- Why a step has no meaning. -/
inductive Refusal where
  /-- Raised by exec's refused arms alone: the named instruction has no meaning yet. Safe: it proves nothing. -/
  | notModelled (mnemonic : String)
  deriving DecidableEq, Repr

/-- Copy shadow registers at admission (R244). -/
def Shadow.reset : Shadow := ⟨0, 0, 0, 0, 0, 0, 0, false⟩

/-- A thread that holds no work; its registers are zero (DESIGN CHOICE log 1). -/
def Thread.reset : Thread where
  live := false
  mode := .capsule
  pc := 0
  g := []
  v := []
  k := []
  sregs := 0
  vregs := 0
  fcr := 0
  vl := 0
  lstart := []
  lend := []
  lcount := []
  ldepth := 0
  trapCause := 0
  trapPc := 0
  trapVal := 0
  firing := 0
  codelet := 0
  successors := []
  pending := []
  requests := []
  window := 0
  unacked := 0
  barRecs := []
  shadow := Shadow.reset
  issued := []
  handling := none
  replied := false
  syncArrived := false
  words := []
  wait := .nothing

/-- Drain parameters before any mdparm (R248). -/
def Params.reset : Params := ⟨0, 0, 0, 0, 0⟩

/-- A core that runs no capsule (DESIGN CHOICE log 1): MQW 1 (R18), TRAPVEC the start of the resident region (R24). -/
def Core.reset : Core where
  capsule := none
  coord := 0
  foot := 0
  mqw := 1
  trapVec := 0x3D800
  issued := []
  tlw := []
  completed := []
  inbox := []
  ring := []
  ringHead := 0
  waiting := []
  slots := []
  params := Params.reset
  unacked := 0
  shared := 0
  lastTask := 1
  haltGroup := none
  halted := false
  discarding := none
  forwarding := []

/-- An unused Setter session (R290). -/
def Session.reset : Session := ⟨0, 0, 0, 0, 0, []⟩

/-- A cluster with its engines idle: the arbiter at cur 7 and credit 0 (R250), drain memory zero and unfilled (R267). -/
def Cluster.reset : Cluster where
  bfmt := []
  cur := 7
  credit := 0
  drainMem := []
  directory := []
  drain := none
  openTiles := []
  copies := []
  sessions := []
  setterOps := []

/-- A barrier at the start of its first phase (R133). -/
def Barrier.reset : Barrier := ⟨none, 0, 0⟩

/-- An empty image. -/
def Image.empty : Image :=
  ⟨0, 0, 0, 0, 0, 0, 0, 0, 0, 0, 0, 0, 0, 0, 0, 0, 0, 0, 0, [], [], [], [], [], []⟩

/-- No capsule. -/
def Capsule.blank : Capsule where
  id := 0
  image := Image.empty
  owner := 0
  queue := 0
  home := 0
  derived := false
  parent := 0
  continuation := false
  resumes := 0
  published := none
  recordVa := 0
  recordLength := 0
  mapping := []
  order := false
  slot := 0
  stage := .ended
  placed := []
  outstanding := 0
  barriers := []
  reportIndex := 0
  dropped := 0
  faultFirings := 0
  runTime := 0
  started := none
  sequence := 0
  admitted := 0
  kill := none
  saved := []
  snap := none
  digest := 0
  reached := []
  answered := []
  notices := []
  waves := 0
  received := 0
  go := false
  refusal := none
  entryDone := false

/-- The surroundings right after a reset: bring-up stage 1 (R231), no owner, no lock, and the module's 2,000 W (R239) until the ROM has read
the configuration table (DESIGN CHOICE log 26). -/
def Mgmt.reset : Mgmt where
  powered := true
  powerCount := 0
  stage := 1
  owner := none
  sessions := []
  claims := []
  claimOpen := false
  claimTick := 0
  sessionKeys := []
  handover := none
  lastKeepalive := 0
  locked := false
  slewing := false
  slewed := 0
  podOffset := 0
  podId := 0
  peers := []
  notices := []
  table := Config.configurationTable
  firmware := Config.firmwareImage
  generation := Config.firmwareGeneration Config.firmwareImage
  staged := none
  errorLog := []
  integrity := []
  forged := []
  corrected := 0
  debugSessions := []
  groups := []
  powerLimit := 2000
  clockMHz := Config.mainClockMHz
  ports := []
  usableDies := []
  cxlPorts := []
  cxlCapacity := 0
  cxlFailed := false

/-- The package right after a reset: powered, at bring-up stage 1 (R231), no capsule anywhere, memory with nothing
listed, CYCLE and PODTICK 0 (R18, R228). -/
def State.reset : State where
  who := 0
  agenda := []
  steps := 0
  nextId := 1
  cycle := 0
  podTick := 0
  threads := []
  cores := []
  clusters := []
  mem := []
  poison := []
  tags := []
  tagQueue := []
  awayTags := []
  peerLoads := []
  net := []
  loads := []
  stores := []
  mcsts := []
  transfers := []
  tickets := []
  reports := []
  capsules := []
  worlds := []
  routers := []
  codeCache := []
  scanned := 0
  keys := []
  queues := []
  windows := []
  portOps := []
  mgmt := Mgmt.reset
  outbox := []

end Sys2Proof.Machine
end

