-- ==== Sys2Proof/Machine/Ops.lean ====
section
/-! DEFINITION. The named operations over threads, registers and memory: addresses and their checks (R23 to R32, R182 to
R184), reading and writing bytes, the outstanding count (R129), report records (R118, R139, R177, R211), the
completion of an instruction (R39, R59), and taking a trap (R204) with the return from one (R205). -/

namespace Sys2Proof.Machine

/-- The outcome of a meaning. -/
abbrev Result := Host.Outcome State Fault Refusal

/-! ### Where things are -/

/-- Number of cores of a package. -/
def coreCount : Nat := 3072

/-- The core of a thread. -/
def coreOf (t : Nat) : Nat := t / 4
/-- The role of a thread: 0 T0, 1 T1, 2 H, 3 S (R13). -/
def roleOf (t : Nat) : Nat := t % 4
/-- The cluster of a core. -/
def clusterOf (c : Nat) : Nat := c / 8
/-- The die of a cluster. -/
def dieOf (cl : Nat) : Nat := cl / 96
/-- The cluster at a physical die, column and row. -/
def clusterAt (die col row : Nat) : Nat := die * 96 + row * 12 + col

/-- The thread with this number. -/
def State.thr (s : State) (t : Nat) : Thread := sget Thread.reset s.threads t
/-- Replace a thread. -/
def State.setThr (s : State) (t : Nat) (x : Thread) : State := { s with threads := sset Thread.reset s.threads t x }
/-- The issuing thread. -/
def State.me (s : State) : Thread := s.thr s.who
/-- Replace the issuing thread. -/
def State.setMe (s : State) (x : Thread) : State := s.setThr s.who x
/-- The core with this number. -/
def State.core (s : State) (c : Nat) : Core := sget Core.reset s.cores c
/-- Replace a core. -/
def State.setCore (s : State) (c : Nat) (x : Core) : State := { s with cores := sset Core.reset s.cores c x }
/-- The issuing core. -/
def State.myCore (s : State) : Core := s.core (coreOf s.who)
/-- The cluster with this number. -/
def State.cluster (s : State) (cl : Nat) : Cluster := sget Cluster.reset s.clusters cl
/-- Replace a cluster. -/
def State.setCluster (s : State) (cl : Nat) (x : Cluster) : State :=
  { s with clusters := sset Cluster.reset s.clusters cl x }
/-- The issuing thread's cluster number. -/
def State.myCluster (s : State) : Nat := clusterOf (coreOf s.who)
/-- The capsule with this number. -/
def State.cap (s : State) (n : Nat) : Capsule := sget Capsule.blank s.capsules n
/-- Replace a capsule. -/
def State.setCap (s : State) (n : Nat) (x : Capsule) : State := { s with capsules := sset Capsule.blank s.capsules n x }
/-- The number of the capsule that runs on a core; capsules are numbered from 1, and 0 is no capsule. -/
def State.capOf (s : State) (c : Nat) : Nat := (s.core c).capsule.getD 0
/-- The number of the issuing thread's capsule. -/
def State.myCap (s : State) : Nat := s.capOf (coreOf s.who)

/-! ### Registers -/

/-- Read g[n]: g0 reads zero (R15). -/
def Thread.rg (t : Thread) (n : Nat) : Word := if n = 0 then 0 else sget 0 t.g n
/-- Write g[n] without touching pending destinations; g0 ignores writes (R15). -/
def Thread.rawG (t : Thread) (n : Nat) (v : Word) : Thread := if n = 0 then t else { t with g := sset 0 t.g n v }
/-- Drop the pending destinations that name r: a write inside a window cancels the late result (R39). -/
def Thread.cancel (t : Thread) (r : RegName) : Thread :=
  { t with pending := t.pending.filter fun p => decide (p.reg ≠ r) }
/-- An instruction's write of g[n]. -/
def Thread.wg (t : Thread) (n : Nat) (v : Word) : Thread := (t.rawG n v).cancel (.g n)
/-- Read v[n]. -/
def Thread.rv (t : Thread) (n : Nat) : Vec := sget 0 t.v n
/-- Write v[n] without touching pending destinations. -/
def Thread.rawV (t : Thread) (n : Nat) (v : Vec) : Thread := { t with v := sset 0 t.v n v }
/-- An instruction's write of v[n]. -/
def Thread.wv (t : Thread) (n : Nat) (v : Vec) : Thread := (t.rawV n v).cancel (.v n)
/-- Read k[n]: k0 reads all ones (R15). -/
def Thread.rk (t : Thread) (n : Nat) : BitVec 8 := if n = 0 then 0xFF else sget 0 t.k n
/-- Write k[n]; k0 cannot be written (R15). -/
def Thread.wk (t : Thread) (n : Nat) (v : BitVec 8) : Thread := if n = 0 then t else { t with k := sset 0 t.k n v }

/-- Write a late result: the bits under its mask (R39). -/
def Thread.land (t : Thread) (r : RegName) (l : Late) : Thread :=
  match r with
  | .g n => t.rawG n ((l.data &&& l.mask).setWidth 64 ||| (t.rg n &&& ~~~(l.mask.setWidth 64)))
  | .v n => t.rawV n ((l.data &&& l.mask) ||| (t.rv n &&& ~~~l.mask))

/-- g[n] of the issuing thread. -/
def State.rg (s : State) (n : Nat) : Word := s.me.rg n
/-- Write g[n] of the issuing thread. -/
def State.wg (s : State) (n : Nat) (v : Word) : State := s.setMe (s.me.wg n v)
/-- v[n] of the issuing thread. -/
def State.rv (s : State) (n : Nat) : Vec := s.me.rv n
/-- Write v[n] of the issuing thread. -/
def State.wv (s : State) (n : Nat) (v : Vec) : State := s.setMe (s.me.wv n v)
/-- k[n] of the issuing thread. -/
def State.rk (s : State) (n : Nat) : BitVec 8 := s.me.rk n
/-- Write k[n] of the issuing thread. -/
def State.wk (s : State) (n : Nat) (v : BitVec 8) : State := s.setMe (s.me.wk n v)

/-- The scalar and vector allotment of a thread (R15, R19): H 16 and 0, S 32 and 8, a task thread its firing's. -/
def State.allot (s : State) (t : Nat) : Nat × Nat :=
  if roleOf t = 2 then (16, 0) else if roleOf t = 3 then (32, 8) else ((s.thr t).sregs, (s.thr t).vregs)

/-! ### Memory

Keys of memory bytes (DESIGN CHOICE log 7): bonded DRAM of die d from d * 2^36, CXL from 2^43, TCM from 2^44 at core * 2^18, scratchpad from 2^45 at
cluster * 2^22, die SRAM from 2^46 at die * 2^44, accumulator memory from 2^47 at cluster * 2^19. -/

/-- Key of a bonded byte. -/
def bondedKey (die pa : Nat) : Nat := die * 2 ^ 36 + pa
/-- Key of a CXL byte. -/
def cxlKey (pa : Nat) : Nat := 2 ^ 43 + pa
/-- Key of a TCM byte. -/
def tcmKey (core off : Nat) : Nat := 2 ^ 44 + core * 2 ^ 18 + off
/-- Key of a scratchpad byte. -/
def spadKey (cl off : Nat) : Nat := 2 ^ 45 + cl * 2 ^ 22 + off
/-- Key of a die SRAM byte. -/
def dsramKey (die off : Nat) : Nat := 2 ^ 46 + die * 2 ^ 44 + off
/-- Key of an accumulator byte. -/
def accKey (cl off : Nat) : Nat := 2 ^ 47 + cl * 2 ^ 19 + off
/-- Whether a key is a scratchpad byte. -/
def isSpadKey (k : Nat) : Bool := decide (2 ^ 45 ≤ k ∧ k < 2 ^ 46)

/-- What a byte that memory does not list reads as (DESIGN CHOICE log 2). -/
def unlisted : Byte := 0

/-- One byte of memory. -/
def State.byte (s : State) (k : Nat) : Byte := sget unlisted s.mem k
/-- Write one byte of memory. -/
def State.setByte (s : State) (k : Nat) (b : Byte) : State := { s with mem := sset unlisted s.mem k b }
/-- The canonical form of memory. -/
def Memory.wf (m : List Host.Cell) : Bool := swf unlisted m

/-- n bytes from key k as a little-endian number (R2). -/
def State.bytes (s : State) (k : Nat) : Nat → Nat
  | 0 => 0
  | n + 1 => (s.byte k).toNat + 256 * State.bytes s (k + 1) n
/-- Write the low n bytes of v from key k, little-endian (R2). -/
def State.setBytes (s : State) (k : Nat) : Nat → Nat → State
  | 0, _ => s
  | n + 1, v => State.setBytes (s.setByte k (BitVec.ofNat 8 v)) (k + 1) n (v / 256)
/-- n bytes from key k as a list. -/
def State.byteList (s : State) (k n : Nat) : List Byte := (List.range n).map fun i => s.byte (k + i)
/-- Write a list of bytes from key k. -/
def State.setByteList (s : State) (k : Nat) : List Byte → State
  | [] => s
  | b :: r => State.setByteList (s.setByte k b) (k + 1) r
/-- mem64 at a key (N33). -/
def State.mem64 (s : State) (k : Nat) : Word := BitVec.ofNat 64 (s.bytes k 8)
/-- Write mem64 at a key. -/
def State.setMem64 (s : State) (k : Nat) (v : Word) : State := s.setBytes k 8 v.toNat

/-- The bytes of a number, little-endian. -/
def toBytes : Nat → Nat → List Byte
  | 0, _ => []
  | n + 1, v => BitVec.ofNat 8 v :: toBytes n (v / 256)
/-- The little-endian number of a list of bytes. -/
def ofBytes : List Byte → Nat
  | [] => 0
  | b :: r => b.toNat + 256 * ofBytes r
/-- The little-endian field of n bytes at offset o of a list of bytes. -/
def fieldB (l : List Byte) (o n : Nat) : Nat := ofBytes ((l.drop o).take n)
/-- The dword at offset o of a list of bytes. -/
def dwordB (l : List Byte) (o : Nat) : Word := BitVec.ofNat 64 (fieldB l o 8)

/-- The tag of the scratchpad word at a key: true is FULL (R25). -/
def State.full (s : State) (k : Nat) : Bool := sget false s.tags (k / 8)
/-- Set a tag. -/
def State.setFull (s : State) (k : Nat) (b : Bool) : State := { s with tags := sset false s.tags (k / 8) b }

/-! ### Addresses -/

/-- Cause codes (R203). -/
def causeIllegal : Nat := 0x01
def causeRegrange : Nat := 0x02
def causeAlign : Nat := 0x03
def causeExtent : Nat := 0x04
def causeRights : Nat := 0x05
def causeMeshbound : Nat := 0x06
def causeMemerr : Nat := 0x07
def causeWatchdog : Nat := 0x08
def causeKilled : Nat := 0x09
def causeQueue : Nat := 0x0A
def causeTrap : Nat := 0x0B
def causeDrain : Nat := 0x0C
def causePriv : Nat := 0x0D
def causeUnderflow : Nat := 0x0E

/-- A mesh address after steps 1 to 3 of R31: footprint-virtual coordinates, unit and offset. -/
structure Mesh where
  package : Nat
  die : Nat
  col : Nat
  row : Nat
  core : Nat
  unit : Nat
  offset : Nat
  deriving DecidableEq, Repr

/-- One coordinate of R31 step 1: the field itself, or the sum of the issuer's coordinate and the signed field. -/
def coordSum (rel : Bool) (own field n : Nat) : Int :=
  if rel then (own : Int) + (if field < 2 ^ (n - 1) then (field : Int) else (field : Int) - 2 ^ n) else (field : Int)

/-- A field of COORD (R11). -/
def coordField (w : Word) (hi lo : Nat) : Nat := bits w.toNat hi lo

/-- The size of a unit in bytes (R23); the die SRAM slice for unit 2 (R28). -/
def unitSize (c : Capsule) (unit : Nat) : Nat :=
  if unit = 0 then 0x40000 else if unit = 1 then 0x400000 else if unit = 2 then c.image.dsramKib * 1024
  else if unit = 3 then 0x80000 else if unit = 4 then 0x1000 else 0

/-- Columns of footprint die i (R20, R31). -/
def Capsule.colsOf (c : Capsule) (i : Nat) : Nat := (c.placed[i]?.map PlacedDie.cols).getD 0

/-- The columns that the saggar column takes from a footprint of whole dies on another footprint package: 1 or 2 where that includes physical die 0,
which is the peer's own affair but where it takes all four dies (R190, R232, DESIGN CHOICE log 8). -/
def Capsule.peerMissing (c : Capsule) (p : Nat) : Nat :=
  if c.image.dies ≤ 1 then 0
  else if c.image.dies = 4 then 1 + Config.peerNarrow c.id p % 2
  else Config.peerNarrow c.id p % 3

/-- Columns of footprint die i of footprint package p, seen from package own. Each member places its own dies (R192); physical die 0 is the first
of those it takes (R190). -/
def Capsule.colsIn (c : Capsule) (own p i : Nat) : Nat :=
  if p = own then c.colsOf i else c.image.cols - (if i = 0 then c.peerMissing p else 0)

/-- Steps 1 to 3 of R31 for an access of n bytes by a core; none is MESHBOUND. A field that the unit ignores and whose sum leaves its range keeps
the low bits of the sum, which mabs and mcrd return (DESIGN CHOICE log 70). -/
def State.resolve (s : State) (core : Nat) (a : Word) (n : Nat) : Option Mesh :=
  let x := a.toNat
  let c := s.cap (s.capOf core)
  let own := (s.core core).coord
  let rel := decide (bits x 62 62 = 1)
  let package := coordSum rel (coordField own 23 12) (bits x 61 50) 12
  let die := coordSum rel (coordField own 11 10) (bits x 49 48) 2
  let col := coordSum rel (coordField own 9 6) (bits x 47 44) 4
  let row := coordSum rel (coordField own 5 3) (bits x 43 41) 3
  let cor := coordSum rel (coordField own 2 0) (bits x 40 38) 3
  let unit := bits x 37 35
  let offset := bits x 34 0
  let within := fun (v : Int) (m : Nat) => decide (0 ≤ v ∧ v < (m : Int))
  let okDie := within package c.image.packages && within die c.image.dies
  let okCol := within col (c.colsIn (coordField own 23 12) package.toNat die.toNat) && within row c.image.rows
  let okCore := within cor 8
  if unit > 4 then none
  else if !okDie then none
  else if unit ≠ 2 && !okCol then none
  else if (unit == 0 || unit == 4) && !okCore then none
  else if offset + n > unitSize c unit then none
  else some ⟨package.toNat, die.toNat, (col % 16).toNat, (row % 8).toNat, (cor % 8).toNat, unit, offset⟩

/-- An absolute mesh address from its fields (R30, R55). -/
def Mesh.word (m : Mesh) : Word :=
  BitVec.ofNat 64 (2 ^ 63 + m.package % 4096 * 2 ^ 50 + m.die % 4 * 2 ^ 48 + m.col * 2 ^ 44 + m.row * 2 ^ 41 +
    m.core * 2 ^ 38 + m.unit * 2 ^ 35 + m.offset)

/-- The one absolute address of a location of the mesh: the coordinate fields that its unit ignores are zero (R23, R30). -/
def Mesh.canon (m : Mesh) : Word :=
  if m.unit = 2 then Mesh.word { m with col := 0, row := 0, core := 0 }
  else if m.unit = 0 ∨ m.unit = 4 then m.word
  else Mesh.word { m with core := 0 }

/-- The physical cluster of a resolved address (R31 step 4). -/
def Capsule.clusterFor (c : Capsule) (m : Mesh) : Nat :=
  match c.placed[m.die]? with
  | some p => clusterAt p.die (p.col + m.col) (p.row + m.row)
  | none => 0

/-- The physical core of a resolved address. -/
def Capsule.coreFor (c : Capsule) (m : Mesh) : Nat := c.clusterFor m * 8 + m.core

/-- The pod ID of a footprint package of a gang (R192); 4096, which is none, past its members. -/
def Capsule.podOf (c : Capsule) (package : Nat) : Nat := c.image.members.getD package 4096

/-- A place an access reaches: this package's memory at a key, with the extent it went through, or that of the package with a pod ID. -/
inductive Place where
  | here (key : Nat) (extent : Option Nat)
  | peer (pod : Nat) (address : Nat)
  deriving DecidableEq, Repr

/-- The place of a resolved mesh address; a location of another package is named by its one absolute address, whatever the encoding (R103). -/
def Capsule.placeFor (c : Capsule) (own : Nat) (m : Mesh) : Place :=
  if m.package ≠ own then .peer (c.podOf m.package) m.canon.toNat
  else if m.unit = 0 then .here (tcmKey (c.coreFor m) m.offset) none
  else if m.unit = 1 then .here (spadKey (c.clusterFor m) m.offset) none
  else if m.unit = 2 then
    match c.placed[m.die]? with
    | some p => .here (dsramKey p.die (p.sram + m.offset)) none
    | none => .here 0 none
  else .here (accKey (c.clusterFor m) m.offset) none

/-- Rights bits of an extent (R182). -/
def rightR : Nat := 1
def rightW : Nat := 2
def rightX : Nat := 4
def rightA : Nat := 8
def rightSA : Nat := 16
def rightM : Nat := 32

/-- Whether a rights mask holds every bit of another. -/
def hasRights (have_ need : Nat) : Bool := (have_ &&& need) == need

/-- The index of the extent that holds an address. -/
def findExtent (l : List Extent) (va : Nat) : Option Nat :=
  l.findIdx? fun e => decide (e.vaBase ≤ va ∧ va < e.vaBase + e.length)

/-- The key of a pa_handle's base (R183); the low 12 bits are kept for handles of finer alignment (DEDUCED log 15). -/
def handleKey (h : Word) : Nat :=
  let base := bits h.toNat 49 0
  if bits h.toNat 63 62 = 1 then cxlKey base else bondedKey (bits h.toNat 51 50) base

/-- Translation by an extent (R184). -/
def extentKey (e : Extent) (va : Nat) : Nat := handleKey e.handle + (va - e.vaBase)

/-- The extent a fault with cause EXTENT names: the greatest base not above the address (R176). -/
def extentBelow (l : List Extent) (va : Nat) : Nat :=
  let r := l.zipIdx.foldl (fun (acc : Option (Nat × Nat)) (e : Extent × Nat) =>
    if e.1.vaBase ≤ va then
      match acc with
      | none => some (e.1.vaBase, e.2)
      | some (b, i) => if b < e.1.vaBase then some (e.1.vaBase, e.2) else some (b, i)
    else acc) none
  match r with
  | some (_, i) => i
  | none => 0xFFFFFFFF

/-- The extent index of a record (R176): named for EXTENT, and for RIGHTS at a virtual address, none otherwise (DEDUCED log 14). -/
def extentIndex (c : Capsule) (cause : Nat) (va : Word) : Nat :=
  if cause = causeExtent then extentBelow c.image.extents va.toNat
  else if cause = causeRights ∧ va.toNat < 2 ^ 63 then (findExtent c.image.extents va.toNat).getD 0xFFFFFFFF
  else 0xFFFFFFFF

/-- Whether the byte range lo … lo + n − 1 of keys meets a write-locked code range (R187): that of a capsule that has passed its checks, while it
waits for placement too, so that the code it runs is the code its digest names. (DEDUCED log 69) -/
def State.codeLocked (s : State) (k n : Nat) : Bool :=
  s.capsules.any fun e =>
    let c := e.2
    (match c.stage with
     | .offered | .saved | .publishing | .ended => false
     | .placing | .loaded | .running | .preempting | .killing => true) &&
    (match findExtent c.image.extents c.image.codeVa with
     | none => false
     | some i =>
       match c.image.extents[i]? with
       | none => false
       | some x => let lo := extentKey x c.image.codeVa; decide (k < lo + c.image.codeLength ∧ lo < k + n))

/-- The world of a capsule: that of its extents (R185). -/
def Capsule.world (c : Capsule) : Nat := (c.image.extents.head?.map fun e => e.flags % 256).getD 0

/-- Whether a die refuses a capsule's request: another world is latched there (R236). -/
def State.worldRefuses (s : State) (c : Capsule) (key : Nat) : Bool :=
  decide (key < 2 ^ 38) &&
  (match s.worlds.find? (fun e => decide (e.1 = key / 2 ^ 36)) with
   | some (_, w) => decide (w ≠ c.world)
   | none => false)

/-- How an access uses its target: the rights of an extent, and what the units allow (R64, R138). -/
structure Acc where
  need : Nat
  writes : Bool
  atomic : Bool
  byH : Bool
  deriving DecidableEq, Repr

def accLoad : Acc := ⟨rightR, false, false, false⟩
def accStore : Acc := ⟨rightW, true, false, false⟩
def accAmo : Acc := ⟨rightR + rightW + rightA, true, true, false⟩
def accAmop : Acc := ⟨rightW + rightA, true, true, false⟩

/-- RIGHTS within a mesh unit (R24, R29, R64, R138). -/
def unitAllows (m : Mesh) (acc : Acc) : Bool :=
  if m.unit = 0 then
    decide (m.offset < 0x39800) || (decide (m.offset < 0x3D800) && acc.byH && !acc.writes)
  else if m.unit = 3 then !acc.atomic
  else decide (m.unit ≠ 4)

/-- The checks of R38 from MESHBOUND or EXTENT on, for n bytes that lie in one extent or unit; `allows` says which mesh
locations the access may use. -/
def State.reachIf (s : State) (core : Nat) (a : Word) (n : Nat) (acc : Acc) (allows : Mesh → Bool) : Except Nat Place :=
  let c := s.cap (s.capOf core)
  if a.toNat ≥ 2 ^ 63 then
    match s.resolve core a n with
    | none => .error causeMeshbound
    | some m =>
      if allows m then .ok (c.placeFor (coordField (s.core core).coord 23 12) m) else .error causeRights
  else if bits a.toNat 62 57 ≠ 0 then .error causeExtent
  else
    match findExtent c.image.extents a.toNat with
    | none => .error causeExtent
    | some i =>
      match c.image.extents[i]? with
      | none => .error causeExtent
      | some x =>
        let k := extentKey x a.toNat
        if !hasRights x.rights acc.need then .error causeRights
        else if acc.writes && s.codeLocked k n then .error causeRights
        else if s.worldRefuses c k then .error causeRights
        else .ok (.here k (some i))

/-- The place of a cause of a failed check in the order of R38, from ALIGN on. -/
def causeRank (c : Nat) : Nat :=
  if c = causeAlign then 4 else if c = causeMeshbound ∨ c = causeExtent then 5 else if c = causeRights then 6 else 7

/-- The checks of a core's access (R24, R29, R64). -/
def State.reach (s : State) (core : Nat) (a : Word) (n : Nat) (acc : Acc) : Except Nat Place :=
  s.reachIf core a n acc fun m => unitAllows m acc

/-- The checks of R38 from ALIGN on, for a naturally aligned access of n bytes. -/
def State.access (s : State) (core : Nat) (a : Word) (n : Nat) (acc : Acc) : Except Nat Place :=
  if a.toNat % n ≠ 0 then .error causeAlign else s.reach core a n acc

/-- TRAPVAL of an access of n bytes that fails (R204): the address where it is misaligned, else the lowest byte that fails by itself. -/
def State.badByte (s : State) (core : Nat) (a : Word) (n : Nat) (acc : Acc) (cause : Nat) : Word :=
  if cause = causeAlign then a
  else
    let fails := fun (i : Nat) =>
      match s.reach core (a + BitVec.ofNat 64 i) 1 acc with
      | .error _ => true
      | .ok _ => false
    a + BitVec.ofNat 64 (((List.range n).find? fails).getD 0)

/-- Whether a read at a place meets an uncorrectable error: a poisoned line, or a failed CXL set (R213, R230). -/
def State.poisoned (s : State) (k n : Nat) : Bool :=
  (s.poison.any fun l => decide (l * 64 < k + n ∧ k < l * 64 + 64)) ||
  (s.mgmt.cxlFailed && decide (2 ^ 43 ≤ k ∧ k < 2 ^ 44))

/-- The first of n bytes from a key that lies on a poisoned line, as an offset; 0 where none does. -/
def State.firstPoison (s : State) (k n : Nat) : Nat := ((List.range n).find? fun i => s.poisoned (k + i) 1).getD 0

/-- Whether a write at a place meets a failed CXL set, where every access ends in MEMERR (R230). -/
def State.writeFails (s : State) (p : Place) : Bool :=
  match p with
  | .here k _ => s.mgmt.cxlFailed && decide (2 ^ 43 ≤ k ∧ k < 2 ^ 44)
  | .peer _ _ => false

/-- The cluster and tile of an accumulator key (R29). -/
def tileAt (k : Nat) : Nat × Nat := ((k - 2 ^ 47) / 2 ^ 19, (k - 2 ^ 47) % 2 ^ 19 / 4096)

/-- Whether a key lies in a tile that an accepted TCW writes and that no waitt has covered (R29). -/
def State.tileOpen (s : State) (k : Nat) : Bool :=
  decide (2 ^ 47 ≤ k) && (s.cluster (tileAt k).1).openTiles.any fun o => decide (o.tile = (tileAt k).2)

/-- The whole tile of a key becomes unpredictable (R4, R29). -/
def State.scramble (s : State) (k : Nat) : State :=
  let base := accKey (tileAt k).1 ((tileAt k).2 * 4096)
  s.setByteList base ((List.range 4096).map fun i => Config.freeByte s.steps (base + i))

/-- A core's store into an open tile leaves the whole tile unpredictable, now and after the TCW (R29). -/
def State.spoilTile (s : State) (k : Nat) : State :=
  if s.tileOpen k then
    let c := s.cluster (tileAt k).1
    let tiles := c.openTiles.map fun o => if o.tile = (tileAt k).2 then { o with spoiled := true } else o
    (s.scramble k).setCluster (tileAt k).1 { c with openTiles := tiles }
  else s

/-- n bytes at a place as a little-endian number; another package's are free values (DESIGN CHOICE log 8), and so are those of a tile in use (DESIGN CHOICE log 12). -/
def State.readPlace (s : State) (p : Place) (n : Nat) : Nat :=
  match p with
  | .here k _ =>
    if s.tileOpen k then ofBytes ((List.range n).map fun i => Config.freeByte s.steps (k + i)) else s.bytes k n
  | .peer _ a => ofBytes ((List.range n).map fun i => Config.peerByte s.steps (a + i))

/-- A write of a whole line clears its poison (R213). -/
def State.clearPoison (s : State) (k n : Nat) : State :=
  { s with poison := s.poison.filter fun l => !decide (k ≤ l * 64 ∧ l * 64 + 64 ≤ k + n) }

/-- Bytes are written at a key: their lines' poison and their entries of the verified-code cache go (R187, R213). -/
def State.touched (s : State) (k n : Nat) : State :=
  let s := s.clearPoison k n
  { s with codeCache := s.codeCache.filter fun e => !decide (k < e.2.1 + e.2.2.1 ∧ e.2.1 < k + n) }

/-- A word for the package with a pod ID leaves as a UET send to the fabric address that the pod table gives; for a peer that is missing there
nothing leaves (R229, DESIGN CHOICE log 76). -/
def State.toPod (s : State) (id what : Nat) (data : List Byte) : State :=
  match s.mgmt.peers.find? fun e => decide (e.1 = id) with
  | none => s
  | some e => { s with outbox := s.outbox ++ [.peer e.2 what data] }

/-- The origin word of a thread (R46): COORD in bits 23:0 and the thread in 25:24. -/
def State.originOf (s : State) (t : Nat) : Word :=
  BitVec.ofNat 64 ((s.core (coreOf t)).coord.toNat % 2 ^ 24 + roleOf t * 2 ^ 24)

/-- The waiting tag requests of some threads leave their queues (R151): those at this package's words, and those at a peer's, which hears of it. -/
def State.withdraw (s : State) (gone : Nat → Bool) : State :=
  let left := s.awayTags.filter fun a => gone a.thread
  let s := { s with tagQueue := s.tagQueue.filter (fun r => !gone r.thread), awayTags := s.awayTags.filter fun a => !gone a.thread }
  left.foldl (fun acc a => State.toPod acc a.pod 27 (toBytes 8 a.address ++ toBytes 4 (acc.originOf a.thread).toNat)) s

/-- Whether the pod table holds a pod ID (R229). -/
def State.reaches (s : State) (id : Nat) : Bool := s.mgmt.peers.any fun e => decide (e.1 = id)

/-- A word for every other member of a gang. -/
def State.toMembers (s : State) (c : Capsule) (what : Nat) (data : List Byte) : State :=
  (c.image.members.filter fun m => decide (m ≠ s.mgmt.podId)).foldl (fun acc m => State.toPod acc m what data) s

/-- Write the low n bytes of v at a place; a write to another package leaves as a message to it (DESIGN CHOICE log 8). -/
def State.writePlace (s : State) (p : Place) (n v : Nat) : State :=
  match p with
  | .here k _ => ((s.setBytes k n v).touched k n).spoilTile k
  | .peer id a => s.toPod id 1 (toBytes 8 a ++ toBytes n v)

/-! ### The outstanding count and numbers -/

/-- Add to a capsule's outstanding count (R129). -/
def State.addCount (s : State) (cap n : Nat) : State :=
  s.setCap cap { s.cap cap with outstanding := (s.cap cap).outstanding + n }
/-- Take from a capsule's outstanding count (R129). -/
def State.subCount (s : State) (cap n : Nat) : State :=
  s.setCap cap { s.cap cap with outstanding := (s.cap cap).outstanding - n }

/-- The last number issued on a channel of a core (R266). -/
def Core.lastIssued (c : Core) (ch : Nat) : Nat := sget 0 c.issued ch
/-- TLW of a channel (R266). -/
def Core.tlwOf (c : Core) (ch : Nat) : Nat := sget 0 c.tlw ch

/-- Take the next n numbers of a channel for an operation of the issuing thread (R266, R154). -/
def State.takeNumbers (s : State) (ch n : Nat) : State :=
  let c := s.myCore
  let last := c.lastIssued ch + n
  let s := s.setCore (coreOf s.who) { c with issued := sset 0 c.issued ch last }
  s.setMe { s.me with issued := sset 0 s.me.issued ch last }

/-- Raise TLW over the numbers that are complete (R266), looking at most fuel numbers ahead. -/
def advanceTlw (done : List (Nat × Nat)) (ch : Nat) : Nat → Nat → Nat
  | 0, w => w
  | fuel + 1, w => if done.contains (ch, w + 1) then advanceTlw done ch fuel (w + 1) else w

/-- A number of a core's channel completes (R266); a peer's number is the peer's affair. -/
def State.completeNumber (s : State) (core ch n : Nat) : State :=
  if n = 0 ∨ coreCount ≤ core then s
  else
    let c := s.core core
    let done := (ch, n) :: c.completed
    let w := advanceTlw done ch done.length (c.tlwOf ch)
    s.setCore core { c with tlw := sset 0 c.tlw ch w, completed := done.filter fun e => decide (e.1 ≠ ch ∨ w < e.2) }

/-- The footprint clusters of a footprint die in row-major order (R28). -/
def Capsule.clustersOf (c : Capsule) (p : PlacedDie) : List Nat :=
  (List.range c.image.rows).flatMap fun r => (List.range p.cols).map fun k => clusterAt p.die (p.col + k) (p.row + r)

/-- The footprint clusters of a capsule, die by die. -/
def Capsule.clusters (c : Capsule) : List Nat := c.placed.flatMap c.clustersOf

/-- The footprint cores of a capsule. -/
def Capsule.cores (c : Capsule) : List Nat := c.clusters.flatMap fun cl => (List.range 8).map fun i => cl * 8 + i

/-- The home core of a bonded or CXL byte (R23). -/
def homeOfKey (k : Nat) : Nat :=
  if k < 2 ^ 38 then
    let pa := k % 2 ^ 36
    let v := pa / 2 ^ 29
    clusterAt (k / 2 ^ 36) (v % 12) (v / 12) * 8 + pa / 2 ^ 12 % 8
  else
    let pa := k - 2 ^ 43
    clusterAt (pa / 2 ^ 18 % 4) 11 (pa / 2 ^ 15 % 8) * 8 + pa / 2 ^ 12 % 8

/-- The home core of a resolved mesh address (R23, R28). -/
def Capsule.homeOfMesh (c : Capsule) (m : Mesh) : Nat :=
  if m.unit = 0 then c.coreFor m
  else if m.unit = 2 then
    match c.placed[m.die]? with
    | some p =>
      let l := c.clustersOf p
      l.getD (m.offset / 2 ^ 12 % l.length) 0 * 8 + m.offset / 8 % 8
    | none => 0
  else c.clusterFor m * 8 + m.offset / 8 % 8

/-- The home core of an address that a core's access has reached (R23). -/
def State.homeOf (s : State) (core : Nat) (a : Word) (key : Nat) : Nat :=
  if a.toNat < 2 ^ 63 then homeOfKey key
  else
    match s.resolve core a 1 with
    | some m => (s.cap (s.capOf core)).homeOfMesh m
    | none => 0

/-! ### Report records -/

/-- The 64 bytes of a record (R118), with the dropped count of a final record (R211). -/
def Record.bytes (r : Record) (dropped : Nat) : List Byte :=
  toBytes 4 r.kind ++ toBytes 4 r.cause ++ toBytes 8 r.capsule.toNat ++ toBytes 8 r.code.toNat ++ toBytes 8 r.value.toNat ++
  toBytes 4 r.extent ++ toBytes 2 r.origin ++ toBytes 2 r.thread ++ toBytes 8 r.timeline.toNat ++ toBytes 8 r.tick ++
  toBytes 4 dropped ++ toBytes 4 0

/-- The key of a virtual address of a capsule's own areas (R174), whatever its rights. -/
def Capsule.keyOf (c : Capsule) (va : Nat) : Option Nat :=
  match findExtent c.image.extents va with
  | none => none
  | some i => c.image.extents[i]?.map fun x => extentKey x va

/-- A write of the device's own from a key on: a record, a ring, a control block or a slot. Where it meets a write-locked code range (R187) or a
failed CXL set (R230) it is not performed (DESIGN CHOICE log 95). -/
def State.ownWrite (s : State) (k : Nat) (l : List Byte) : State :=
  if s.codeLocked k l.length || s.writeFails (.here k none) then s else (s.setByteList k l).touched k l.length

/-- Write bytes at a virtual address of a capsule, nothing where no extent holds it. -/
def State.putVa (s : State) (c : Capsule) (va : Nat) (l : List Byte) : State :=
  match c.keyOf va with
  | none => s
  | some k => s.ownWrite k l

/-- The footprint package that this package is (R188, R192): the place of its pod ID among the members; one that the list does not hold acts as
footprint package 0 (DESIGN CHOICE log 79). -/
def State.packageOf (s : State) (c : Capsule) : Nat :=
  c.image.members.findIdx? (fun m => decide (m = s.mgmt.podId)) |>.getD 0

/-- The report area of this package (R188). -/
def State.reportBase (s : State) (c : Capsule) : Nat := c.image.reportVa + 4096 * s.packageOf c

/-- What reaches a host outside the capsule's extents (R212): a protected world's records are cut down. The cause field stays as it is,
also a user report's, which the program gave (DESIGN CHOICE log 117). -/
def redact (c : Capsule) (r : Record) : Record :=
  if c.world = 0 then r
  else
    { r with
      thread := 0
      timeline := 0
      value :=
        if r.kind = 1 ∨ r.kind = 2 ∨ r.kind = 5 then
          (match c.image.extents[r.extent]? with
           | some x => BitVec.ofNat 64 ((r.value.toNat - x.vaBase) / 4096 * 4096)
           | none => 0)
        else r.value }

/-- The core of a footprint that a record's origin field names by its die, column, row and core (R118); the first where none is. -/
def State.recordCore (s : State) (c : Capsule) (r : Record) : Nat :=
  (c.cores.find? fun x => decide ((s.core x).coord.toNat % 4096 = r.origin % 4096)).getD (c.cores.headD 0)

/-- The key of an address of a capsule, whatever its rights: a virtual one through the extents, a mesh address as a core resolves it; none for a
peer's. -/
def State.keyAt (s : State) (c : Capsule) (core : Nat) (a : Word) : Option Nat :=
  if a.toNat < 2 ^ 63 then c.keyOf a.toNat
  else
    match (s.resolve core a 1).map (c.placeFor (coordField (s.core core).coord 23 12)) with
    | some (.here k _) => some k
    | some (.peer _ _) | none => none

/-- The key of the address that a record holds as its value. -/
def State.recordKey (s : State) (c : Capsule) (r : Record) : Option Nat := s.keyAt c (s.recordCore c r) r.value

/-- Whether a byte lies in a line whose MAC failed and that has not been written whole since (R213, R237). -/
def State.forgedAt (s : State) (k : Nat) : Bool := s.mgmt.forged.contains (k / 64) && s.poison.contains (k / 64)

/-- Whether a record tells of a line whose MAC failed (R237): MEMERR at an address of an access whose first poisoned byte lies in one of them. No
access that reports the address of its start is longer than 24 bytes (R62). -/
def State.tellsForgery (s : State) (c : Capsule) (r : Record) : Bool :=
  decide (r.cause = causeMemerr) && (s.recordKey c r).any fun k => s.forgedAt (k + s.firstPoison k 24)

/-- A record enters the error log, cut down for a protected world (R212), and marked when it tells of an integrity failure (R237). -/
def State.logRecord (s : State) (c : Capsule) (r : Record) : State :=
  let n := s.mgmt.errorLog.length
  let marks := if s.tellsForgery c r then s.mgmt.integrity ++ [n] else s.mgmt.integrity
  { s with mgmt := { s.mgmt with errorLog := s.mgmt.errorLog ++ [(redact c r, c.world)], integrity := marks } }

/-- An access of a host, a peer or the device itself to n bytes among which a line's MAC has failed is marked in the error log (R237, DESIGN CHOICE
log 88): an entry with cause MEMERR that names no
capsule and no address. -/
def State.logForgery (s : State) (k n : Nat) : State :=
  if s.mgmt.forged.any fun l => s.poison.contains l && decide (l * 64 < k + n ∧ k < l * 64 + 64) then
    let r : Record := ⟨1, causeMemerr, 0, 0, 0, 0xFFFFFFFF, 0, 0, 0, s.podTick⟩
    { s with mgmt := { s.mgmt with errorLog := s.mgmt.errorLog ++ [(r, 0)], integrity := s.mgmt.integrity ++ [s.mgmt.errorLog.length] } }
  else s

/-- Write one record to the report area while its index is below 63 (R177, R188), and to the error log (R212). -/
def State.report (s : State) (cap : Nat) (r : Record) : State :=
  let c := s.cap cap
  let s := s.logRecord c r
  if c.reportIndex < 63 then
    (s.putVa c (s.reportBase c + 64 * c.reportIndex) (r.bytes 0)).setCap cap { c with reportIndex := c.reportIndex + 1 }
  else s.setCap cap { c with dropped := c.dropped + 1 }

/-- Write a capsule's final record at index min(i, 63) (R188, R211); a fault enters the error log too (R212). (DEDUCED log 63) -/
def State.reportFinal (s : State) (cap : Nat) (r : Record) : State :=
  let c := s.cap cap
  let s := if r.kind = 1 then s.logRecord c r else s
  s.putVa c (s.reportBase c + 64 * min c.reportIndex 63) (r.bytes c.dropped)

/-- A record of a kind and cause about a thread, at the pod tick of this step (R118, R139). -/
def State.recordOf (s : State) (cap kind cause : Nat) (code value : Word) (extent : Nat) (origin : Word)
    (timeline : Word) : Record :=
  { kind, cause, capsule := (s.cap cap).id, code, value, extent,
    origin := origin.toNat % 2 ^ 16, thread := bits origin.toNat 25 24, timeline, tick := s.podTick }

/-- Append a record to an owner report ring (R194, R225), with its event (R222); a full ring drops it. Where the ring's indices and counter cannot be
read, nothing is written and no event leaves (R213, R230, DESIGN CHOICE log 94). -/
def State.ownerRecord (s : State) (owner : Nat) (c : Capsule) (r : Record) : State :=
  match s.keys.find? (fun k => decide (k.desc.id = owner)) with
  | none => s
  | some key =>
    match key.ring with
    | none => s
    | some ring =>
      let k := handleKey ring.base
      let w := s.bytes k 4
      let rd := s.bytes (k + 4) 4
      if ring.slots = 0 then s
      else if s.poisoned k 12 then s.logForgery k 12
      else if (w + 1) % ring.slots = rd then s.ownWrite (k + 8) (toBytes 4 (s.bytes (k + 8) 4 + 1))
      else
        let s := s.ownWrite (k + 64 + 64 * w) ((redact c r).bytes 0)
        let s := s.ownWrite k (toBytes 4 ((w + 1) % ring.slots))
        match key.event with
        | none => s
        | some a => { s with outbox := s.outbox ++ [.event a owner r.kind r.capsule] }

/-! ### Kill -/

/-- A kill is raised (R214): the capsule is killed with this final record, unless a kill is already under way; the kill of a
gang goes to its other members, with its cause (R131). -/
def State.startKill (s : State) (cap : Nat) (final : Record) : State :=
  let c := s.cap cap
  match c.stage with
  | .ended | .killing => s
  | .offered | .placing | .loaded | .running | .preempting | .saved | .publishing =>
    (s.toMembers c 4 (toBytes 8 c.id.toNat ++ toBytes 4 final.cause)).setCap cap { c with stage := .killing, kill := some ⟨final, 0, []⟩ }

/-- A failure ends the capsule (R139, R203): it is killed with the failure's record as its final record, unless a kill is under way, whose final
record stands; the failure's record is then written like any other (R215, DEDUCED log 40). -/
def State.failCapsule (s : State) (cap : Nat) (r : Record) : State :=
  if (s.cap cap).stage = .killing then s.report cap r else s.startKill cap r

/-- Whether a capsule's cores and engines may start work now. -/
def Capsule.runs (c : Capsule) : Bool :=
  match c.stage with
  | .running | .killing => true
  | .offered | .placing | .loaded | .preempting | .saved | .publishing | .ended => false

/-- Whether a cause ends the capsule rather than the firing at a core (R203): header flag bit 3 clear, or MEMERR. -/
def endsCapsule (c : Capsule) (cause : Nat) : Bool :=
  decide (bits c.image.flags 3 3 = 0) || decide (cause = causeMemerr)

/-- End a thread's firing or routine: its allotment is freed and its unacknowledged stores stay counted on the core (R63, R153). -/
def Thread.ended (t : Thread) : Thread :=
  { t with live := false, mode := .capsule, sregs := 0, vregs := 0, successors := [], pending := [], requests := [],
           window := 0, unacked := 0, handling := none, replied := false, wait := .nothing, barRecs := [], syncArrived := false }

/-- Free a thread, keeping its unacknowledged stores counted on its core. -/
def State.endThread (s : State) (t : Nat) : State :=
  let c := s.core (coreOf t)
  let s := s.setCore (coreOf t) { c with unacked := c.unacked + (s.thr t).unacked }
  s.setThr t (s.thr t).ended

/-! ### Messages -/

/-- A fresh request identity (DESIGN CHOICE log 6). -/
def State.fresh (s : State) : State := { s with nextId := s.nextId + 1 }

/-- The bytes of inbox that a message takes: its length (R46). -/
def Msg.bytesLen (m : Msg) : Nat :=
  let head := 16 + 4 * m.words.length
  (head + 7) / 8 * 8 + m.body.length

/-- Put a message on the network, with its serial. -/
def State.send (s : State) (m : Msg) : State := { s with net := s.net ++ [{ m with serial := s.nextId }], nextId := s.nextId + 1 }

/-- Whether a message is the operation payload of an amo, amop, cas or iteration claim (R62, R135). -/
def Msg.isAtomic (m : Msg) : Bool :=
  decide (m.kind = 0) && m.words.isEmpty &&
  (match m.body.head? with
   | none => false
   | some b => b == 0x30 || b == 0x31 || b == 0x32 || b == 0x1A)

/-- Whether an atomic that a firing issued before the serial n is not yet performed: its message is on its way or waits at its home (R140). H
and hosts run no firing (R13, R171). -/
def State.atomicBefore (s : State) (firing n : Nat) : Bool :=
  let f := fun (m : Msg) => m.isAtomic && decide (firing ≠ 0 ∧ m.firing = firing ∧ m.serial < n)
  s.net.any f || s.cores.any fun e => e.2.inbox.any f

/-- Whether a posted atomic of a firing on one of n bytes from a key is not yet performed: the firing's later accesses of them follow it
(R140, R163, R166). -/
def State.postedTo (s : State) (firing k n : Nat) : Bool :=
  let f := fun (m : Msg) => m.isAtomic && decide (firing ≠ 0 ∧ m.firing = firing ∧ m.target < coreCount ∧ m.key < k + n ∧ k < m.key + 8)
  s.net.any f || s.cores.any fun e => e.2.inbox.any f

/-- The same for n bytes at a place; another package's are its own to order. -/
def State.postedAt (s : State) (p : Place) (n : Nat) : Bool :=
  match p with
  | .here k _ => s.postedTo s.me.firing k n
  | .peer _ _ => false

/-- A REPLY to a request of a firing, or to an address (R137), with its sender's origin word (R46). -/
def replyMsg (cap sender : Nat) (origin address : Word) (firing request : Nat) (v : Word) : Msg :=
  { kind := 4, words := [], origin, reply := address, body := toBytes 8 v.toNat, capsule := cap, target := 0,
    firing, sender, code := 0, request, number := 0, bounce := false, serial := 0, key := 0 }

/-- Do something as another thread. -/
def State.onThread (s : State) (t : Nat) (f : State → State) : State := { f { s with who := t } with who := s.who }

/-! ### Completion of an instruction -/

/-- Deliver the values that have arrived and whose windows are over (R39). -/
def deliver : List Pending → Thread → List Pending × Thread
  | [], t => ([], t)
  | p :: ps, t =>
    match p.value with
    | some l => if p.left = 0 then deliver ps (t.land p.reg l) else let r := deliver ps t; (p :: r.1, r.2)
    | none => let r := deliver ps t; (p :: r.1, r.2)

/-- Write what is due and keep the rest pending. -/
def Thread.settle (t : Thread) : Thread := let r := deliver t.pending t; { r.2 with pending := r.1 }

/-- One issued instruction is counted in every open window (R39). -/
def Thread.count (t : Thread) : Thread :=
  let ps := t.pending.map fun p => { p with left := p.left - 1 }
  Thread.settle { t with window := t.window - 1, pending := ps }

/-- An active loop level's register. -/
def Thread.loopReg (f : Sparse Word) (l : Nat) : Word := sget 0 f l

/-- The end test of R59 from level l outward, after the instruction at p completed. -/
def endTest : Nat → Word → Thread → Thread
  | 0, p, t => { t with pc := p + 4, ldepth := 0 }
  | l + 1, p, t =>
    if p = sget 0 t.lend l then
      if 1 < (sget 0 t.lcount l).toNat then
        { t with lcount := sset 0 t.lcount l (sget 0 t.lcount l - 1), pc := sget 0 t.lstart l, ldepth := BitVec.ofNat 64 (l + 1) }
      else endTest l p { t with lcount := sset 0 t.lcount l 0 }
    else { t with pc := p + 4, ldepth := BitVec.ofNat 64 (l + 1) }

/-- The unwinding of a taken transfer to target (R59). -/
def unwind : Nat → Word → Thread → Nat
  | 0, _, _ => 0
  | l + 1, target, t =>
    if target.toNat < (sget 0 t.lstart l).toNat ∨ (sget 0 t.lend l).toNat < target.toNat then unwind l target t else l + 1

/-- An instruction completes without a taken transfer (R59). -/
def Thread.advance (t : Thread) : Thread :=
  let t := t.count
  { endTest t.ldepth.toNat t.pc t with wait := .nothing }

/-- An instruction completes with a taken transfer (R59). -/
def Thread.jump (t : Thread) (target : Word) : Thread :=
  let t := t.count
  { t with ldepth := BitVec.ofNat 64 (unwind t.ldepth.toNat target t), pc := target, wait := .nothing }

/-- The issuing thread's instruction completes. -/
def State.retire (s : State) : State := s.setMe s.me.advance
/-- The issuing thread's instruction transfers control. -/
def State.transfer (s : State) (target : Word) : State := s.setMe (s.me.jump target)
/-- The issuing thread is not ready: the instruction has not completed and issues again (R14). -/
def State.hold (s : State) (w : Wait) : State := s.setMe { s.me with wait := w }

/-- Open a window of n instructions after this instruction (R39). -/
def Thread.openWindow (t : Thread) (n : Nat) : Thread := { t with window := max t.window n }

/-! ### Traps -/

/-- Trap entry (R204 steps 1 and 2): the firmware registers are filled and the thread is at TRAPVEC in firmware mode. -/
def State.enterTrap (s : State) (cause : Nat) (value : Word) : State :=
  let t := s.me
  s.setMe { t with trapCause := BitVec.ofNat 64 cause, trapPc := t.pc, trapVal := value, mode := .firmware,
                   pc := s.myCore.trapVec, wait := .nothing }

/-- A trap that ends a delegated routine sends dlg's result of all ones (R145). -/
def State.failRoutine (s : State) (t : Nat) : State :=
  match (s.thr t).handling with
  | none => s
  | some m =>
    if m.request = 0 then (s.subCount m.capsule 1).completeNumber m.sender 7 m.number
    else s.send (replyMsg m.capsule (coreOf t) (s.originOf t) m.reply m.firing m.request 0xFFFFFFFFFFFFFFFF)

/-- Who a trap's record names (R139): the thread itself, or in a delegated routine the issuer of its dlg, with dlg.p's channel-7 number. -/
def State.trapIssuer (s : State) : Word × Word :=
  match s.me.handling with
  | some m => (m.origin, if m.number = 0 then 0 else BitVec.ofNat 64 (7 * 2 ^ 60 + m.number))
  | none => (s.originOf s.who, 0)

/-- The resident handler on the issuing thread (R204 steps 3 and 4): the fault record, and the end of the capsule or of
the firing by R203. A fault that ends the capsule leaves its record to the kill, as its final record (R211, R214), unless a kill is under
way, whose final record stands (R215). (DEDUCED log 40) -/
def State.residentHandler (s : State) : State :=
  let t := s.me
  let cap := s.myCap
  let c := s.cap cap
  let cause := t.trapCause.toNat
  let r := s.recordOf cap 1 cause t.trapPc t.trapVal (extentIndex c cause t.trapVal) s.trapIssuer.1 s.trapIssuer.2
  if endsCapsule c cause then
    (s.failCapsule cap r).setMe { t with live := false }
  else
    let s := s.report cap r
    let s := s.setCap cap { s.cap cap with faultFirings := (s.cap cap).faultFirings + 1 }
    let s := if roleOf s.who = 3 then s.failRoutine s.who else s.subCount cap 1
    s.endThread s.who

/-- The members of a halt group stop at their next boundaries (R216); a waiting tag request of theirs leaves its queue, and its instruction
issues again after the halt (R151). -/
def State.haltGroup (s : State) (g : Nat) : State :=
  let x : HaltGroup := sget ⟨false, false, false⟩ s.mgmt.groups g
  let cores := s.cores.map fun e => if e.2.haltGroup = some g then (e.1, { e.2 with halted := true }) else e
  let groups := sset ⟨false, false, false⟩ s.mgmt.groups g { x with halted := true }
  let gone := fun (t : Nat) => decide ((s.core (coreOf t)).haltGroup = some g)
  { s.withdraw gone with cores := cores, mgmt := { s.mgmt with groups := groups } }

/-- The armed halt group of a core, if it halts on a fault (R216). -/
def State.faultHalts (s : State) (core : Nat) : Option Nat :=
  match (s.core core).haltGroup with
  | none => none
  | some g =>
    let x := sget (⟨false, false, false⟩ : HaltGroup) s.mgmt.groups g
    if x.armed && x.haltOnFault then some g else none

/-- Taking a precise trap (R204): the entry. The thread then runs the resident handler in its next step, and a halt on
fault stops it at the handler's entry, before the record is written (R216). On H the word only ends its handler, which
reports it (R48). -/
def State.inTrap (s : State) (cause : Nat) (value : Word) : State :=
  let e := s.enterTrap cause value
  if roleOf s.who = 2 then e
  else
    match s.faultHalts (coreOf s.who) with
    | some g => e.haltGroup g
    | none => e

/-- An instruction that takes a precise trap. -/
def State.takeTrap (s : State) (cause : Nat) (value : Word) : Result := .next (s.inTrap cause value)

/-- The return from a trap (eret in firmware mode, R205). -/
def State.returnFromTrap (s : State) : State :=
  s.setMe { s.me.count with pc := s.me.trapPc, mode := .capsule, wait := .nothing }

/-- MEMERR under a load (R213): the destination is never written, and the capsule ends. -/
def State.memErr (s : State) (address : Word) : Result := s.takeTrap causeMemerr address

/-! ### Issue -/

/-- What an instruction uses: its g, v and k registers, whether it may stand in an open window, and whether an ILLEGAL of
its own rule or of R37 holds. -/
structure Use where
  word : Nat
  gs : List Nat
  vs : List Nat
  ks : List Nat
  barred : Bool
  illegal : Bool
  deriving DecidableEq, Repr

/-- Whether every register operand lies within the issuing thread's allotment (R17). -/
def State.inRange (s : State) (u : Use) : Bool :=
  let a := s.allot s.who
  (u.gs.all fun n => decide (n < a.1)) && (u.vs.all fun n => decide (n < a.2)) &&
  (u.ks.all fun n => decide (n = 0 ∨ roleOf s.who ≠ 2))

/-- A register operand that is pending with its window over: the scoreboard holds the instruction (R39). -/
def State.held (s : State) (u : Use) : Option RegName :=
  (s.me.pending.find? fun p => decide (p.left = 0) &&
    (match p.reg with
     | .g n => u.gs.contains n
     | .v n => u.vs.contains n)).map Pending.reg

/-- The issue of an instruction: the scoreboard (R39), then ILLEGAL and REGRANGE in the order of R38, then its effect. -/
def State.issue (s : State) (u : Use) (body : State → Result) : Result :=
  match s.held u with
  | some r => .next (s.hold (.scoreboard r))
  | none =>
    if (u.barred && decide (s.me.window ≠ 0)) || u.illegal then s.takeTrap causeIllegal (BitVec.ofNat 64 u.word)
    else if !s.inRange u then s.takeTrap causeRegrange (BitVec.ofNat 64 u.word)
    else body s

/-- The issue of an instruction that accesses memory or commands an engine: it waits for the replies of the thread's amo
and cas (R140, R141). -/
def State.issueMem (s : State) (u : Use) (body : State → Result) : Result :=
  if s.me.requests.any fun r => r.2 then .next (s.hold .reply) else s.issue u body

/-- The issue of a release: it also waits until the thread's posted atomics are performed (R140). (DEDUCED log 57) -/
def State.issueRelease (s : State) (u : Use) (body : State → Result) : Result :=
  if s.atomicBefore s.me.firing s.nextId then .next (s.hold .posted) else s.issueMem u body

/-- Whether g[n] lies within the issuing thread's allotment, so that its value can raise an ILLEGAL (R38). -/
def State.hasG (s : State) (n : Nat) : Bool := decide (n < (s.allot s.who).1)

/-- The role of the issuing thread. -/
def State.role (s : State) : Nat := roleOf s.who

end Sys2Proof.Machine
end

