-- ==== Sys2Proof/Machine/Fetch.lean ====
section
/-! DEFINITION. Fetching an instruction word (R34), and laying a program's first word out where a thread fetches it. -/

namespace Sys2Proof.Machine

/-- The virtual address the issuing thread fetches from: the code VA plus the PC (R18, R52). -/
def State.fetchVa (s : State) : Word := BitVec.ofNat 64 (s.cap s.myCap).image.codeVa + s.me.pc

/-- The word at the issuing thread's PC, or the cause of the fetch fault: EXTENT outside every extent, RIGHTS from an
extent without X (R34) and from a die latched to another world (R236), MEMERR on a poisoned line (R213). -/
def State.fetch (s : State) : Except Nat Nat :=
  let l := (s.cap s.myCap).image.extents
  let va := s.fetchVa.toNat
  match findExtent l va with
  | none => .error causeExtent
  | some i =>
    match l[i]? with
    | none => .error causeExtent
    | some x =>
      if !hasRights x.rights rightX || s.worldRefuses (s.cap s.myCap) (extentKey x va) then .error causeRights
      else if s.poisoned (extentKey x va) 4 then .error causeMemerr
      else .ok (s.bytes (extentKey x va) 4)

/-- The core, thread and code base that a program placed from outside uses: T0 of core 0 of the first user cluster. -/
def placedCore : Nat := 8
/-- Its thread. -/
def placedThread : Nat := 32
/-- Its code VA. -/
def placedVa : Nat := 0x10_0000_0000

/-- The capsule that stands for a program placed from outside (DESIGN CHOICE log 9): one cluster, one executable extent at its code VA,
one live firing. -/
def placedCapsule : Capsule :=
  { Capsule.blank with
    id := 1
    image := { Image.empty with
      codeVa := placedVa, codeLength := 4096, cols := 1, rows := 1, dies := 1, packages := 1,
      extents := [⟨placedVa, 4096, 0, rightR + rightX, 0⟩] }
    stage := .running
    placed := [⟨0, 1, 1, 0, 0⟩]
    outstanding := 1 }

/-- The state with the word w placed where its next step fetches: a placed capsule whose entry firing runs on one thread,
with the largest allotment, the word as its first instruction, and the next slot of its core (R14, DESIGN CHOICE log 9). -/
def State.placeWord (s : State) (w : Nat) : State :=
  let s := s.setBytes (bondedKey 0 0) 4 w
  let s := s.setCap 1 placedCapsule
  let s := s.setCore placedCore { s.core placedCore with capsule := some 1, halted := false, shared := 16, lastTask := 1 }
  let s := s.setThr placedThread
    { s.thr placedThread with live := true, mode := .capsule, pc := 0, sregs := 64, vregs := 32, pending := [], window := 0,
                              wait := .nothing, firing := s.nextId }
  { s with who := placedThread, agenda := [.issue placedThread], nextId := s.nextId + 1 }

end Sys2Proof.Machine
end

