-- ==== Sys2Proof/Machine/Images.lean ====
section
/-! DEFINITION. Capsule images: their fields (R178, R180), and the checks of steps 2 to 13 of R193 (R182 to R190), which submit
shares for derived images (R197); and the configuration table (R232). -/

namespace Sys2Proof.Machine

/-! ### Fields -/

/-- Where the entry records begin, counted from the entry table, for m members (R180). -/
def entriesAt (m : Nat) : Nat := (8 + 2 * m + 7) / 8 * 8

/-- The length of the entry table (R180). -/
def entryTableLength (e m r : Nat) : Nat := entriesAt m + 8 * e + 24 * r

/-- One extent record (R182). -/
def parseExtent (b : List Byte) (o : Nat) : Extent :=
  ⟨fieldB b o 8, fieldB b (o + 8) 8, dwordB b (o + 16), fieldB b (o + 24) 4, fieldB b (o + 28) 4⟩

/-- One codelet descriptor (R119). -/
def parseCodelet (b : List Byte) (o : Nat) : Codelet :=
  ⟨fieldB b o 4, fieldB b (o + 4) 1, fieldB b (o + 5) 1, fieldB b (o + 6) 1,
   (List.range 4).map fun i => fieldB b (o + 8 + 2 * i) 2⟩

/-- One entry record (R180). -/
def parseEntry (b : List Byte) (o : Nat) : EntryRec := ⟨fieldB b o 2, fieldB b (o + 2) 1, fieldB b (o + 4) 2⟩

/-- One readiness record (R180). -/
def parseReady (b : List Byte) (o : Nat) : ReadyRec := ⟨fieldB b o 4, fieldB b (o + 4) 4, dwordB b (o + 8), dwordB b (o + 16)⟩

/-- The offsets of the parts of an image that follow from its header and the head of its entry table (R178, R180). -/
structure Layout where
  extents : Nat
  entry : Nat
  codelets : Nat
  entries : Nat
  members : Nat
  pairs : Nat
  table : Nat
  args : Nat
  sealAt : Nat
  deriving DecidableEq, Repr

/-- The layout of an image. -/
def layoutOf (b : List Byte) : Layout :=
  let n := fieldB b 0x42 2
  let entry := fieldB b 0x34 4
  let e := fieldB b entry 4
  let m := fieldB b (entry + 4) 2
  let r := fieldB b (entry + 6) 2
  let table := entryTableLength e m r
  ⟨n, entry, (entry - (0x100 + 32 * n)) / 16, e, m, r, table, fieldB b 0x44 4, entry + table + fieldB b 0x44 4⟩

/-- What the bytes of an image say (R178, R180). -/
def parseImage (b : List Byte) (va : Nat) : Image :=
  let l := layoutOf b
  let at_ := l.entry + entriesAt l.members
  { va
    length := b.length
    flags := fieldB b 6 2
    codeVa := fieldB b 8 8
    codeDigest := fieldB b 0x10 32
    codeLength := fieldB b 0x30 4
    cols := fieldB b 0x38 1
    rows := fieldB b 0x39 1
    dies := fieldB b 0x3A 1
    packages := fieldB b 0x3C 2
    cls := fieldB b 0x40 1
    deadline := fieldB b 0x48 8
    gangStart := fieldB b 0x50 8
    reportVa := fieldB b 0x58 8
    resumeVa := fieldB b 0x60 8
    spillVa := fieldB b 0x68 8
    dsramKib := fieldB b 0x70 4
    owner := fieldB b 0x74 4
    parent := dwordB b 0x78
    extents := (List.range l.extents).map fun i => parseExtent b (0x100 + 32 * i)
    codelets := (List.range l.codelets).map fun i => parseCodelet b (0x100 + 32 * l.extents + 16 * i)
    entries := (List.range l.entries).map fun i => parseEntry b (at_ + 8 * i)
    members := (List.range l.members).map fun i => fieldB b (l.entry + 8 + 2 * i) 2
    readiness := (List.range l.pairs).map fun i => parseReady b (at_ + 8 * l.entries + 24 * i)
    args := (List.range (l.args / 8)).map fun i => dwordB b (l.entry + l.table + 8 * i) }

/-- The 512-bit capsule digest: SHAKE256 over the image up to the seal (R181). -/
def capsuleDigest (b : List Byte) : Nat := Config.shake256 (b.take (layoutOf b).sealAt) 64

/-- The capsule ID: bytes 0 to 7 of the digest (R181). -/
def capsuleId (b : List Byte) : Word := BitVec.ofNat 64 (capsuleDigest b)

/-! ### Step 2: the header and the regions -/

/-- Step 2 of R193 on an image that an entry or submit says is n bytes long (R178, R180). (DEDUCED log 49) A count of packages above 1 without the
gang flag is not refused: R178 asks for none (DESIGN CHOICE log 78). The areas are step 11's. -/
def headerOk (b : List Byte) (n : Nat) : Bool :=
  let l := layoutOf b
  let flags := fieldB b 6 2
  let gang := decide (bits flags 2 2 = 1)
  let cls := fieldB b 0x40 1
  decide (b.length = n ∧ 0x100 ≤ n ∧ n ≤ 2 ^ 20) &&
  decide (fieldB b 0 4 = 0x50435250 ∧ fieldB b 4 2 = 1 ∧ flags < 16 ∧ flags % 2 = 0) &&
  decide (fieldB b 8 8 % 4 = 0 ∧ 4 ≤ fieldB b 0x30 4 ∧ fieldB b 0x30 4 ≤ 2 ^ 24 ∧ fieldB b 0x30 4 % 4 = 0) &&
  decide (fieldB b 0x3B 1 = 0 ∧ fieldB b 0x3E 2 = 0 ∧ fieldB b 0x41 1 = 0 ∧ fieldB b 0x80 128 = 0) &&
  decide (1 ≤ fieldB b 0x38 1 ∧ fieldB b 0x38 1 ≤ 12 ∧ 1 ≤ fieldB b 0x39 1 ∧ fieldB b 0x39 1 ≤ 8) &&
  decide (1 ≤ fieldB b 0x3A 1 ∧ fieldB b 0x3A 1 ≤ 4) &&
  decide (1 ≤ fieldB b 0x3C 2 ∧ fieldB b 0x3C 2 ≤ 4096 ∧ cls ≤ 2 ∧ 1 ≤ l.extents ∧ l.extents ≤ 64) &&
  decide (l.args ≤ 2 ^ 16 ∧ l.args % 8 = 0 ∧ fieldB b 0x70 4 ≤ 196608 ∧ fieldB b 0x70 4 % 4 = 0) &&
  (decide (flags / 2 % 2 = 1) || decide (dwordB b 0x78 = 0)) &&
  (decide (cls ≠ 0) || decide (fieldB b 0x48 8 ≠ 0)) && (gang == decide (fieldB b 0x50 8 ≠ 0)) &&
  decide (l.entry % 8 = 0 ∧ 0x100 + 32 * l.extents ≤ l.entry ∧ (l.entry - (0x100 + 32 * l.extents)) % 16 = 0 ∧
          1 ≤ l.codelets ∧ l.codelets ≤ 65535 ∧ l.entry + 8 ≤ n ∧ l.sealAt + 114 = n)

/-! ### Steps 6 and 7: extents -/

/-- Whether a pa_handle of finer alignment is one of R183 for a range of n bytes, given the CXL capacity (DEDUCED log 15). -/
def fineHandleOk (h : Word) (n cxl : Nat) : Bool :=
  let x := h.toNat
  let base := bits x 49 0
  decide (bits x 61 52 = 0) &&
  (decide (bits x 63 62 = 0 ∧ base + n ≤ 48 * 2 ^ 30) || decide (bits x 63 62 = 1 ∧ bits x 51 50 = 0 ∧ base + n ≤ cxl))

/-- Whether a pa_handle is one of R183 for a range of n bytes, given the CXL capacity. -/
def handleOk (h : Word) (n cxl : Nat) : Bool := decide (bits h.toNat 11 0 = 0) && fineHandleOk h n cxl

/-- Step 6 for one extent record (R182, R183). -/
def extentOk (cxl : Nat) (e : Extent) : Bool :=
  decide (e.vaBase % 4096 = 0 ∧ e.length ≠ 0 ∧ e.length % 4096 = 0 ∧ e.vaBase + e.length ≤ 2 ^ 57 ∧ e.rights < 64 ∧ e.flags < 256) &&
  (decide (e.rights / 16 % 2 = 0) || decide (e.rights / 8 % 2 = 1)) && handleOk e.handle e.length cxl

/-- Whether the ranges of a list are disjoint. -/
def disjoint : List (Nat × Nat) → Bool
  | [] => true
  | (a, n) :: r => (r.all fun x => decide (a + n ≤ x.1 ∨ x.1 + x.2 ≤ a)) && disjoint r

/-- Step 6: every record, and no two ranges overlap (R184). -/
def extentsOk (cxl : Nat) (l : List Extent) : Bool :=
  l.all (extentOk cxl) && disjoint (l.map fun e => (e.vaBase, e.length))

/-- Whether a physical range lies within another. -/
def rangeWithin (h : Word) (n : Nat) (r : PhysRange) : Bool :=
  decide (handleKey r.handle ≤ handleKey h ∧ handleKey h + n ≤ handleKey r.handle + r.length)

/-- Whether a key owns a range, or shares it with all the rights asked for (R185). -/
def keyCovers (k : KeyDesc) (h : Word) (n rights : Nat) : Bool :=
  (k.grants.any (rangeWithin h n)) || (k.shares.any fun r => rangeWithin h n r && hasRights r.rights rights)

/-- Step 7 for one extent (R185). -/
def extentGranted (k : KeyDesc) (e : Extent) : Bool :=
  keyCovers k e.handle e.length e.rights && decide (e.flags = k.world)

/-! ### Steps 8, 10 and 11 -/

/-- Whether a virtual range lies in one extent with some rights and without others. -/
def inOneExtent (l : List Extent) (va n need without : Nat) : Bool :=
  match findExtent l va with
  | none => false
  | some i =>
    match l[i]? with
    | none => false
    | some e => decide (va + n ≤ e.vaBase + e.length) && hasRights e.rights need && decide (e.rights &&& without = 0)

/-- Step 8: the code range lies in one extent that grants X and not W (R187). -/
def codeOk (i : Image) : Bool := inOneExtent i.extents i.codeVa i.codeLength rightX rightW

/-- A codelet descriptor of R119; the reserved byte is checked on the image. -/
def codeletOk (codeLength : Nat) (c : Codelet) : Bool :=
  decide (c.code % 4 = 0 ∧ c.code < codeLength ∧ 8 ≤ c.sregs ∧ c.sregs ≤ 64 ∧ c.sregs % 8 = 0 ∧ c.vregs ≤ 32 ∧ c.vregs % 8 = 0 ∧
          c.kind ≤ 2) &&
  (c.rates.all fun r => decide (r ≤ 2047)) && (c.rates.any (fun r => decide (r ≠ 0)) == decide (c.kind = 1))

/-- Whether no core is named twice for one package (R180). -/
def masksDisjoint : List EntryRec → Bool
  | [] => true
  | e :: r =>
    (r.all fun x => decide (e.mask &&& x.mask = 0) || (decide (e.package ≠ x.package) && decide (e.package ≠ 0xFFFF ∧ x.package ≠ 0xFFFF))) &&
    masksDisjoint r

/-- An entry record of R180. -/
def entryOk (i : Image) (e : EntryRec) : Bool :=
  decide (e.mask ≠ 0) && (decide (e.package < i.packages) || decide (e.package = 0xFFFF)) &&
  (match i.codelets[e.codelet]? with
   | some c => decide (c.kind = 2)
   | none => false)

/-- Whether a rate dword is one of R120. -/
def ratesOk (w : Word) : Bool :=
  decide (bits w.toNat 63 48 = 0) && (List.range 4).all fun l => decide (bits w.toNat (12 * l + 11) (12 * l + 11) = 0)

/-- A readiness record of R180. -/
def readyOk (i : Image) (r : ReadyRec) : Bool :=
  let x := r.location
  decide (x < 2 ^ 24 ∧ bits x 23 12 < i.packages ∧ bits x 11 10 < i.dies ∧ bits x 9 6 < i.cols ∧ bits x 5 3 < i.rows) &&
  decide (r.offset % 16 = 0 ∧ r.offset + 16 ≤ 0x39800 ∧ bits r.word.toNat 63 48 < i.codelets.length) && ratesOk r.rates

/-- Whether the members of a gang are distinct pod IDs. -/
def membersOk : List Nat → Bool
  | [] => true
  | m :: r => decide (m ≤ 4095) && !r.contains m && membersOk r

/-- Step 10 of R193 (R119, R180). -/
def tablesOk (b : List Byte) (i : Image) : Bool :=
  let l := layoutOf b
  let from_ := l.entry + entriesAt l.members
  let gang := decide (bits i.flags 2 2 = 1)
  (i.codelets.all (codeletOk i.codeLength)) &&
  ((List.range l.codelets).all fun k => decide (fieldB b (0x100 + 32 * l.extents + 16 * k + 7) 1 = 0)) &&
  decide (1 ≤ l.entries ∧ l.entries ≤ 32 ∧ l.members = if gang then i.packages else 0) && membersOk i.members &&
  decide (fieldB b (l.entry + 8 + 2 * l.members) (entriesAt l.members - (8 + 2 * l.members)) = 0) &&
  ((List.range l.entries).all fun k => decide (fieldB b (from_ + 8 * k + 3) 1 = 0 ∧ fieldB b (from_ + 8 * k + 6) 2 = 0)) &&
  (i.entries.all (entryOk i)) && masksDisjoint i.entries && (i.readiness.all (readyOk i)) &&
  disjoint (i.readiness.map fun r => (r.location * 2 ^ 18 + r.offset, 16))

/-- Requested footprint clusters on the package (R188). -/
def Image.requested (i : Image) : Nat := i.cols * i.rows * i.dies

/-- Bytes of the resume record for C placed clusters (R188, R206). -/
def Image.resumeBytes (i : Image) (c : Nat) : Nat := 0x700000 * c + i.dsramKib * 1024 * i.dies + 4096

/-- The named areas as virtual ranges, sized for every member (R188). -/
def Image.areas (i : Image) : List (Nat × Nat) :=
  (i.reportVa, 4096 * i.packages) ::
  (if i.resumeVa = 0 then []
   else [(i.resumeVa, i.resumeBytes i.requested * i.packages), (i.spillVa, 0x2000 * i.requested * i.packages)])

/-- Step 11: no area is missing, and those named are aligned, writable, and apart from each other and from the code range (R178, R188, R194). Resume and
spill areas are aligned like the report area, to 64 bytes (DEDUCED log 112). -/
def areasOk (i : Image) : Bool :=
  decide (i.reportVa ≠ 0 ∧ i.reportVa % 64 = 0 ∧ i.resumeVa % 64 = 0 ∧ i.spillVa % 64 = 0) && (decide (i.cls ≠ 2) || decide (i.resumeVa ≠ 0)) &&
  (decide (i.resumeVa = 0) == decide (i.spillVa = 0)) &&
  (i.areas.all fun a => inOneExtent i.extents a.1 a.2 rightW 0) && disjoint ((i.codeVa, i.codeLength) :: i.areas)

/-! ### The configuration table (R232) -/

/-- The table's fields. -/
def tableWidth (t : List Byte) : Nat := fieldB t 0x06 2
def tableGeneration (t : List Byte) : Nat := fieldB t 0x08 4
def tablePower (t : List Byte) : Nat := fieldB t 0x0E 2
def tableDomain (t : List Byte) : Nat := fieldB t 0x0D 1
def tableKeys (t : List Byte) : List (List Byte) := (List.range (fieldB t 0x0C 1)).map fun i => (t.drop (0x10 + 64 * i)).take 57

/-- Whether the boot ROM takes a configuration table: its fields, its signature under a key of a fused digest, and no lower generation than
the fuses record. -/
def tableOk (t : List Byte) : Bool :=
  decide (fieldB t 0 4 = 0x46435250 ∧ fieldB t 4 2 = 1 ∧ 1 ≤ tableWidth t ∧ tableWidth t ≤ 2) &&
  decide (1 ≤ fieldB t 0x0C 1 ∧ fieldB t 0x0C 1 ≤ 16 ∧ tableDomain t ≤ 127 ∧ 600 ≤ tablePower t ∧ tablePower t ≤ 2000) &&
  decide (Config.fusedGeneration ≤ tableGeneration t) &&
  Config.configurationKeys.any fun k =>
    Config.fusedDigests.contains (Config.shake256 k 64) && Config.tableSigned k (t.take 0x410) ((t.drop 0x410).take 114)

/-- Columns of die 0 that the saggar column takes. -/
def State.saggarWidth (s : State) : Nat := tableWidth s.mgmt.table

/-! ### Steps 12 and 13 -/

/-- The first user column of a die, given the saggar width (R1, R232). -/
def userFirst (width die : Nat) : Nat := if die = 0 then width else 0

/-- User columns of a die (R190, R232). -/
def userCols (width die : Nat) : Nat := 12 - userFirst width die

/-- Step 12: the footprint could be placed on an empty package with this saggar width and these usable dies (R190). -/
def footprintOk (width : Nat) (dies : List Nat) (i : Image) : Bool :=
  decide (1 ≤ i.cols ∧ i.cols ≤ 12 ∧ 1 ≤ i.rows ∧ i.rows ≤ 8) &&
  (if i.dies = 1 then dies.any fun d => decide (i.cols ≤ userCols width d)
   else decide (2 ≤ i.dies ∧ i.dies ≤ 4 ∧ i.cols = 12 ∧ i.rows = 8 ∧ i.dies ≤ dies.length))

/-- Step 13: the slice fits an empty die's SRAM of 192 MiB (R193). -/
def sramOk (i : Image) : Bool := decide (i.dsramKib ≤ 196608)

/-! ### Derived images -/

/-- Whether an extent of a derived image lies within one extent of its parent, as R197 asks. -/
def derivedExtentOk (parent : List Extent) (e : Extent) : Bool :=
  parent.any fun p =>
    decide (p.vaBase ≤ e.vaBase ∧ e.vaBase + e.length ≤ p.vaBase + p.length ∧
            handleKey e.handle = handleKey p.handle + (e.vaBase - p.vaBase) ∧ e.flags = p.flags) &&
    hasRights p.rights e.rights

/-- The rules of R197 on a derived image against its parent. -/
def derivedOk (b : List Byte) (i : Image) (parent : Capsule) : Bool :=
  decide (bits i.flags 1 1 = 1 ∧ i.owner = parent.image.owner ∧ i.parent = parent.id) &&
  ((b.drop (layoutOf b).sealAt).all fun x => decide (x = 0)) && (i.extents.all (derivedExtentOk parent.image.extents)) &&
  decide (parent.image.cls ≤ i.cls) &&
  (decide (i.deadline = 0 ∨ parent.image.deadline = 0) || decide (i.deadline ≤ parent.image.deadline))

/-- The first failing code of step 2 and of R197 for a derived image of n bytes; 0 when it passes (R205). -/
def submitCode (b : List Byte) (n : Nat) (parent : Capsule) : Nat :=
  if !headerOk b n then 2 else if !derivedOk b (parseImage b 0) parent then 5 else 0

end Sys2Proof.Machine
end

