-- ==== Sys2Proof/Machine/Operands.lean ====
section
/-! DEFINITION. Operand forms: what an instruction uses, the write of a result at once or behind a lookahead window (R39),
and the plain accesses of the memory instructions (R63, R64). -/

namespace Sys2Proof.Machine

/-! ### What an instruction uses -/

/-- An instruction with these g operands. -/
def useG (word : Nat) (gs : List Nat) : Use := ⟨word, gs, [], [], false, false⟩
/-- The instruction may not stand in an open window (R39). -/
def Use.bar (u : Use) : Use := { u with barred := true }
/-- The instruction is ILLEGAL when b holds. -/
def Use.ill (u : Use) (b : Bool) : Use := { u with illegal := u.illegal || b }
/-- The instruction also uses these v operands. -/
def Use.addV (u : Use) (vs : List Nat) : Use := { u with vs := vs }
/-- The instruction also uses these k operands. -/
def Use.addK (u : Use) (ks : List Nat) : Use := { u with ks := ks }

/-! ### Results -/

/-- An instruction that writes a value to g[d] and goes on. -/
def State.putG (s : State) (word : Nat) (gs : List Nat) (d : Nat) (f : State → Word) : Result :=
  s.issue (useG word (d :: gs)) fun s => .next (s.wg d (f s)).retire

/-- A full late result for g: all 64 bits. -/
def lateG (v : Word) : Late := ⟨v.setWidth 512, (BitVec.allOnes 64).setWidth 512⟩

/-- Whether a register takes a result: g0 discards it (R15). -/
def RegName.takes : RegName → Bool
  | .g 0 => false
  | .g (_ + 1) => true
  | .v _ => true

/-- A long-latency instruction completes its issue with register r pending on the request nextId and a window of la instructions. It is a write
of r: an earlier late result of r is cancelled first, and not even one that has arrived and whose window this instruction ends is written (R39). -/
def State.finishRequest (s : State) (r : RegName) (la : Nat) : State :=
  let t := (s.me.cancel r).advance.openWindow la
  (s.setMe (if r.takes then { t with pending := t.pending ++ [⟨s.nextId, r, la, none⟩] } else t)).fresh

/-- A long-latency instruction with a result that is fixed at issue completes: with la = 0 it is written at once, else
it waits behind its window for LATE_RESULT (R39, DESIGN CHOICE log 6). -/
def State.finishLate (s : State) (r : RegName) (la : Nat) (v : Late) (far : Bool := false) : State :=
  if la = 0 then (s.setMe (if r.takes then (s.me.cancel r).land r v else s.me)).retire
  else { s.finishRequest r la with loads := s.loads ++ [⟨s.me.firing, coreOf s.who, s.nextId, r, v, far⟩] }

/-- A long-latency instruction without a destination completes (R39). -/
def State.finishOpen (s : State) (la : Nat) : State :=
  let s := s.retire
  s.setMe (s.me.openWindow la)

/-! ### Plain accesses -/

/-- A base plus a signed, scaled offset, modulo 2^64 (R63). -/
def State.addrG (s : State) (a : Nat) (offset : Word) : Word := s.rg a + offset

/-- The plain access kinds of the issuing thread: H alone may load from the inbox region (R24). -/
def State.loadAcc (s : State) : Acc := { accLoad with byH := decide (s.role = 2) }

/-- One more unacknowledged store of the issuing firing (R63). -/
def State.noteStore (s : State) : State :=
  let f := s.me.firing
  let s := { s with stores := s.stores ++ [(f, coreOf s.who)] }
  if f = 0 then
    s.setCore (coreOf s.who) { s.myCore with unacked := s.myCore.unacked + 1 }
  else s.setMe { s.me with unacked := s.me.unacked + 1 }

/-- Whether a read at a place meets poison (R213). -/
def State.poisonedAt (s : State) (p : Place) (n : Nat) : Bool :=
  match p with
  | .here k _ => s.poisoned k n
  | .peer _ _ => false

/-- Whether a place lies in CXL memory or in another package (R127). -/
def Place.far : Place → Bool
  | .here k _ => decide (2 ^ 43 ≤ k ∧ k < 2 ^ 44)
  | .peer _ _ => true

/-- A plain load of n bytes into g[d], extended by ext, with its checks in the order of R38 (R63, R213); it follows the thread's posted atomics on
these bytes (R166). -/
def State.loadG (s : State) (word : Nat) (d a la n : Nat) (offset : Word) (ext : Nat → Word) : Result :=
  s.issueMem (useG word [d, a]) fun s =>
    let addr := s.addrG a offset
    match s.access (coreOf s.who) addr n s.loadAcc with
    | .error cause => s.takeTrap cause addr
    | .ok p =>
      if s.postedAt p n then .next (s.hold .posted)
      else if s.poisonedAt p n then s.memErr addr
      else .next (s.finishLate (.g d) la (lateG (ext (s.readPlace p n))) p.far)

/-- A store of the low n bytes of g[v] at an address, with its checks in the order of R38 (R63); it follows the thread's posted atomics on these
bytes (R163), and a failed CXL set gives MEMERR (R230). -/
def State.storeBody (s : State) (v la n : Nat) (addr : Word) : Result :=
  match s.access (coreOf s.who) addr n accStore with
  | .error cause => s.takeTrap cause (s.badByte (coreOf s.who) addr n accStore cause)
  | .ok p =>
    if s.postedAt p n then .next (s.hold .posted)
    else if s.writeFails p then s.memErr addr
    else .next ((s.writePlace p n (s.rg v).toNat).noteStore.finishOpen la)

/-- A plain store of the low n bytes of g[v] (R63). -/
def State.storeG (s : State) (word : Nat) (a v la n : Nat) (offset : Word) : Result :=
  s.issueMem (useG word [a, v]) fun s => s.storeBody v la n (s.addrG a offset)

/-- The first byte of a range that fails its checks, with the cause; every byte is checked alone, in rising order. -/
def State.firstBad (s : State) (core : Nat) (a : Word) (acc : Acc) : Nat → Option (Nat × Word)
  | 0 => none
  | n + 1 =>
    match s.reach core a 1 acc with
    | .error c => some (c, a)
    | .ok _ => State.firstBad s core (a + 1) acc n

end Sys2Proof.Machine
end

