-- ==== Sys2Proof/Machine/Sys.lean ====
section
/-! DEFINITION. The SYS instructions (R118, R197, R205) and the writing of a user report record. -/

namespace Sys2Proof.Machine


/-- trap (R205): Raises the precise trap TRAP with TRAPVAL = g[a]. -/
def execTrap (a : G) (s : State) : Result :=
  s.issue ((useG (encR 0x3E 0 0 a 0) [a]).bar.ill (decide (s.role = 2))) fun s => s.takeTrap causeTrap (s.rg a)

/-- eret (R205): Returns from firmware mode to TRAPPC in capsule mode. -/
def execEret  (s : State) : Result :=
  s.issue (useG (encR 0x3E 1 0 0 0) []).bar fun s =>
    match s.me.mode with
    | .firmware => .next s.returnFromTrap
    | .capsule => s.takeTrap causePriv (BitVec.ofNat 64 (encR 0x3E 1 0 0 0))

/-- The armed halt group of a core (R216). -/
def State.armedGroup (s : State) (core : Nat) : Option Nat :=
  match (s.core core).haltGroup with
  | none => none
  | some g => if (sget (⟨false, false, false⟩ : HaltGroup) s.mgmt.groups g).armed then some g else none

/-- The breakpoint record of bkpt (R211). -/
def State.breakpoint (s : State) (v : Word) : State :=
  s.report s.myCap (s.recordOf s.myCap 5 0 s.me.pc v 0xFFFFFFFF (s.originOf s.who) 0)

/-- bkpt (R205): Halts an armed halt group or writes a breakpoint record. -/
def execBkpt (a : G) (s : State) : Result :=
  s.issueRelease ((useG (encR 0x3E 2 0 a 0) [a]).bar.ill (decide (s.role = 2))) fun s =>
    match s.armedGroup (coreOf s.who) with
    | some g => .next (s.retire.haltGroup g)
    | none => .next (s.breakpoint (s.rg a)).retire

/-- report (R118): Issues a user report record to the capsule's report extent. -/
def execReport (a b : G) (s : State) : Result :=
  s.issueMem (useG (encR 0x3E 3 0 a b) [a, b]).bar fun s =>
    let r := s.recordOf s.myCap 2 ((s.rg a).toNat % 2 ^ 32) s.me.pc (s.rg b) 0xFFFFFFFF (s.originOf s.who) 0
    let p : PendingReport := ⟨s.myCap, s.me.firing, s.nextId, r⟩
    .next { s.addCount s.myCap 1 with reports := s.reports ++ [p] }.retire

/-- A user report record is written once its firing's earlier atomics are performed; every other earlier access is
performed already (R118, DESIGN CHOICE log 3). -/
def execReportRecordWrite (n : Nat) (s : State) : Result :=
  match s.reports[n]? with
  | none => .next s
  | some p =>
    if s.atomicBefore p.firing p.serial then .next s
    else .next (({ s with reports := s.reports.eraseIdx n }.report p.capsule p.record).subCount p.capsule 1)

/-- The lowest address from va up to last that no extent holds, or that lies in one that stops the walk, which goes from extent to extent. -/
def walkExtents (l : List Extent) (stops : Extent → Nat → Bool) (last : Nat) : Nat → Nat → Option Nat
  | 0, va => if last ≤ va then none else some va
  | fuel + 1, va =>
    if last ≤ va then none
    else
      match (findExtent l va).bind fun i => l[i]? with
      | none => some va
      | some e => if stops e va then some va else walkExtents l stops last fuel (e.vaBase + e.length)

/-- Why the bytes from va up to last may not be read, in the order of R38, with the lowest address that meets the cause: EXTENT where no extent
holds one, else RIGHTS where its extent does not grant R, or its die another world (R205). -/
def State.unread (s : State) (c : Capsule) (last va : Nat) : Option (Nat × Nat) :=
  let l := c.image.extents
  match walkExtents l (fun _ _ => false) last (l.length + 1) va with
  | some x => some (causeExtent, x)
  | none =>
    (walkExtents l (fun e a => !hasRights e.rights rightR || s.worldRefuses c (extentKey e a)) last (l.length + 1) va).map fun x => (causeRights, x)

/-- n bytes at a virtual address of an extent list; a byte outside every extent reads as 0. -/
def State.readVa (s : State) (l : List Extent) (va n : Nat) : List Byte :=
  (List.range n).map fun i =>
    match findExtent l (va + i) with
    | none => 0
    | some k =>
      match l[k]? with
      | none => 0
      | some e => s.byte (extentKey e (va + i))

/-- The lowest address of a virtual range of an extent list that holds poison, if any (R213). -/
def State.poisonVa (s : State) (l : List Extent) (va n : Nat) : Option Nat :=
  ((List.range n).find? fun i =>
    match (findExtent l (va + i)).bind fun k => l[k]? with
    | none => false
    | some e => s.poisoned (extentKey e (va + i)) 1).map fun i => va + i

/-- A refusal record (R194) to an owner's report ring, cut down as the world of c asks. -/
def State.refusal (s : State) (owner : Nat) (c : Capsule) (id : Word) (cause code low extent : Nat) : State :=
  s.ownerRecord owner c ⟨4, cause, id, 0, BitVec.ofNat 64 (code * 2 ^ 32 + low), extent, 0, 0, 0, s.podTick⟩

/-- The VA of the record that a member writes (R175, R188). -/
def State.resumeVaOf (s : State) (c : Capsule) : Nat := c.image.resumeVa + s.packageOf c * c.image.resumeBytes c.image.requested

/-- The number of the next capsule handed over: above every number in use. -/
def State.nextCapsule (s : State) : Nat := (s.capsules.map Prod.fst).foldl max 0 + 1

/-- A derived image is handed to admission through its parent's extents, in the parent's home queue (R197, R198). A record of its refusal carries
the number of the queue of the parent's entry (DESIGN CHOICE log 97). -/
def State.handDerived (s : State) (va n : Nat) : State :=
  let p := s.cap s.myCap
  let c : Capsule :=
    { Capsule.blank with
      image := { Image.empty with va, length := n }, owner := p.image.owner, queue := p.queue, home := p.home, derived := true, parent := s.myCap,
      mapping := p.image.extents, stage := .offered, entryDone := true }
  (s.addCount s.myCap 1).setCap s.nextCapsule c

/-- submit (R205): Checks a derived capsule image and hands it to admission. (DEDUCED log 51) Poison is reported at the lowest byte that holds it
(DESIGN CHOICE log 101). The record of a refusal carries the number of the
queue of the parent's entry (DESIGN CHOICE log 97). -/
def execSubmit (d a b : G) (s : State) : Result :=
  s.issueRelease ((useG (encR 0x3E 4 d a b) [d, a, b]).bar.ill (decide (s.role = 2))) fun s =>
    let va := (s.rg a).toNat
    let n := (s.rg b).toNat
    let c := s.cap s.myCap
    if va % 8 ≠ 0 then s.takeTrap causeAlign (s.rg a)
    else
      match s.unread c (va + n) va with
      | some (cause, x) => s.takeTrap cause (BitVec.ofNat 64 x)
      | none =>
        match s.poisonVa c.image.extents va n with
        | some x => s.memErr (BitVec.ofNat 64 x)
        | none =>
          let image := s.readVa c.image.extents va (min n (2 ^ 20 + 1))
          let code := submitCode image n c
          let s := s.wg d (BitVec.ofNat 64 code)
          if code = 0 then .next (s.handDerived va n).retire
          else .next (s.refusal c.image.owner c (capsuleId image) causeQueue code c.queue 0xFFFFFFFF).retire

/-- FETCH_FAULT (R34): A fetch at a PC outside every extent, or from an extent without X, faults EXTENT or RIGHTS at that address. -/
def execFetchFault (s : State) : Result :=
  match s.fetch with
  | .error cause => s.takeTrap cause s.fetchVa
  | .ok _ => .next s

/-- ILLEGAL_INSTRUCTION_WORD (R37): A fetched word whose op is 0x00, 0x7F or reserved, or whose selector is unassigned, traps ILLEGAL precisely. -/
def execIllegalInstructionWord (word : BitVec 32) (s : State) : Result :=
  s.takeTrap causeIllegal (word.setWidth 64)

end Sys2Proof.Machine
end

