-- ==== Sys2Proof/Machine/Queues.lean ====
section
/-! DEFINITION. The queue scanner (R157 to R161, R199 to R201). -/

namespace Sys2Proof.Machine

/-- The mapped queue with this number. -/
def State.queue? (s : State) (n : Nat) : Option Queue := s.queues.find? fun q => decide (q.desc.number = n)
/-- Replace a queue by its number. -/
def State.setQueue (s : State) (q : Queue) : State :=
  { s with queues := s.queues.map fun x => if x.desc.number = q.desc.number then q else x }

/-- An owner key of the table. -/
def State.key? (s : State) (id : Nat) : Option OwnerKey := s.keys.find? fun k => decide (k.desc.id = id)
/-- Change an owner key. -/
def State.setKey (s : State) (id : Nat) (f : OwnerKey → OwnerKey) : State :=
  { s with keys := s.keys.map fun k => if k.desc.id = id then f k else k }

/-- Whether an owner is barred (R201). -/
def State.barred (s : State) (id : Nat) : Bool :=
  match s.key? id with
  | some k => decide (k.limit ≤ k.guilt)
  | none => false

/-- A u32 of a queue's control block (R158). -/
def State.control (s : State) (q : Queue) (o : Nat) : Nat := s.bytes (handleKey q.desc.control + o) 4
/-- Write a u32 of a queue's control block, as a release at pod scope. -/
def State.setControl (s : State) (q : Queue) (o v : Nat) : State := s.ownWrite (handleKey q.desc.control + o) (toBytes 4 v)

/-- error(c) of R160: guilt, error slot, error code, the guilt field, and last the state. -/
def State.queueError (s : State) (q : Queue) (c : Nat) : State :=
  let s := s.setKey q.desc.owner fun k => { k with guilt := min (k.guilt + 1) (2 ^ 32 - 1) }
  let guilt := ((s.key? q.desc.owner).map OwnerKey.guilt).getD 0
  let s := (((s.setControl q 0x0C q.read).setControl q 0x14 c).setControl q 0x18 guilt).setControl q 0x08 1
  s.setQueue { q with state := .error }

/-- The length that a type fixes (R157). -/
def entryLength (type : Nat) : Nat := if type = 0 then 8 else 24

/-- The code of the error of an entry of 64 bytes; 0 when it is well formed (R160). -/
def entryError (d : QueueDesc) (e : List Byte) : Nat :=
  let type := fieldB e 0 1
  let flags := fieldB e 1 1
  if 4 ≤ type then 1
  else if fieldB e 4 4 ≠ entryLength type then 2
  else if 2 ≤ flags then 3
  else if 2 ≤ type ∧ fieldB e 12 4 ≠ 0 then 4
  else if 2 ≤ type ∧ d.timelineCount ≤ fieldB e 8 4 then 5
  else 0

/-- Whether an earlier CAPSULE entry of a queue is not complete (R157). The entries taken from an earlier mapping of the same queue number count as
earlier entries (DESIGN CHOICE log 80); a malformed entry that software steps past was never performed and does not count (DESIGN CHOICE
log 81). -/
def State.openEntry (s : State) (queue : Nat) : Bool :=
  s.capsules.any fun e => decide (e.2.queue = queue) && !e.2.derived && !e.2.entryDone

/-- The pre-empted capsule whose continuation firmware has published in the slot that a queue's scanner stands at, whose entry names its record (R175,
R210), whatever length it gives by now (R195); 0 for none. -/
def State.publishedIn (s : State) (q : Queue) (va : Nat) : Nat :=
  ((s.capsules.find? fun e =>
    decide (e.2.published = some (q.desc.number, q.read) ∧ s.resumeVaOf e.2 = va)).map Prod.fst).getD 0

/-- The slot of a published continuation has been taken. -/
def State.unpublish (s : State) (n : Nat) : State := if n = 0 then s else s.setCap n { s.cap n with published := none }

/-- An image is handed to admission from a queue (R160, R198), with the sequence number of its entry, which nothing shows (R157, DESIGN CHOICE
log 110). -/
def State.handImage (s : State) (q : Queue) (va n sequence : Nat) (order : Bool) : State :=
  let c : Capsule :=
    { Capsule.blank with
      image := { Image.empty with va, length := n }, owner := q.desc.owner, queue := q.desc.number, home := q.desc.number, mapping := q.desc.mapping,
      order, slot := q.read, sequence, stage := .offered, resumes := s.publishedIn q va }
  (s.unpublish c.resumes).setCap s.nextCapsule c

/-- The key of a timeline of a queue (R199). -/
def timelineKey (d : QueueDesc) (id : Nat) : Nat := handleKey d.timelines + 8 * id

/-- The key of the timeline that a WAIT or SIGNAL entry names (R157). -/
def entryTimeline (q : Queue) (e : List Byte) : Nat := timelineKey q.desc (fieldB e 8 4)

/-- Whether an entry names a timeline that the scanner cannot read (R213). -/
def State.timelinePoisoned (s : State) (q : Queue) (e : List Byte) : Bool := decide (2 ≤ fieldB e 0 1) && s.poisoned (entryTimeline q e) 8

/-- Whether an entry waits for the completion of those before it (R157, R160). -/
def State.orderWaits (s : State) (q : Queue) (e : List Byte) : Bool := decide (fieldB e 1 1 % 2 = 1) && s.openEntry q.desc.number

/-- What a well-formed entry does; none where the visit stops before it (R160). -/
def State.performEntry (s : State) (q : Queue) (e : List Byte) : Option State :=
  let type := fieldB e 0 1
  let order := decide (fieldB e 1 1 % 2 = 1)
  let k := entryTimeline q e
  if s.orderWaits q e then none
  else if s.timelinePoisoned q e then none
  else if type = 0 then some s
  else if type = 1 then some (s.handImage q (fieldB e 8 8) (fieldB e 16 8) (fieldB e 2 2) order)
  else if type = 2 then (if (s.mem64 k).toNat < fieldB e 16 8 then none else some s)
  else some (s.ownWrite k (toBytes 8 (s.mem64 k + dwordB e 16).toNat))

/-- Take entries while there are any, at most fuel of them (R160, R200). A slot or timeline that the scanner cannot read, on a poisoned line or in a
failed CXL set (R213, R230), ends the visit before its entry (DESIGN CHOICE log 94), and a MAC that failed there is marked (R237, DESIGN CHOICE
log 88). -/
def State.scanEntries (w : Nat) : Nat → Queue → State → State
  | 0, _, s => s
  | fuel + 1, q, s =>
    if q.read = w then s
    else
      let k := handleKey q.desc.slotsBase + 64 * q.read
      let e := s.byteList k 64
      let c := entryError q.desc e
      if s.poisoned k 64 then s.logForgery k 64
      else if c ≠ 0 then s.queueError q c
      else
        match s.performEntry q e with
        | none => if s.timelinePoisoned q e && !s.orderWaits q e then s.logForgery (entryTimeline q e) 8 else s
        | some s =>
          let q := { q with read := (q.read + 1) % q.desc.slots }
          State.scanEntries w fuel q ((s.setQueue q).setControl q 0x04 q.read)

/-- Scan a queue in RUN (R160); of a barred owner's queue no entry is taken (R201). -/
def State.scan (s : State) (q : Queue) : State :=
  let w := s.control q 0x00
  if s.barred q.desc.owner then s
  else if q.desc.slots ≤ w then s.queueError q 6
  else State.scanEntries w 64 q s

/-- A visit to a queue in ERROR (R161): restart 1 is taken or refused, any other value is cleared. -/
def State.restartVisit (s : State) (q : Queue) : State :=
  let r := s.control q 0x10
  if r = 0 then s
  else if r ≠ 1 then s.setControl q 0x10 0
  else
    let i := s.control q 0x04
    if s.barred q.desc.owner then (s.setControl q 0x14 8).setControl q 0x10 0
    else if q.desc.slots ≤ i then (s.setControl q 0x14 7).setControl q 0x10 0
    else
      let q := { q with read := i, state := .run }
      (((s.setQueue q).setControl q 0x08 0).setControl q 0x10 0).scan q

/-- SCANNER_VISIT (R160): The queue scanner visits a mapped queue and performs, hands over or rejects its entries. A control block that it cannot read
ends the visit (DESIGN CHOICE log 94). -/
def execScannerVisit (queue : Nat) (s : State) : Result :=
  match s.queue? queue with
  | none => .next s
  | some q =>
    let control := handleKey q.desc.control
    if s.poisoned control 32 then .next (s.logForgery control 32)
    else
    match q.state with
    | .stopped => .next s
    | .error => .next (s.restartVisit q)
    | .run => .next ((if s.control q 0x10 = 0 then s else s.setControl q 0x10 0).scan q)

end Sys2Proof.Machine
end

