-- ==== Sys2Proof/Machine/Admission.lean ====
section
/-! DEFINITION. Admission: steps 1 to 13 of R193 for images and continuations (R195), and the refusals of R194. -/

namespace Sys2Proof.Machine

/-- The key of a virtual range that lies wholly in one extent of a list (R193 step 1). -/
def mappedKey (l : List Extent) (va n : Nat) : Option Nat :=
  match findExtent l va with
  | none => none
  | some i =>
    match l[i]? with
    | none => none
    | some e => if va + n ≤ e.vaBase + e.length then some (extentKey e va) else none

/-- The bytes of an image that lies wholly in one mapping extent and can be read (DESIGN CHOICE log 94); at most 1 MiB and a byte, which no check
passes. -/
def State.imageBytes (s : State) (l : List Extent) (va n : Nat) : Option (List Byte) :=
  (mappedKey l va n).bind fun k => if s.poisoned k n then none else some (s.byteList k (min n (2 ^ 20 + 1)))

/-! ### Resume records -/

/-- The header of a resume record (R206). -/
structure RecordHeader where
  flags : Nat
  id : Word
  imageVa : Nat
  imageLength : Nat
  contexts : Nat
  reportIndex : Nat
  clusters : Nat
  package : Nat
  outstanding : Nat
  runTime : Nat
  deriving DecidableEq, Repr

/-- Whether 64 bytes begin a resume record (R206). -/
def isRecord (b : List Byte) : Bool := decide (fieldB b 0 4 = 0x53525250)

/-- The fields of a resume record's header (R206). -/
def parseRecord (b : List Byte) : RecordHeader :=
  ⟨fieldB b 6 2, dwordB b 8, fieldB b 0x10 8, fieldB b 0x18 4, fieldB b 0x1C 4, fieldB b 0x20 4, fieldB b 0x24 2,
   fieldB b 0x26 2, fieldB b 0x30 8, fieldB b 0x38 8⟩

/-- Where the tail of a record begins: after the cluster blocks and the die-SRAM slices (R206). -/
def recordTail (i : Image) (c : Nat) : Nat := 0x700000 * c + i.dsramKib * 1024 * i.dies

/-- The MAC of the record at a key (R208): over the capsule digest and every byte but those of the MAC itself. -/
def State.recordMac (s : State) (digest k tail : Nat) : Nat :=
  Config.resumeMac s.mgmt.powerCount digest (sclear tail 64 (sslice k (tail + 4096) s.mem)) (tail + 4096) % 2 ^ 512

/-- Whether the record at a key verifies (R208). -/
def State.recordVerifies (s : State) (digest k tail : Nat) : Bool := decide (s.bytes (k + tail) 64 = s.recordMac digest k tail)

/-! ### The checks -/

/-- Step 3: the key, present, not revoked, and the owner asked for. -/
def State.ownerKey (s : State) (i : Image) (owner : Nat) : Option OwnerKey :=
  match s.key? i.owner with
  | none => none
  | some k => if k.revoked || decide (i.owner ≠ owner) then none else some k

/-- Step 5 for a sealed image: not derived, and the seal verifies (R186). -/
def sealOk (b : List Byte) (i : Image) (k : OwnerKey) : Bool :=
  decide (bits i.flags 1 1 = 0) && Config.sealVerifies k.desc.publicKey (b.take (layoutOf b).sealAt) (b.drop (layoutOf b).sealAt)

/-- The physical key of the code range (R187). -/
def codeKey (i : Image) : Nat :=
  match (findExtent i.extents i.codeVa).bind fun n => i.extents[n]? with
  | some e => extentKey e i.codeVa
  | none => 0

/-- Step 9: the code digest, from the cache of verified ranges or by hashing (R187). -/
def State.digestOk (s : State) (i : Image) : Bool :=
  s.codeCache.contains (i.owner, codeKey i, i.codeLength, i.codeDigest) ||
  (!s.poisoned (codeKey i) i.codeLength && decide (Config.shake256 (s.byteList (codeKey i) i.codeLength) 32 = i.codeDigest))

/-- A verified range goes to the front of the cache, which keeps 256 (R187). -/
def State.cacheCode (s : State) (i : Image) : State :=
  let e := (i.owner, codeKey i, i.codeLength, i.codeDigest)
  { s with codeCache := (e :: s.codeCache.filter fun x => decide (x ≠ e)).take 256 }

/-- The first index of a list that fails a check, as a record's extent index. -/
def badIndex (l : List Extent) (ok : Extent → Bool) : Nat := (l.findIdx? fun e => !ok e).getD 0xFFFFFFFF

/-- The extent that the record of a refusal at step 6 names: the malformed one, or, where only an overlap fails, one of the extents,
which the rule does not say (R194, DESIGN CHOICE log 41). -/
def step6Index (cxl : Nat) (l : List Extent) : Nat :=
  (l.findIdx? fun e => !extentOk cxl e).getD (Config.overlapNamed (l.map fun e => (e.vaBase, e.length)) % l.length)

/-- The extent that the record of a refusal at step 8 names: the one that holds the code range, if one does (R194). -/
def step8Index (i : Image) : Nat :=
  if inOneExtent i.extents i.codeVa i.codeLength 0 0 then (findExtent i.extents i.codeVa).getD 0xFFFFFFFF else 0xFFFFFFFF

/-- Steps 6 to 13: the refusal code with the extent it names, or none (R193). -/
def State.laterSteps (s : State) (b : List Byte) (i : Image) (k : KeyDesc) : Option (Nat × Nat) :=
  let cxl := s.mgmt.cxlCapacity
  if !extentsOk cxl i.extents then some (6, step6Index cxl i.extents)
  else if !i.extents.all (extentGranted k) then some (7, badIndex i.extents (extentGranted k))
  else if !codeOk i then some (8, step8Index i)
  else if !s.digestOk i then some (9, 0xFFFFFFFF)
  else if !tablesOk b i then some (10, 0xFFFFFFFF)
  else if !areasOk i then some (11, 0xFFFFFFFF)
  else if !footprintOk s.saggarWidth s.mgmt.usableDies i then some (12, 0xFFFFFFFF)
  else if !sramOk i then some (13, 0xFFFFFFFF)
  else none

/-- What refuses a gang or a late capsule at once: no PTP lock, a start tick that has passed, or a continuation whose deadline
has passed (R191, R192, R228). -/
def State.lateCode (s : State) (i : Image) (continuation : Bool) : Option Nat :=
  if bits i.flags 2 2 = 1 ∧ !s.mgmt.locked then some 15
  else if bits i.flags 2 2 = 1 ∧ !continuation ∧ i.gangStart ≤ s.podTick then some 15
  else if continuation ∧ i.deadline ≠ 0 ∧ i.deadline ≤ s.podTick then some 14
  else none

/-- Step 5 (R193): R186 for a sealed image, the rules of R197 for a derived one; a continuation of a derived image has no seal,
and its record's MAC stands for it (R195). -/
def State.sealStep (s : State) (c : Capsule) (b : List Byte) (i : Image) (k : OwnerKey) (continuation : Bool) : Bool :=
  if c.derived then derivedOk b i (s.cap c.parent)
  else (continuation && decide (bits i.flags 1 1 = 1)) || sealOk b i k

/-- The refusal of a continuation's record: its MAC does not verify (R195, R208). -/
def State.macBad (s : State) (b : List Byte) (i : Image) : Option (RecordHeader × Nat × Nat) → Bool
  | some (h, key, _) => !s.recordVerifies (capsuleDigest b) key (recordTail i h.clusters)
  | none => false

/-- Steps 3 to 13 (R193); a continuation's MAC is checked once its seal has been (R195, DESIGN CHOICE log 32). -/
def State.afterHeader (s : State) (c : Capsule) (b : List Byte) (i : Image) (record : Option (RecordHeader × Nat × Nat)) :
    Option (Nat × Nat) :=
  match s.ownerKey i c.owner with
  | none => some (3, 0xFFFFFFFF)
  | some k =>
    if s.barred i.owner then some (4, 0xFFFFFFFF)
    else if !s.sealStep c b i k record.isSome then some (5, 0xFFFFFFFF)
    else if s.macBad b i record then some (16, 0xFFFFFFFF)
    else
      match s.laterSteps b i k.desc with
      | some r => some r
      | none => (s.lateCode i record.isSome).map fun x => (x, 0xFFFFFFFF)

/-- Whether the length that an entry gives is that of the record it names (R195, R206). -/
def recordLengthOk (i : Image) : Option (RecordHeader × Nat × Nat) → Bool
  | some (h, _, length) => decide (length = recordTail i h.clusters + 4096)
  | none => true

/-- Steps 2 to 13 for an image of n bytes (R193): the first code that fails, with the extent it names. -/
def State.checkImage (s : State) (c : Capsule) (b : List Byte) (va n : Nat) (record : Option (RecordHeader × Nat × Nat)) :
    Option (Nat × Nat) :=
  let i := parseImage b va
  if !headerOk b n || !recordLengthOk i record then some (2, 0xFFFFFFFF) else s.afterHeader c b i record

/-! ### ADMISSION -/

/-- A capsule, and those that it resumes, one after the other, at most so many of them. -/
def State.line (s : State) : Nat → Nat → List Nat
  | 0, n => [n]
  | fuel + 1, n => if (s.cap n).resumes = 0 then [n] else n :: State.line s fuel (s.cap n).resumes

/-- The capsule that a chain of continuations began with: the capsule itself where it resumes none. -/
def State.firstOf (s : State) (n : Nat) : Nat := (s.line s.capsules.length n).getLastD n

/-- The entries of a capsule are complete, and so are those of the capsule that its chain began with and of every continuation of that, also of another
chain from a record that was admitted twice (R157, R208). (DEDUCED log 55) -/
def State.closeEntries (s : State) (n : Nat) : State :=
  { s with capsules := s.capsules.map fun e => if s.firstOf e.1 = s.firstOf n then (e.1, { e.2 with entryDone := true }) else e }

/-- Whether the record that a saved capsule left lies whole at a key: a record begins there, and ends with the capsule's MAC (R206, R208). What cannot be
read tells nothing (R213). -/
def State.recordOfAt (s : State) (c : Capsule) (k : Nat) : Bool :=
  let mac := k + c.recordLength - 4096
  decide (4096 ≤ c.recordLength) && !s.poisoned k 64 && !s.poisoned mac 64 && isRecord (s.byteList k 64) &&
  c.snap.any fun x => decide (s.bytes mac 64 = x.tag)

/-- The pre-empted capsule that an entry continues (R157): the owner's whose record lies where the entry says, whatever length the entry gives (R195);
where none does, the one whose continuation firmware has published in the entry's slot, if any; 0 for none. (DEDUCED log 55) -/
def State.resumedBy (s : State) (c : Capsule) : Nat :=
  let here := fun (e : Nat × Capsule) => (mappedKey c.mapping c.image.va e.2.recordLength).any (s.recordOfAt e.2)
  let saved := s.capsules.filter fun e => decide (e.2.image.owner = c.owner) && here e
  let byRecord := saved.foldl (fun best e => max best e.1) 0
  if byRecord = 0 then c.resumes else byRecord

/-- A capsule is refused (R194): the record, its entry complete, nothing of it left. The record goes to the ring of the key that owns the queue, or of the
parent, also where the image names another key (DESIGN CHOICE log 115). -/
def State.refuse (s : State) (n : Nat) (id : Word) (code extent : Nat) : State :=
  let c := s.cap n
  let s := s.refusal c.owner c id causeQueue code c.queue extent
  (s.setCap n { c with id, stage := .ended, refusal := some code }).closeEntries n

/-- The capsules in whose counts the unit of a derived image stands: its parent, and every continuation that has taken up the parent's count (R197). -/
def State.parents (s : State) (c : Capsule) : List Nat :=
  (s.capsules.filter fun e =>
    decide (e.1 = c.parent) || (e.2.continuation && (s.line s.capsules.length e.1).contains c.parent)).map Prod.fst

/-- A derived image has been read: its unit leaves its parent's count (R197). -/
def State.parentRead (s : State) (c : Capsule) : State :=
  if c.derived then (s.parents c).foldl (fun acc n => State.subCount acc n 1) s else s

/-- The bytes and the record of what a capsule's entry names (R193 step 1, R195): an image, or a resume record with the original
image through the same mapping. What lies on a poisoned line or in a failed CXL set is not readable (R213, R230, DESIGN CHOICE log 94). -/
def State.readEntry (s : State) (c : Capsule) : Option (List Byte × Nat × Nat × Option (RecordHeader × Nat × Nat)) :=
  let va := c.image.va
  let n := c.image.length
  if c.derived then
    let n' := min n (2 ^ 20 + 1)
    if (s.poisonVa c.mapping va n').isSome then none else some (s.readVa c.mapping va n', va, n, none)
  else
    match mappedKey c.mapping va n with
    | none => none
    | some k =>
      let head := s.byteList k 64
      if s.poisoned k n then none
      else if isRecord head && decide (64 ≤ n) then
        let h := parseRecord head
        (s.imageBytes c.mapping h.imageVa h.imageLength).map fun b => (b, h.imageVa, h.imageLength, some (h, k, n))
      else some (s.byteList k (min n (2 ^ 20 + 1)), va, n, none)

/-- The entry is known as one that continues a pre-empted capsule, or as none (R157, R195): by the record that it names, or by its slot. -/
def State.linkEntry (s : State) (n : Nat) (c : Capsule) : State := if c.derived then s else s.setCap n { c with resumes := s.resumedBy c }

/-- The lines that admission reads for an entry, as keys and lengths: the image or record, and the image that a record names where the record can be
read. -/
def State.entryLines (s : State) (c : Capsule) : List (Nat × Nat) :=
  let va := c.image.va
  let n := c.image.length
  if c.derived then
    match (s.poisonVa c.mapping va (min n (2 ^ 20 + 1))).bind (fun a => mappedKey c.mapping a 1) with
    | some k => [(k, 1)]
    | none => []
  else
    match mappedKey c.mapping va n with
    | none => []
    | some k =>
      let h := parseRecord (s.byteList k 64)
      (k, n) :: (if isRecord (s.byteList k 64) && !s.poisoned k n then
        ((mappedKey c.mapping h.imageVa h.imageLength).map fun x => (x, h.imageLength)).toList else [])

/-- A line whose MAC fails as admission reads it is marked in the error log (R237, DESIGN CHOICE log 88). -/
def State.logEntry (s : State) (c : Capsule) : State := (s.entryLines c).foldl (fun acc r => State.logForgery acc r.1 r.2) s

/-- The units of derived images that left a saved capsule's count after its record was written, since admission has read them (R197). -/
def Capsule.unitsRead (c : Capsule) : Nat := (c.snap.map fun x => x.outstanding - c.outstanding).getD 0

/-- The ready notices that came for a gang before this member was admitted are its own now, on package 0 (R192). -/
def State.takeNotices (s : State) (n : Nat) : State :=
  let c := s.cap n
  let mine := s.mgmt.notices.filter fun e => decide (e.1 = c.digest)
  let packages := (mine.map Prod.snd).filter fun p => decide (p < c.image.packages ∧ p ≠ 0 ∧ s.packageOf c = 0)
  let s := { s with mgmt := { s.mgmt with notices := s.mgmt.notices.filter fun e => decide (e.1 ≠ c.digest) } }
  if packages.isEmpty then s else s.setCap n { c with notices := packages }

/-- A capsule that passed its checks waits for placement (R193 step 14). -/
def State.takeIn (s : State) (n : Nat) (b : List Byte) (va : Nat) (record : Option (RecordHeader × Nat × Nat)) : State :=
  let entry := (s.cap n).image.va
  let i := parseImage b va
  let c := { s.cap n with id := capsuleId b, digest := capsuleDigest b, image := i, stage := .placing }
  let c := match record with
    | none => c
    | some (h, _, length) =>
      { c with continuation := true, recordVa := entry, recordLength := length,
               outstanding := h.outstanding - (s.cap c.resumes).unitsRead, reportIndex := h.reportIndex, runTime := h.runTime }
  ((s.setCap n c).takeNotices n).cacheCode i

/-- ADMISSION (R193): Admission reads and checks a capsule image or resume record, refusing it with a code on failure. No capsule
is admitted before the last stage of bring-up (R231). (DESIGN CHOICE log 11) -/
def execAdmission (n : Nat) (s : State) : Result :=
  let c := s.cap n
  if c.stage ≠ .offered ∨ s.mgmt.stage ≠ 6 then .next s
  else
    let s := s.parentRead c
    let s := (s.linkEntry n c).logEntry c
    match s.readEntry c with
    | none => .next (s.refuse n 0 1 0xFFFFFFFF)
    | some (b, va, len, record) =>
      match s.checkImage c b va len record with
      | some (code, extent) =>
        let i := parseImage b va
        let s := if code = 9 then s.logForgery (codeKey i) i.codeLength else s
        .next (s.refuse n (capsuleId b) code extent)
      | none => .next (s.takeIn n b va record)

end Sys2Proof.Machine
end

