-- ==== Sys2Proof/Machine/Alu.lean ====
section
/-! DEFINITION. The ALU group, the immediate and shift forms, lui, adpc and the bit-field instructions (R49 to R53). -/

namespace Sys2Proof.Machine

/-! ### Values -/

/-- A truth value as a register value. -/
def flagW (b : Bool) : Word := if b then 1 else 0
/-- The signed quotient of R49: all ones for a zero divisor; the overflowing quotient wraps. -/
def divW (x y : Word) : Word := if y = 0 then BitVec.allOnes 64 else BitVec.ofInt 64 (Int.tdiv x.toInt y.toInt)
/-- The signed remainder of R49. -/
def remW (x y : Word) : Word := if y = 0 then x else BitVec.ofInt 64 (Int.tmod x.toInt y.toInt)
/-- The unsigned quotient of R49. -/
def divuW (x y : Word) : Word := if y = 0 then BitVec.allOnes 64 else BitVec.ofNat 64 (x.toNat / y.toNat)
/-- The unsigned remainder of R49. -/
def remuW (x y : Word) : Word := if y = 0 then x else BitVec.ofNat 64 (x.toNat % y.toNat)
/-- Bits 127:64 of a product (R49). -/
def highW (p : Int) : Word := BitVec.ofInt 64 (p / 2 ^ 64)
/-- The number of leading zero bits among the low n bits. -/
def clzN : Nat → Nat → Nat
  | 0, _ => 0
  | n + 1, x => if x.testBit n then 0 else 1 + clzN n x
/-- The number of trailing zero bits among n bits. -/
def ctzN : Nat → Nat → Nat
  | 0, _ => 0
  | n + 1, x => if x % 2 = 1 then 0 else 1 + ctzN n (x / 2)
/-- The number of one bits among n bits. -/
def popN : Nat → Nat → Nat
  | 0, _ => 0
  | n + 1, x => x % 2 + popN n (x / 2)
/-- The low n bits in reversed order. -/
def brevN : Nat → Nat → Nat
  | 0, _ => 0
  | n + 1, x => x % 2 * 2 ^ n + brevN n (x / 2)
/-- The low n bytes in reversed order. -/
def bswapN : Nat → Nat → Nat
  | 0, _ => 0
  | n + 1, x => x % 256 * 256 ^ n + bswapN n (x / 256)
/-- The shift distance y AND 63 (R49). -/
def shamt (y : Word) : Nat := y.toNat % 64
/-- The smaller and larger of two words as signed and as unsigned integers. -/
def minW (x y : Word) : Word := if x.slt y then x else y
def maxW (x y : Word) : Word := if x.slt y then y else x
def minuW (x y : Word) : Word := if x.ult y then x else y
def maxuW (x y : Word) : Word := if x.ult y then y else x
/-- The field x[lsb + w − 1 : lsb] (R53). -/
def fieldW (x : Word) (lsb w : Nat) : Nat := x.toNat / 2 ^ lsb % 2 ^ w
/-- x with bits lsb + w − 1 : lsb replaced by the low w bits of y (R53). -/
def insertW (x y : Word) (lsb w : Nat) : Word :=
  let mask : Word := BitVec.ofNat 64 ((2 ^ w - 1) * 2 ^ lsb)
  (x &&& ~~~mask) ||| ((y <<< lsb) &&& mask)

/-! ### Forms -/

/-- d, a, b: g[d] receives a value of g[a] and g[b] (R49). -/
def State.alu3 (s : State) (word : Nat) (d a b : G) (f : Word → Word → Word) : Result :=
  s.putG word [a, b] d fun s => f (s.rg a) (s.rg b)
/-- d, a: g[d] receives a value of g[a] (R49 unary, R50, R51). -/
def State.alu2 (s : State) (word : Nat) (d a : G) (f : Word → Word) : Result :=
  s.putG word [a] d fun s => f (s.rg a)

/-! ### Meanings -/

/-- add (R49): Writes the 64-bit sum of g[a] and g[b] to g[d]. -/
def execAdd (d a b : G) (s : State) : Result :=
  s.alu3 (encR 0x01 0x00 d a b) d a b fun x y => x + y

/-- sub (R49): Writes g[a] minus g[b], modulo 2^64, to g[d]. -/
def execSub (d a b : G) (s : State) : Result :=
  s.alu3 (encR 0x01 0x01 d a b) d a b fun x y => x - y

/-- and (R49): Writes the bitwise AND of g[a] and g[b] to g[d]. -/
def execAnd (d a b : G) (s : State) : Result :=
  s.alu3 (encR 0x01 0x02 d a b) d a b fun x y => x &&& y

/-- or (R49): Writes the bitwise OR of g[a] and g[b] to g[d]. -/
def execOr (d a b : G) (s : State) : Result :=
  s.alu3 (encR 0x01 0x03 d a b) d a b fun x y => x ||| y

/-- xor (R49): Writes the bitwise XOR of g[a] and g[b] to g[d]. -/
def execXor (d a b : G) (s : State) : Result :=
  s.alu3 (encR 0x01 0x04 d a b) d a b fun x y => x ^^^ y

/-- andn (R49): Writes g[a] AND NOT g[b] to g[d]. -/
def execAndn (d a b : G) (s : State) : Result :=
  s.alu3 (encR 0x01 0x05 d a b) d a b fun x y => x &&& ~~~y

/-- orn (R49): Writes g[a] OR NOT g[b] to g[d]. -/
def execOrn (d a b : G) (s : State) : Result :=
  s.alu3 (encR 0x01 0x06 d a b) d a b fun x y => x ||| ~~~y

/-- sll (R49): Shifts g[a] left by g[b] AND 63 and writes the result to g[d]. -/
def execSll (d a b : G) (s : State) : Result :=
  s.alu3 (encR 0x01 0x08 d a b) d a b fun x y => x <<< shamt y

/-- srl (R49): Shifts g[a] right logically by g[b] AND 63 and writes the result to g[d]. -/
def execSrl (d a b : G) (s : State) : Result :=
  s.alu3 (encR 0x01 0x09 d a b) d a b fun x y => x >>> shamt y

/-- sra (R49): Shifts g[a] right arithmetically by g[b] AND 63 and writes the result to g[d]. -/
def execSra (d a b : G) (s : State) : Result :=
  s.alu3 (encR 0x01 0x0A d a b) d a b fun x y => x.sshiftRight (shamt y)

/-- rol (R49): Rotates g[a] left by g[b] AND 63 and writes the result to g[d]. -/
def execRol (d a b : G) (s : State) : Result :=
  s.alu3 (encR 0x01 0x0B d a b) d a b fun x y => x.rotateLeft (shamt y)

/-- ror (R49): Rotates g[a] right by g[b] AND 63 and writes the result to g[d]. -/
def execRor (d a b : G) (s : State) : Result :=
  s.alu3 (encR 0x01 0x0C d a b) d a b fun x y => x.rotateRight (shamt y)

/-- slt (R49): Writes 1 to g[d] if g[a] is less than g[b] as signed integers, else 0. -/
def execSlt (d a b : G) (s : State) : Result :=
  s.alu3 (encR 0x01 0x10 d a b) d a b fun x y => flagW (x.slt y)

/-- sltu (R49): Writes 1 to g[d] if g[a] is less than g[b] as unsigned integers, else 0. -/
def execSltu (d a b : G) (s : State) : Result :=
  s.alu3 (encR 0x01 0x11 d a b) d a b fun x y => flagW (x.ult y)

/-- seq (R49): Writes 1 to g[d] if g[a] equals g[b], else 0. -/
def execSeq (d a b : G) (s : State) : Result :=
  s.alu3 (encR 0x01 0x12 d a b) d a b fun x y => flagW (x == y)

/-- sne (R49): Writes 1 to g[d] if g[a] differs from g[b], else 0. -/
def execSne (d a b : G) (s : State) : Result :=
  s.alu3 (encR 0x01 0x13 d a b) d a b fun x y => flagW (x != y)

/-- min (R49): Writes the smaller of g[a] and g[b], as signed integers, to g[d]. -/
def execMin (d a b : G) (s : State) : Result :=
  s.alu3 (encR 0x01 0x14 d a b) d a b fun x y => minW x y

/-- max (R49): Writes the larger of g[a] and g[b], as signed integers, to g[d]. -/
def execMax (d a b : G) (s : State) : Result :=
  s.alu3 (encR 0x01 0x15 d a b) d a b fun x y => maxW x y

/-- minu (R49): Writes the smaller of g[a] and g[b], as unsigned integers, to g[d]. -/
def execMinu (d a b : G) (s : State) : Result :=
  s.alu3 (encR 0x01 0x16 d a b) d a b fun x y => minuW x y

/-- maxu (R49): Writes the larger of g[a] and g[b], as unsigned integers, to g[d]. -/
def execMaxu (d a b : G) (s : State) : Result :=
  s.alu3 (encR 0x01 0x17 d a b) d a b fun x y => maxuW x y

/-- mul (R49): Writes the low 64 bits of the product of g[a] and g[b] to g[d]. -/
def execMul (d a b : G) (s : State) : Result :=
  s.alu3 (encR 0x01 0x20 d a b) d a b fun x y => x * y

/-- mulh (R49): Writes the high 64 bits of the signed product of g[a] and g[b] to g[d]. -/
def execMulh (d a b : G) (s : State) : Result :=
  s.alu3 (encR 0x01 0x21 d a b) d a b fun x y => highW (x.toInt * y.toInt)

/-- mulhu (R49): Writes the high 64 bits of the unsigned product of g[a] and g[b] to g[d]. -/
def execMulhu (d a b : G) (s : State) : Result :=
  s.alu3 (encR 0x01 0x22 d a b) d a b fun x y => highW (x.toNat * y.toNat)

/-- mulhsu (R49): Writes the high 64 bits of signed g[a] times unsigned g[b] to g[d]. -/
def execMulhsu (d a b : G) (s : State) : Result :=
  s.alu3 (encR 0x01 0x23 d a b) d a b fun x y => highW (x.toInt * y.toNat)

/-- div (R49): Writes the signed quotient of g[a] by g[b] to g[d], with fixed results for zero and overflow cases. -/
def execDiv (d a b : G) (s : State) : Result :=
  s.alu3 (encR 0x01 0x24 d a b) d a b fun x y => divW x y

/-- divu (R49): Writes the unsigned quotient of g[a] by g[b] to g[d], or all ones when g[b] is zero. -/
def execDivu (d a b : G) (s : State) : Result :=
  s.alu3 (encR 0x01 0x25 d a b) d a b fun x y => divuW x y

/-- rem (R49): Writes the signed remainder of g[a] by g[b] to g[d]. -/
def execRem (d a b : G) (s : State) : Result :=
  s.alu3 (encR 0x01 0x26 d a b) d a b fun x y => remW x y

/-- remu (R49): Writes the unsigned remainder of g[a] by g[b] to g[d]. -/
def execRemu (d a b : G) (s : State) : Result :=
  s.alu3 (encR 0x01 0x27 d a b) d a b fun x y => remuW x y

/-- clz (R49): Writes the number of leading zero bits of g[a] to g[d]. -/
def execClz (d a : G) (s : State) : Result :=
  s.alu2 (encR 0x01 0x30 d a 0) d a fun x => BitVec.ofNat 64 (clzN 64 x.toNat)

/-- ctz (R49): Writes the number of trailing zero bits of g[a] to g[d]. -/
def execCtz (d a : G) (s : State) : Result :=
  s.alu2 (encR 0x01 0x31 d a 0) d a fun x => BitVec.ofNat 64 (ctzN 64 x.toNat)

/-- popc (R49): Writes the number of one bits of g[a] to g[d]. -/
def execPopc (d a : G) (s : State) : Result :=
  s.alu2 (encR 0x01 0x32 d a 0) d a fun x => BitVec.ofNat 64 (popN 64 x.toNat)

/-- brev (R49): Writes g[a] with its bit order reversed to g[d]. -/
def execBrev (d a : G) (s : State) : Result :=
  s.alu2 (encR 0x01 0x33 d a 0) d a fun x => BitVec.ofNat 64 (brevN 64 x.toNat)

/-- bswap (R49): Writes g[a] with its byte order reversed to g[d]. -/
def execBswap (d a : G) (s : State) : Result :=
  s.alu2 (encR 0x01 0x34 d a 0) d a fun x => BitVec.ofNat 64 (bswapN 8 x.toNat)

/-- sext.b (R49): Writes the low byte of g[a], sign-extended, to g[d]. -/
def execSextB (d a : G) (s : State) : Result :=
  s.alu2 (encR 0x01 0x38 d a 0) d a fun x => sext 8 x.toNat

/-- sext.h (R49): Writes the low 16 bits of g[a], sign-extended, to g[d]. -/
def execSextH (d a : G) (s : State) : Result :=
  s.alu2 (encR 0x01 0x39 d a 0) d a fun x => sext 16 x.toNat

/-- sext.w (R49): Writes the low 32 bits of g[a], sign-extended, to g[d]. -/
def execSextW (d a : G) (s : State) : Result :=
  s.alu2 (encR 0x01 0x3A d a 0) d a fun x => sext 32 x.toNat

/-- zext.w (R49): Writes the low 32 bits of g[a], zero-extended, to g[d]. -/
def execZextW (d a : G) (s : State) : Result :=
  s.alu2 (encR 0x01 0x3B d a 0) d a fun x => (x.setWidth 32).setWidth 64

/-- addi (R50): Writes g[a] plus the sign-extended 13-bit immediate to g[d]. -/
def execAddi (d a : G) (imm : BitVec 13) (s : State) : Result :=
  s.alu2 (encI 0x02 imm.toNat d a) d a fun x => x + imm.signExtend 64

/-- andi (R50): Writes g[a] AND the sign-extended immediate to g[d]. -/
def execAndi (d a : G) (imm : BitVec 13) (s : State) : Result :=
  s.alu2 (encI 0x03 imm.toNat d a) d a fun x => x &&& imm.signExtend 64

/-- ori (R50): Writes g[a] OR the sign-extended immediate to g[d]. -/
def execOri (d a : G) (imm : BitVec 13) (s : State) : Result :=
  s.alu2 (encI 0x04 imm.toNat d a) d a fun x => x ||| imm.signExtend 64

/-- xori (R50): Writes g[a] XOR the sign-extended immediate to g[d]. -/
def execXori (d a : G) (imm : BitVec 13) (s : State) : Result :=
  s.alu2 (encI 0x05 imm.toNat d a) d a fun x => x ^^^ imm.signExtend 64

/-- slti (R50): Writes 1 to g[d] if g[a] is less than the immediate as signed integers, else 0. -/
def execSlti (d a : G) (imm : BitVec 13) (s : State) : Result :=
  s.alu2 (encI 0x06 imm.toNat d a) d a fun x => flagW (x.slt (imm.signExtend 64))

/-- sltiu (R50): Writes 1 to g[d] if g[a] is less than the sign-extended immediate as unsigned integers, else 0. -/
def execSltiu (d a : G) (imm : BitVec 13) (s : State) : Result :=
  s.alu2 (encI 0x07 imm.toNat d a) d a fun x => flagW (x.ult (imm.signExtend 64))

/-- slli (R51): Shifts g[a] left by the immediate amount into g[d]. -/
def execSlli (d a : G) (amount : Fin 64) (s : State) : Result :=
  s.alu2 (encR 0x08 0 d a amount) d a fun x => x <<< amount.val

/-- srli (R51): Shifts g[a] right logically by the immediate amount into g[d]. -/
def execSrli (d a : G) (amount : Fin 64) (s : State) : Result :=
  s.alu2 (encR 0x08 1 d a amount) d a fun x => x >>> amount.val

/-- srai (R51): Shifts g[a] right arithmetically by the immediate amount into g[d]. -/
def execSrai (d a : G) (amount : Fin 64) (s : State) : Result :=
  s.alu2 (encR 0x08 2 d a amount) d a fun x => x.sshiftRight amount.val

/-- rori (R51): Rotates g[a] right by the immediate amount into g[d]. -/
def execRori (d a : G) (amount : Fin 64) (s : State) : Result :=
  s.alu2 (encR 0x08 3 d a amount) d a fun x => x.rotateRight amount.val

/-- lui (R52): Writes the sign-extended 19-bit immediate times 2^13 to g[d]. -/
def execLui (d : G) (imm : BitVec 19) (s : State) : Result :=
  s.putG (encU 0x09 imm.toNat d) [] d fun _ => imm.signExtend 64 <<< 13

/-- adpc (R52): Writes code VA plus PC plus the immediate times 2^13 to g[d]. -/
def execAdpc (d : G) (imm : BitVec 19) (s : State) : Result :=
  s.putG (encU 0x0A imm.toNat d) [] d fun s => s.fetchVa + imm.signExtend 64 <<< 13

/-- bfx (R53): Extracts a bit field of g[a] into g[d], sign- or zero-extended. -/
def execBfx (d a : G) (lsb wm1 : Fin 64) (sx : Bool) (s : State) : Result :=
  s.issue ((useG (encR 0x0B (wm1.val + 64 * sx.toNat) d a lsb) [d, a]).ill (decide (64 < lsb.val + wm1.val + 1))) fun s =>
    let f := fieldW (s.rg a) lsb (wm1.val + 1)
    .next (s.wg d (if sx then sext (wm1.val + 1) f else BitVec.ofNat 64 f)).retire

/-- bfi (R53): Inserts the low bits of g[a] into a bit field of g[d]. -/
def execBfi (d a : G) (lsb wm1 : Fin 64) (s : State) : Result :=
  s.issue ((useG (encR 0x0C wm1 d a lsb) [d, a]).ill (decide (64 < lsb.val + wm1.val + 1))) fun s =>
    .next (s.wg d (insertW (s.rg d) (s.rg a) lsb (wm1.val + 1))).retire

end Sys2Proof.Machine
end

