-- ==== Sys2Proof/Machine/Messages.lean ====
section
/-! DEFINITION. What the message instructions share: their targets and images (R138), operation payloads (R135), posted
numbers (R147) and requests that a REPLY answers (R137). -/

namespace Sys2Proof.Machine

/-! ### Locations (R138) -/

/-- Why a virtual address may not name a location that only a mesh address names: EXTENT outside every extent (R184), else RIGHTS (R138).
(DEDUCED log 52) -/
def State.virtualCause (s : State) (core : Nat) (a : Word) : Nat :=
  if bits a.toNat 62 57 ≠ 0 ∨ (findExtent (s.cap (s.capOf core)).image.extents a.toNat).isNone then causeExtent else causeRights

/-- A location that only a mesh address may name, of n bytes: ALIGN, EXTENT or MESHBOUND, then RIGHTS for a virtual address and outside the
allowed units and regions (R38, R138). -/
def State.meshOnly (s : State) (core : Nat) (a : Word) (n : Nat) (ok : Mesh → Bool) : Except Nat Mesh :=
  if a.toNat % 8 ≠ 0 then .error causeAlign
  else if a.toNat < 2 ^ 63 then .error (s.virtualCause core a)
  else
    match s.resolve core a n with
    | none => .error causeMeshbound
    | some m => if ok m then .ok m else .error causeRights

/-- A tagged word lies in unit 1 (R138). -/
def tagUnit (m : Mesh) : Bool := decide (m.unit = 1)
/-- A readiness word and the rate dword after it lie in the user region of a TCM (R117, R120). -/
def userTcm (m : Mesh) : Bool := decide (m.unit = 0 ∧ m.offset + 16 ≤ 0x39800)

/-- The readiness word that dec, arm, ready and a successor name: RIGHTS for every virtual address, as R117 has it for dec (DEDUCED log 52). -/
def State.readyTarget (s : State) (core : Nat) (a : Word) : Except Nat Mesh :=
  if a.toNat % 8 = 0 ∧ a.toNat < 2 ^ 63 then .error causeRights else s.meshOnly core a 8 userTcm

/-- The place of a resolved address as the issuing core reaches it. -/
def State.placeOf (s : State) (core : Nat) (m : Mesh) : Place :=
  (s.cap (s.capOf core)).placeFor (coordField (s.core core).coord 23 12) m

/-- The target core of a message: unit 0 of a footprint core, the offset ignored (R138). A core of a peer package is numbered
from coreCount on. -/
def State.targetCore (s : State) (core : Nat) (a : Word) : Except Nat Nat :=
  if a.toNat < 2 ^ 63 then .error (s.virtualCause core a)
  else
    match s.resolve core (BitVec.ofNat 64 (a.toNat / 2 ^ 35 * 2 ^ 35)) 1 with
    | none => .error causeMeshbound
    | some m =>
      if m.unit ≠ 0 then .error causeRights
      else if m.package ≠ coordField (s.core core).coord 23 12 then .ok (coreCount + m.package)
      else .ok ((s.cap (s.capOf core)).coreFor m)

/-- The lowest byte of a range of n bytes from an address that lies at or beyond an offset limit of its unit (R204). -/
def firstBeyond (a : Word) (offset limit : Nat) : Word := a + BitVec.ofNat 64 (limit - offset)

/-- The key of a message image of n bytes: in the issuing core's own TCM user region or its own cluster's scratchpad (R138). -/
def State.imageKey (s : State) (core : Nat) (a : Word) (n : Nat) : Except (Nat × Word) Nat :=
  if a.toNat % 8 ≠ 0 then .error (causeAlign, a)
  else if a.toNat < 2 ^ 63 then .error (s.virtualCause core a, a)
  else
    match s.resolve core a 1 with
    | none => .error (causeMeshbound, a)
    | some m =>
      let c := s.cap (s.capOf core)
      let here := decide (m.package = coordField (s.core core).coord 23 12)
      let size := unitSize c m.unit
      if size < m.offset + n then .error (causeMeshbound, firstBeyond a m.offset size)
      else if m.unit = 0 && here && decide (c.coreFor m = core) then
        (if m.offset + n ≤ 0x39800 then .ok (tcmKey core m.offset)
         else .error (causeRights, if m.offset < 0x39800 then firstBeyond a m.offset 0x39800 else a))
      else if m.unit = 1 && here && decide (c.clusterFor m = clusterOf core) then .ok (spadKey (clusterOf core) m.offset)
      else .error (causeRights, a)

/-! ### Building and sending -/

/-- The absolute mesh address of a footprint place of a core: its COORD with a unit and an offset (R11, R30). -/
def State.meshOf (s : State) (core unit offset : Nat) : Word :=
  BitVec.ofNat 64 (2 ^ 63 + (s.core core).coord.toNat % 2 ^ 24 * 2 ^ 38 + unit * 2 ^ 35 + offset)

/-- The reply window of the issuing thread's register d (R137). -/
def State.replyWindow (s : State) (d : Nat) : Word := s.meshOf (coreOf s.who) 4 (s.role * 64 + d)

/-- A message of the issuing thread. -/
def State.mkMsg (s : State) (kind target : Nat) (words : List (BitVec 32)) (body : List Byte) : Msg :=
  { kind, words, origin := s.originOf s.who, reply := 0, body, capsule := s.myCap, target, firing := s.me.firing,
    sender := coreOf s.who, code := s.me.pc, request := 0, number := 0, bounce := false, serial := 0, key := 0 }

/-- An operation payload (R135). -/
def opPayload (op fn size : Nat) (code target op1 op2 : Word) (number : Nat) : List Byte :=
  [BitVec.ofNat 8 op, BitVec.ofNat 8 fn, BitVec.ofNat 8 size, 0] ++ toBytes 4 code.toNat ++ toBytes 8 target.toNat ++
  toBytes 8 op1.toNat ++ toBytes 8 op2.toNat ++ toBytes 8 number ++ List.replicate 16 0

/-- The op byte and the fn byte of an operation payload. -/
def Msg.op (m : Msg) : Nat := fieldB m.body 0 1
def Msg.fn (m : Msg) : Nat := fieldB m.body 1 1
/-- The fields of an operation payload. -/
def Msg.size (m : Msg) : Nat := fieldB m.body 2 1
/-- The target as the issuer wrote it (R139), and as it was resolved at issue (R135); of a peer's operation only the second travels. -/
def Msg.written (m : Msg) : Word := m.wrote
def Msg.located (m : Msg) : Word := dwordB m.body 8
def Msg.op1 (m : Msg) : Word := dwordB m.body 16
def Msg.op2 (m : Msg) : Word := dwordB m.body 24

/-- Where the payload of a message with n inline words begins (R46). -/
def payloadAt (n : Nat) : Nat := (16 + 4 * n + 7) / 8 * 8

/-- The bytes of a message (R46). -/
def Msg.bytes (m : Msg) : List Byte :=
  let head := toBytes 1 m.kind ++ toBytes 1 m.words.length ++ toBytes 2 m.bytesLen ++ toBytes 4 (m.origin.toNat % 2 ^ 32) ++
    toBytes 8 m.reply.toNat ++ m.words.flatMap (fun w => toBytes 4 w.toNat)
  head ++ List.replicate (payloadAt m.words.length - head.length) 0 ++ m.body

/-- Whether a message carries a migrating firing (R126). -/
def Msg.isContext (m : Msg) : Bool := decide (m.kind = 1 ∧ fieldB m.body 2 2 = 0xFFFF)

/-- A message as it leaves for a peer (DESIGN CHOICE log 8): its bytes, and the identity of the firing that it carries or of the request that it
makes or answers, which a reply brings back (R39). -/
def Msg.wire (m : Msg) : List Byte := m.bytes ++ toBytes 8 (if m.isContext then m.firing else m.request)

/-- A message in the network for a core of a peer package leaves to it (R131). -/
def State.leaves (s : State) (m : Msg) : State :=
  s.toPod ((s.cap m.capsule).podOf (m.target - coreCount)) (16 + m.kind) m.wire

/-- A message for a core of a peer package leaves to it (R131, DESIGN CHOICE log 8), at once or when the earlier atomics of its firing are performed
(R140, R141, R153); it stays here too until the peer acknowledges it. -/
def State.sendOut (s : State) (m : Msg) : State :=
  if m.target < coreCount then s.send m
  else if s.atomicBefore m.firing s.nextId then s.send { m with held := true }
  else (s.send m).leaves m

/-- The messages for peers that the earlier atomics of their firings held leave once these are performed (R140). -/
def State.sendHeld (s : State) : State :=
  let go := fun (m : Msg) => m.held && !s.atomicBefore m.firing m.serial
  (s.net.filter go).foldl State.leaves { s with net := s.net.map fun m => if go m then { m with held := false } else m }

/-- Send a message that adds a unit to the outstanding count (R129). -/
def State.sendCounted (s : State) (m : Msg) : State := (s.addCount m.capsule 1).sendOut m

/-- A posted operation: it takes the next channel-7 number of its core and completes (R147). -/
def State.postOp (s : State) (la : Nat) (f : Nat → Msg) : Result :=
  let n := s.myCore.lastIssued 7 + 1
  .next (((s.takeNumbers 7 1).sendCounted { f n with number := n }).finishOpen la)

/-- A request that a REPLY answers: g[d] is pending until it arrives (R137); atomic when later accesses wait for it (R140). -/
def State.requestOp (s : State) (d la : Nat) (atomic : Bool) (m : Msg) : Result :=
  let id := s.nextId
  let m := { m with request := id, reply := s.replyWindow d }
  let s := s.finishRequest (.g d) la
  let s := s.setMe { s.me with requests := s.me.requests ++ [(id, atomic)] }
  .next (s.sendCounted m)

/-- A location as resolved at issue (R135): an absolute mesh address, or for a virtual address its translation, laid out as the pa_handle of its
first byte (R183, DESIGN CHOICE log 72). -/
def State.located (s : State) (a : Word) (p : Place) : Word :=
  if 2 ^ 63 ≤ a.toNat then ((s.resolve (coreOf s.who) a 1).map Mesh.word).getD a
  else
    match p with
    | .here k _ =>
      if k < 2 ^ 38 then BitVec.ofNat 64 (k / 2 ^ 36 * 2 ^ 50 + k % 2 ^ 36) else BitVec.ofNat 64 (2 ^ 62 + (k - 2 ^ 43))
    | .peer _ _ => a

/-- The operation message of an instruction on a location in memory (R135): at the home R23 gives, with the target as resolved. -/
def State.opMsg (s : State) (op fn size : Nat) (a : Word) (p : Place) (op1 op2 : Word) (number : Nat) : Msg :=
  let body := opPayload op fn size s.me.pc (s.located a p) op1 op2 number
  match p with
  | .here k _ => { s.mkMsg 0 (s.homeOf (coreOf s.who) a k) [] body with key := k, wrote := a }
  | .peer _ _ =>
    let package := ((s.resolve (coreOf s.who) a 1).map Mesh.package).getD 0
    { s.mkMsg 0 (coreCount + package) [] body with wrote := a }

/-- The operation message of dec, arm and ready on a readiness word (R135, R153). -/
def State.readyMsg (s : State) (op fn : Nat) (a : Word) (m : Mesh) (op1 op2 : Word) (number : Nat) : Msg :=
  s.opMsg op fn 8 a (s.placeOf (coreOf s.who) m) op1 op2 number

/-! ### Images -/

/-- Whether a task packet fulfils R124 for a capsule: its length, codelet, successors and reserved bytes. -/
def packetOk (c : Capsule) (b : List Byte) : Bool :=
  let len := fieldB b 0 2
  let n := fieldB b 4 1
  decide (b.length = len ∧ 32 ≤ len ∧ len ≤ 256 ∧ len % 16 = 0 ∧ n ≤ 4 ∧ fieldB b 5 3 = 0 ∧ 8 + 8 * n ≤ len) &&
  (match c.image.codelets[fieldB b 2 2]? with
   | some d => decide (d.kind ≠ 1)
   | none => false) &&
  (List.range n).all fun i => decide (fieldB b (8 + 8 * i) 1 / 4 % 2 = 0)

/-- The inline words of a message image (R46). -/
def imageWords (b : List Byte) (n : Nat) : List (BitVec 32) :=
  (List.range n).map fun i => BitVec.ofNat 32 (fieldB b (16 + 4 * i) 4)

/-- Whether a reply field that msg accepts: 0, or absolute, of unit 0, 1 or 2 (R142). -/
def replyOk (r : Word) : Bool := decide (r = 0) || decide (bits r.toNat 63 62 = 2 ∧ bits r.toNat 37 35 ≤ 2)

/-- Whether a message image is one that msg may send (R46, R142). -/
def handleImageOk (b : List Byte) : Bool :=
  let inl := fieldB b 1 1
  let len := fieldB b 2 2
  decide (fieldB b 0 1 = 0 ∧ 1 ≤ inl ∧ inl ≤ 4 ∧ len % 8 = 0 ∧ 16 + 4 * inl ≤ len ∧ len ≤ 1024 ∧ b.length = len) &&
  decide (fieldB b 4 4 < 2 ^ 26) && replyOk (dwordB b 8) &&
  decide (fieldB b (16 + 4 * inl) (payloadAt inl - (16 + 4 * inl)) = 0)

/-- Read an image whose length stands in the u16 at an offset: first its leading dword, then all its bytes (R142, R144). Poison is reported at the
lowest byte that holds it (DESIGN CHOICE log 101). -/
def State.readImage (s : State) (core : Nat) (a : Word) (lengthAt : Nat) : Except (Nat × Word) (List Byte) :=
  match s.imageKey core a 8 with
  | .error e => .error e
  | .ok k =>
    let n := max 8 (fieldB (s.byteList k 8) lengthAt 2)
    match s.imageKey core a n with
    | .error e => .error e
    | .ok k => if s.poisoned k n then .error (causeMemerr, a + BitVec.ofNat 64 (s.firstPoison k n)) else .ok (s.byteList k n)

/-- A message instruction with its target core at g[a] and its image at g[b]: of the causes that both meet, the first in the order of R38, and
within one place of that order the target's (DESIGN CHOICE log 53). -/
def State.withImage (s : State) (a b lengthAt : Nat) (body : Nat → List Byte → Result) : Result :=
  match s.targetCore (coreOf s.who) (s.rg a), s.readImage (coreOf s.who) (s.rg b) lengthAt with
  | .ok target, .ok image => body target image
  | .error c, .ok _ => s.takeTrap c (s.rg a)
  | .ok _, .error (c, x) => s.takeTrap c x
  | .error c, .error (d, x) => if causeRank d < causeRank c then s.takeTrap d x else s.takeTrap c (s.rg a)

end Sys2Proof.Machine
end

