-- ==== Sys2Proof/Machine/Atomic.lean ====
section
/-! DEFINITION. Atomics, compare-and-swap, decrements, the iteration fetcher, messages, tasks, delegations and multicast at
the issuing core (R62, R117, R140 to R147). Their handlers stand in Machine/Handlers.lean. -/

namespace Sys2Proof.Machine

/-- amo and cas: the checks, then a request that carries the operation (R140, R141). -/
def State.atomicOp (s : State) (word : Nat) (gs : List Nat) (bad : Bool) (op fn size d a la : Nat) (op1 op2 : State → Word) : Result :=
  s.issueMem ((useG word gs).ill bad) fun s =>
    let addr := s.rg a
    match s.access (coreOf s.who) addr size accAmo with
    | .error c => s.takeTrap c (s.badByte (coreOf s.who) addr size accAmo c)
    | .ok p => s.requestOp d la true (s.opMsg op fn size addr p (op1 s) (op2 s) 0)

/-- amo (R140). -/
def State.amo (s : State) (word fn : Nat) (d a b : G) (la : La) : Result :=
  s.atomicOp word [d, a, b] false 0x30 fn 8 d a la (fun s => s.rg b) fun _ => 0

/-- amop (R140). -/
def State.amop (s : State) (word fn : Nat) (a b : G) (la : La) : Result :=
  s.issueMem (useG word [a, b]) fun s =>
    let addr := s.rg a
    match s.access (coreOf s.who) addr 8 accAmop with
    | .error c => s.takeTrap c (s.badByte (coreOf s.who) addr 8 accAmop c)
    | .ok p => s.postOp la fun n => s.opMsg 0x31 fn 8 addr p (s.rg b) 0 n

/-- cas (R141): g[d] is the compared value; la must be 0 when d = 0. -/
def State.cas (s : State) (word fn size : Nat) (d a b : G) (la : La) : Result :=
  s.atomicOp word [d, a, b] (decide (d.val = 0 ∧ la.val ≠ 0)) 0x32 fn size d a la (fun s => s.rg d) fun s => s.rg b

/-- A claim on a fetch descriptor (R62): the checks of a load and a store of its first dword, then a request (DEDUCED log 28), which travels as an
operation payload of op 0x1A, fn 0 and size 8 (DESIGN CHOICE log 89). -/
def State.iterClaim (s : State) (d a : Nat) : Result :=
  let addr := s.rg a
  match s.access (coreOf s.who) addr 8 accAmo with
  | .error c => s.takeTrap c (s.badByte (coreOf s.who) addr 8 accAmo c)
  | .ok p => s.requestOp d 0 true (s.opMsg 0x1A 0 8 addr p 0 0 0)

/-- amo.add (R140): Atomically adds g[b] to the dword at its home and returns the old value. -/
def execAmoAdd (d a b : G) (la : La) (s : State) : Result :=
  s.amo (encM 0x30 0 la d a b) 0 d a b la

/-- amo.and (R140): Atomically ANDs g[b] into the dword and returns the old value. -/
def execAmoAnd (d a b : G) (la : La) (s : State) : Result :=
  s.amo (encM 0x30 1 la d a b) 1 d a b la

/-- amo.or (R140): Atomically ORs g[b] into the dword and returns the old value. -/
def execAmoOr (d a b : G) (la : La) (s : State) : Result :=
  s.amo (encM 0x30 2 la d a b) 2 d a b la

/-- amo.xor (R140): Atomically XORs g[b] into the dword and returns the old value. -/
def execAmoXor (d a b : G) (la : La) (s : State) : Result :=
  s.amo (encM 0x30 3 la d a b) 3 d a b la

/-- amo.min (R140): Atomically keeps the signed minimum and returns the old value. -/
def execAmoMin (d a b : G) (la : La) (s : State) : Result :=
  s.amo (encM 0x30 4 la d a b) 4 d a b la

/-- amo.max (R140): Atomically keeps the signed maximum and returns the old value. -/
def execAmoMax (d a b : G) (la : La) (s : State) : Result :=
  s.amo (encM 0x30 5 la d a b) 5 d a b la

/-- amo.swap (R140): Atomically replaces the dword with g[b] and returns the old value. -/
def execAmoSwap (d a b : G) (la : La) (s : State) : Result :=
  s.amo (encM 0x30 6 la d a b) 6 d a b la

/-- amo.faddd (R140): Atomically adds g[b] as binary64 to the dword and returns the old value. -/
def execAmoFaddd (d a b : G) (la : La) (s : State) : Result :=
  s.amo (encM 0x30 7 la d a b) 7 d a b la

/-- amop.add (R140): Posts an atomic add to the dword at its home, as a release. -/
def execAmopAdd (a b : G) (la : La) (s : State) : Result :=
  s.amop (encM 0x31 0 la 0 a b) 0 a b la

/-- amop.and (R140): Posts an atomic AND to the dword at its home. -/
def execAmopAnd (a b : G) (la : La) (s : State) : Result :=
  s.amop (encM 0x31 1 la 0 a b) 1 a b la

/-- amop.or (R140): Posts an atomic OR to the dword at its home. -/
def execAmopOr (a b : G) (la : La) (s : State) : Result :=
  s.amop (encM 0x31 2 la 0 a b) 2 a b la

/-- amop.xor (R140): Posts an atomic XOR to the dword at its home. -/
def execAmopXor (a b : G) (la : La) (s : State) : Result :=
  s.amop (encM 0x31 3 la 0 a b) 3 a b la

/-- amop.min (R140): Posts an atomic signed minimum to the dword at its home. -/
def execAmopMin (a b : G) (la : La) (s : State) : Result :=
  s.amop (encM 0x31 4 la 0 a b) 4 a b la

/-- amop.max (R140): Posts an atomic signed maximum to the dword at its home. -/
def execAmopMax (a b : G) (la : La) (s : State) : Result :=
  s.amop (encM 0x31 5 la 0 a b) 5 a b la

/-- amop.swap (R140): Posts an atomic swap to the dword at its home. -/
def execAmopSwap (a b : G) (la : La) (s : State) : Result :=
  s.amop (encM 0x31 6 la 0 a b) 6 a b la

/-- amop.faddd (R140): Posts an atomic binary64 add to the dword at its home. -/
def execAmopFaddd (a b : G) (la : La) (s : State) : Result :=
  s.amop (encM 0x31 7 la 0 a b) 7 a b la

/-- cas.d (R141): Atomically compares a dword with g[d] and writes g[b] on a match, returning the old value. -/
def execCasD (d a b : G) (la : La) (s : State) : Result :=
  s.cas (encM 0x32 0 la d a b) 0 8 d a b la

/-- cas.w (R141): Atomically compares a word with g[d] and writes the low word of g[b] on a match, returning the old value. -/
def execCasW (d a b : G) (la : La) (s : State) : Result :=
  s.cas (encM 0x32 1 la d a b) 1 4 d a b la

/-- iter.claim (R62): Sends a claim on the fetch descriptor at g[a] to its home and receives the chunk in g[d]. -/
def execIterClaim (d a : G) (s : State) : Result :=
  s.issueMem (useG (encR 0x1A 0 d a 0) [d, a]) fun s => s.iterClaim d a

/-- iter.next (R62): Advances within the chunk in g[b], or claims a new chunk from the descriptor at g[a]. -/
def execIterNext (d a b : G) (s : State) : Result :=
  s.issueMem (useG (encR 0x1A 1 d a b) [d, a, b]) fun s =>
    let y := s.rg b
    if 2 ≤ bits y.toNat 63 40 then .next (s.wg d (y + 1 - 2 ^ 40)).retire
    else s.iterClaim d a

/-- dec (R117): Sends a decrement of one lane of a readiness word to its home, as a release. (DEDUCED log 21) -/
def execDec (a b : G) (lane : Fin 4) (la : La) (s : State) : Result :=
  let bad := s.hasG b && decide (s.rg b = 0 ∨ 2047 < (s.rg b).toNat)
  s.issue ((useG (encM 0x33 lane la 0 a b) [a, b]).ill bad) fun s =>
    let addr := s.rg a
    match s.readyTarget (coreOf s.who) addr with
    | .error c => s.takeTrap c addr
    | .ok m => s.postOp la fun n => s.readyMsg 0x33 lane addr m (s.rg b) 0 n

/-- msg (R142): Checks and sends a HANDLE message image with inline words to a target core, as a posted release; it reads its image behind the
thread's posted atomics (R140, R166). -/
def execMsg (a b : G) (la : La) (s : State) : Result :=
  s.issueRelease (useG (encM 0x34 0 la 0 a b) [a, b]) fun s => s.withImage a b 2 fun target image =>
    if !handleImageOk image then s.takeTrap causeIllegal (BitVec.ofNat 64 ((encM 0x34 0 la 0 a b)))
    else
      let r := dwordB image 8
      if r ≠ 0 && (s.resolve (coreOf s.who) r 1).isNone then s.takeTrap causeMeshbound r
      else
        let k := fieldB image 1 1
        s.postOp la fun _ => { s.mkMsg 0 target (imageWords image k) (image.drop (payloadAt k)) with reply := r, wrote := s.rg a }

/-- msg.reply (R143): Sends g[b] as the REPLY of the message being handled. A second one is ILLEGAL in a handler, and so it is in a delegated
routine, where the manual states no limit (DESIGN CHOICE log 92). -/
def execMsgReply (b : G) (la : La) (s : State) : Result :=
  let bad := decide (s.role ≤ 1) || s.me.handling.isNone || s.me.replied
  s.issue ((useG (encM 0x34 1 la 0 0 b) [b]).ill bad) fun s =>
    match s.me.handling with
    | none => .next s.retire
    | some h =>
      let v := s.rg b
      let code := s.me.pc
      let s := (s.setMe { s.me with replied := true }).finishOpen la
      if h.reply = 0 then .next s
      else
        let m := replyMsg s.myCap (coreOf s.who) (s.originOf s.who) h.reply h.firing h.request v
        .next ((s.addCount s.myCap 1).send { m with code })

/-- The task packet at g[b] for the core at g[a], checked as spawn and dlg check it (R144, R145). -/
def State.withPacket (s : State) (word : Nat) (a b : G) (body : Nat → List Byte → Result) : Result :=
  s.withImage a b 0 fun target packet =>
    if packetOk (s.cap s.myCap) packet then body target packet else s.takeTrap causeIllegal (BitVec.ofNat 64 word)

/-- spawn (R144): Checks a task packet image and sends it as a TASK message, receiving 0 on acceptance or 1 on bounce. -/
def execSpawn (d a b : G) (la : La) (s : State) : Result :=
  s.issueRelease (useG (encM 0x35 0 la d a b) [d, a, b]) fun s => s.withPacket ((encM 0x35 0 la d a b)) a b fun target packet =>
    s.requestOp d la false { s.mkMsg 1 target [] packet with wrote := s.rg a }

/-- dlg (R145): Sends a task packet as a DELEGATE message to S of the target and receives its REPLY in g[d]. -/
def execDlg (d a b : G) (la : La) (s : State) : Result :=
  s.issueRelease (useG (encM 0x36 0 la d a b) [d, a, b]) fun s => s.withPacket ((encM 0x36 0 la d a b)) a b fun target packet =>
    s.requestOp d la false { s.mkMsg 2 target [] packet with wrote := s.rg a }

/-- dlg.p (R145): Sends a task packet as a posted DELEGATE message to S of the target. -/
def execDlgP (a b : G) (la : La) (s : State) : Result :=
  s.issueRelease (useG (encM 0x36 1 la 0 a b) [a, b]) fun s => s.withPacket ((encM 0x36 1 la 0 a b)) a b fun target packet =>
    s.postOp la fun _ => { s.mkMsg 2 target [] packet with wrote := s.rg a }

/-- The members of an mcst, in rising i: first + i × stride for i < count, without the issuing package (R146). -/
def mcstMembers (own first count stride : Nat) : List Nat :=
  ((List.range count).map fun i => first + i * stride).filter fun p => decide (p ≠ own)

/-- mcst with its image read: the checks in the order of R38, then the lines leave (R146). -/
def State.mcst (s : State) (word d la : Nat) (image : List Byte) : Result :=
  let own := coordField s.myCore.coord 23 12
  let count := fieldB image 2 2
  let stride := fieldB image 4 2
  let members := mcstMembers own (fieldB image 0 2) count stride
  let dest := dwordB image 8
  let acc : Acc := { accStore with need := rightW + rightM }
  if dest.toNat % 256 ≠ 0 then s.takeTrap causeAlign dest
  else
    match members.find? fun p => decide ((s.cap s.myCap).image.packages ≤ p) with
    | some p => s.takeTrap causeMeshbound (BitVec.ofNat 64 p)
    | none =>
      match s.reach (coreOf s.who) dest 256 acc with
      | .error c => s.takeTrap c (s.badByte (coreOf s.who) dest 256 acc c)
      | .ok _ =>
        if 2 ^ 63 ≤ dest.toNat then s.takeTrap causeRights dest
        else if fieldB image 6 2 ≠ 0 || decide (4096 < count) || (decide (stride = 0) && decide (1 < count)) then
          s.takeTrap causeIllegal (BitVec.ofNat 64 word)
        else
          let n := s.myCore.lastIssued 7 + 1
          let s := s.takeNumbers 7 1
          if members.isEmpty then
            .next ((s.completeNumber (coreOf s.who) 7 n).finishLate (.g d) la (lateG (BitVec.ofNat 64 n)) true)
          else
            let line := fun p : Nat => (⟨p, dest, image.drop 16, s.who, d, s.me.firing, s.nextId, n, s.myCap, s.me.pc, false⟩ : Mcst)
            let lines := members.map line
            let s := { s.addCount s.myCap 1 with mcsts := s.mcsts ++ lines }
            .next (s.finishRequest (.g d) la)

/-- mcst (R146): Multicasts a 256-byte line to a group of member packages. Poison in the image is reported at the lowest byte that holds it (DESIGN
CHOICE log 101). -/
def execMcst (d a : G) (la : La) (s : State) : Result :=
  s.issueRelease (useG (encM 0x37 0 la d a 0) [d, a]) fun s =>
    match s.imageKey (coreOf s.who) (s.rg a) 272 with
    | .error (c, x) => s.takeTrap c x
    | .ok k => if s.poisoned k 272 then s.memErr (s.rg a + BitVec.ofNat 64 (s.firstPoison k 272)) else s.mcst ((encM 0x37 0 la d a 0)) d la (s.byteList k 272)

end Sys2Proof.Machine
end

