-- ==== Sys2Proof/Machine/Control.lean ====
section
/-! DEFINITION. Branches, jumps and hardware loops (R56 to R60). -/

namespace Sys2Proof.Machine

/-- A signed number of words as a byte offset (R56, R57). -/
def wordsOff {n : Nat} (imm : BitVec n) : Word := imm.signExtend 64 <<< 2

/-- A branch: a taken transfer when the condition holds (R56, R59). -/
def State.branch (s : State) (word : Nat) (a b : G) (imm : BitVec 13) (cond : Word → Word → Bool) : Result :=
  s.issue (useG word [a, b]) fun s =>
    .next (if cond (s.rg a) (s.rg b) then s.transfer (s.me.pc + wordsOff imm) else s.retire)

/-- The address of the last instruction of a loop body of e words (R58). -/
def loopEnd (pc : Word) (e : Nat) : Word := pc + BitVec.ofNat 64 (4 * e)

/-- Whether a body that ends at `last` would reach beyond the body that contains it (R58). -/
def Thread.badNest (t : Thread) (last : Word) : Bool :=
  decide (0 < t.ldepth.toNat) && decide ((sget 0 t.lend (t.ldepth.toNat - 1)).toNat < last.toNat)

/-- Open a loop level (R58). -/
def Thread.pushLoop (t : Thread) (last n : Word) : Thread :=
  let l := t.ldepth.toNat
  { t with lstart := sset 0 t.lstart l (t.pc + 4), lend := sset 0 t.lend l last, lcount := sset 0 t.lcount l n,
           ldepth := t.ldepth + 1 }

/-- loop and loopi once their ILLEGAL conditions are tested: a count of 0 skips the body as a taken transfer; else a level
opens and execution goes on at the next word, without an end test against the new level (R58, R59). -/
def State.openLoop (s : State) (last n : Word) : Result :=
  if n = 0 then .next (s.transfer (last + 4))
  else
    let t := s.me.count.pushLoop last n
    .next (s.setMe { t with pc := t.pc + 4, wait := .nothing })

/-- beq (R56): Branches when g[a] equals g[b]. -/
def execBeq (a b : G) (imm : BitVec 13) (s : State) : Result :=
  s.branch (encB 0x10 imm.toNat a b) a b imm fun x y => x == y

/-- bne (R56): Branches when g[a] differs from g[b]. -/
def execBne (a b : G) (imm : BitVec 13) (s : State) : Result :=
  s.branch (encB 0x11 imm.toNat a b) a b imm fun x y => x != y

/-- blt (R56): Branches when g[a] is less than g[b] as signed integers. -/
def execBlt (a b : G) (imm : BitVec 13) (s : State) : Result :=
  s.branch (encB 0x12 imm.toNat a b) a b imm fun x y => x.slt y

/-- bge (R56): Branches when g[a] is at least g[b] as signed integers. -/
def execBge (a b : G) (imm : BitVec 13) (s : State) : Result :=
  s.branch (encB 0x13 imm.toNat a b) a b imm fun x y => !x.slt y

/-- bltu (R56): Branches when g[a] is less than g[b] as unsigned integers. -/
def execBltu (a b : G) (imm : BitVec 13) (s : State) : Result :=
  s.branch (encB 0x14 imm.toNat a b) a b imm fun x y => x.ult y

/-- bgeu (R56): Branches when g[a] is at least g[b] as unsigned integers. -/
def execBgeu (a b : G) (imm : BitVec 13) (s : State) : Result :=
  s.branch (encB 0x15 imm.toNat a b) a b imm fun x y => !x.ult y

/-- jal (R57): Writes PC + 4 to g[d] and jumps PC-relative. -/
def execJal (d : G) (imm : BitVec 19) (s : State) : Result :=
  s.issue (useG (encU 0x16 imm.toNat d) [d]) fun s =>
    let pc := s.me.pc
    .next ((s.wg d (pc + 4)).transfer (pc + wordsOff imm))

/-- jalr (R57): Writes PC + 4 to g[d] and jumps to g[a] plus the immediate, trapping ALIGN on a misaligned target. -/
def execJalr (d a : G) (imm : BitVec 13) (s : State) : Result :=
  s.issue (useG (encI 0x17 imm.toNat d a) [d, a]) fun s =>
    let t := s.rg a + imm.signExtend 64
    if t.toNat % 4 ≠ 0 then s.takeTrap causeAlign t
    else .next ((s.wg d (s.me.pc + 4)).transfer t)

/-- loop (R58): Opens a hardware loop level with the count in g[a], or skips the body when the count is zero. -/
def execLoop (a : G) (imm : BitVec 13) (s : State) : Result :=
  let last := loopEnd s.me.pc imm.toNat
  let deep := s.hasG a && decide (s.rg a ≠ 0 ∧ s.me.ldepth = 4)
  s.issue ((useG (encI 0x18 imm.toNat 0 a) [a]).ill (decide (imm.toInt ≤ 0) || decide (s.role = 2) || s.me.badNest last || deep)) fun s =>
    s.openLoop last (s.rg a)

/-- loopi (R58): Opens a hardware loop level with an immediate count, or skips the body when the count is zero. -/
def execLoopi (count : BitVec 10) (len : BitVec 9) (s : State) : Result :=
  let last := loopEnd s.me.pc len.toNat
  let deep := decide (count ≠ 0 ∧ s.me.ldepth = 4)
  s.issue ((useG (encU 0x19 (len.toNat + 2 ^ 9 * count.toNat) 0) []).ill (decide (len = 0) || decide (s.role = 2) || s.me.badNest last || deep)) fun s =>
    s.openLoop last (count.setWidth 64)

end Sys2Proof.Machine
end

