-- ==== Sys2Proof/Machine/Flags.lean ====
section
/-! DEFINITION. The IEEE formats, exact values, rounding and the sticky flags (R68 to R72), and the operations of R92 to
R96 on exact values. A flag set is a number with the flag bits of FCR (R21). -/

namespace Sys2Proof.Machine

/-! ### Flags -/

def flagNV : Nat := 16
def flagDZ : Nat := 32
def flagOF : Nat := 64
def flagUF : Nat := 128
def flagNX : Nat := 256

/-- A flag when a condition holds. -/
def flagIf (b : Bool) (f : Nat) : Nat := if b then f else 0

/-- Instructions only ever set the sticky flags (R21). -/
def Thread.setFlags (t : Thread) (f : Nat) : Thread := { t with fcr := t.fcr ||| BitVec.ofNat 64 f }

/-- FCR.RM (R21): 0 nearest-even, 1 toward zero, 2 down, 3 up. -/
def Thread.rm (t : Thread) : Nat := t.fcr.toNat % 4

/-! ### Formats -/

/-- A binary format: exponent and fraction bits (R68), or an element type with the same reading. -/
structure Fmt where
  eb : Nat
  fb : Nat
  deriving DecidableEq, Repr

def fmt64 : Fmt := ⟨11, 52⟩
def fmt32 : Fmt := ⟨8, 23⟩
def fmt16 : Fmt := ⟨5, 10⟩
def fmtBf : Fmt := ⟨8, 7⟩

/-- Bits of a format, its sign included. -/
def Fmt.width (f : Fmt) : Nat := f.eb + f.fb + 1
/-- The exponent bias (R68). -/
def Fmt.bias (f : Fmt) : Nat := 2 ^ (f.eb - 1) - 1
/-- The exponent of the smallest normal number (R68). -/
def Fmt.emin (f : Fmt) : Int := 1 - (f.bias : Int)
/-- The pattern of infinity without its sign (R68). -/
def Fmt.infBits (f : Fmt) : Nat := (2 ^ f.eb - 1) * 2 ^ f.fb
/-- The sign bit. -/
def Fmt.signBit (f : Fmt) (neg : Bool) : Nat := if neg then 2 ^ (f.eb + f.fb) else 0
/-- The canonical quiet NaN, with sign 0 (R68, R69). -/
def Fmt.qnan (f : Fmt) : Nat := f.infBits + 2 ^ (f.fb - 1)

/-- An exact value: a NaN (signalling or quiet), an infinity, or a signed m × 2^e, a zero of either sign included. -/
inductive Num where
  | nan (signalling : Bool)
  | inf (neg : Bool)
  | fin (neg : Bool) (m : Nat) (e : Int)
  deriving DecidableEq, Repr

/-- The value of a pattern (R68). -/
def Fmt.decode (f : Fmt) (v : Nat) : Num :=
  let neg := v / 2 ^ (f.eb + f.fb) % 2 == 1
  let ex := v / 2 ^ f.fb % 2 ^ f.eb
  let fr := v % 2 ^ f.fb
  if ex = 2 ^ f.eb - 1 then (if fr = 0 then .inf neg else .nan (fr < 2 ^ (f.fb - 1)))
  else if ex = 0 then .fin neg fr (f.emin - f.fb)
  else .fin neg (2 ^ f.fb + fr) ((ex : Int) - f.bias - f.fb)

def Num.isNan : Num → Bool
  | .nan _ => true
  | .inf _ | .fin .. => false
def Num.isSnan : Num → Bool
  | .nan s => s
  | .inf _ | .fin .. => false
def Num.isZero : Num → Bool
  | .fin _ m _ => m == 0
  | .nan _ | .inf _ => false
def Num.neg? : Num → Bool
  | .nan _ => false
  | .inf n => n
  | .fin n _ _ => n
/-- Negation changes only the sign (R95). -/
def Num.negate : Num → Num
  | .nan s => .nan s
  | .inf n => .inf (!n)
  | .fin n m e => .fin (!n) m e

/-! ### Rounding (R70) -/

/-- floor(log2 m) + 1 for m > 0. -/
def bitLen (m : Nat) : Nat := if m = 0 then 0 else Nat.log2 m + 1

/-- m / 2^k rounded to an integer by rm, with whether it is inexact (R70). -/
def roundShift (rm : Nat) (neg : Bool) (m k : Nat) : Nat × Bool :=
  let q := m / 2 ^ k
  let r := m % 2 ^ k
  let half := 2 ^ k / 2
  let up :=
    if rm = 0 then decide (half < r) || (decide (r = half ∧ k ≠ 0) && decide (q % 2 = 1))
    else if rm = 1 then false
    else if rm = 2 then neg && decide (r ≠ 0)
    else !neg && decide (r ≠ 0)
  (if up then q + 1 else q, decide (r ≠ 0))

/-- m × 2^e over 2^u rounded to an integer by rm. -/
def roundAt (rm : Nat) (neg : Bool) (m : Nat) (e u : Int) : Nat × Bool :=
  if u ≤ e then (m * 2 ^ (e - u).toNat, false) else roundShift rm neg m (u - e).toNat

/-- The overflow result of R70. -/
def overflowBits (f : Fmt) (rm : Nat) (neg : Bool) : Nat :=
  let toInf := rm = 0 ∨ (rm = 2 ∧ neg) ∨ (rm = 3 ∧ !neg)
  f.signBit neg + (if toInf then f.infBits else f.infBits - 1)

/-- roundF of a finite value that is not zero, with the flags OF, UF and NX (R70, R71). -/
def roundFin (f : Fmt) (rm : Nat) (neg : Bool) (m : Nat) (e : Int) : Nat × Nat :=
  let top : Int := (bitLen m : Int) - 1 + e
  let ex := max top f.emin
  let r := roundAt rm neg m e (ex - f.fb)
  let mag := (ex - f.emin).toNat * 2 ^ f.fb + r.1
  let free := roundAt rm neg m e (top - f.fb)
  let tiny := decide (top < f.emin) && !(decide (top + 1 = f.emin) && decide (free.1 = 2 ^ (f.fb + 1)))
  if f.infBits ≤ mag then (overflowBits f rm neg, flagOF + flagNX)
  else (f.signBit neg + mag, flagIf r.2 flagNX + flagIf (tiny && r.2) flagUF)

/-- roundF (R70): the pattern and the flags of rounding; NaN gives the canonical quiet NaN (R69). -/
def roundNum (f : Fmt) (rm : Nat) : Num → Nat × Nat
  | .nan _ => (f.qnan, 0)
  | .inf n => (f.signBit n + f.infBits, 0)
  | .fin n m e => if m = 0 then (f.signBit n, 0) else roundFin f rm n m e

/-! ### Exact operations -/

/-- A result and the flags of the operation itself. -/
abbrev NumFlags := Num × Nat

/-- NV for a signalling operand (R71). -/
def nvOf (l : List Num) : Nat := flagIf (l.any Num.isSnan) flagNV

/-- The exact sum; rm decides the sign of an exact zero from opposite signs (R69). -/
def addExact (rm : Nat) (x y : Num) : NumFlags :=
  match x, y with
  | .nan _, _ => (.nan false, 0)
  | _, .nan _ => (.nan false, 0)
  | .inf a, .inf b => if a = b then (.inf a, 0) else (.nan false, flagNV)
  | .inf a, .fin .. => (.inf a, 0)
  | .fin .., .inf b => (.inf b, 0)
  | .fin a m e, .fin b n g =>
    let lo := min e g
    let p : Int := (m * 2 ^ (e - lo).toNat : Nat)
    let q : Int := (n * 2 ^ (g - lo).toNat : Nat)
    let sum := (if a then -p else p) + (if b then -q else q)
    if sum = 0 then (.fin (if a = b then a else decide (rm = 2)) 0 0, 0)
    else (.fin (decide (sum < 0)) sum.natAbs lo, 0)

/-- The exact product. -/
def mulExact (x y : Num) : NumFlags :=
  match x, y with
  | .nan _, _ => (.nan false, 0)
  | _, .nan _ => (.nan false, 0)
  | .inf a, .inf b => (.inf (a != b), 0)
  | .inf a, .fin b n _ => if n = 0 then (.nan false, flagNV) else (.inf (a != b), 0)
  | .fin a m _, .inf b => if m = 0 then (.nan false, flagNV) else (.inf (a != b), 0)
  | .fin a m e, .fin b n g => (.fin (a != b) (m * n) (e + g), 0)

/-- A quotient, as many bits as any format keeps with the rest of the division as one bit below them. -/
def divExact (x y : Num) : NumFlags :=
  match x, y with
  | .nan _, _ => (.nan false, 0)
  | _, .nan _ => (.nan false, 0)
  | .inf _, .inf _ => (.nan false, flagNV)
  | .inf a, .fin b _ _ => (.inf (a != b), 0)
  | .fin a _ _, .inf b => (.fin (a != b) 0 0, 0)
  | .fin a m e, .fin b n g =>
    if n = 0 then (if m = 0 then (.nan false, flagNV) else (.inf (a != b), flagDZ))
    else if m = 0 then (.fin (a != b) 0 0, 0)
    else
      let k := bitLen n + 66
      let q := m * 2 ^ k / n
      let rest := if m * 2 ^ k % n = 0 then 0 else 1
      (.fin (a != b) (2 * q + rest) (e - g - k - 1), 0)

/-- The integer square root, bit by bit from bit n − 1 down. -/
def isqrtN : Nat → Nat → Nat → Nat
  | 0, _, r => r
  | n + 1, m, r => let c := r + 2 ^ n; isqrtN n m (if c * c ≤ m then c else r)

/-- The integer square root of m. -/
def isqrt (m : Nat) : Nat := isqrtN (bitLen m / 2 + 1) m 0

/-- A square root, as many bits as any format keeps with the rest as one bit below them. -/
def sqrtExact (x : Num) : NumFlags :=
  match x with
  | .nan _ => (.nan false, 0)
  | .inf a => if a then (.nan false, flagNV) else (.inf false, 0)
  | .fin a m e =>
    if m = 0 then (.fin a 0 0, 0)
    else if a then (.nan false, flagNV)
    else
      let k := 140 + (e % 2).toNat
      let v := m * 2 ^ k
      let r := isqrt v
      (.fin false (2 * r + (if r * r = v then 0 else 1)) ((e - k) / 2 - 1), 0)

/-- Round an exact result, with the flags of the operation and of the operands. -/
def finish (f : Fmt) (rm : Nat) (ops : List Num) (r : NumFlags) : Nat × Nat :=
  let q := roundNum f rm r.1
  (q.1, q.2 ||| r.2 ||| nvOf ops)

/-! ### Operations on patterns (R92 to R95) -/

def fadd (f : Fmt) (rm x y : Nat) : Nat × Nat :=
  let a := f.decode x; let b := f.decode y
  finish f rm [a, b] (addExact rm a b)
def fsub (f : Fmt) (rm x y : Nat) : Nat × Nat :=
  let a := f.decode x; let b := f.decode y
  finish f rm [a, b] (addExact rm a b.negate)
def fmul (f : Fmt) (rm x y : Nat) : Nat × Nat :=
  let a := f.decode x; let b := f.decode y
  finish f rm [a, b] (mulExact a b)
def fdiv (f : Fmt) (rm x y : Nat) : Nat × Nat :=
  let a := f.decode x; let b := f.decode y
  finish f rm [a, b] (divExact a b)
def fsqrt (f : Fmt) (rm x : Nat) : Nat × Nat :=
  let a := f.decode x
  finish f rm [a] (sqrtExact a)

/-- roundF(±(X × Y) ± Z): np negates the product and nz the addend (R95, R105). -/
def ffma (f : Fmt) (rm : Nat) (np nz : Bool) (x y z : Nat) : Nat × Nat :=
  let a := f.decode x; let b := f.decode y; let c := f.decode z
  let p := mulExact a b
  let r := addExact rm (if np then p.1.negate else p.1) (if nz then c.negate else c)
  finish f rm [a, b, c] (r.1, r.2 ||| p.2)

/-- X < Y for numbers that are no NaN; zeros are equal. -/
def numLt (x y : Num) : Bool :=
  match x, y with
  | .nan _, _ => false
  | _, .nan _ => false
  | .inf a, .inf b => a && !b
  | .inf a, .fin .. => a
  | .fin .., .inf b => !b
  | .fin a m e, .fin b n g =>
    let lo := min e g
    let p : Int := (m * 2 ^ (e - lo).toNat : Nat)
    let q : Int := (n * 2 ^ (g - lo).toNat : Nat)
    decide ((if a then -p else p) < (if b then -q else q))
/-- X = Y for numbers that are no NaN. -/
def numEq (x y : Num) : Bool := !x.isNan && !y.isNan && !numLt x y && !numLt y x

/-- fmin and fmax (R93); big chooses the larger. -/
def fminmax (f : Fmt) (big : Bool) (x y : Nat) : Nat × Nat :=
  let a := f.decode x; let b := f.decode y
  let r :=
    if a.isNan && b.isNan then f.qnan
    else if a.isNan then y
    else if b.isNan then x
    else if a.isZero && b.isZero then f.signBit (if big then a.neg? && b.neg? else a.neg? || b.neg?)
    else if big then (if numLt a b then y else x)
    else (if numLt b a then y else x)
  (r, nvOf [a, b])

/-- feq, flt, fle (R93): the value and the flags. -/
def feq (f : Fmt) (x y : Nat) : Bool × Nat :=
  let a := f.decode x; let b := f.decode y
  (numEq a b, nvOf [a, b])
def flt (f : Fmt) (x y : Nat) : Bool × Nat :=
  let a := f.decode x; let b := f.decode y
  (numLt a b, flagIf (a.isNan || b.isNan) flagNV)
def fle (f : Fmt) (x y : Nat) : Bool × Nat :=
  let a := f.decode x; let b := f.decode y
  (numLt a b || numEq a b, flagIf (a.isNan || b.isNan) flagNV)

/-- X with another sign bit (R92). -/
def withSign (f : Fmt) (x : Nat) (neg : Bool) : Nat := x % 2 ^ (f.eb + f.fb) + f.signBit neg
/-- The sign bit of a pattern. -/
def signOf (f : Fmt) (x : Nat) : Bool := x / 2 ^ (f.eb + f.fb) % 2 == 1
def fsgnj (f : Fmt) (x y : Nat) : Nat := withSign f x (signOf f y)
def fsgnjn (f : Fmt) (x y : Nat) : Nat := withSign f x (!signOf f y)
def fsgnjx (f : Fmt) (x y : Nat) : Nat := withSign f x (signOf f x != signOf f y)

/-- The class mask of R94. -/
def fclass (f : Fmt) (x : Nat) : Nat :=
  match f.decode x with
  | .nan s => if s then 256 else 512
  | .inf n => if n then 1 else 128
  | .fin n m _ =>
    if m = 0 then (if n then 8 else 16)
    else if m < 2 ^ f.fb then (if n then 4 else 32)
    else (if n then 2 else 64)

/-! ### Conversions (R96) -/

/-- The IEEE format of a float type. -/
def numFmt : NumTy → Fmt
  | .f64 => fmt64 | .f32 => fmt32 | .f16 => fmt16 | .bf16 => fmtBf
  | .i64 | .u64 | .i32 | .u32 => fmt64

/-- Bits of a type. -/
def numWidth : NumTy → Nat
  | .f64 | .i64 | .u64 => 64
  | .f32 | .i32 | .u32 => 32
  | .f16 | .bf16 => 16

/-- The range of an integer type. -/
def numRange : NumTy → Int × Int
  | .i64 => (-2 ^ 63, 2 ^ 63 - 1)
  | .u64 => (0, 2 ^ 64 - 1)
  | .i32 => (-2 ^ 31, 2 ^ 31 - 1)
  | .u32 => (0, 2 ^ 32 - 1)
  | .f64 | .f32 | .f16 | .bf16 => (0, 0)

/-- An integer as an exact value. -/
def Num.ofInt (i : Int) : Num := .fin (decide (i < 0)) i.natAbs 0

/-- The exact value of an operand read as a type (R96). -/
def numRead (t : NumTy) (x : Nat) : Num :=
  match t with
  | .f64 => fmt64.decode (x % 2 ^ 64)
  | .f32 => fmt32.decode (x % 2 ^ 32)
  | .f16 => fmt16.decode (x % 2 ^ 16)
  | .bf16 => fmtBf.decode (x % 2 ^ 16)
  | .i64 => Num.ofInt (BitVec.ofNat 64 x).toInt
  | .u64 => Num.ofInt (x % 2 ^ 64 : Nat)
  | .i32 => Num.ofInt (BitVec.ofNat 32 x).toInt
  | .u32 => Num.ofInt (x % 2 ^ 32 : Nat)

/-- Conversion to an integer type with range lo to hi, as an integer (R96). -/
def toIntTy (rm : Nat) (lo hi : Int) (v : Num) : Int × Nat :=
  match v with
  | .nan _ => (0, flagNV)
  | .inf n => (if n then lo else hi, flagNV)
  | .fin n m e =>
    let r := roundAt rm n m e 0
    let i : Int := if n then -(r.1 : Int) else r.1
    if hi < i then (hi, flagNV) else if i < lo then (lo, flagNV) else (i, flagIf r.2 flagNX)

/-- fcvt (R96): the pattern of dst's width and the flags; rtz rounds toward zero. -/
def convert (rm : Nat) (rtz : Bool) (dst src : NumTy) (x : Nat) : Nat × Nat :=
  let v := numRead src x
  let rm := if rtz then 1 else rm
  if dst.isFloat then finish (numFmt dst) rm [v] (v, 0)
  else
    let r := toIntTy rm (numRange dst).1 (numRange dst).2 v
    ((BitVec.ofInt (numWidth dst) r.1).toNat, r.2)

end Sys2Proof.Machine
end

