-- ==== Sys2Proof/Machine/Blocks.lean ====
section
/-! DEFINITION. Format codes and operand rows (R73, R74), the Microscaling and BFP formats (R75 to R77), conversion into a format
(R78 to R81), and the sums of the matrix unit (R86, R87). -/

namespace Sys2Proof.Machine

/-! ### Format codes (R73) -/

/-- Bits of an element; 0 for RAW and for reserved codes. -/
def fmtWidth (code : Nat) : Nat :=
  if code = 1 then 64
  else if code = 2 then 32
  else if code = 3 ∨ code = 4 then 16
  else if code = 5 ∨ code = 8 ∨ code = 0x10 then 8
  else if code = 6 ∨ code = 0x11 then 6
  else if code = 7 then 4
  else if 9 ≤ code ∧ code ≤ 15 then code - 7
  else 0

/-- Elements of a block; 0 for a format with no scale. -/
def fmtBlock (code : Nat) : Nat :=
  if (5 ≤ code ∧ code ≤ 8) ∨ code = 0x10 ∨ code = 0x11 then 32 else if 9 ≤ code ∧ code ≤ 15 then 16 else 0

/-- The classes of R73. -/
inductive FmtClass where
  | none | wide | half | mx | bfp | extended
  deriving DecidableEq, Repr

/-- The class of a format code. -/
def fmtClass (code : Nat) : FmtClass :=
  if code = 1 ∨ code = 2 then .wide
  else if code = 3 ∨ code = 4 then .half
  else if 5 ≤ code ∧ code ≤ 8 then .mx
  else if 9 ≤ code ∧ code ≤ 15 then .bfp
  else if code = 0x10 ∨ code = 0x11 then .extended
  else .none

/-- The IEEE format of a non-block code. -/
def fmtIeee (code : Nat) : Fmt := if code = 1 then fmt64 else if code = 2 then fmt32 else if code = 3 then fmt16 else fmtBf

/-- The element type of a scaled code with a sign, an exponent and a mantissa (R75). -/
def fmtElem (code : Nat) : Fmt :=
  if code = 5 then ⟨4, 3⟩ else if code = 6 then ⟨2, 3⟩ else if code = 7 then ⟨2, 1⟩ else if code = 0x10 then ⟨5, 2⟩ else ⟨3, 2⟩

/-! ### Decoding -/

/-- A two's complement integer of w bits times 2^e. -/
def intNum (w v : Nat) (e : Int) : Num :=
  let i := (BitVec.ofNat w v).toInt
  .fin (decide (i < 0)) i.natAbs e

/-- An element type without infinities (R75). -/
def elemFinite (f : Fmt) (v : Nat) : Num :=
  let neg := v / 2 ^ (f.eb + f.fb) % 2 == 1
  let ex := v / 2 ^ f.fb % 2 ^ f.eb
  let fr := v % 2 ^ f.fb
  if ex = 0 then .fin neg fr (f.emin - f.fb) else .fin neg (2 ^ f.fb + fr) ((ex : Int) - f.bias - f.fb)

/-- The value of an element field, without its scale (R75, R77). -/
def elemValue (code v : Nat) : Num :=
  if code = 8 then intNum 8 v (-6)
  else if 9 ≤ code ∧ code ≤ 15 then intNum (code - 7) v (1 - ((code - 7 : Nat) : Int))
  else if code = 0x10 then (fmtElem code).decode v
  else if code = 5 ∧ v % 128 = 0x7F then .nan false
  else elemFinite (fmtElem code) v

/-- A value times 2^k, exactly. -/
def Num.scale (k : Int) : Num → Num
  | .nan s => .nan s
  | .inf n => .inf n
  | .fin n m e => .fin n m (e + k)

/-- A scaled element (R76, R77): scale byte 0xFF makes NaN of every element. -/
def scaledValue (code scale v : Nat) : Num :=
  if scale = 0xFF then .nan false else (elemValue code v).scale ((scale : Int) - 127)

/-! ### Operand rows (R74) -/

/-- Bytes of the element area of k elements. -/
def elemBytes (code k : Nat) : Nat := (k * fmtWidth code + 7) / 8

/-- Blocks of k elements. -/
def blocksOf (code k : Nat) : Nat := if fmtBlock code = 0 then 0 else (k + fmtBlock code - 1) / fmtBlock code

/-- Bytes of a dense row (R253). -/
def rowBytes (code k : Nat) : Nat := elemBytes code k + blocksOf code k

/-- Element i of an area of elements of w bits. -/
def areaElem (area w i : Nat) : Nat := area / 2 ^ (i * w) % 2 ^ w

/-- The decoded values of a dense row of k elements. -/
def decodeRow (code k : Nat) (row : List Byte) : List Num :=
  let area := ofBytes (row.take (elemBytes code k))
  (List.range k).map fun i =>
    let v := areaElem area (fmtWidth code) i
    if fmtBlock code = 0 then (fmtIeee code).decode v
    else scaledValue code (fieldB row (elemBytes code k + i / fmtBlock code) 1) v

/-- Whether logical position i is kept by a list of masks. -/
def maskKeeps (masks : List Nat) (i : Nat) : Bool := decide (masks.getD (i / 16) 0 / 2 ^ (i % 16) % 2 = 1)

/-- The masks of a sparse row of k positions with n of 16 kept (R83). -/
def sparseMasks (code k n : Nat) (row : List Byte) : List Nat :=
  (List.range (k / 16)).map fun g => fieldB row (elemBytes code (k * n / 16) + blocksOf code k + 2 * g) 2

/-- Bytes of a sparse row (R83, R253). -/
def sparseBytes (code k n : Nat) : Nat := elemBytes code (k * n / 16) + blocksOf code k + 2 * (k / 16)

/-- The number of ones among the low n bits. -/
def popCount : Nat → Nat → Nat
  | 0, _ => 0
  | n + 1, v => v % 2 + popCount n (v / 2)

/-- The decoded values of a sparse row: one for each kept position, none elsewhere (R83, R86). -/
def decodeSparse (code k n : Nat) (row : List Byte) : List (Option Num) :=
  let masks := sparseMasks code k n row
  let area := ofBytes (row.take (elemBytes code (k * n / 16)))
  (List.range k).map fun i =>
    if maskKeeps masks i then
      let at_ := i / 16 * n + popCount (i % 16) (masks.getD (i / 16) 0)
      let v := areaElem area (fmtWidth code) at_
      some (if fmtBlock code = 0 then (fmtIeee code).decode v
            else scaledValue code (fieldB row (elemBytes code (k * n / 16) + i / fmtBlock code) 1) v)
    else none

/-! ### Conversion into a format -/

/-- convF to nearest-even for a non-block code, or E5M2 (R78). -/
def convF (code : Nat) (v : Num) : Nat :=
  if code = 0x10 then (if v.isNan then 0x7F else (roundNum (fmtElem code) 0 v).1) else (roundNum (fmtIeee code) 0 v).1

/-- floor(log2 |v|) of a finite value that is not zero. -/
def floorLog (v : Num) : Int :=
  match v with
  | .fin _ m e => (bitLen m : Int) - 1 + e
  | .nan _ | .inf _ => 0

/-- The largest finite pattern of an element type (R75). -/
def elemMax (code : Nat) : Nat :=
  if code = 5 then 0x7E else if code = 7 then 0x7 else if code = 0x10 then 0x7B else 0x1F

/-- The exponent of the largest normal number of an element type (R80). -/
def elemEmax (code : Nat) : Int :=
  if code = 5 then 8 else if code = 0x10 then 15 else if code = 6 then 2 else if code = 0x11 then 4 else if code = 7 then 2 else 0

/-- Rounding to an element type's grid, to nearest-even and saturating (R79). -/
def roundElem (f : Fmt) (max_ : Nat) (neg : Bool) (m : Nat) (e : Int) : Nat :=
  let ex := max ((bitLen m : Int) - 1 + e) f.emin
  let mag := (ex - f.emin).toNat * 2 ^ f.fb + (roundAt 0 neg m e (ex - f.fb)).1
  f.signBit neg + min mag max_

/-- Rounding to an integer of w bits within lo and hi (R79). -/
def roundInt (w : Nat) (lo hi : Int) (neg : Bool) (m : Nat) (e : Int) : Nat :=
  let q : Int := (roundAt 0 neg m e 0).1
  (BitVec.ofInt w (max lo (min hi (if neg then -q else q)))).toNat

/-- cvt of R79, with what R274 gives for NaN and infinities under a finite scale. -/
def cvtElem (code : Nat) (v : Num) : Nat :=
  let k := code - 7
  let top : Int := 2 ^ (k - 1)
  match v with
  | .nan _ => if code = 5 ∨ code = 0x10 then 0x7F else 0
  | .inf n =>
    if code = 0x10 then convF code v
    else if code = 8 then (BitVec.ofInt 8 (if n then -127 else 127)).toNat
    else if 9 ≤ code ∧ code ≤ 15 then (BitVec.ofInt k (if n then -top else top - 1)).toNat
    else (fmtElem code).signBit n + elemMax code
  | .fin n m e =>
    if code = 8 then roundInt 8 (-127) 127 n m (e + 6)
    else if 9 ≤ code ∧ code ≤ 15 then roundInt k (-top) (top - 1) n m (e + (k - 1 : Nat))
    else if code = 0x10 then convF code v
    else if m = 0 then (fmtElem code).signBit n
    else roundElem (fmtElem code) (elemMax code) n m e

/-- The scale byte of an output block (R80), or the exponent byte of a BFP block (R81). -/
def blockScale (code : Nat) (l : List Num) : Nat :=
  let finite := fun (v : Num) => match v with
    | .fin .. => true
    | .nan _ | .inf _ => false
  if !l.all finite then 0xFF
  else
    let nz := l.filter fun v => !v.isZero
    match nz with
    | [] => 0
    | v :: r =>
      let top := r.foldl (fun acc x => max acc (floorLog x)) (floorLog v)
      let s : Int := if 9 ≤ code ∧ code ≤ 15 then top + 1 + 127 else top - elemEmax code + 127
      (max 0 (min s 254)).toNat

/-- The element fields of a block under its scale byte (R79 to R81). -/
def blockElems (code scale : Nat) (l : List Num) : List Nat :=
  l.map fun v => if scale = 0xFF then 0 else cvtElem code (v.scale (127 - (scale : Int)))

/-- An area of elements of w bits (R74). -/
def packArea (w : Nat) : List Nat → Nat
  | [] => 0
  | v :: r => v % 2 ^ w + 2 ^ w * packArea w r

/-- A row in a block format under given scale bytes, one for each block (R74). -/
def scaledRow (code : Nat) (scales : List Nat) (l : List Num) : List Byte :=
  let z := fmtBlock code
  let elems := l.zipIdx.map fun e => (blockElems code (scales.getD (e.2 / z) 0) [e.1]).getD 0 0
  toBytes (elemBytes code l.length) (packArea (fmtWidth code) elems) ++ scales.map fun s => BitVec.ofNat 8 s

/-- The scale bytes of a row. -/
def rowScales (code : Nat) (l : List Num) : List Nat :=
  (List.range (blocksOf code l.length)).map fun g => blockScale code ((l.drop (g * fmtBlock code)).take (fmtBlock code))

/-- A row in any format but RAW (R78 to R82). -/
def encodeRow (code : Nat) (l : List Num) : List Byte :=
  if fmtBlock code = 0 then l.flatMap fun v => toBytes (fmtWidth code / 8) (convF code v)
  else scaledRow code (rowScales code l) l

/-! ### Sums of the matrix unit (R86, R87) -/

/-- Whether a value is an infinity of a sign. -/
def Num.isInf (neg : Bool) : Num → Bool
  | .inf n => n == neg
  | .nan _ | .fin .. => false

/-- The exact sum s of a group of products (R87). -/
def groupSum (l : List Num) : Num :=
  if l.any Num.isNan || (l.any (Num.isInf true) && l.any (Num.isInf false)) then .nan false
  else if l.any (Num.isInf true) then .inf true
  else if l.any (Num.isInf false) then .inf false
  else
    let s := l.foldl (fun acc p => (addExact 0 acc p).1) (.fin true 0 0)
    if s.isZero then .fin (l.all fun p => p.isZero && p.neg?) 0 0 else s

/-- Elements of a K-step (R256). -/
def stepSize (code : Nat) : Nat :=
  match fmtClass code with
  | .half => 8
  | .mx => 32
  | .bfp => 16
  | .wide | .extended | .none => 1

/-- The products of one group; a position that the mask drops gives none. -/
def groupProducts (a : List (Option Num)) (b : List Num) : List Num :=
  (a.zip b).filterMap fun p => p.1.map fun x => (mulExact x p.2).1

/-- The accumulation of R86 from c on, over ceil(K / z) groups. -/
def accumulate (f : Fmt) (wide : Bool) (z : Nat) : Nat → List (Option Num) → List Num → Nat → Nat
  | 0, _, _, c => c
  | n + 1, a, b, c =>
    let s := groupProducts (a.take z) (b.take z)
    let r :=
      if wide then s.foldl (fun acc p => (roundNum f 0 (addExact 0 p (f.decode acc)).1).1) c
      else (roundNum f 0 (addExact 0 (f.decode c) (groupSum s)).1).1
    accumulate f wide z n (a.drop z) (b.drop z) r

end Sys2Proof.Machine
end

