-- ==== Sys2Proof/Machine/Engines.lean ====
section
/-! DEFINITION. What the engines share: their accesses to ranges of bytes, each checked as one (R38, R252, R263, R277), the bytes
that R4 leaves open, and the records of their failures (R139, R257). -/

namespace Sys2Proof.Machine

/-- Where a load pipe and a drain may read and store: unit 1 and unit 2 (R252, R277). -/
def pipeAllows (m : Mesh) : Bool := decide (m.unit = 1 ∨ m.unit = 2)
/-- Where a copy may read and write: the user region of a TCM, and units 1 to 3 (R263). -/
def copyAllows (m : Mesh) : Bool := decide (m.unit = 1 ∨ m.unit = 2 ∨ m.unit = 3) || decide (m.unit = 0 ∧ m.offset < 0x39800)
/-- Where a block transfer may read and write: unit 2 (R264). -/
def transferAllows (m : Mesh) : Bool := decide (m.unit = 2)

/-- The places of n bytes from an address, which are checked as one access; or the failure that R38 puts first, with the lowest byte that meets
it. -/
def State.locate (s : State) (core : Nat) (acc : Acc) (allows : Mesh → Bool) : Nat → Word → Except (Nat × Word) (List Place)
  | 0, _ => .ok []
  | n + 1, a =>
    match s.reachIf core a 1 acc allows, State.locate s core acc allows n (a + 1) with
    | .ok p, .ok l => .ok (p :: l)
    | .ok _, .error e => .error e
    | .error c, .ok _ => .error (c, a)
    | .error c, .error e => .error (if causeRank e.1 < causeRank c then e else (c, a))

/-- The first place of a list that a test finds, as the failure MEMERR of its byte from an address on. -/
def firstError (p : Place → Bool) (a : Word) (l : List Place) : Except (Nat × Word) Unit :=
  match l.findIdx? p with
  | some i => .error (causeMemerr, a + BitVec.ofNat 64 i)
  | none => .ok ()

/-- n bytes from an address, with the places they lie at; or the first failure of their checks (R38), or the first byte that is poisoned. -/
def State.readRange (s : State) (core : Nat) (acc : Acc) (allows : Mesh → Bool) (n : Nat) (a : Word) :
    Except (Nat × Word) (List (Place × Byte)) :=
  match s.locate core acc allows n a with
  | .error e => .error e
  | .ok l =>
    match firstError (fun p => s.poisonedAt p 1) a l with
    | .error e => .error e
    | .ok _ => .ok (l.map fun p => (p, BitVec.ofNat 8 (s.readPlace p 1)))

/-- The places of n bytes from an address that are to be written; or the first failure of their checks (R38), or the first byte that lies in a
failed CXL set (R230). -/
def State.placeRange (s : State) (core : Nat) (acc : Acc) (allows : Mesh → Bool) (n : Nat) (a : Word) : Except (Nat × Word) (List Place) :=
  match s.locate core acc allows n a with
  | .error e => .error e
  | .ok l =>
    match firstError s.writeFails a l with
    | .error e => .error e
    | .ok _ => .ok l

/-- Write bytes at places, one by one. -/
def State.writeBytes (s : State) : List (Place × Byte) → State
  | [] => s
  | (p, b) :: r => State.writeBytes (s.writePlace p 1 b.toNat) r

/-- The key of a place in this package. -/
def Place.key? : Place → Option Nat
  | .here k _ => some k
  | .peer _ _ => none

/-- A row of bytes is written at places: lines that it covers whole lose their poison (R213). -/
def State.writeRow (s : State) (places : List Place) (l : List Byte) : State :=
  let s := s.writeBytes (places.zip l)
  match places.head?.bind Place.key?, places.getLast?.bind Place.key? with
  | some k, some e => if e + 1 = k + places.length then s.clearPoison k places.length else s
  | _, _ => s

/-- Bytes that R4 leaves open: each key of a list takes a free value of this step (DESIGN CHOICE log 12), but none where a write is not
performed (R187, R230): nothing of another capsule changes (R4). -/
def State.openBytes (s : State) : List Nat → State
  | [] => s
  | k :: r => State.openBytes (s.ownWrite k [Config.freeByte s.steps k]) r

/-- Bit 3 of the header flags: a fault ends the firing only (R173). -/
def Capsule.onFiring (c : Capsule) : Bool := decide (bits c.image.flags 3 3 = 1)

/-- An engine's fault record (R139): its cause with the sub-cause in bits 15:8, and the timeline of its operation. -/
def State.engineRecord (s : State) (cap thread cause : Nat) (code value : Word) (channel number : Nat) : Record :=
  s.recordOf cap 1 cause code value (extentIndex (s.cap cap) cause value) (s.originOf thread)
    (BitVec.ofNat 64 (channel * 2 ^ 60 + number))

end Sys2Proof.Machine
end

