-- ==== Sys2Proof/Machine/Tcw.lean ====
section
/-! DEFINITION. Tile command words (R42 to R45, R85, R253, R280), the matrix queues (R249, R250), and the end of a TCW, by its
completion or a fault (R246, R257). -/

namespace Sys2Proof.Machine

/-! ### Fields (R42, R44) -/

def tcwTop (t : Nat) : Nat := bits t 7 0
def tcwAfmtc (t : Nat) : Nat := bits t 11 8
def tcwBfmt (t : Nat) : Nat := bits t 15 12
def tcwAfmt (t : Nat) : Nat := bits t 19 16
def tcwAcc (t : Nat) : Nat := bits t 20 20
def tcwSpa (t : Nat) : Nat := bits t 21 21
def tcwN4 (t : Nat) : Nat := bits t 22 22
def tcwTrb (t : Nat) : Nat := bits t 23 23
def tcwTile (t : Nat) : Nat := bits t 30 24
def tcwDrain (t : Nat) : Nat := bits t 39 32
def tcwK (t : Nat) : Nat := bits t 63 48
def tcwAaddr (t : Nat) : Word := BitVec.ofNat 64 (bits t 127 64)
def tcwBaddr (t : Nat) : Word := BitVec.ofNat 64 (bits t 191 128)
def tcwAstride (t : Nat) : Nat := bits t 215 192
def tcwBstride (t : Nat) : Nat := bits t 239 216
def tcwTlinc (t : Nat) : Nat := bits t 251 248
/-- The kept positions of 16 of a sparse A (R83). -/
def tcwKeep (t : Nat) : Nat := if tcwN4 t = 1 then 4 else 8

/-- The parameters of an mdparm (R44). -/
def tcwParams (t : Nat) : Params where
  outbase := BitVec.ofNat 64 (bits t 127 64)
  rowbase := BitVec.ofNat 64 (bits t 191 128)
  colbase := BitVec.ofNat 64 (bits t 255 192)
  outstride := bits t 63 40
  outfmt := bits t 39 32

/-- The accumulator format, its size, and the rows of a tile (R29, R247). -/
def tcwFmt (t : Nat) : Fmt := if tcwAfmt t = 2 then fmt64 else fmt32
def tcwSize (t : Nat) : Nat := if tcwAfmt t = 2 then 8 else 4
def tcwRows (t : Nat) : Nat := if tcwAfmt t = 2 then 16 else 32

/-- The fields that an operation uses (R43, R44). -/
def tcwUsed (top : Nat) : List (Nat × Nat) :=
  let multiply := [(7, 0), (11, 8), (15, 12), (19, 16), (20, 20), (23, 23), (30, 24), (39, 32), (63, 48), (127, 64), (191, 128),
    (215, 192), (239, 216), (251, 248)]
  if top = 1 then multiply
  else if top = 2 then (22, 22) :: (21, 21) :: multiply
  else if top = 3 then [(7, 0), (19, 16), (30, 24), (251, 248)]
  else if top = 4 then [(7, 0), (19, 16), (30, 24), (127, 64), (215, 192), (251, 248)]
  else if top = 5 then [(7, 0), (19, 16), (30, 24), (39, 32), (251, 248)]
  else if top = 6 then [(7, 0), (39, 32), (63, 48), (127, 64), (251, 248)]
  else if top = 7 then [(7, 0), (251, 248)]
  else [(7, 0), (39, 32), (63, 40), (127, 64), (191, 128), (255, 192)]

/-- Whether every bit outside the fields that its operation uses is zero (R43, R45). -/
def tcwUnusedZero (t : Nat) : Bool :=
  decide (t = ((tcwUsed (tcwTop t)).map fun f => bits t f.1 f.2 * 2 ^ f.2).foldl (· + ·) 0)

/-! ### Refusals at qpush -/

/-- Bytes of a row of A (R74, R83, R253). -/
def tcwARow (t : Nat) : Nat :=
  if tcwTop t = 2 then sparseBytes (tcwAfmtc t) (tcwK t) (tcwKeep t) else rowBytes (tcwAfmtc t) (tcwK t)

/-- Whether the formats of A and B suit each other and the accumulator (R85); b is B's resolved format. -/
def formatsOk (t b : Nat) : Bool :=
  match fmtClass (tcwAfmtc t), fmtClass b with
  | .wide, .wide => decide (tcwTop t = 1 ∧ tcwAfmtc t = b ∧ tcwAfmt t = 3 - b)
  | .half, .half | .mx, .mx | .bfp, .bfp => true
  | .wide, _ | .half, _ | .mx, _ | .bfp, _ | .none, _ | .extended, _ => false

/-- The limits of an mma or mmas (R83, R253); b is B's resolved format. -/
def multiplyOk (t b : Nat) : Bool :=
  let k := tcwK t
  let trb := decide (tcwTrb t = 1)
  let scaled := decide (fmtBlock b ≠ 0)
  decide (k ≠ 0 ∧ (tcwAaddr t).toNat % 8 = 0 ∧ (tcwBaddr t).toNat % 8 = 0 ∧ tcwAstride t % 8 = 0 ∧ tcwBstride t % 8 = 0) &&
  (decide (tcwTop t = 1) || decide (k % 16 = 0)) && decide (tcwARow t ≤ tcwAstride t) && !(trb && scaled) &&
  decide ((if trb then 32 * fmtWidth b / 8 else rowBytes b k) ≤ tcwBstride t) && formatsOk t b

/-- The limits of an mdparm (R280). -/
def paramsOk (p : Params) : Bool :=
  decide (p.outfmt < 0x12 ∧ p.outbase.toNat % 8 = 0 ∧ p.rowbase.toNat % 8 = 0 ∧ p.colbase.toNat % 8 = 0) &&
  (if p.outfmt = 0 then decide (p.outstride = 0) else decide (p.outstride % 8 = 0 ∧ rowBytes p.outfmt 32 ≤ p.outstride))

/-- Whether qpush accepts a TCW (R45, R85, R253, R280); b is B's resolved format, none when baddr names no bat. -/
def tcwOk (t : Nat) (b : Option Nat) : Bool :=
  let top := tcwTop t
  let afmt := decide (tcwAfmt t = 1 ∨ tcwAfmt t = 2)
  tcwUnusedZero t &&
  (if top = 1 ∨ top = 2 then
     afmt && decide (tcwSpa t = top - 1 ∧ tcwAfmtc t ≠ 0) &&
     (match b with
      | some b => multiplyOk t b
      | none => false)
   else if top = 3 then afmt
   else if top = 4 then
     afmt && decide ((tcwAaddr t).toNat % 8 = 0 ∧ tcwAstride t % 8 = 0 ∧ 32 * tcwSize t ≤ tcwAstride t)
   else if top = 5 then afmt && decide (tcwDrain t ≠ 0xFF)
   else if top = 6 then decide (1 ≤ tcwK t ∧ tcwK t ≤ 32 ∧ (tcwAaddr t).toNat % 4 = 0)
   else if top = 7 then true
   else if top = 8 then paramsOk (tcwParams t)
   else false)

/-- The bat format of a scratchpad address that a core's TCW or copy names (R27, R45, R262): the BFMT of the cluster that holds it,
none when the address names no bat. A bat of another package has a free format (DESIGN CHOICE log 8). -/
def State.batFormat (s : State) (core : Nat) (a : Word) : Option Nat :=
  if a.toNat < 2 ^ 63 ∨ bits a.toNat 37 35 ≠ 1 then none
  else
    match s.resolve core a 1 with
    | none => none
    | some m =>
      if m.package ≠ coordField (s.core core).coord 23 12 then some ((Config.peerByte s.steps a.toNat).toNat % 16)
      else some ((sget 0 (s.cluster ((s.cap (s.capOf core)).clusterFor m)).bfmt (m.offset / 2 ^ 18)).toNat % 16)

/-- B's resolved format (R45, R252). -/
def State.tcwB (s : State) (core t : Nat) : Option Nat :=
  if tcwBfmt t ≠ 0 then some (tcwBfmt t) else s.batFormat core (tcwBaddr t)

/-- Whether a TCW writes its tile (R29). -/
def tcwWrites (t : Nat) : Bool := decide (1 ≤ tcwTop t ∧ tcwTop t ≤ 4)

/-- Whether a TCW runs a drain program (R248, R254). -/
def tcwDrains (t : Nat) : Bool := decide (tcwTop t = 5) || (decide (tcwTop t ≤ 2) && decide (tcwDrain t ≠ 0xFF))

/-! ### Queues -/

/-- Replace a slot of a core's queue. -/
def State.setSlot (s : State) (core i : Nat) (x : Slot) : State :=
  s.setCore core { s.core core with slots := (s.core core).slots.set i x }

/-- A TCW is accepted (R246, R248, R266): an mdparm changes the latched parameters only; any other takes its numbers and a slot. -/
def State.acceptTcw (s : State) (t : Nat) (b : Option Nat) : State :=
  if tcwTop t = 8 then s.setCore (coreOf s.who) { s.myCore with params := tcwParams t }
  else
    let core := coreOf s.who
    let n := tcwTlinc t
    let next := s.myCore.lastIssued 4 + 1
    let latched := if tcwTop t ≤ 2 ∧ tcwBfmt t = 0 then t + 2 ^ 12 * b.getD 0 else t
    let slot : Slot :=
      { tcw := latched, params := if tcwDrains t then s.myCore.params else Params.reset, rowProgress := 0, state := .queued,
        first := if n = 0 then 0 else next, code := s.me.pc, thread := s.who }
    let s := (if n = 0 then s else s.takeNumbers 4 n).addCount s.myCap 1
    let s := s.setCore core { s.core core with slots := (s.core core).slots ++ [slot] }
    if tcwWrites t then
      let cl := clusterOf core
      let k := s.cluster cl
      s.setCluster cl { k with openTiles := k.openTiles ++ [⟨tcwTile t, core, next, false⟩] }
    else s

/-- qpush (R246): Reads a TCW, checks it and enqueues it in the core's matrix queue. -/
def execQpush (a : G) (la : La) (s : State) : Result :=
  let word := encM 0x44 0 la 0 a 0
  s.issueRelease ((useG word [a]).bar.ill (decide (s.role = 2))) fun s =>
    let core := coreOf s.who
    let x := s.rg a
    match s.access core x 32 accLoad with
    | .error cause => s.takeTrap cause x
    | .ok p =>
      if s.poisonedAt p 32 then s.memErr x
      else
        let t := s.readPlace p 32
        let b := s.tcwB core t
        if !tcwOk t b then s.takeTrap causeIllegal (BitVec.ofNat 64 word)
        else if 16 ≤ s.myCore.slots.length then .next (s.hold .matrixRoom)
        else .next ((s.acceptTcw t b).finishOpen la)

/-- The status word of a matrix queue (R260). -/
def Core.qstatWord (c : Core) : Word :=
  let l := c.slots.filter fun x => decide (x.state = .faulted)
  let num := (l.head?.map Slot.first).getD 0 % 2 ^ 48
  BitVec.ofNat 64 (num * 2 ^ 16 + l.length * 2 ^ 6 + (if l.isEmpty then 0 else 2 ^ 5) + c.slots.length)

/-- qstat (R260): Reads the core's matrix queue status word. -/
def execQstat (d : G) (s : State) : Result :=
  s.issue ((useG (encR 0x45 0 d 0 0) [d]).ill (decide (s.role = 2))) fun s => .next (s.wg d s.myCore.qstatWord).retire

/-- qstat.clr (R260): Reads the matrix queue status word and empties every FAULTED slot. -/
def execQstatClr (d : G) (s : State) : Result :=
  s.issue ((useG (encR 0x45 1 d 0 0) [d]).ill (decide (s.role = 2))) fun s =>
    let w := s.myCore.qstatWord
    let c := s.myCore
    let s := s.setCore (coreOf s.who) { c with slots := c.slots.filter fun x => decide (x.state ≠ .faulted) }
    .next (s.wg d w).retire

/-! ### The arbiter (R250) -/

/-- The head of a queue: its oldest QUEUED slot. -/
def Core.head (c : Core) : Option Nat := c.slots.findIdx? fun x => decide (x.state = .queued)

/-- Whether the array is free: no TCW of the cluster is in MULTIPLY, and none has ended its capsule (R250, R257). -/
def State.arrayFree (s : State) (cl : Nat) : Bool :=
  (List.range 8).all fun q => (s.core (cl * 8 + q)).slots.all fun x => decide (x.state ≠ .multiply ∧ x.state ≠ .ending)

/-- The TCW of a cluster that is in MULTIPLY, if one is: its queue and slot. -/
def State.inMultiply (s : State) (cl : Nat) : Option (Nat × Nat) :=
  (List.range 8).findSome? fun q => ((s.core (cl * 8 + q)).slots.findIdx? fun x => decide (x.state = .multiply)).map fun i => (q, i)

/-- The arbiter's choice: the queue, its head's slot, and the new credit (R250). -/
def State.pick (s : State) (cl : Nat) : Option (Nat × Nat × Nat) :=
  let k := s.cluster cl
  let other := fun (_ : Unit) =>
    ((List.range 8).findSome? fun d =>
      let q := (k.cur + 1 + d) % 8
      (s.core (cl * 8 + q)).head.map fun i => (q, i, 1))
  if !s.arrayFree cl then none
  else
    match (s.core (cl * 8 + k.cur)).head with
    | some i => if k.credit < (s.core (cl * 8 + k.cur)).mqw.toNat then some (k.cur, i, k.credit + 1) else other ()
    | none => other ()

/-! ### The end of a TCW -/

/-- Bytes of the tile of a TCW: their key. -/
def tileKey (core t : Nat) : Nat := accKey (clusterOf core) (tcwTile t * 4096)

/-- The numbers of a TCW complete and its unit goes (R246). -/
def State.completeTcw (s : State) (core : Nat) (x : Slot) : State :=
  let s := (List.range (tcwTlinc x.tcw)).foldl (fun acc i => State.completeNumber acc core 4 (x.first + i)) s
  s.subCount (s.capOf core) 1

/-- The work of a TCW is done: it waits for its completion (R246). -/
def State.finishTcw (s : State) (core i : Nat) (x : Slot) : State := s.setSlot core i { x with state := .finished }

/-- The number in a TCW's fault record (R257): its first, or for tlinc 0 the first taken on its queue after it. (DEDUCED log 66) -/
def Core.slotNumber (c : Core) (i : Nat) : Nat :=
  (((c.slots.drop i).find? fun x => decide (x.first ≠ 0)).map Slot.first).getD 0

/-- The value of a DRAIN fault (R257, R278). -/
def drainValue (tile i j : Nat) : Word := BitVec.ofNat 64 (tile * 2 ^ 32 + i * 2 ^ 16 + j)

/-- The finished TCWs of a queue before slot i complete, so that numbers complete in push order (R246). -/
def State.completeBefore (s : State) (core i : Nat) : State :=
  let c := s.core core
  let done := (c.slots.take i).filter fun x => decide (x.state = .finished)
  let rest := (c.slots.take i).filter (fun x => decide (x.state ≠ .finished)) ++ c.slots.drop i
  done.foldl (fun acc x => State.completeTcw acc core x) (s.setCore core { c with slots := rest })

/-- Where slot i of a queue stands once the finished TCWs before it have completed. -/
def Core.slotAfter (c : Core) (i : Nat) : Nat := ((c.slots.take i).filter fun x => decide (x.state ≠ .finished)).length

/-- A failure of an accepted TCW (R257). DRAIN under header flag bit 3 leaves the capsule running: the slot is FAULTED, its numbers
complete behind those of the earlier TCWs of its queue, and its tile and the bytes that its drain would have stored are open. Every other
failure ends the capsule, and nothing more starts. -/
def State.tcwFault (s : State) (core i : Nat) (x : Slot) (cause sub : Nat) (value : Word) (stores : List Nat) : State :=
  let cap := s.capOf core
  let r := s.engineRecord cap x.thread (cause + 256 * sub) x.code value 4 ((s.core core).slotNumber i)
  let cl := clusterOf core
  let s := s.setCluster cl { s.cluster cl with drain := none }
  if decide (cause = causeDrain) && (s.cap cap).onFiring then
    let s := s.report cap r
    let s := (s.completeBefore core i).setSlot core ((s.core core).slotAfter i) { x with state := .faulted }
    let s := if tcwTop x.tcw = 6 then s else s.scramble (tileKey core x.tcw)
    (s.openBytes stores).completeTcw core x
  else (s.setSlot core i { x with state := .ending }).failCapsule cap r

/-- TCW_COMPLETION (R246): A TCW completes, its numbers complete in push order and its slot empties. -/
def execTcwCompletion (core : Nat) (s : State) : Result :=
  let c := s.core core
  match c.slots.findIdx? fun x => decide (x.state = .finished) with
  | none => .next s
  | some i =>
    match c.slots[i]? with
    | none => .next s
    | some x => .next ((s.setCore core { c with slots := c.slots.eraseIdx i }).completeTcw core x)

end Sys2Proof.Machine
end

