-- ==== Sys2Proof/Machine/Glaze.lean ====
section
/-! DEFINITION. Drain programs (R242, R243, R267 to R281): the sources and results of a segment, its stores, and the Glaze
operations. A Glaze operation acts on the drain in progress in the issuing thread's cluster; without one it has no effect. -/

namespace Sys2Proof.Machine

/-! ### The words of a program -/

/-- Word n of drain memory, counted modulo 2,048 (R267). -/
def Cluster.drainWord (k : Cluster) (n : Nat) : Nat := (sget 0 k.drainMem (n % 2048)).toNat

/-- Whether a Glaze word is valid (R271, R272): its operation, the fields it uses, and zeros in every other field. -/
def glazeValid (w : Nat) : Bool :=
  let gop := bits w 7 0
  let d := decide (bits w 11 8 ≤ 8)
  let a := decide (bits w 16 12 ≤ 0x12)
  let b := decide (bits w 21 17 ≤ 0x12)
  let c := decide (bits w 26 22 ≤ 0x12)
  let noC := decide (bits w 26 22 = 0)
  let noB := noC && decide (bits w 21 17 = 0)
  let noA := noB && decide (bits w 16 12 = 0)
  let noD := decide (bits w 11 8 = 0)
  let m := bits w 31 27
  let plain := decide (m = 0)
  decide (w < 2 ^ 32) &&
  (if (1 ≤ gop ∧ gop ≤ 3) ∨ gop = 5 ∨ gop = 6 then d && a && b && noC && plain
   else if gop = 4 ∨ gop = 8 then d && a && b && c && plain
   else if gop = 7 ∨ (9 ≤ gop ∧ gop ≤ 0xD) then d && a && noB && plain
   else if gop = 0xE then d && a && b && c && decide (m < 4)
   else if gop = 0xF ∨ gop = 0x10 then d && noA
   else if gop = 0x11 then d && a && noB && decide (1 ≤ m ∧ m ≤ 4)
   else if 0x12 ≤ gop ∧ gop ≤ 0x14 then noD && a && noB && plain
   else if gop = 0x15 then noD && a && noB && decide (m % 4 < 3)
   else if gop = 0x16 then noD && noA && plain
   else false)

/-- The position of the first gz.end among the 32 words from a word of drain memory (R270). -/
def Cluster.endAt (k : Cluster) (base : Nat) : Option Nat := (List.range 32).find? fun n => decide (k.drainWord (base + n) % 256 = 0x16)

/-! ### The segment in progress -/

/-- The drain of a cluster with its queue's slot. -/
structure Segment where
  cl : Nat
  core : Nat
  at_ : Nat
  slot : Slot
  d : Drain
  deriving DecidableEq, Repr

/-- The drain in progress in a cluster. -/
def State.segmentOf (s : State) (cl : Nat) : Option Segment :=
  match (s.cluster cl).drain with
  | none => none
  | some d =>
    match (s.core d.core).slots.findIdx? fun x => decide (x.state = .drain) with
    | none => none
    | some i => ((s.core d.core).slots[i]?).map fun x => ⟨cl, d.core, i, x, d⟩

/-- The working format (R270). -/
def Segment.fmt (g : Segment) : Fmt := tcwFmt g.slot.tcw
/-- Its size in bytes. -/
def Segment.size (g : Segment) : Nat := tcwSize g.slot.tcw
/-- The first word of the program. -/
def Segment.base (g : Segment) : Nat := 8 * tcwDrain g.slot.tcw

/-- Put the segment's progress back. -/
def State.putDrain (s : State) (g : Segment) (d : Drain) : State := s.setCluster g.cl { s.cluster g.cl with drain := some d }

/-- Rows of 32 elements from a row of the tile (R29). -/
def State.tileRow (s : State) (g : Segment) (row : Nat) : List Word :=
  (List.range 32).map fun j => BitVec.ofNat 64 (s.bytes (tileKey g.core g.slot.tcw + (row * 32 + j) * g.size) g.size)

/-- A row's segment at its start (R243, R270). -/
def State.newSegment (s : State) (g : Segment) (row : Nat) : Drain := ⟨g.core, row, 0, s.tileRow g row, [], none, [], 0⟩

/-! ### Faults -/

/-- The keys of the places that a range of a drain's store would have reached. -/
def State.rangeKeys (s : State) (core n : Nat) (a : Word) : List Nat :=
  match s.placeRange core accStore pipeAllows n a with
  | .ok l => l.filterMap Place.key?
  | .error _ => []

/-- The address of an element or row of a drain's store (R274). -/
def Segment.outAt (g : Segment) (row offset : Nat) : Word :=
  g.slot.params.outbase + BitVec.ofNat 64 (row * g.slot.params.outstride + offset)

/-- The address of element i of row vector n (R272, R275). -/
def Segment.rowAt (g : Segment) (n row : Nat) : Word := g.slot.params.rowbase + BitVec.ofNat 64 ((32 * n + row) * g.size)

/-- The ranges that a store word stores to in a row of the tile: address and length (R274, R275). -/
def Segment.targets (g : Segment) (w row : Nat) : List (Word × Nat) :=
  let f := g.slot.params.outfmt
  let b := fmtWidth f / 8
  if bits w 7 0 = 0x13 ∧ f ≠ 0 then [(g.outAt row 0, rowBytes f 32)]
  else if bits w 7 0 = 0x14 ∧ 1 ≤ f ∧ f ≤ 4 then (List.range 32).map fun j => (g.outAt j (row * b), b)
  else if bits w 7 0 = 0x15 then [(g.rowAt (bits w 31 29) row, g.size)]
  else []

/-- The bytes that a drain would still have stored from its faulting word on (R257). (DESIGN CHOICE log 60) -/
def State.restOfDrain (s : State) (g : Segment) : List Nat :=
  let k := s.cluster g.cl
  let last := (k.endAt g.base).getD 32
  let rows := (List.range (tcwRows g.slot.tcw)).filter fun i => decide (g.d.row ≤ i)
  rows.flatMap fun i =>
    let words := (List.range last).filter fun n => decide (g.d.row < i ∨ g.d.word ≤ n)
    words.flatMap fun n => (g.targets (k.drainWord (g.base + n)) i).flatMap fun t => s.rangeKeys g.core t.2 t.1

/-- A fault of a drain's own (R278): its sub-cause, and i and j of its value. -/
def State.glazeFault (s : State) (g : Segment) (sub i j : Nat) : State :=
  s.tcwFault g.core g.at_ g.slot causeDrain sub (drainValue (tcwTile g.slot.tcw) i j) (s.restOfDrain g)

/-- A fault of an access of a drain (R257, R277). -/
def State.glazeAccess (s : State) (g : Segment) (e : Nat × Word) : State := s.tcwFault g.core g.at_ g.slot e.1 0 e.2 []

/-- A segment reads its row of the tile and stands as d says, unless the row holds poison (R213, R257). -/
def State.enterSegment (s : State) (g : Segment) (d : Drain) : State :=
  let offset := tcwTile g.slot.tcw * 4096 + d.row * 32 * g.size
  if s.poisoned (accKey g.cl offset) (32 * g.size) then
    s.glazeAccess g (causeMemerr, s.meshOf g.core 3 (offset + s.firstPoison (accKey g.cl offset) (32 * g.size)))
  else s.putDrain g d

/-- A segment begins. -/
def State.openSegment (s : State) (g : Segment) (row : Nat) : State := s.enterSegment g (s.newSegment g row)

/-! ### Sources (R270) -/

/-- n values of the working format from an address. -/
def State.readValues (s : State) (g : Segment) (n : Nat) (a : Word) : Except (Nat × Word) (List Word) :=
  match s.readRange g.core accLoad pipeAllows (n * g.size) a with
  | .error e => .error e
  | .ok l => .ok ((List.range n).map fun j => BitVec.ofNat 64 (fieldB (l.map Prod.snd) (j * g.size) g.size))

/-- A memory source of the segment, read once per segment (R270): row vector n at key n, column vector n at key 32 + n. (DEDUCED log 58) -/
def State.memSource (s : State) (g : Segment) (key : Nat) : Except (Nat × Word) (Segment × List Word) :=
  match sget [] g.d.cache key with
  | v :: r => .ok (g, v :: r)
  | [] =>
    let got :=
      if key < 32 then (s.readValues g 1 (g.rowAt key g.d.row)).map fun l => List.replicate 32 (l.headD 0)
      else s.readValues g 32 (g.slot.params.colbase + BitVec.ofNat 64 (32 * (key - 32) * g.size))
    match got with
    | .error e => .error e
    | .ok l => .ok ({ g with d := { g.d with cache := sset [] g.d.cache key l } }, l)

/-- A value as a pattern of the working format. -/
def Segment.exact (g : Segment) (v : Num) : Word := BitVec.ofNat 64 (roundNum g.fmt 0 v).1

/-- Constant word n of the program, widened (R270). -/
def State.constant (s : State) (g : Segment) (n : Nat) : Word :=
  match (s.cluster g.cl).endAt g.base with
  | none => 0
  | some p =>
    let w := (s.cluster g.cl).drainWord (g.base + p + 1 + n)
    if g.size = 4 then BitVec.ofNat 64 w else g.exact (fmt32.decode w)

/-- The 32 values of w register n. -/
def Drain.reg (d : Drain) (n : Nat) : List Word :=
  match sget [] d.w n with
  | [] => List.replicate 32 0
  | v :: r => v :: r

/-- The 32 values of a source (R270). -/
def State.source (s : State) (g : Segment) (code : Nat) : Except (Nat × Word) (Segment × List Word) :=
  if code = 0 then .ok (g, g.d.e)
  else if code ≤ 8 then .ok (g, g.d.reg (code - 1))
  else if code = 9 then s.memSource g 0
  else if code = 10 then s.memSource g 32
  else if code ≤ 14 then .ok (g, List.replicate 32 (s.constant g (code - 11)))
  else if code = 15 then .ok (g, List.replicate 32 (g.exact (Num.ofInt g.d.row)))
  else if code = 16 then .ok (g, (List.range 32).map fun (j : Nat) => g.exact (Num.ofInt j))
  else if code = 17 then .ok (g, List.replicate 32 0)
  else .ok (g, List.replicate 32 (g.exact (Num.ofInt 1)))

/-! ### Operations -/

/-- The segment goes on at its next word. -/
def State.nextWord (s : State) (g : Segment) : State := s.putDrain g { g.d with word := g.d.word + 1 }

/-- Write e or a w register (R242). -/
def Segment.write (g : Segment) (dst : Nat) (l : List Word) : Segment :=
  if dst = 0 then { g with d := { g.d with e := l } }
  else { g with d := { g.d with w := sset [] g.d.w (dst - 1) l } }

/-- A Glaze operation on the drain in progress, if there is one. -/
def State.onSegment (s : State) (f : Segment → State) : Result :=
  match s.segmentOf s.myCluster with
  | none => .next s
  | some g => .next (f g)

/-- Read a source and go on with its values, or take its fault. -/
def State.withSource (s : State) (g : Segment) (a : Nat) (f : Segment → List Word → State) : State :=
  match s.source g a with
  | .error e => s.glazeAccess g e
  | .ok r => f r.1 r.2

/-- D ← f A on every element. -/
def State.gz1 (s : State) (d a : Nat) (f : Fmt → Nat → Nat) : Result :=
  s.onSegment fun g => s.withSource g a fun g x =>
    s.nextWord (g.write d (x.map fun v => BitVec.ofNat 64 (f g.fmt v.toNat)))

/-- D ← f A B on every element. -/
def State.gz2 (s : State) (d a b : Nat) (f : Fmt → Nat → Nat → Nat) : Result :=
  s.onSegment fun g => s.withSource g a fun g x => s.withSource g b fun g y =>
    s.nextWord (g.write d ((x.zip y).map fun v => BitVec.ofNat 64 (f g.fmt v.1.toNat v.2.toNat)))

/-- D ← f A B C on every element. -/
def State.gz3 (s : State) (d a b c : Nat) (f : Fmt → Nat → Nat → Nat → Nat) : Result :=
  s.onSegment fun g => s.withSource g a fun g x => s.withSource g b fun g y => s.withSource g c fun g z =>
    s.nextWord (g.write d ((x.zip (y.zip z)).map fun v => BitVec.ofNat 64 (f g.fmt v.1.toNat v.2.1.toNat v.2.2.toNat)))

/-- min and max of R272, without flags. -/
def gmin (f : Fmt) (x y : Nat) : Nat := (fminmax f false x y).1
def gmax (f : Fmt) (x y : Nat) : Nat := (fminmax f true x y).1

/-- gz.add (R272): Rounded sum. -/
def execGzAdd (d : GDst) (a b : GSrc) (s : State) : Result := s.gz2 d a b fun f x y => (fadd f 0 x y).1
/-- gz.sub (R272): Rounded difference. -/
def execGzSub (d : GDst) (a b : GSrc) (s : State) : Result := s.gz2 d a b fun f x y => (fsub f 0 x y).1
/-- gz.mul (R272): Rounded product. -/
def execGzMul (d : GDst) (a b : GSrc) (s : State) : Result := s.gz2 d a b fun f x y => (fmul f 0 x y).1
/-- gz.fma (R272): Product and sum with one rounding. -/
def execGzFma (d : GDst) (a b c : GSrc) (s : State) : Result := s.gz3 d a b c fun f x y z => (ffma f 0 false false x y z).1
/-- gz.min (R272): Minimum. -/
def execGzMin (d : GDst) (a b : GSrc) (s : State) : Result := s.gz2 d a b gmin
/-- gz.max (R272): Maximum. -/
def execGzMax (d : GDst) (a b : GSrc) (s : State) : Result := s.gz2 d a b gmax

/-- A if A > 0; +0 if A is zero or negative; the canonical NaN for a NaN (R243). -/
def grelu (f : Fmt) (x : Nat) : Nat :=
  let v := f.decode x
  if v.isNan then f.qnan else if v.isZero || signOf f x then 0 else x

/-- gz.relu (R243): Keeps positive values. -/
def execGzRelu (d : GDst) (a : GSrc) (s : State) : Result := s.gz1 d a grelu
/-- gz.clamp (R272): min(max(A, B), C). -/
def execGzClamp (d : GDst) (a b c : GSrc) (s : State) : Result := s.gz3 d a b c fun f x y z => gmin f (gmax f x y) z

/-- A with another sign; the canonical NaN for a NaN (R272). -/
def gsign (neg : Bool → Bool) (f : Fmt) (x : Nat) : Nat :=
  if (f.decode x).isNan then f.qnan else withSign f x (neg (signOf f x))

/-- gz.abs (R272): Clears the sign. -/
def execGzAbs (d : GDst) (a : GSrc) (s : State) : Result := s.gz1 d a (gsign fun _ => false)
/-- gz.neg (R272): Inverts the sign. -/
def execGzNeg (d : GDst) (a : GSrc) (s : State) : Result := s.gz1 d a (gsign fun n => !n)

/-! ### 2^A, 1 / A and 1 / √A (R273) -/

/-- Bits of precision that 2^A is formed with (DESIGN CHOICE log 22). -/
def expBits : Nat := 320

/-- 2^(f / 2^k) × 2^expBits for f below 2^k, from the roots of 2: root is 2^(2^-(k − n)) as far as n bits of f remain. -/
def powFrac (f : Nat) : Nat → Nat → Nat → Nat
  | 0, _, acc => acc
  | n + 1, root, acc =>
    let root := isqrt (root * 2 ^ expBits)
    powFrac f n root (if f / 2 ^ n % 2 = 1 then acc * root / 2 ^ expBits else acc)

/-- 2^A as a value, with a sticky bit below its precision when A is no integer. -/
def exp2Exact (v : Num) : Num :=
  match v with
  | .nan _ => .nan false
  | .inf n => if n then .fin false 0 0 else .inf false
  | .fin n m e =>
    if m = 0 then .fin false 1 0
    else if 12 < (bitLen m : Int) + e then .fin false 1 (if n then -5000 else 5000)
    else if (bitLen m : Int) + e < -60 then .fin false 1 0
    else
      let k := (-e).toNat
      let i : Int := if 0 ≤ e then m * 2 ^ e.toNat else m
      let i := if n then -i else i
      let whole := i / 2 ^ k
      let frac := (i % 2 ^ k).toNat
      if frac = 0 then .fin false 1 whole
      else .fin false (2 * powFrac frac k (2 * 2 ^ expBits) (2 ^ expBits) + 1) (whole - expBits - 1)

/-- 1 / √A as a value, with a sticky bit below its precision. -/
def rsqExact (v : Num) : Num :=
  match v with
  | .nan _ => .nan false
  | .inf n => if n then .nan false else .fin false 0 0
  | .fin n m e =>
    if m = 0 then .inf n
    else if n then .nan false
    else
      let odd := (e % 2).toNat
      let m' := m * 2 ^ odd
      let h := (e - odd) / 2
      let q := isqrt (2 ^ 512 / m')
      .fin false (2 * q + (if q * q * m' = 2 ^ 512 then 0 else 1)) (-h - 257)

/-- gz.exp2 (R273): 2^A rounded once. -/
def execGzExp2 (d : GDst) (a : GSrc) (s : State) : Result :=
  s.gz1 d a fun f x => (roundNum f 0 (exp2Exact (f.decode x))).1
/-- gz.rcp (R273): 1 / A rounded once. -/
def execGzRcp (d : GDst) (a : GSrc) (s : State) : Result :=
  s.gz1 d a fun f x => (roundNum f 0 (divExact (.fin false 1 0) (f.decode x)).1).1
/-- gz.rsq (R273): 1 / √A rounded once. -/
def execGzRsq (d : GDst) (a : GSrc) (s : State) : Result :=
  s.gz1 d a fun f x => (roundNum f 0 (rsqExact (f.decode x))).1

/-- The condition of gz.sel on C (R272): 0 gt, 1 ge, 2 eq, 3 un. -/
def gcond (cc : Nat) (f : Fmt) (x : Nat) : Bool :=
  let v := f.decode x
  if cc = 3 then v.isNan
  else if v.isNan then false
  else if cc = 2 then v.isZero
  else if cc = 1 then v.isZero || !signOf f x
  else !v.isZero && !signOf f x

/-- gz.sel (R272): A when C meets the condition, else B, bits unchanged. -/
def execGzSel (cc : Fin 32) (d : GDst) (a b c : GSrc) (s : State) : Result :=
  s.gz3 d a b c fun f x y z => if gcond cc f z then x else y

/-- D ← a vector of memory. -/
def State.gzLoad (s : State) (d key : Nat) : Result :=
  s.onSegment fun g =>
    match s.memSource g key with
    | .error e => s.glazeAccess g e
    | .ok r => s.nextWord (r.1.write d r.2)

/-- gz.ldr (R272): Loads element i of row vector n. -/
def execGzLdr (n : Fin 32) (d : GDst) (s : State) : Result := s.gzLoad d n
/-- gz.ldc (R272): Loads column vector n. -/
def execGzLdc (n : Fin 32) (d : GDst) (s : State) : Result := s.gzLoad d (32 + n)
/-- gz.cvt (R272): Rounds A to a format and returns it to the working format. -/
def execGzCvt (fmt : Fin 32) (d : GDst) (a : GSrc) (s : State) : Result :=
  s.gz1 d a fun f x => (roundNum f 0 ((fmtIeee fmt).decode (roundNum (fmtIeee fmt) 0 (f.decode x)).1)).1

/-! ### Stores -/

/-- gz.bscl (R274): Latches the segment's scale bytes. -/
def execGzBscl (a : GSrc) (s : State) : Result :=
  s.onSegment fun g =>
    let f := g.slot.params.outfmt
    if f = 0 then s.glazeFault g 0x12 g.d.row 0
    else if f ≤ 4 then s.glazeFault g 0x14 g.d.row 0
    else s.withSource g a fun g x =>
      s.nextWord { g with d := { g.d with latch := some (rowScales f (x.map fun v => g.fmt.decode v.toNat)) } }

/-- The column with which byte k of a row of 32 elements is stored (R74, R276): that of the last element in the byte; the last column for a scale
byte, which follows the whole element area. -/
def byteColumn (f k : Nat) : Nat := if k < elemBytes f 32 then min 31 ((8 * k + 7) / fmtWidth f) else 31

/-- What a store word does with a row of bytes: all of them are checked first (R276, R278, DEDUCED log 29), and those whose columns `keep` holds
are written. -/
def State.storeRow (s : State) (g : Segment) (a : Word) (l : List Byte) (keep : Nat → Bool) : Except (Nat × Word) State :=
  match s.placeRange g.core accStore pipeAllows l.length a with
  | .error e => .error e
  | .ok places =>
    if (List.range l.length).all keep then .ok (s.writeRow places l)
    else .ok (s.writeBytes (((places.zip l).zipIdx.filter fun e => keep e.2).map Prod.fst))

/-- The columns that a store word stores: those from the restarted segment's column up (R279). -/
def Segment.stores (g : Segment) (column : Nat) : Bool := decide (g.d.column ≤ column)

/-- A row of bytes of the output format is stored at an address, but for the columns that a restarted segment suppresses (R279). -/
def State.drainStore (s : State) (g : Segment) (a : Word) (l : List Byte) (column : Nat → Nat) : State :=
  match s.storeRow g a l fun k => g.stores (column k) with
  | .error e => s.glazeAccess g e
  | .ok s => s.nextWord g

/-- The bytes of gz.st in a non-block format or under the latched scales (R274). -/
def stBytes (f : Nat) (latch : List Nat) (l : List Num) : List Byte :=
  if fmtBlock f = 0 then encodeRow f l else scaledRow f latch l

/-- gz.st (R274): Stores the row in the latched output format. -/
def execGzSt (a : GSrc) (s : State) : Result :=
  s.onSegment fun g =>
    let f := g.slot.params.outfmt
    if f = 0 then s.glazeFault g 0x12 g.d.row 0
    else if 5 ≤ f ∧ g.d.latch.isNone then s.glazeFault g 0x13 g.d.row 0
    else s.withSource g a fun g x =>
      s.drainStore g (g.outAt g.d.row 0) (stBytes f (g.d.latch.getD []) (x.map fun v => g.fmt.decode v.toNat)) (byteColumn f)

/-- The places of the elements of a transposed store, all of them checked first. -/
def State.sttPlaces (s : State) (g : Segment) (b : Nat) : List Nat → Except (Nat × Word) (List Place)
  | [] => .ok []
  | j :: r =>
    match s.placeRange g.core accStore pipeAllows b (g.outAt j (g.d.row * b)) with
    | .error e => .error e
    | .ok p =>
      match State.sttPlaces s g b r with
      | .error e => .error e
      | .ok q => .ok (p ++ q)

/-- gz.stt (R274): Stores the row transposed. -/
def execGzStt (a : GSrc) (s : State) : Result :=
  s.onSegment fun g =>
    let f := g.slot.params.outfmt
    let b := fmtWidth f / 8
    if f = 0 then s.glazeFault g 0x12 g.d.row 0
    else if 5 ≤ f then s.glazeFault g 0x14 g.d.row 0
    else s.withSource g a fun g x =>
      match s.sttPlaces g b (List.range 32) with
      | .error e => s.glazeAccess g e
      | .ok places =>
        let l := (places.zip (encodeRow f (x.map fun v => g.fmt.decode v.toNat))).zipIdx
        (s.writeBytes ((l.filter fun e => g.stores (e.2 / b)).map Prod.fst)).nextWord g

/-- One level of the pairwise tree (R84). -/
def pairUp (f : Nat → Nat → Nat) : List Nat → List Nat
  | x :: y :: r => f x y :: pairUp f r
  | l => l

/-- The pairwise tree over 32 values: five levels. -/
def tree32 (f : Nat → Nat → Nat) (l : List Nat) : Nat :=
  (pairUp f (pairUp f (pairUp f (pairUp f (pairUp f l))))).headD 0

/-- gz.redr (R275): Combines the 32 values of a row and stores the result. -/
def execGzRedr (n : Fin 8) (op : Fin 4) (a : GSrc) (s : State) : Result :=
  s.onSegment fun g => s.withSource g a fun g x =>
    let f := g.fmt
    let step := if op.val = 0 then (fun p q => (fadd f 0 p q).1) else if op.val = 1 then gmax f else gmin f
    s.drainStore g (g.rowAt n g.d.row) (toBytes g.size (tree32 step (x.map BitVec.toNat))) fun _ => 32

/-! ### Restarts (R279) -/

/-- Whether a Glaze word stores. -/
def isStoreWord (w : Nat) : Bool := decide (0x13 ≤ bits w 7 0 ∧ bits w 7 0 ≤ 0x15)

/-- Whether some word of the segment from word n on, before its gz.end, stores. -/
def State.storesFrom (s : State) (g : Segment) (n : Nat) : Bool :=
  let k := s.cluster g.cl
  (List.range ((k.endAt g.base).getD 32)).any fun i => decide (n ≤ i) && isStoreWord (k.drainWord (g.base + i))

/-- The segment runs again from its first word: it reads its row of the tile again, and keeps the memory values it has read and the column below which
every store word has stored. -/
def State.restartSegment (s : State) (g : Segment) : State :=
  let column := if s.storesFrom g g.d.word then g.d.column else 32
  s.enterSegment g { s.newSegment g g.d.row with cache := g.d.cache, column := column }

/-- The columns below n of the store word that a segment has reached are stored, where no later word stores: the segment then stands at column
n. In a block row that is a boundary between two aligned dwords, each of which is stored as one (R276). -/
def State.storeColumns (s : State) (g : Segment) (n : Nat) : State :=
  let w := (s.cluster g.cl).drainWord (g.base + g.d.word)
  let f := g.slot.params.outfmt
  if !glazeValid w || s.storesFrom g (g.d.word + 1) || decide (32 ≤ g.d.word ∨ 32 ≤ n ∨ n ≤ g.d.column ∨ f = 0 ∨ (5 ≤ f ∧ n * fmtWidth f % 64 ≠ 0)) then s
  else
    let keep := fun c => g.stores c && decide (c < n)
    let put := fun (x : Segment) (s : State) => s.putDrain x { x.d with column := n }
    match s.source g (bits w 16 12) with
    | .error _ => s
    | .ok (x, v) =>
      let row := v.map fun e => g.fmt.decode e.toNat
      if bits w 7 0 = 0x13 ∧ (f ≤ 4 ∨ g.d.latch.isSome) then
        match s.storeRow g (g.outAt g.d.row 0) (stBytes f (g.d.latch.getD []) row) fun k => keep (byteColumn f k) with
        | .error _ => s
        | .ok s => put x s
      else if bits w 7 0 = 0x14 ∧ f ≤ 4 then
        match s.sttPlaces g (fmtWidth f / 8) (List.range 32) with
        | .error _ => s
        | .ok places =>
          let l := ((places.zip (encodeRow f row)).zipIdx.filter fun e => keep (e.2 / (fmtWidth f / 8))).map Prod.fst
          put x (s.writeBytes l)
      else s

/-- gz.end (R243): Ends the segment; after the last row the TCW's work is done. -/
def execGzEnd (s : State) : Result :=
  s.onSegment fun g =>
    if g.d.row + 1 < tcwRows g.slot.tcw then s.openSegment g (g.d.row + 1)
    else (s.setCluster g.cl { s.cluster g.cl with drain := none }).finishTcw g.core g.at_ g.slot

/-! ### Reaching a word -/

/-- The Glaze word that a cluster's drain reaches: none with no drain in progress. -/
def State.glazeWord (s : State) (cl : Nat) : Option Nat :=
  (s.segmentOf cl).map fun g => (s.cluster cl).drainWord (g.base + g.d.word)

/-- A drain that runs past its 32nd word, or reaches a word that is not valid, faults (R271, R278). -/
def State.glazeStop (s : State) (cl : Nat) : Option State :=
  match s.segmentOf cl with
  | none => none
  | some g =>
    if 32 ≤ g.d.word then some (s.glazeFault g 0x11 g.d.row 32)
    else if glazeValid ((s.cluster cl).drainWord (g.base + g.d.word)) then none
    else some (s.glazeFault g 0x10 g.d.row g.d.word)

end Sys2Proof.Machine
end

