-- ==== Sys2Proof/Machine/Matrix.lean ====
section
/-! DEFINITION. The operations of the matrix unit (R247, R248, R251, R254 to R256, R268): each started by the arbiter and performed
whole, its drain excepted; an mma and an mmas also by K-steps. -/

namespace Sys2Proof.Machine

/-! ### Starting -/

/-- The TCW in MULTIPLY goes on, by f, once no drain runs in its cluster: the unit performs each TCW whole (R251). -/
def State.goOn (s : State) (cl q i : Nat) (ok : Slot → Bool) (f : State → Nat → Nat → Slot → State) : State :=
  let core := cl * 8 + q
  match (s.core core).slots[i]? with
  | none => s
  | some x => if !ok x || (s.cluster cl).drain.isSome || !(s.cap (s.capOf core)).runs then s else f s core i x

/-- A TCW that ok allows: the one in MULTIPLY goes on, else the arbiter starts the head it chooses (R250); f performs it. A capsule that is
being pre-empted starts nothing (R258), and a head that starts while a drain runs waits for its end (R251). -/
def State.startTcw (s : State) (cl : Nat) (ok : Slot → Bool) (f : State → Nat → Nat → Slot → State) : State :=
  match s.inMultiply cl with
  | some (q, i) => s.goOn cl q i ok f
  | none =>
    match s.pick cl with
    | none => s
    | some (q, i, credit) =>
      let core := cl * 8 + q
      match (s.core core).slots[i]? with
      | none => s
      | some x =>
        if !ok x || !(s.cap (s.capOf core)).runs then s
        else
          let s := s.setCluster cl { s.cluster cl with cur := q, credit := credit }
          let x := { x with state := .multiply }
          if (s.cluster cl).drain.isSome then s.setSlot core i x else f s core i x

/-- A TCW whose operation is top starts or goes on. -/
def State.runTop (s : State) (cl top : Nat) (f : State → Nat → Nat → Slot → State) : Result :=
  .next (s.startTcw cl (fun x => decide (tcwTop x.tcw = top)) f)

/-- A TCW's drain starts at row 0 (R243), unless no mdpl has filled its entry: NOPROG (R257). -/
def State.startDrain (s : State) (core i : Nat) (x : Slot) : State :=
  let cl := clusterOf core
  if (s.cluster cl).directory.contains (tcwDrain x.tcw) then
    let x := { x with state := .drain }
    let g : Segment := ⟨cl, core, i, x, ⟨core, 0, 0, [], [], none, [], 0⟩⟩
    (s.setSlot core i x).openSegment g 0
  else s.tcwFault core i x causeDrain 0x02 (drainValue (tcwTile x.tcw) 0 0) []

/-- The tile is written: an open tile that a core's store has spoiled stays open (R29); then the drain, if one is named. -/
def State.writeTile (s : State) (core i : Nat) (x : Slot) (l : List Byte) : State :=
  let k := tileKey core x.tcw
  let s := (s.setByteList k l).touched k l.length
  let spoiled := (s.cluster (clusterOf core)).openTiles.any fun o => decide (o.core = core ∧ o.tile = tcwTile x.tcw) && o.spoiled
  let s := if spoiled then s.scramble k else s
  if tcwDrains x.tcw then s.startDrain core i x else s.finishTcw core i x

/-! ### Operands (R247, R252) -/

/-- The bytes of count rows of n bytes each, a stride apart, or the first byte that fails. -/
def State.readRows (s : State) (core n stride : Nat) : Nat → Word → Except (Nat × Word) (List (List Byte))
  | 0, _ => .ok []
  | count + 1, a =>
    match s.readRange core accLoad pipeAllows n a with
    | .error e => .error e
    | .ok l =>
      match State.readRows s core n stride count (a + BitVec.ofNat 64 stride) with
      | .error e => .error e
      | .ok r => .ok (l.map Prod.snd :: r)

/-- The columns of B (R247, R254): rows along K, or with trb the elements of K rows of 32. -/
def columnsOf (t b : Nat) (rows : List (List Byte)) : List (List Num) :=
  if tcwTrb t = 0 then rows.map (decodeRow b (tcwK t))
  else
    let r := rows.map (decodeRow b 32)
    (List.range 32).map fun j => r.map fun x => x.getD j (.nan false)

/-- The rows of A: every position of a dense row, the kept ones of a sparse row (R83, R86). -/
def rowsOf (t : Nat) (rows : List (List Byte)) : List (List (Option Num)) :=
  rows.map fun r =>
    if tcwTop t = 2 then decodeSparse (tcwAfmtc t) (tcwK t) (tcwKeep t) r else (decodeRow (tcwAfmtc t) (tcwK t) r).map some

/-- The first mask of the wrong population: its row and group (R83, R257). -/
def badMask (t : Nat) (rows : List (List Byte)) : Option (Nat × Nat) :=
  if tcwTop t ≠ 2 then none
  else
    rows.zipIdx.findSome? fun r =>
      ((sparseMasks (tcwAfmtc t) (tcwK t) (tcwKeep t) r.1).findIdx? fun m => decide (popCount 16 m ≠ tcwKeep t)).map
        fun g => (r.2, g)

/-- K-steps that an mma or mmas has yet to make from a row progress on (R256). -/
def stepsLeft (t progress : Nat) : Nat := (tcwK t - progress + stepSize (tcwAfmtc t) - 1) / stepSize (tcwAfmtc t)

/-- The tile of an mma or mmas after n more K-steps from a row progress on (R86, R254, R256), from the tile's old elements. -/
def multiply (t progress n : Nat) (a : List (List (Option Num))) (b : List (List Num)) (old : Nat → Nat) : List Byte :=
  let wide := decide (fmtClass (tcwAfmtc t) = .wide)
  a.zipIdx.flatMap fun r => b.zipIdx.flatMap fun c =>
    let start := if tcwAcc t = 1 ∨ progress ≠ 0 then old (r.2 * 32 + c.2) else 0
    toBytes (tcwSize t) (accumulate (tcwFmt t) wide (stepSize (tcwAfmtc t)) n (r.1.drop progress) (c.1.drop progress) start)

/-- Load the operands and form the tile by at most so many K-steps from the slot's row progress on; after the last, go on with the drain (R254,
R256). A is read before B, each in rising rows (DESIGN CHOICE log 25). The masks of a sparse A are tested once every row of A and B is read: an operand that fails goes before a wrong mask, and of the wrong masks
the first by row, then by group, is reported (DESIGN CHOICE log 91). -/
def State.kSteps (limit : Nat) (s : State) (core i : Nat) (x : Slot) : State :=
  let t := x.tcw
  let k := tileKey core t
  let n := if tcwTrb t = 1 then tcwK t else 32
  let width := if tcwTrb t = 1 then 32 * fmtWidth (tcwBfmt t) / 8 else rowBytes (tcwBfmt t) (tcwK t)
  match s.readRows core (tcwARow t) (tcwAstride t) (tcwRows t) (tcwAaddr t) with
  | .error e => s.tcwFault core i x e.1 0 e.2 []
  | .ok a =>
    match s.readRows core width (tcwBstride t) n (tcwBaddr t) with
    | .error e => s.tcwFault core i x e.1 0 e.2 []
    | .ok b =>
      match badMask t a with
      | some (r, g) => s.tcwFault core i x causeDrain 0x01 (drainValue (tcwTile t) r g) []
      | none =>
        if (tcwAcc t = 1 ∨ x.rowProgress ≠ 0) ∧ s.poisoned k 4096 then
          s.tcwFault core i x causeMemerr 0 (s.meshOf core 3 (tcwTile t * 4096 + s.firstPoison k 4096)) []
        else
          let left := stepsLeft t x.rowProgress
          let n := min limit left
          let l := multiply t x.rowProgress n (rowsOf t a) (columnsOf t (tcwBfmt t) b) fun e => s.bytes (k + e * tcwSize t) (tcwSize t)
          if n = left then s.writeTile core i { x with rowProgress := tcwK t } l
          else
            ((s.setByteList k l).touched k l.length).setSlot core i { x with rowProgress := x.rowProgress + n * stepSize (tcwAfmtc t) }

/-- Every K-step that is left, then the drain (R254). -/
def State.runMultiply (s : State) (core i : Nat) (x : Slot) : State := State.kSteps (tcwK x.tcw) s core i x

/-- One K-step of the cluster's multiply, which starts if the arbiter chooses one (R256). -/
def State.kStep (s : State) (cl : Nat) : State :=
  s.startTcw cl (fun x => decide (tcwTop x.tcw = 1 ∨ tcwTop x.tcw = 2)) (State.kSteps 1)

/-- MMA (R254): The matrix unit starts a dense multiply TCW and forms the tile, running its drain if named. -/
def execMma (cluster : Nat) (s : State) : Result := s.runTop cluster 1 State.runMultiply

/-- MMAS (R254): The matrix unit starts a sparse-A multiply TCW. -/
def execMmas (cluster : Nat) (s : State) : Result := s.runTop cluster 2 State.runMultiply

/-- MZERO (R255): The matrix unit zeroes a tile. -/
def execMzero (cluster : Nat) (s : State) : Result :=
  s.runTop cluster 3 fun s core i x => s.writeTile core i x (List.replicate 4096 0)

/-- MACCLD (R255): The matrix unit loads a tile from memory bits unchanged. -/
def execMaccld (cluster : Nat) (s : State) : Result :=
  s.runTop cluster 4 fun s core i x =>
    match s.readRows core (32 * tcwSize x.tcw) (tcwAstride x.tcw) (tcwRows x.tcw) (tcwAaddr x.tcw) with
    | .error e => s.tcwFault core i x e.1 0 e.2 []
    | .ok rows => s.writeTile core i x rows.flatten

/-- MDRAIN (R255): The matrix unit runs a drain program over a tile. -/
def execMdrain (cluster : Nat) (s : State) : Result := s.runTop cluster 5 State.startDrain

/-- The words of k × 4 bytes. -/
def wordsOf (k : Nat) (l : List Byte) : List Nat := (List.range k).map fun i => fieldB l (4 * i) 4

/-- The first failing check of an mdpl's words, up to and including the first gz.end (R268): the sub-cause and the position; position
k is where a gz.end was due. -/
def checkWords : Nat → List Nat → Option (Nat × Nat)
  | n, [] => some (0x11, n)
  | n, w :: r => if !glazeValid w then some (0x10, n) else if w % 256 = 0x16 then none else checkWords (n + 1) r

/-- MDPL (R268): The matrix unit checks and loads Glaze words into a drain directory entry. -/
def execMdpl (cluster : Nat) (s : State) : Result :=
  s.runTop cluster 6 fun s core i x =>
    let d := tcwDrain x.tcw
    match s.readRange core accLoad pipeAllows (4 * tcwK x.tcw) (tcwAaddr x.tcw) with
    | .error e => s.tcwFault core i x e.1 0 e.2 []
    | .ok l =>
      let words := wordsOf (tcwK x.tcw) (l.map Prod.snd)
      match checkWords 0 words with
      | some (sub, j) => s.tcwFault core i x causeDrain sub (drainValue 0 d j) []
      | none =>
        let k := s.cluster cluster
        let mem := words.zipIdx.foldl (fun m w => sset 0 m ((8 * d + w.2) % 2048) (BitVec.ofNat 32 w.1)) k.drainMem
        let directory := if k.directory.contains d then k.directory else d :: k.directory
        (s.setCluster cluster { k with drainMem := mem, directory := directory }).finishTcw core i x

/-- MSIG (R255): A TCW that completes once every earlier TCW of its queue is complete. -/
def execMsig (cluster : Nat) (s : State) : Result := s.runTop cluster 7 State.finishTcw

end Sys2Proof.Machine
end

