-- ==== Sys2Proof/Machine/Special.lean ====
section
/-! DEFINITION. Special registers: their values, the checks of a write, srr and srw (R18 to R22, R27, R60, R67). -/

namespace Sys2Proof.Machine

/-- The messages that occupy a core's inbox: those that wait, and those of entries whose firing has not started (R123). -/
def Core.inboxed (c : Core) : List Msg := c.inbox ++ (c.ring ++ c.waiting).filterMap Entry.message

/-- Bytes of the inbox occupied (R22). -/
def Core.inboxBytes (c : Core) : Nat := (c.inboxed.map Msg.bytesLen).foldl (· + ·) 0

/-- Entries of the ready ring (R122): an accepted message's entry stands on it from its acceptance on. What waits for room is not counted. -/
def Core.entryCount (c : Core) : Nat := c.ring.length

/-- MQSTAT (R22). -/
def Core.mqstat (c : Core) : Word :=
  BitVec.ofNat 64 (c.slots.length + (if c.slots.any fun s => decide (s.state = .faulted) then 32 else 0))
/-- RRSTAT (R22). -/
def Core.rrstat (c : Core) : Word := BitVec.ofNat 64 (c.entryCount + (if c.entryCount = 256 then 512 else 0))
/-- INBOX (R22). The messages that wait are those that H or S has yet to serve; one whose ready entry is on the ring takes bytes but does not
wait (DESIGN CHOICE log 75). -/
def Core.inboxWord (c : Core) : Word := BitVec.ofNat 64 (c.inboxBytes + c.inbox.length * 2 ^ 16)

/-- Whether an open session is active on a die: a session of tier 2 or 3 is active on every die (R238). -/
def DebugSession.active (d : DebugSession) (die : Nat) : Bool := decide (d.stage = 1 ∧ (d.die = die ∨ 2 ≤ d.tier))

/-- The highest debug tier active on a die (R18, R238). -/
def State.dbgTier (s : State) (die : Nat) : Nat :=
  ((s.mgmt.debugSessions.filter fun d => d.active die).map DebugSession.tier).foldl max 0

/-- ALLOT of the issuing thread (R19). -/
def State.allotWord (s : State) : Word := BitVec.ofNat 64 ((s.allot s.who).1 + (s.allot s.who).2 * 256)

/-- The value that srr reads at an index; none for an index that is not in the table (R18). -/
def State.readSpecial (s : State) (n : Nat) : Option Word :=
  let t := s.me
  let c := s.myCore
  if n = 0x000 then some t.pc
  else if n = 0x001 then some s.allotWord
  else if n = 0x002 then some c.coord
  else if n = 0x003 then some c.foot
  else if n = 0x004 then some (s.cap s.myCap).id
  else if n = 0x005 then some (BitVec.ofNat 64 s.role)
  else if n = 0x008 then some t.fcr
  else if n = 0x009 then some t.vl
  else if 0x010 ≤ n ∧ n ≤ 0x013 then some (sget 0 t.lstart (n - 0x010))
  else if 0x014 ≤ n ∧ n ≤ 0x017 then some (sget 0 t.lend (n - 0x014))
  else if 0x018 ≤ n ∧ n ≤ 0x01B then some (sget 0 t.lcount (n - 0x018))
  else if n = 0x01C then some t.ldepth
  else if n = 0x020 then some (BitVec.ofNat 64 (s.cycle + Config.cycleSkew (coreOf s.who)))
  else if n = 0x021 then some (BitVec.ofNat 64 s.podTick)
  else if 0x030 ≤ n ∧ n ≤ 0x03F then some (sget 0 (s.cluster s.myCluster).bfmt (n - 0x030))
  else if n = 0x040 then some c.mqw
  else if n = 0x041 then some c.mqstat
  else if 0x050 ≤ n ∧ n ≤ 0x057 then some (BitVec.ofNat 64 (c.tlwOf (n - 0x050)))
  else if n = 0x060 then some c.rrstat
  else if n = 0x061 then some c.inboxWord
  else if n = 0x070 then some t.trapCause
  else if n = 0x071 then some t.trapPc
  else if n = 0x072 then some t.trapVal
  else if n = 0x073 then some c.trapVec
  else if n = 0x080 then some (BitVec.ofNat 64 (s.dbgTier (dieOf s.myCluster)))
  else none

/-- The registers marked firmware (R18). -/
def isFirmwareReg (n : Nat) : Bool := decide (0x070 ≤ n ∧ n ≤ 0x073)

/-- The registers that srw may write (R18). -/
def isWritable (n : Nat) : Bool :=
  decide (n = 0x001 ∨ n = 0x008 ∨ n = 0x009 ∨ (0x010 ≤ n ∧ n ≤ 0x01C) ∨ (0x030 ≤ n ∧ n ≤ 0x03F) ∨ n = 0x040) || isFirmwareReg n

/-- Whether a new allotment is one that ALLOT and shrink accept from a task thread (R19). -/
def State.allotOk (s : State) (v : Word) : Bool :=
  let sr := bits v.toNat 7 0
  let vr := bits v.toNat 15 8
  decide (s.role ≤ 1 ∧ v.toNat < 2 ^ 16 ∧ sr % 8 = 0 ∧ vr % 8 = 0 ∧ 8 ≤ sr ∧ sr ≤ s.me.sregs ∧ vr ≤ s.me.vregs)

/-- Whether a value may be written to a writable register: reserved bits zero and fields in range (R18, R19, R21, R60, R203). -/
def State.valueOk (s : State) (n : Nat) (v : Word) : Bool :=
  if n = 0x001 then s.allotOk v
  else if n = 0x008 then decide (v.toNat < 2 ^ 9 ∧ bits v.toNat 3 2 = 0)
  else if n = 0x009 then decide (v.toNat ≤ 16)
  else if 0x010 ≤ n ∧ n ≤ 0x017 then decide (v.toNat % 4 = 0)
  else if n = 0x01C then decide (v.toNat ≤ 4)
  else if 0x030 ≤ n ∧ n ≤ 0x03F then decide (v.toNat < 16)
  else if n = 0x040 then decide (1 ≤ v.toNat ∧ v.toNat ≤ 15)
  else if n = 0x070 then decide (v.toNat < 2 ^ 16)
  else true

/-- Write a register other than ALLOT. -/
def State.writeSpecial (s : State) (n : Nat) (v : Word) : State :=
  let t := s.me
  let c := s.myCore
  if n = 0x008 then s.setMe { t with fcr := v }
  else if n = 0x009 then s.setMe { t with vl := v }
  else if 0x010 ≤ n ∧ n ≤ 0x013 then s.setMe { t with lstart := sset 0 t.lstart (n - 0x010) v }
  else if 0x014 ≤ n ∧ n ≤ 0x017 then s.setMe { t with lend := sset 0 t.lend (n - 0x014) v }
  else if 0x018 ≤ n ∧ n ≤ 0x01B then s.setMe { t with lcount := sset 0 t.lcount (n - 0x018) v }
  else if n = 0x01C then s.setMe { t with ldepth := v }
  else if 0x030 ≤ n ∧ n ≤ 0x03F then
    let cl := s.cluster s.myCluster
    s.setCluster s.myCluster { cl with bfmt := sset 0 cl.bfmt (n - 0x030) v }
  else if n = 0x040 then s.setCore (coreOf s.who) { c with mqw := v }
  else if n = 0x070 then s.setMe { t with trapCause := v }
  else if n = 0x071 then s.setMe { t with trapPc := v }
  else if n = 0x072 then s.setMe { t with trapVal := v }
  else if n = 0x073 then s.setCore (coreOf s.who) { c with trapVec := v }
  else s

/-- A pending destination at or above new bounds (R153). -/
def Thread.pendingAbove (t : Thread) (sr vr : Nat) : Option RegName :=
  (t.pending.find? fun p =>
    match p.reg with
    | .g n => decide (sr ≤ n)
    | .v n => decide (vr ≤ n)).map Pending.reg

/-- shrink, and srw to ALLOT: waits until every pending destination at or above the new bounds is written; then the
registers above them are released and their values are gone (R19, R153). -/
def State.shrinkTo (s : State) (v : Word) : Result :=
  let sr := bits v.toNat 7 0
  let vr := bits v.toNat 15 8
  match s.me.pendingAbove sr vr with
  | some r => .next (s.hold (.scoreboard r))
  | none =>
    let t := s.me
    .next (s.setMe { t with sregs := sr, vregs := vr, g := t.g.filter (fun e => decide (e.1 < sr)),
                            v := t.v.filter (fun e => decide (e.1 < vr)) }).retire

/-- srr (R67): Reads a special register into g[d]. -/
def execSrr (d : G) (index : BitVec 12) (s : State) : Result :=
  s.issue ((useG (encI 0x3C index.toNat d 0) [d]).ill (s.readSpecial index.toNat).isNone) fun s =>
    if isFirmwareReg index.toNat && decide (s.me.mode = .capsule) then s.takeTrap causePriv (BitVec.ofNat 64 ((encI 0x3C index.toNat d 0)))
    else .next (s.wg d ((s.readSpecial index.toNat).getD 0)).retire

/-- srw (R67): Writes g[a] to a special register; the end test of this instruction itself still sees the old loop registers (R60, DEDUCED log 27). -/
def execSrw (index : BitVec 12) (a : G) (s : State) : Result :=
  let n := index.toNat
  let bad := !isWritable n || (s.hasG a && !s.valueOk n (s.rg a))
  s.issue { (useG (encI 0x3D index.toNat 0 a) [a]).ill bad with barred := decide (n = 0x001) } fun s =>
    if isFirmwareReg n && decide (s.me.mode = .capsule) then s.takeTrap causePriv (BitVec.ofNat 64 ((encI 0x3D index.toNat 0 a)))
    else if n = 0x001 then s.shrinkTo (s.rg a)
    else .next (s.retire.writeSpecial n (s.rg a))

end Sys2Proof.Machine
end

