-- ==== Sys2Proof/Machine/Contexts.lean ====
section
/-! DEFINITION. Register contexts (R126): a firing as bytes, and back. -/

namespace Sys2Proof.Machine

/-! ### Writing a context -/

/-- The dwords of a loop-stack register, levels 0 to 3. -/
def loopDwords (f : Sparse Word) : List Word := (List.range 4).map fun l => sget 0 f l

/-- k1 to k7 in bytes 0 to 6 (R126). -/
def maskDword (t : Thread) : Word := BitVec.ofNat 64 (ofBytes ((List.range 7).map fun i => t.rk (i + 1)))

/-- The pending mask: bit n set when g[n] awaits a late result (R126). -/
def pendingMask (t : Thread) : Word :=
  BitVec.ofNat 64 (((List.range 64).filter fun n => t.pending.any fun p => decide (p.reg = .g n)).foldl (fun acc n => acc + 2 ^ n) 0)

/-- The position of a barrier record in the record dwords (R126). -/
def barBit (r : BarRec) : Nat := 8 * (r.scope.code - 1) + r.id

/-- Bytes of the context of R126: the packet, with the firing's vector allotment and flags when it goes to a resume record. -/
def contextBytes (t : Thread) (vregs flags : Nat) : List Byte :=
  let n := t.successors.length
  let words : List Word := t.successors ++ [t.pc, t.fcr, t.vl] ++ loopDwords t.lstart ++ loopDwords t.lend ++ loopDwords t.lcount ++
    [t.ldepth, maskDword t, pendingMask t] ++ (List.range (t.sregs - 1)).map (fun i => t.rg (i + 1))
  toBytes 2 (8 * (18 + n + t.sregs)) ++ toBytes 2 0xFFFF ++ toBytes 1 n ++ toBytes 1 t.sregs ++ toBytes 1 vregs ++ toBytes 1 flags ++
  words.flatMap fun w => toBytes 8 w.toNat

/-- The bytes that follow a context in a resume record: its v registers and its barrier records (R126). -/
def contextTail (t : Thread) : List Byte :=
  let v := (List.range t.vregs).flatMap fun i => toBytes 64 (t.rv i).toNat
  if t.barRecs.isEmpty then v
  else
    v ++ toBytes 8 (t.barRecs.foldl (fun acc r => acc + 2 ^ barBit r) 0) ++
    toBytes 8 (t.barRecs.foldl (fun acc r => acc + r.phase % 2 * 2 ^ barBit r) 0)

/-- The flags of a saved context: bit 0 barrier records follow, bit 1 a counted bar.sync is at the PC (R126). -/
def contextFlags (t : Thread) : Nat := (if t.barRecs.isEmpty then 0 else 1) + (if t.syncArrived then 2 else 0)

/-! ### Reading a context -/

/-- A sparse table of words. -/
def wordTable (l : List Word) : Sparse Word := l.zipIdx.foldl (fun acc e => sset 0 acc e.2 e.1) []

/-- The length of a context's packet (R126). -/
def contextLength (b : List Byte) : Nat := 8 * (18 + fieldB b 4 1 + fieldB b 5 1)

/-- The bytes that follow a context (R126). -/
def contextTailLength (b : List Byte) : Nat := 64 * fieldB b 6 1 + (if fieldB b 7 1 % 2 = 1 then 16 else 0)

/-- The registers that a context's pending mask names. -/
def contextPending (b : List Byte) : List Nat :=
  let mask := fieldB b (8 + 8 * fieldB b 4 1 + 8 * 17) 8
  (List.range 64).filter fun n => decide (mask / 2 ^ n % 2 = 1)

/-- The barrier records of a context, each with the bit it holds; a scope at or below pod. -/
def contextBarRecs (b : List Byte) : List (Scope × Nat × Nat) :=
  let o := contextLength b + 64 * fieldB b 6 1
  let has := fieldB b o 8
  let ph := fieldB b (o + 8) 8
  if fieldB b 7 1 % 2 = 0 then []
  else
    [Scope.quad, .clu, .die, .pkg, .pod].flatMap fun sc =>
      ((List.range 8).filter fun id => decide (has / 2 ^ (8 * (sc.code - 1) + id) % 2 = 1)).map fun id =>
        (sc, id, ph / 2 ^ (8 * (sc.code - 1) + id) % 2)

/-- The thread state that a context restores, but for what it is owed, its barrier records and its firing (R123, R126). -/
def contextThread (old : Thread) (b : List Byte) : Thread :=
  let n := fieldB b 4 1
  let at_ := 8 + 8 * n
  let w := fun i => dwordB b (at_ + 8 * i)
  let sregs := fieldB b 5 1
  let vregs := fieldB b 6 1
  let tail := contextLength b
  let masks := fieldB b (at_ + 8 * 16) 7
  { Thread.reset with
    live := true
    pc := w 0
    fcr := w 1
    vl := w 2
    lstart := wordTable [w 3, w 4, w 5, w 6]
    lend := wordTable [w 7, w 8, w 9, w 10]
    lcount := wordTable [w 11, w 12, w 13, w 14]
    ldepth := w 15
    k := (List.range 7).foldl (fun acc i => sset 0 acc (i + 1) (BitVec.ofNat 8 (masks / 2 ^ (8 * i)))) []
    g := (List.range (sregs - 1)).foldl (fun acc i => sset 0 acc (i + 1) (w (18 + i))) []
    v := (List.range vregs).foldl (fun acc i => sset 0 acc i (BitVec.ofNat 512 (fieldB b (tail + 64 * i) 64))) []
    sregs
    vregs
    successors := (List.range n).map fun i => dwordB b (8 + 8 * i)
    syncArrived := decide (fieldB b 7 1 / 2 % 2 = 1)
    codelet := 0xFFFF
    trapCause := old.trapCause
    trapPc := old.trapPc
    trapVal := old.trapVal
    shadow := old.shadow
    issued := old.issued }

end Sys2Proof.Machine
end

