-- ==== Sys2Proof/Machine/Fp.lean ====
section
/-! DEFINITION. Scalar floating point (R91 to R97). -/

namespace Sys2Proof.Machine

/-- A register as an operand of a format: its low bits (R91). -/
def operandF (f : Fmt) (x : Word) : Nat := x.toNat % 2 ^ f.width

/-- Write a result, zero-extended, and its flags, and go on (R91, R97). -/
def State.putF (s : State) (d : Nat) (r : Nat × Nat) : Result :=
  let s := s.wg d (BitVec.ofNat 64 r.1)
  .next (s.setMe (s.me.setFlags r.2)).retire

/-- d, a, b: a floating operation of two operands under FCR.RM (R92). -/
def State.fp3 (s : State) (word : Nat) (d a b : G) (f : Fmt) (op : Nat → Nat → Nat → Nat × Nat) : Result :=
  s.issue (useG word [d, a, b]) fun s => s.putF d (op s.me.rm (operandF f (s.rg a)) (operandF f (s.rg b)))

/-- d, a: a floating operation of one operand (R92). -/
def State.fp2 (s : State) (word : Nat) (d a : G) (f : Fmt) (op : Nat → Nat → Nat × Nat) : Result :=
  s.issue (useG word [d, a]) fun s => s.putF d (op s.me.rm (operandF f (s.rg a)))

/-- d, a, b, c: a fused multiply-add; nz negates the addend (R95). -/
def State.fp4 (s : State) (word : Nat) (d a b c : G) (f : Fmt) (nz : Bool) : Result :=
  s.issue (useG word [d, a, b, c]) fun s =>
    s.putF d (ffma f s.me.rm false nz (operandF f (s.rg a)) (operandF f (s.rg b)) (operandF f (s.rg c)))

/-- A truth value with flags. -/
def boolF (r : Bool × Nat) : Nat × Nat := (if r.1 then 1 else 0, r.2)
/-- A value that raises no flag. (DEDUCED log 23) -/
def quietF (v : Nat) : Nat × Nat := (v, 0)

/-- fadd.d (R92): Binary64 addition. -/
def execFaddD (d a b : G) (s : State) : Result :=
  s.fp3 (encR 0x50 0x00 d a b) d a b fmt64 (fadd fmt64)

/-- fsub.d (R92): Binary64 subtraction. -/
def execFsubD (d a b : G) (s : State) : Result :=
  s.fp3 (encR 0x50 0x01 d a b) d a b fmt64 (fsub fmt64)

/-- fmul.d (R92): Binary64 multiplication. -/
def execFmulD (d a b : G) (s : State) : Result :=
  s.fp3 (encR 0x50 0x02 d a b) d a b fmt64 (fmul fmt64)

/-- fdiv.d (R92): Binary64 division. -/
def execFdivD (d a b : G) (s : State) : Result :=
  s.fp3 (encR 0x50 0x03 d a b) d a b fmt64 (fdiv fmt64)

/-- fmin.d (R93): Binary64 minimum with the NaN and zero rules. -/
def execFminD (d a b : G) (s : State) : Result :=
  s.fp3 (encR 0x50 0x05 d a b) d a b fmt64 (fun _ x y => fminmax fmt64 false x y)

/-- fmax.d (R93): Binary64 maximum with the NaN and zero rules. -/
def execFmaxD (d a b : G) (s : State) : Result :=
  s.fp3 (encR 0x50 0x06 d a b) d a b fmt64 (fun _ x y => fminmax fmt64 true x y)

/-- fsgnj.d (R92): Binary64 value with the sign of g[b]. -/
def execFsgnjD (d a b : G) (s : State) : Result :=
  s.fp3 (encR 0x50 0x08 d a b) d a b fmt64 (fun _ x y => quietF (fsgnj fmt64 x y))

/-- fsgnjn.d (R92): Binary64 value with the inverted sign of g[b]. -/
def execFsgnjnD (d a b : G) (s : State) : Result :=
  s.fp3 (encR 0x50 0x09 d a b) d a b fmt64 (fun _ x y => quietF (fsgnjn fmt64 x y))

/-- fsgnjx.d (R92): Binary64 value with the XOR of both signs. -/
def execFsgnjxD (d a b : G) (s : State) : Result :=
  s.fp3 (encR 0x50 0x0A d a b) d a b fmt64 (fun _ x y => quietF (fsgnjx fmt64 x y))

/-- feq.d (R93): Binary64 equality comparison. -/
def execFeqD (d a b : G) (s : State) : Result :=
  s.fp3 (encR 0x50 0x10 d a b) d a b fmt64 (fun _ x y => boolF (feq fmt64 x y))

/-- flt.d (R93): Binary64 less-than comparison. -/
def execFltD (d a b : G) (s : State) : Result :=
  s.fp3 (encR 0x50 0x11 d a b) d a b fmt64 (fun _ x y => boolF (flt fmt64 x y))

/-- fle.d (R93): Binary64 less-or-equal comparison. -/
def execFleD (d a b : G) (s : State) : Result :=
  s.fp3 (encR 0x50 0x12 d a b) d a b fmt64 (fun _ x y => boolF (fle fmt64 x y))

/-- fsqrt.d (R92): Binary64 square root. -/
def execFsqrtD (d a : G) (s : State) : Result :=
  s.fp2 (encR 0x50 0x04 d a 0) d a fmt64 (fsqrt fmt64)

/-- fclass.d (R94): Writes the class mask of a binary64 value. -/
def execFclassD (d a : G) (s : State) : Result :=
  s.fp2 (encR 0x50 0x0C d a 0) d a fmt64 (fun _ x => quietF (fclass fmt64 x))

/-- fma.d (R95): Binary64 fused multiply-add with one rounding. -/
def execFmaD (d a b c : G) (s : State) : Result :=
  s.fp4 (encF4 0x53 0 d a b c) d a b c fmt64 false

/-- fms.d (R95): Binary64 fused multiply-subtract with one rounding. -/
def execFmsD (d a b c : G) (s : State) : Result :=
  s.fp4 (encF4 0x53 1 d a b c) d a b c fmt64 true

/-- fadd.s (R92): Binary32 addition. -/
def execFaddS (d a b : G) (s : State) : Result :=
  s.fp3 (encR 0x51 0x00 d a b) d a b fmt32 (fadd fmt32)

/-- fsub.s (R92): Binary32 subtraction. -/
def execFsubS (d a b : G) (s : State) : Result :=
  s.fp3 (encR 0x51 0x01 d a b) d a b fmt32 (fsub fmt32)

/-- fmul.s (R92): Binary32 multiplication. -/
def execFmulS (d a b : G) (s : State) : Result :=
  s.fp3 (encR 0x51 0x02 d a b) d a b fmt32 (fmul fmt32)

/-- fdiv.s (R92): Binary32 division. -/
def execFdivS (d a b : G) (s : State) : Result :=
  s.fp3 (encR 0x51 0x03 d a b) d a b fmt32 (fdiv fmt32)

/-- fmin.s (R93): Binary32 minimum. -/
def execFminS (d a b : G) (s : State) : Result :=
  s.fp3 (encR 0x51 0x05 d a b) d a b fmt32 (fun _ x y => fminmax fmt32 false x y)

/-- fmax.s (R93): Binary32 maximum. -/
def execFmaxS (d a b : G) (s : State) : Result :=
  s.fp3 (encR 0x51 0x06 d a b) d a b fmt32 (fun _ x y => fminmax fmt32 true x y)

/-- fsgnj.s (R92): Binary32 value with the sign of g[b]. -/
def execFsgnjS (d a b : G) (s : State) : Result :=
  s.fp3 (encR 0x51 0x08 d a b) d a b fmt32 (fun _ x y => quietF (fsgnj fmt32 x y))

/-- fsgnjn.s (R92): Binary32 value with the inverted sign of g[b]. -/
def execFsgnjnS (d a b : G) (s : State) : Result :=
  s.fp3 (encR 0x51 0x09 d a b) d a b fmt32 (fun _ x y => quietF (fsgnjn fmt32 x y))

/-- fsgnjx.s (R92): Binary32 value with the XOR of both signs. -/
def execFsgnjxS (d a b : G) (s : State) : Result :=
  s.fp3 (encR 0x51 0x0A d a b) d a b fmt32 (fun _ x y => quietF (fsgnjx fmt32 x y))

/-- feq.s (R93): Binary32 equality comparison. -/
def execFeqS (d a b : G) (s : State) : Result :=
  s.fp3 (encR 0x51 0x10 d a b) d a b fmt32 (fun _ x y => boolF (feq fmt32 x y))

/-- flt.s (R93): Binary32 less-than comparison. -/
def execFltS (d a b : G) (s : State) : Result :=
  s.fp3 (encR 0x51 0x11 d a b) d a b fmt32 (fun _ x y => boolF (flt fmt32 x y))

/-- fle.s (R93): Binary32 less-or-equal comparison. -/
def execFleS (d a b : G) (s : State) : Result :=
  s.fp3 (encR 0x51 0x12 d a b) d a b fmt32 (fun _ x y => boolF (fle fmt32 x y))

/-- fsqrt.s (R92): Binary32 square root. -/
def execFsqrtS (d a : G) (s : State) : Result :=
  s.fp2 (encR 0x51 0x04 d a 0) d a fmt32 (fsqrt fmt32)

/-- fclass.s (R94): Writes the class mask of a binary32 value. -/
def execFclassS (d a : G) (s : State) : Result :=
  s.fp2 (encR 0x51 0x0C d a 0) d a fmt32 (fun _ x => quietF (fclass fmt32 x))

/-- fma.s (R95): Binary32 fused multiply-add with one rounding. -/
def execFmaS (d a b c : G) (s : State) : Result :=
  s.fp4 (encF4 0x54 0 d a b c) d a b c fmt32 false

/-- fms.s (R95): Binary32 fused multiply-subtract with one rounding. -/
def execFmsS (d a b c : G) (s : State) : Result :=
  s.fp4 (encF4 0x54 1 d a b c) d a b c fmt32 true

/-- The 64-bit register value of a converted pattern: i32 is sign-extended, every other type zero-extended (R96). -/
def extendTy (t : NumTy) (v : Nat) : Nat :=
  match t with
  | .i32 => (sext 32 v).toNat
  | .f64 | .f32 | .f16 | .bf16 | .i64 | .u64 | .u32 => v

/-- fcvt (R96): Converts between floating and integer types, optionally toward zero. -/
def execFcvt (d a : G) (rtz : Bool) (dst src : NumTy) (s : State) : Result :=
  s.issue ((useG (encR 0x55 (src.code + 8 * dst.code + 64 * rtz.toNat) d a 0) [d, a]).ill (!cvtOk dst src)) fun s =>
    let r := convert s.me.rm rtz dst src (s.rg a).toNat
    s.putF d (extendTy dst r.1, r.2)

end Sys2Proof.Machine
end

