-- ==== Sys2Proof/Machine/Firing.lean ====
section
/-! DEFINITION. The FIRE group: done, shrink, arm, ready and migr at the issuing thread (R125, R129, R145, R153). -/

namespace Sys2Proof.Machine

/-- Send a posted operation message with the next channel-7 number, without completing an instruction. -/
def State.postNow (s : State) (f : Nat → Msg) : State :=
  let n := s.myCore.lastIssued 7 + 1
  (s.takeNumbers 7 1).sendCounted { f n with number := n }

/-- One successor of a firing that is done: a dec of 1 on the handle's lane, or a report of the check it fails (R125). -/
def State.sendSuccessor (s : State) (h : Word) : State :=
  let addr := BitVec.ofNat 64 (h.toNat / 8 * 8)
  match s.readyTarget (coreOf s.who) addr with
  | .error c => s.report s.myCap (s.recordOf s.myCap 1 c s.me.pc h (extentIndex (s.cap s.myCap) c h) (s.originOf s.who) 0)
  | .ok m => s.postNow fun n => s.readyMsg 0x33 (h.toNat % 4) addr m 1 0 n

/-- The end of a firing: its successors in handle order, then its unit and its allotment (R125, R129, R153). -/
def State.endFiring (s : State) : State :=
  let s := s.me.successors.foldl State.sendSuccessor s
  (s.subCount s.myCap 1).endThread s.who

/-- The end of a delegated routine: its successors, then dlg's REPLY with g1, or the end of dlg.p's unit and number (R145). Where a late result is
still pending on g1, done waits for nothing (R153), and the REPLY carries the value that g1 holds (DESIGN CHOICE log 74). -/
def State.endRoutine (s : State) (m : Msg) : State :=
  let v := s.rg 1
  let s := s.me.successors.foldl State.sendSuccessor s
  let s := if m.request = 0 then (s.subCount m.capsule 1).completeNumber m.sender 7 m.number
    else s.send (replyMsg m.capsule (coreOf s.who) (s.originOf s.who) m.reply m.firing m.request v)
  s.endThread s.who

/-- The rate dword of a codelet (R119, R120). -/
def Codelet.rateWord (d : Codelet) : Word :=
  BitVec.ofNat 64 (d.rates.getD 0 0 + d.rates.getD 1 0 * 2 ^ 12 + d.rates.getD 2 0 * 2 ^ 24 + d.rates.getD 3 0 * 2 ^ 36)

/-- done (R153): Ends the firing or delegated routine, sends its successors and frees its allotment. -/
def execDone  (s : State) : Result :=
  s.issue ((useG (encR 0x38 0 0 0 0) []).bar.ill (decide (s.role = 2))) fun s =>
    match s.me.handling with
    | some m => .next (s.endRoutine m)
    | none => .next s.endFiring

/-- shrink (R153): Reduces the thread's allotment to the value in g[a]. -/
def execShrink (a : G) (s : State) : Result :=
  let bad := decide (2 ≤ s.role) || (s.hasG a && !s.allotOk (s.rg a))
  s.issue ((useG (encR 0x38 1 0 a 0) [a]).bar.ill bad) fun s => s.shrinkTo (s.rg a)

/-- arm (R153): Sends an operation that writes a readiness word and its rates for a codelet: the index in g[b][15:0], whose upper bits the check leaves
alone (DESIGN CHOICE log 73). -/
def execArm (a b : G) (s : State) : Result :=
  let n := (s.cap s.myCap).image.codelets.length
  let bad := decide (s.role = 2) || (s.hasG b && decide (n ≤ (s.rg b).toNat % 2 ^ 16))
  s.issue ((useG (encR 0x38 2 0 a b) [a, b]).bar.ill bad) fun s =>
    let addr := s.rg a
    match s.readyTarget (coreOf s.who) addr with
    | .error c => s.takeTrap c addr
    | .ok m =>
      let q := (s.rg b).toNat % 2 ^ 16
      let rates := ((s.cap s.myCap).image.codelets[q]?.map Codelet.rateWord).getD 0
      s.postOp 0 fun n => s.readyMsg 0x38 2 addr m (s.rg b) rates n

/-- ready (R153): Sends an operation that runs the release step on a readiness word without changing a count. -/
def execReady (a : G) (s : State) : Result :=
  s.issue (useG (encR 0x38 3 0 a 0) [a]).bar fun s =>
    let addr := s.rg a
    match s.readyTarget (coreOf s.who) addr with
    | .error c => s.takeTrap c addr
    | .ok m =>
      let origin := match s.me.handling with
        | some h => if s.role = 2 then h.origin else s.originOf s.who
        | none => s.originOf s.who
      s.postOp 0 fun n => { s.readyMsg 0x38 3 addr m 0 0 n with origin }

/-- migr (R153): Moves the firing to the core at g[a]: the thread issues nothing until DEPARTURE. -/
def execMigr (a : G) (s : State) : Result :=
  let t := s.me
  let bad := decide (2 ≤ s.role ∨ t.vregs ≠ 0 ∨ t.barRecs ≠ []) || t.shadow.written
  s.issue ((useG (encR 0x38 4 0 a 0) [a]).bar.ill bad) fun s =>
    match s.targetCore (coreOf s.who) (s.rg a) with
    | .error c => s.takeTrap c (s.rg a)
    | .ok target => .next (s.hold (.departure target))

end Sys2Proof.Machine
end

