-- ==== Sys2Proof/Machine/Memory.lean ====
section
/-! DEFINITION. Scalar loads and stores, lda and stl, the acknowledgement of a store and the arrival of a late result
(R39, R63 to R66). -/

namespace Sys2Proof.Machine

/-- The signed offset of formats L and LS, scaled by the access size (R36). -/
def offset9 (n : Nat) (imm : BitVec 9) : Word := BitVec.ofInt 64 (n * imm.toInt)
/-- A zero-extended value (R63). -/
def zextN (v : Nat) : Word := BitVec.ofNat 64 v
/-- The bytes of an access size (R36). -/
def Width.bytes : Width → Nat
  | .b => 1 | .h => 2 | .w => 4 | .d => 8

/-- ld.b (R63): Loads a sign-extended byte into g[d]. -/
def execLdB (d a : G) (imm : BitVec 9) (la : La) (s : State) : Result :=
  s.loadG (encL 0x20 la imm.toNat a d) d a la 1 (offset9 1 imm) (sext 8)

/-- ld.h (R63): Loads a sign-extended half into g[d]. -/
def execLdH (d a : G) (imm : BitVec 9) (la : La) (s : State) : Result :=
  s.loadG (encL 0x21 la imm.toNat a d) d a la 2 (offset9 2 imm) (sext 16)

/-- ld.w (R63): Loads a sign-extended word into g[d]. -/
def execLdW (d a : G) (imm : BitVec 9) (la : La) (s : State) : Result :=
  s.loadG (encL 0x22 la imm.toNat a d) d a la 4 (offset9 4 imm) (sext 32)

/-- ld.d (R63): Loads a dword into g[d]. -/
def execLdD (d a : G) (imm : BitVec 9) (la : La) (s : State) : Result :=
  s.loadG (encL 0x23 la imm.toNat a d) d a la 8 (offset9 8 imm) zextN

/-- ld.bu (R63): Loads a zero-extended byte into g[d]. -/
def execLdBu (d a : G) (imm : BitVec 9) (la : La) (s : State) : Result :=
  s.loadG (encL 0x24 la imm.toNat a d) d a la 1 (offset9 1 imm) zextN

/-- ld.hu (R63): Loads a zero-extended half into g[d]. -/
def execLdHu (d a : G) (imm : BitVec 9) (la : La) (s : State) : Result :=
  s.loadG (encL 0x25 la imm.toNat a d) d a la 2 (offset9 2 imm) zextN

/-- ld.wu (R63): Loads a zero-extended word into g[d]. -/
def execLdWu (d a : G) (imm : BitVec 9) (la : La) (s : State) : Result :=
  s.loadG (encL 0x26 la imm.toNat a d) d a la 4 (offset9 4 imm) zextN

/-- lda (R65): Loads a zero-extended value as an acquire at the named scope; every access is performed at pod scope when it takes place (DESIGN CHOICE log 3), so the scope changes nothing more. -/
def execLda (d a : G) (sz : Width) (sc : Scope) (la : La) (s : State) : Result :=
  s.loadG (encQ 0x27 la sz.code sc.code a d) d a la (Width.bytes sz) 0 zextN

/-- st.b (R63): Stores the low byte of g[s]. -/
def execStB (a v : G) (imm : BitVec 9) (la : La) (s : State) : Result :=
  s.storeG (encL 0x28 la imm.toNat a v) a v la 1 (offset9 1 imm)

/-- st.h (R63): Stores the low half of g[s]. -/
def execStH (a v : G) (imm : BitVec 9) (la : La) (s : State) : Result :=
  s.storeG (encL 0x29 la imm.toNat a v) a v la 2 (offset9 2 imm)

/-- st.w (R63): Stores the low word of g[s]. -/
def execStW (a v : G) (imm : BitVec 9) (la : La) (s : State) : Result :=
  s.storeG (encL 0x2A la imm.toNat a v) a v la 4 (offset9 4 imm)

/-- st.d (R63): Stores the dword g[s]. -/
def execStD (a v : G) (imm : BitVec 9) (la : La) (s : State) : Result :=
  s.storeG (encL 0x2B la imm.toNat a v) a v la 8 (offset9 8 imm)

/-- stl (R65): Stores the low bytes of g[s] as a release: it waits for the posted atomics of its thread (R140); every other access is performed already (DESIGN CHOICE log 3). -/
def execStl (a v : G) (sz : Width) (sc : Scope) (la : La) (s : State) : Result :=
  s.issueRelease (useG (encQ 0x2C la sz.code sc.code a v) [a, v]) fun s => s.storeBody v la (Width.bytes sz) (s.rg a)

/-- Take one unacknowledged store of a firing off its count: on the thread that runs the firing, else on the core (R63). -/
def State.acknowledge (s : State) (firing core : Nat) : State :=
  match (List.range 4).find? (fun r => (s.thr (core * 4 + r)).live && decide ((s.thr (core * 4 + r)).firing = firing ∧ firing ≠ 0)) with
  | some r =>
    let t := s.thr (core * 4 + r)
    s.setThr (core * 4 + r) { t with unacked := t.unacked - 1 }
  | none => s.setCore core { s.core core with unacked := (s.core core).unacked - 1 }

/-- STORE_ACKNOWLEDGEMENT (R63): A store performed at pod scope is acknowledged and leaves its firing's count of unacknowledged stores. -/
def execStoreAcknowledgement (n : Nat) (s : State) : Result :=
  match s.stores[n]? with
  | none => .next s
  | some (f, c) => .next ({ s with stores := s.stores.eraseIdx n }.acknowledge f c)

/-- A late result reaches its register if its request is still the pending one: past its window it is written at once,
inside the window it waits for the window's end; a cancelled request's reply is discarded (R39). -/
def Thread.receive (t : Thread) (request : Nat) (v : Late) : Thread :=
  Thread.settle { t with pending := t.pending.map fun p => if p.id = request then { p with value := some v } else p }

/-- The thread that runs a firing now, wherever it is (R127, R128). -/
def State.threadOf (s : State) (firing : Nat) : Option Nat :=
  (s.threads.find? fun e => e.2.live && decide (e.2.firing = firing)).map Prod.fst

/-- Deliver a late result to a firing: to the thread that runs it, or to its saved context (R128). -/
def State.deliverLate (s : State) (firing request : Nat) (v : Late) : State :=
  match s.threadOf firing with
  | some t => s.setThr t (Thread.receive (s.thr t) request v)
  | none => s

/-- Whether a message carries a firing on its way to another core (R127). -/
def Msg.carries (m : Msg) (firing : Nat) : Bool := decide (m.kind = 1 ∧ m.firing = firing ∧ fieldB m.body 2 2 = 0xFFFF)

/-- Whether a firing is between cores or saved, so that what it is owed waits (R127, R128). -/
def State.away (s : State) (firing : Nat) : Bool :=
  s.net.any (Msg.carries · firing) ||
  (s.cores.any fun e => (e.2.ring ++ e.2.waiting).any fun x =>
    match x.message with
    | some m => m.carries firing
    | none => false) ||
  s.capsules.any fun e => e.2.saved.any fun x => decide (x.context.firing = firing)

/-- The forwarding entry of a firing that departed to a peer package (R127). -/
def State.departed (s : State) (firing : Nat) : Option Forward :=
  s.cores.findSome? fun e => e.2.forwarding.find? fun f => decide (f.firing = firing ∧ coreCount ≤ f.target)

/-- A load reply that a firing awaits which departed to a peer package is sent on to it (R127, R128, DESIGN CHOICE log 8): the origin that its
context named, the identity of the firing, the register, and the value. The reply of a cancelled request is discarded (R39). -/
def State.forwardLate (s : State) (f : Forward) (r : LoadReply) : State :=
  if f.owed.contains r.request then
    let reg := match r.reg with
      | .g d => d
      | .v d => 64 + d
    s.toPod ((s.cap (s.capOf r.core)).podOf (f.target - coreCount)) 14
      (toBytes 4 f.origin.toNat ++ toBytes 8 f.firing ++ toBytes 4 reg ++ toBytes 8 (r.value.data.toNat % 2 ^ 64))
  else s

/-- LATE_RESULT (R39): A reply for an outstanding long-latency request arrives and is written to its register, forwarded, or discarded if cancelled. -/
def execLateResult (n : Nat) (s : State) : Result :=
  match s.loads[n]? with
  | none => .next s
  | some r =>
    let rest := { s with loads := s.loads.eraseIdx n }
    match s.threadOf r.firing, s.departed r.firing with
    | none, some f => .next (rest.forwardLate f r)
    | none, none => if s.away r.firing then .next s else .next (rest.deliverLate r.firing r.request r.value)
    | some _, _ => .next (rest.deliverLate r.firing r.request r.value)

end Sys2Proof.Machine
end

