-- ==== Sys2Proof/Machine/Tagged.lean ====
section
/-! DEFINITION. Tagged memory: ldf, ste, fill, purge, probe and the queues of waiting requests (R148 to R152). -/

namespace Sys2Proof.Machine

/-- Whether a waiting request may proceed: ldf needs FULL, ste EMPTY (R148). -/
def State.tagReady (s : State) (r : TagReq) : Bool := if r.kind = 2 then !s.full r.addr else s.full r.addr

/-- Perform a tagged request of a peer's core: the answer, with the word's value, leaves to it (R148, DESIGN CHOICE log 8), or word that an ldf met
poison (R213). -/
def State.performPeerTag (s : State) (r : TagReq) (p : PeerIssuer) : State :=
  let v := if r.kind = 2 then r.value else s.mem64 r.addr
  let pod := (s.cap p.capsule).podOf p.package
  if r.kind ≠ 2 && s.poisoned r.addr 8 then (s.logForgery r.addr 8).toPod pod 13 (toBytes 8 p.address.toNat)
  else
  let s :=
    if r.kind = 2 then ((s.setMem64 r.addr r.value).touched r.addr 8).setFull r.addr true
    else if r.kind = 0 then s.setFull r.addr false
    else s
  s.toPod pod 26 (toBytes 8 p.address.toNat ++ toBytes 4 p.origin.toNat ++ toBytes 8 v.toNat)

/-- Perform a tagged request for its thread, whose instruction completes (R148, R149), or for a peer's. An ldf that meets poison raises MEMERR
(R213). -/
def State.performTag (s : State) (r : TagReq) : State :=
  match r.peer with
  | some p => s.performPeerTag r p
  | none =>
    s.onThread r.thread fun s =>
      if r.kind = 2 then
        (((s.setMem64 r.addr r.value).touched r.addr 8).setFull r.addr true).noteStore.retire
      else if s.poisoned r.addr 8 then s.inTrap causeMemerr r.wrote
      else
        let s := s.wg r.reg (s.mem64 r.addr)
        (if r.kind = 0 then s.setFull r.addr false else s).retire

/-- The first request that waits at a word. -/
def State.tagHead (s : State) (k : Nat) : Option TagReq := s.tagQueue.find? fun r => decide (r.addr = k)

/-- Serve a word's queue from its head until the head cannot proceed (R149). -/
def State.serveTag (k : Nat) : Nat → State → State
  | 0, s => s
  | n + 1, s =>
    match s.tagHead k with
    | none => s
    | some r =>
      if s.tagReady r then State.serveTag k n ({ s with tagQueue := s.tagQueue.erase r }.performTag r) else s

/-- The tag of a word has changed: its queue is served. -/
def State.tagChanged (s : State) (k : Nat) : State := State.serveTag k s.tagQueue.length s

/-- A fill: the word is written and becomes FULL at once, then its queue is served (R148, R149). -/
def State.fillWord (s : State) (k : Nat) (v : Word) : State :=
  (((s.setMem64 k v).touched k 8).setFull k true).tagChanged k

/-- An ldf or ste at a word: it proceeds at once when its condition is met, and the queue is served; else it waits in the
word's queue (R148, R149, DEDUCED log 13). In a handler it never waits: ILLEGAL (R150). -/
def State.tagRequest (s : State) (word : Nat) (r : TagReq) : Result :=
  if s.tagQueue.any fun q => decide (q.thread = s.who) then .next s
  else if s.role = 2 && (!s.tagReady r || (s.tagHead r.addr).isSome) then s.takeTrap causeIllegal (BitVec.ofNat 64 word)
  else if s.tagReady r then .next ((s.performTag r).tagChanged r.addr)
  else .next ({ s with tagQueue := s.tagQueue ++ [r] }.hold (.tag r.addr))

/-! ### A peer's words -/

/-- A word about a tagged operation that leaves to a peer (DESIGN CHOICE log 8): the address, its issuer's origin word, and a value. -/
def State.sendTag (s : State) (pod what address : Nat) (v : Word) : State :=
  s.toPod pod what (toBytes 8 address ++ toBytes 4 (s.originOf s.who).toNat ++ toBytes 8 v.toNat)

/-- The issuing thread's ldf or ste at a peer's word has its answer: the instruction completes (R148). -/
def State.tagAnswered (s : State) (kind reg : Nat) (v : Word) : State :=
  if kind = 2 then s.noteStore.retire else (s.wg reg v).retire

/-- An ldf or ste at a word of a peer (R148): the request leaves, and the thread waits for its answer. In a handler it never waits (R150): whether
the word is in the state it needs, and its value, are free. -/
def State.awayTag (s : State) (word kind reg pod address : Nat) (v : Word) : Result :=
  if s.awayTags.any fun q => decide (q.thread = s.who) then .next s
  else if s.role = 2 then
    if (Config.peerByte s.steps (address + 8)).toNat % 2 = 1 then
      let got := BitVec.ofNat 64 (s.readPlace (.peer pod address) 8)
      .next ((s.sendTag pod (21 + kind) address v).tagAnswered kind reg got)
    else s.takeTrap causeIllegal (BitVec.ofNat 64 word)
  else
    let s := s.sendTag pod (21 + kind) address v
    let r : AwayTag := ⟨s.who, kind, reg, address, pod⟩
    .next ({ s with awayTags := s.awayTags ++ [r] }.hold (.tag address))

/-- The answer to a tagged request of a thread here arrives from a peer: the oldest of that address there proceeds. -/
def State.tagDone (s : State) (pod address : Nat) (v : Word) : State :=
  match s.awayTags.find? fun a => decide (a.pod = pod ∧ a.address = address) with
  | none => s
  | some a => { s with awayTags := s.awayTags.erase a }.onThread a.thread fun s => s.tagAnswered a.kind a.reg v

/-! ### The instructions -/

/-- ldf at a word of this package, or of a peer. -/
def State.ldf (s : State) (word kind : Nat) (d a : G) : Result :=
  s.issueMem (useG word [d, a]).bar fun s =>
    let addr := s.rg a
    match s.meshOnly (coreOf s.who) addr 8 tagUnit with
    | .error c => s.takeTrap c addr
    | .ok m =>
      match s.placeOf (coreOf s.who) m with
      | .peer pk x => s.awayTag word kind d pk x 0
      | .here k _ =>
        if s.postedTo s.me.firing k 8 then .next (s.hold .posted)
        else s.tagRequest word ⟨k, kind, s.who, d, 0, none, addr⟩

/-- ldf.e (R148): Waits for a FULL scratchpad word, takes its value and leaves it EMPTY, as an acquire. -/
def execLdfE (d a : G) (s : State) : Result :=
  s.ldf (encM 0x2D 0 0 d a 0) 0 d a

/-- ldf.f (R148): Waits for a FULL scratchpad word and reads it, leaving it FULL, as an acquire. -/
def execLdfF (d a : G) (s : State) : Result :=
  s.ldf (encM 0x2D 1 0 d a 0) 1 d a

/-- ste (R148): Waits for an EMPTY scratchpad word, writes it and sets it FULL, as a release. -/
def execSte (a b : G) (s : State) : Result :=
  s.issueRelease (useG (encM 0x2E 0 0 0 a b) [a, b]).bar fun s =>
    let addr := s.rg a
    match s.meshOnly (coreOf s.who) addr 8 tagUnit with
    | .error c => s.takeTrap c addr
    | .ok m =>
      match s.placeOf (coreOf s.who) m with
      | .peer pk x => s.awayTag (encM 0x2E 0 0 0 a b) 2 0 pk x (s.rg b)
      | .here k _ => s.tagRequest ((encM 0x2E 0 0 0 a b)) ⟨k, 2, s.who, 0, s.rg b, none, addr⟩

/-- fill (R148): Writes a scratchpad word and sets it FULL at once, as a release. -/
def execFill (a b : G) (s : State) : Result :=
  s.issueRelease (useG (encM 0x2E 1 0 0 a b) [a, b]).bar fun s =>
    let addr := s.rg a
    match s.meshOnly (coreOf s.who) addr 8 tagUnit with
    | .error c => s.takeTrap c addr
    | .ok m =>
      match s.placeOf (coreOf s.who) m with
      | .peer pk x => .next ((s.sendTag pk 24 x (s.rg b)).noteStore).retire
      | .here k _ =>
        let v := s.rg b
        .next ((s.noteStore.retire).fillWord k v)

/-- Set the tags of n words from a key EMPTY, one after another, each with its queue served (R152). -/
def State.purgeWords (k : Nat) : Nat → State → State
  | 0, s => s
  | n + 1, s => State.purgeWords (k + 8) n ((s.setFull k false).tagChanged k)

/-- purge (R152): Sets EMPTY the tags of a run of scratchpad words in ascending order. -/
def execPurge (a b : G) (la : La) (s : State) : Result :=
  let bad := s.hasG b && decide (s.rg b = 0 ∨ 32768 < (s.rg b).toNat)
  s.issueRelease ((useG (encM 0x2F 0 la 0 a b) [a, b]).ill bad) fun s =>
    let addr := s.rg a
    let n := (s.rg b).toNat
    match s.meshOnly (coreOf s.who) addr 8 (fun _ => true) with
    | .error c => s.takeTrap c addr
    | .ok m =>
      if m.unit = 1 && decide (0x400000 < m.offset + 8 * n) then s.takeTrap causeMeshbound (firstBeyond addr m.offset 0x400000)
      else if m.unit ≠ 1 then s.takeTrap causeRights addr
      else
        match s.placeOf (coreOf s.who) m with
        | .peer pk x => .next ((s.sendTag pk 2 x (s.rg b)).finishOpen la)
        | .here k _ => .next (State.purgeWords k n (s.finishOpen la))

/-- probe (R152): Reports a word's FULL tag and non-empty queue without waiting. -/
def execProbe (d a : G) (la : La) (s : State) : Result :=
  s.issueMem (useG (encM 0x2F 1 la d a 0) [d, a]) fun s =>
    let addr := s.rg a
    match s.meshOnly (coreOf s.who) addr 8 tagUnit with
    | .error c => s.takeTrap c addr
    | .ok m =>
      match s.placeOf (coreOf s.who) m with
      | .peer pk x => .next ((s.sendTag pk 25 x 0).finishLate (.g d) la (lateG (BitVec.ofNat 64 (s.readPlace (.peer pk x) 1 % 4))) true)
      | .here k _ =>
        let v := (if s.full k then 1 else 0) + (if (s.tagHead k).isSome then 2 else 0)
        .next (s.finishLate (.g d) la (lateG (BitVec.ofNat 64 v)))

end Sys2Proof.Machine
end

