-- ==== Sys2Proof/Machine/Inline.lean ====
section
/-! DEFINITION. Inline words of a HANDLE message (R48, R136, R150): which words may stand there, and their run on H. -/

namespace Sys2Proof.Machine

/-- The instruction of an inline word by its op, when the op is one that R48 names. -/
def inlineDecode (w : Nat) : Option Instr :=
  let op := w % 128
  if op ≤ 0x09 then decodeLow op w
  else if op = 0x38 then decodeFire (fieldAt w 25 7) (gAt w 7) (gAt w 13) (gAt w 19)
  else decodeMem op w

/-- Whether a word carries a non-zero la (R35): formats L and M. -/
def inlineLa (w : Nat) : Bool :=
  let op := w % 128
  (decide (0x20 ≤ op ∧ op ≤ 0x2B) && decide (fieldAt w 28 4 ≠ 0)) || (decide (0x2D ≤ op ∧ op ≤ 0x34) && decide (fieldAt w 25 4 ≠ 0))

/-- The meaning of an instruction that R48 allows in an inline word; none for every other. -/
def inlineExec (i : Instr) (s : State) : Option Result :=
  match i with
  | .add d a b => some (execAdd d a b s)
  | .sub d a b => some (execSub d a b s)
  | .and d a b => some (execAnd d a b s)
  | .or d a b => some (execOr d a b s)
  | .xor d a b => some (execXor d a b s)
  | .andn d a b => some (execAndn d a b s)
  | .orn d a b => some (execOrn d a b s)
  | .sll d a b => some (execSll d a b s)
  | .srl d a b => some (execSrl d a b s)
  | .sra d a b => some (execSra d a b s)
  | .rol d a b => some (execRol d a b s)
  | .ror d a b => some (execRor d a b s)
  | .slt d a b => some (execSlt d a b s)
  | .sltu d a b => some (execSltu d a b s)
  | .seq d a b => some (execSeq d a b s)
  | .sne d a b => some (execSne d a b s)
  | .min d a b => some (execMin d a b s)
  | .max d a b => some (execMax d a b s)
  | .minu d a b => some (execMinu d a b s)
  | .maxu d a b => some (execMaxu d a b s)
  | .mul d a b => some (execMul d a b s)
  | .mulh d a b => some (execMulh d a b s)
  | .mulhu d a b => some (execMulhu d a b s)
  | .mulhsu d a b => some (execMulhsu d a b s)
  | .div d a b => some (execDiv d a b s)
  | .divu d a b => some (execDivu d a b s)
  | .rem d a b => some (execRem d a b s)
  | .remu d a b => some (execRemu d a b s)
  | .clz d a => some (execClz d a s)
  | .ctz d a => some (execCtz d a s)
  | .popc d a => some (execPopc d a s)
  | .brev d a => some (execBrev d a s)
  | .bswap d a => some (execBswap d a s)
  | .sextB d a => some (execSextB d a s)
  | .sextH d a => some (execSextH d a s)
  | .sextW d a => some (execSextW d a s)
  | .zextW d a => some (execZextW d a s)
  | .addi d a imm => some (execAddi d a imm s)
  | .andi d a imm => some (execAndi d a imm s)
  | .ori d a imm => some (execOri d a imm s)
  | .xori d a imm => some (execXori d a imm s)
  | .slti d a imm => some (execSlti d a imm s)
  | .sltiu d a imm => some (execSltiu d a imm s)
  | .slli d a amount => some (execSlli d a amount s)
  | .srli d a amount => some (execSrli d a amount s)
  | .srai d a amount => some (execSrai d a amount s)
  | .rori d a amount => some (execRori d a amount s)
  | .lui d imm => some (execLui d imm s)
  | .ldB d a imm la => some (execLdB d a imm la s)
  | .ldH d a imm la => some (execLdH d a imm la s)
  | .ldW d a imm la => some (execLdW d a imm la s)
  | .ldD d a imm la => some (execLdD d a imm la s)
  | .ldBu d a imm la => some (execLdBu d a imm la s)
  | .ldHu d a imm la => some (execLdHu d a imm la s)
  | .ldWu d a imm la => some (execLdWu d a imm la s)
  | .stB a v imm la => some (execStB a v imm la s)
  | .stH a v imm la => some (execStH a v imm la s)
  | .stW a v imm la => some (execStW a v imm la s)
  | .stD a v imm la => some (execStD a v imm la s)
  | .ldfE d a => some (execLdfE d a s)
  | .ldfF d a => some (execLdfF d a s)
  | .ste a b => some (execSte a b s)
  | .fill a b => some (execFill a b s)
  | .dec a b lane la => some (execDec a b lane la s)
  | .msgReply b la => some (execMsgReply b la s)
  | .ready a => some (execReady a s)
  | _ => none

/-- The state of H at the start of a handler with inline words (R136): its registers, and the message it handles. -/
def inlineThread (t : Thread) (m : Msg) (payload : Word) : Thread :=
  let g : Sparse Word := (List.range 12).foldl (fun acc i => sset 0 acc (i + 1) (dwordB m.body (8 * i))) []
  let g := sset 0 g 13 payload
  let g := sset 0 g 14 (BitVec.ofNat 64 (m.origin.toNat % 2 ^ 32))
  let g := sset 0 g 15 m.reply
  { t with live := true, mode := .capsule, g := g, fcr := 0, vl := 0, ldepth := 0, pending := [], window := 0, wait := .nothing,
           requests := [], firing := 0, handling := some m, replied := false }

/-- Run one word on H (R48): the cause and value of the record, if it ends the handler. The word runs at the code offset of the
instruction that sent the message. -/
def inlineWord (code : Word) (w : BitVec 32) (s : State) : State × Option (Nat × Word) :=
  let s := s.setMe { s.me with pc := code }
  let bad := (s, some (causeIllegal, w.setWidth 64))
  match inlineDecode w.toNat with
  | none => bad
  | some i =>
    if inlineLa w.toNat then bad
    else
      match inlineExec i s with
      | some (.next s') => (s', if s'.me.mode = .firmware then some (s'.me.trapCause.toNat, s'.me.trapVal) else none)
      | some (.fault _) | some (.refused _) | none => bad

/-- Run the words in order until one ends the handler (R48). -/
def inlineRun (code : Word) : List (BitVec 32) → State → State × Option (Nat × Word)
  | [], s => (s, none)
  | w :: r, s =>
    match inlineWord code w s with
    | (s, some e) => (s, some e)
    | (s, none) => inlineRun code r s

end Sys2Proof.Machine
end

