-- ==== Sys2Proof/Machine/Handlers.lean ====
section
/-! DEFINITION. What the message network and the H thread do with a message at its target: arrival (R47, R301), handlers with
inline words (R48, R136), the handlers of operation payloads (R62, R117, R140, R141, R153), the release step (R121), and REPLYs
(R137). -/

namespace Sys2Proof.Machine

/-! ### Arrival -/

/-- Eight bytes that the manual leaves open in this step (DESIGN CHOICE log 12). -/
def State.freeWord (s : State) (k : Nat) : Word :=
  BitVec.ofNat 64 (ofBytes ((List.range 8).map fun i => Config.freeByte s.steps (k + i)))

/-- Whether a message meets R46: type, inline count, length, origin and reply. -/
def Msg.ok (m : Msg) : Bool :=
  decide (m.kind ≤ 4 ∧ m.words.length ≤ 4 ∧ m.bytesLen ≤ 1024 ∧ m.bytesLen % 8 = 0 ∧ m.origin.toNat < 2 ^ 26) &&
  (decide (m.words.length = 0) || decide (m.kind = 0)) && (decide (m.reply = 0) || decide (2 ^ 63 ≤ m.reply.toNat)) &&
  (decide (m.kind ≠ 0 ∨ m.words.length ≠ 0) || decide (m.body.length = 56))

/-- The timeline field of a record about a message: channel 7 and its posted number (R139). -/
def Msg.timeline (m : Msg) : Word := if m.number = 0 then 0 else BitVec.ofNat 64 (7 * 2 ^ 60 + m.number)

/-- A failure found after issue (R139): MEMERR ends the capsule with its record, every other cause only writes it. (DESIGN CHOICE log 54) -/
def State.lateFault (s : State) (m : Msg) (cause : Nat) (value : Word) : State :=
  let r := s.recordOf m.capsule 1 cause m.code value (extentIndex (s.cap m.capsule) cause value) m.origin m.timeline
  if cause = causeMemerr then s.failCapsule m.capsule r else s.report m.capsule r

/-- The end of a message that no REPLY to a window follows: its unit and its posted number (R129, R147). -/
def State.endMessage (s : State) (m : Msg) : State :=
  if m.request = 0 then (s.subCount m.capsule 1).completeNumber m.sender 7 m.number else s

/-- A message that breaks R46 is discarded: a report with cause ILLEGAL and the sender's unit (R47). The record's value is
free: the manual states none (DESIGN CHOICE log 12). -/
def State.discard (s : State) (m : Msg) : State :=
  ((s.lateFault m causeIllegal (s.freeWord 0)).subCount m.capsule 1).completeNumber m.sender 7 m.number

/-- Whether a capsule's packets to a core are discarded: its router discards them, or the kill's sweep of the core has ended
(R214). -/
def State.discards (s : State) (core cap : Nat) : Bool :=
  (s.routers.any fun r => decide (r.1 = cap ∧ r.2.1 = clusterOf core)) ||
  (match (s.cap cap).kill with
   | some k => k.swept.contains core
   | none => false)

/-- A kill discards a child that has not started (R215). -/
def State.countChild (s : State) (cap : Nat) : State :=
  match (s.cap cap).kill with
  | some k => s.setCap cap { s.cap cap with kill := some { k with children := k.children + 1 } }
  | none => s

/-- A message of a killed capsule is discarded; a TASK or DELEGATE message of a child is counted (R214, R215). -/
def State.sweepMessage (s : State) (m : Msg) : State :=
  if m.kind = 2 || (decide (m.kind = 1) && !m.bounce && decide (fieldB m.body 2 2 ≠ 0xFFFF)) then s.countChild m.capsule else s

/-- Deliver messages to a core's inbox: HANDLE and DELEGATE messages in the order they were sent, each once the accesses that it follows are
performed (early says which must wait) and while there is room; behind a message that waits, later ones of its origin
wait too (R132, R301). -/
def deliverInbox (core : Nat) (early : Msg → Bool) : List Msg → List Word → State → State
  | [], _, s => s
  | m :: r, blocked, s =>
    if m.target ≠ core ∨ m.bounce ∨ m.kind = 1 ∨ m.kind = 3 ∨ m.kind = 4 then deliverInbox core early r blocked { s with net := s.net ++ [m] }
    else if s.discards core m.capsule then deliverInbox core early r blocked (s.sweepMessage m)
    else if !m.ok then deliverInbox core early r blocked (s.discard m)
    else if blocked.contains m.origin || early m || decide (16384 < (s.core core).inboxBytes + m.bytesLen) then
      deliverInbox core early r (m.origin :: blocked) { s with net := s.net ++ [m] }
    else deliverInbox core early r blocked (s.setCore core { s.core core with inbox := (s.core core).inbox ++ [m] })

/-- Whether a message has yet to wait before it may arrive: the earlier atomics of its firing are not performed (R117, R140), or its capsule is a
gang member that has loaded and not started, whose entry firings come before any other entry (R122, DESIGN CHOICE log 109). -/
def State.early (s : State) (m : Msg) : Bool := s.atomicBefore m.firing m.serial || decide ((s.cap m.capsule).stage = .loaded)

/-- Every message on its way to a core arrives, as far as its inbox has room and as it need wait no longer. -/
def State.arriveAt (s : State) (core : Nat) : State := deliverInbox core s.early s.net [] { s with net := [] }

/-! ### The H thread -/

/-- The H thread of a core. -/
def hThread (core : Nat) : Nat := core * 4 + 2
/-- The S thread of a core. -/
def sThread (core : Nat) : Nat := core * 4 + 3

/-- The first HANDLE message of a core's inbox of a kind p that H may serve now: no earlier HANDLE message of the same origin
waits (R132), and the sender's earlier atomics are performed (R140). -/
def State.pickHandle (s : State) (core : Nat) (p : Msg → Bool) : Option Msg :=
  let l := (s.core core).inbox
  (l.zipIdx.find? fun e =>
    decide (e.1.kind = 0) && p e.1 && !((l.take e.2).any fun q => decide (q.kind = 0 ∧ q.origin = e.1.origin)) &&
    !s.atomicBefore e.1.firing e.1.serial).map Prod.fst

/-- A handler on H of a core: messages arrive; when H is free and not halted, the first message of kind p leaves the inbox
and is served (R13). Its bytes leave INBOX and its room is free as its service begins (DESIGN CHOICE log 90). -/
def State.handleKind (s : State) (core : Nat) (p : Msg → Bool) (serve : State → Msg → State) : Result :=
  let s := s.arriveAt core
  let c := s.core core
  if (s.thr (hThread core)).live || c.halted then .next s
  else
    match s.pickHandle core p with
    | none => .next s
    | some m => .next (serve (s.setCore core { s.core core with inbox := (s.core core).inbox.erase m }) m)

/-- Whether a message is an operation payload with this op (R135). -/
def Msg.isOp (op : Nat) (m : Msg) : Bool := m.words.isEmpty && decide (m.op = op)

/-- Whether a message is a host's atomic (R171): no firing issued it, and its request is one more than the host. -/
def Msg.ofHost (m : Msg) : Bool := decide (m.firing = 0 ∧ m.request ≠ 0)

/-- A handler that performs an operation at the target dwords, unless they hold poison (R139, R213); a host then receives a remote
error, and a remote access error where they are write-locked code by now (R187). -/
def State.serveAt (s : State) (m : Msg) (n : Nat) (f : State → State) : State :=
  if s.codeLocked m.key n && m.ofHost then { s with outbox := s.outbox ++ [.rma (m.request - 1) 2 []] }
  else if s.poisoned m.key n && m.ofHost then
    let s := s.logForgery m.key n
    { s with outbox := s.outbox ++ [.rma (m.request - 1) 3 []] }
  else if s.poisoned m.key n then (s.lateFault m causeMemerr m.written).endMessage m else f s

/-- Write n bytes at an operation's target. Where the target has become write-locked code since the operation was issued, nothing is written, and
RIGHTS is reported (R187, DESIGN CHOICE log 95). -/
def State.putAt (s : State) (m : Msg) (k n : Nat) (v : Word) : State :=
  if s.codeLocked k n then s.lateFault m causeRights m.written else (s.setBytes k n v.toNat).touched k n

/-- Answer a request with a REPLY of H to its reply address; its unit stays until the REPLY is written (R129, R137). -/
def State.answer (s : State) (core : Nat) (m : Msg) (v : Word) : State :=
  s.send (replyMsg m.capsule core (s.originOf (hThread core)) m.reply m.firing m.request v)

/-! ### Atomics and claims -/

/-- w' of R140. -/
def amoResult (fn : Nat) (w v : Word) : Word :=
  if fn = 0 then w + v
  else if fn = 1 then w &&& v
  else if fn = 2 then w ||| v
  else if fn = 3 then w ^^^ v
  else if fn = 4 then (if w.slt v then w else v)
  else if fn = 5 then (if w.slt v then v else w)
  else if fn = 6 then v
  else BitVec.ofNat 64 (fadd fmt64 0 w.toNat v.toNat).1

/-- AMO_HANDLER (R140): H performs an amo at its home and sends the old value as REPLY. -/
def execAmoHandler (core : Nat) (s : State) : Result :=
  s.handleKind core (Msg.isOp 0x30) fun s m => s.serveAt m 8 fun s =>
    let w := s.mem64 m.key
    (s.putAt m m.key 8 (amoResult m.fn w m.op1)).answer core m w

/-- AMOP_HANDLER (R140): H performs a posted amop at its home. -/
def execAmopHandler (core : Nat) (s : State) : Result :=
  s.handleKind core (Msg.isOp 0x31) fun s m => s.serveAt m 8 fun s =>
    (s.putAt m m.key 8 (amoResult m.fn (s.mem64 m.key) m.op1)).endMessage m

/-- CAS_HANDLER (R141): H performs a compare-and-swap at its home. -/
def execCasHandler (core : Nat) (s : State) : Result :=
  s.handleKind core (Msg.isOp 0x32) fun s m => s.serveAt m m.size fun s =>
    let w := BitVec.ofNat 64 (s.bytes m.key m.size)
    let same := decide (w.toNat = m.op1.toNat % 2 ^ (8 * m.size))
    (if same then s.putAt m m.key m.size m.op2 else s).answer core m w

/-- The value of a claim and the new next field, for the three dwords of a fetch descriptor (R62). -/
def claimChunk (d0 d1 d2 : Word) : Word × Option Word :=
  let nx := d0.toNat % 2 ^ 40
  let en := d1.toNat % 2 ^ 40
  let p := max 1 (min d2.toNat 4096)
  if en ≤ nx then (0, none)
  else
    let c := min ((en - nx + 2 * p - 1) / (2 * p)) (2 ^ 24 - 1)
    (BitVec.ofNat 64 (c * 2 ^ 40 + nx), some (BitVec.ofNat 64 (nx + c)))

/-- CLAIM_HANDLER (R62): H claims a chunk of a fetch descriptor at its home. Its second and third dwords are those that follow the first in memory,
checked by nothing (DESIGN CHOICE log 89). -/
def execClaimHandler (core : Nat) (s : State) : Result :=
  s.handleKind core (Msg.isOp 0x1A) fun s m => s.serveAt m 24 fun s =>
    let r := claimChunk (s.mem64 m.key) (s.mem64 (m.key + 8)) (s.mem64 (m.key + 16))
    (match r.2 with
     | some w => s.putAt m m.key 8 w
     | none => s).answer core m r.1

/-! ### Readiness words -/

/-- The signed count of a lane of a readiness word (R115). -/
def laneCount (w : Word) (l : Nat) : Int := (BitVec.ofNat 12 (w.toNat / 2 ^ (12 * l))).toInt
/-- The rate of a lane of a rate dword (R120). -/
def laneRate (w : Word) (l : Nat) : Nat := w.toNat / 2 ^ (12 * l) % 2 ^ 12
/-- A readiness word with a lane's count replaced. -/
def setLane (w : Word) (l : Nat) (c : Int) : Word :=
  let mask : Word := BitVec.ofNat 64 0xFFF <<< (12 * l)
  (w &&& ~~~mask) ||| ((BitVec.ofInt 12 c).setWidth 64 <<< (12 * l))

/-- The rates are added to every lane (R121). -/
def addRates (w rates : Word) : Word :=
  (List.range 4).foldl (fun acc l => setLane acc l (min (laneCount acc l + laneRate rates l) 2047)) w

/-- The entry that a release step pushes (R121, R122). -/
def releaseEntry (w : Word) (key : Nat) : Entry := ⟨bits w.toNat 63 48, 0, key % 2 ^ 18, none⟩

/-- A release step's entry is on the ring: the rates are added and the handler ends (R121). Poison that has come while the entry waited for room is
MEMERR (R139, R213). -/
def State.finishRelease (s : State) (m : Msg) : State :=
  s.serveAt m 16 fun s => (s.setMem64 m.key (addRates (s.mem64 m.key) (s.mem64 (m.key + 8)))).endMessage m

/-- The release step of R121 for the message that H serves. On a full ring, and behind entries that wait for room, H keeps the handler until its
entry is appended (R122); while the capsule is pre-empted the handler ends at once, and its entry is the core's pending append (R209), or stands
behind it (DESIGN CHOICE log 99). -/
def State.release (s : State) (core : Nat) (m : Msg) : State :=
  let w := s.mem64 m.key
  let e := releaseEntry w m.key
  if (List.range 4).any fun l => decide (0 < laneCount w l) then s.endMessage m
  else if (s.cap m.capsule).image.codelets.length ≤ e.codelet then (s.lateFault m causeIllegal m.written).endMessage m
  else
    let s := s.addCount m.capsule 1
    let c := s.core core
    if c.waiting.isEmpty && decide (c.entryCount < 256) then (s.setCore core { c with ring := c.ring ++ [e] }).finishRelease m
    else if (s.cap m.capsule).stage = .preempting then (s.setCore core { c with waiting := c.waiting ++ [e] }).finishRelease m
    else
      let h := s.thr (hThread core)
      (s.setCore core { c with waiting := c.waiting ++ [e] }).setThr (hThread core) { h with live := true, handling := some m }

/-- DEC_HANDLER (R117): H decrements a readiness lane, reporting UNDERFLOW or running the release step. -/
def execDecHandler (core : Nat) (s : State) : Result :=
  s.handleKind core (Msg.isOp 0x33) fun s m => s.serveAt m 16 fun s =>
    let w := s.mem64 m.key
    let c := laneCount w m.fn - m.op1.toNat
    if laneRate (s.mem64 (m.key + 8)) m.fn = 0 ∧ c < 0 then
      ((s.putAt m m.key 8 (setLane w m.fn 0)).lateFault m causeUnderflow m.written).endMessage m
    else (s.putAt m m.key 8 (setLane w m.fn (max c (-2048)))).release core m

/-- ARM_HANDLER (R153): H writes a readiness word and its rate dword for arm. -/
def execArmHandler (core : Nat) (s : State) : Result :=
  s.handleKind core (fun m => m.isOp 0x38 && decide (m.fn = 2)) fun s m =>
    let word := BitVec.ofNat 64 (m.op1.toNat % 2 ^ 16 * 2 ^ 48 + m.op2.toNat % 2 ^ 48)
    (((s.putAt m m.key 8 word).putAt m (m.key + 8) 8 m.op2)).endMessage m

/-- READY_HANDLER (R153): H runs the release step on a readiness word for ready. -/
def execReadyHandler (core : Nat) (s : State) : Result :=
  s.handleKind core (fun m => m.isOp 0x38 && decide (m.fn = 3)) fun s m => s.serveAt m 16 fun s => s.release core m

/-- The handler on H that waits to append is done, and H is free (R121). -/
def State.freeH (s : State) (core : Nat) : State :=
  match (s.thr (hThread core)).handling with
  | none => s
  | some m => (s.finishRelease m).setThr (hThread core) { s.thr (hThread core) with live := false, handling := none }

/-- Whether H keeps a handler whose entry waits for room: that entry is then the last that waits (R121, R122). -/
def State.appends (s : State) (core : Nat) : Bool := (s.thr (hThread core)).live && (s.thr (hThread core)).words.isEmpty

/-- The oldest entry that waits for room is appended to the ring. The handler that waits on H ends with its own, which stands last (R121, R122). -/
def State.appendOne (core : Nat) (s : State) : State :=
  let c := s.core core
  match c.waiting with
  | [] => s
  | e :: r =>
    if c.entryCount < 256 then
      let s := s.setCore core { c with ring := c.ring ++ [e], waiting := r }
      if r.isEmpty && s.appends core then s.freeH core else s
    else s

/-- Append entries that wait, at most n of them. -/
def State.appendUpTo (core : Nat) : Nat → State → State
  | 0, s => s
  | n + 1, s => State.appendUpTo core n (s.appendOne core)

/-- The entries that wait for room are appended in order, as far as the ring has room (R122). -/
def State.appendWaiting (s : State) (core : Nat) : State := State.appendUpTo core (s.core core).waiting.length s

/-- READY_ENTRY_APPEND (R122): A ready entry waiting for room is appended to a ring once an entry is taken. -/
def execReadyEntryAppend (core : Nat) (s : State) : Result :=
  if (s.core core).halted then .next s else .next (s.appendWaiting core)

/-! ### Inline words -/

/-- Run a message's inline words on H, and end the handler with its report, if a word ended it (R48, R139). The message lies at the start of the
inbox region while its words run (DESIGN CHOICE log 30). -/
def State.serveInline (s : State) (core : Nat) (m : Msg) : State :=
  let h := hThread core
  let old := s.thr h
  let payload := s.meshOf core 0 (0x39800 + payloadAt m.words.length)
  let s := s.setByteList (tcmKey core 0x39800) m.bytes
  let s := s.setThr h (inlineThread old m payload)
  let who := s.who
  let r := inlineRun m.code m.words { s with who := h }
  let s := { r.1 with who := who }.setThr h old
  (match r.2 with
   | none => s
   | some (cause, value) => s.lateFault m cause value).endMessage m

/-- H begins a message with inline words, none of which has run yet (R48, R136). -/
def State.beginInline (s : State) (core : Nat) (m : Msg) : State :=
  let payload := s.meshOf core 0 (0x39800 + payloadAt m.words.length)
  let s := s.setByteList (tcmKey core 0x39800) m.bytes
  s.setThr (hThread core) { inlineThread (s.thr (hThread core)) m payload with words := m.words }

/-- H after a handler: it holds no work. -/
def Thread.idle (t : Thread) : Thread :=
  { t with live := false, mode := .capsule, pc := 0, g := [], fcr := 0, vl := 0, ldepth := 0, pending := [], window := 0, wait := .nothing,
           requests := [], firing := 0, handling := none, replied := false, words := [] }

/-- H runs the next inline word of the message it handles; the last word, or one that ends the handler, ends it (R48). -/
def State.nextInline (s : State) (core : Nat) : State :=
  let h := hThread core
  let x := s.thr h
  match x.handling, x.words with
  | some m, w :: r =>
    let who := s.who
    let out := inlineWord m.code w { s.setThr h { x with words := r } with who := h }
    let s := { out.1 with who := who }
    let idle := s.setThr h (s.thr h).idle
    match out.2 with
    | none => if r.isEmpty then idle.endMessage m else s
    | some (cause, value) => (idle.lateFault m cause value).endMessage m
  | some _, [] | none, _ => s

/-- Run the inline words that are left, at most n of them. -/
def State.restInline (core : Nat) : Nat → State → State
  | 0, s => s
  | n + 1, s => State.restInline core n (s.nextInline core)

/-- Whether H of a core stands between two inline words (R48). -/
def State.midInline (s : State) (core : Nat) : Bool := (s.thr (hThread core)).live && !(s.thr (hThread core)).words.isEmpty

/-- HANDLE (R48): H runs a HANDLE message's inline words to completion, or what is left of those it has begun. -/
def execHandle (core : Nat) (s : State) : Result :=
  if s.midInline core then
    .next (if (s.core core).halted then s else State.restInline core (s.thr (hThread core)).words.length s)
  else s.handleKind core (fun m => !m.words.isEmpty) fun s m => s.serveInline core m

/-- One word of H in a cycle (R14): the next of the message that it handles, or the first of the next message. -/
def State.inlineCycle (s : State) (core : Nat) : Result :=
  if s.midInline core then .next (if (s.core core).halted then s else s.nextInline core)
  else s.handleKind core (fun m => !m.words.isEmpty) fun s m => (s.beginInline core m).nextInline core

/-! ### REPLYs -/

/-- The answer to a request reaches the thread that runs its firing: the pending register is written, and the request is no
longer owed (R39, R137). -/
def State.answerTo (s : State) (t request : Nat) (v : Word) : State :=
  let x := Thread.receive (s.thr t) request (lateG v)
  s.setThr t { x with requests := x.requests.filter fun r => decide (r.1 ≠ request) }

/-- A REPLY to an address outside the windows: a fill of a scratchpad word, or a plain store (R137). An address that no
store may write is reported with the cause, and nothing is written (DEDUCED log 31). -/
def State.replyToAddress (s : State) (m : Msg) : State :=
  let v := dwordB m.body 0
  match s.access m.sender m.reply 8 accStore with
  | .error cause => s.lateFault m cause m.reply
  | .ok (.here k x) => if isSpadKey k then s.fillWord k v else s.writePlace (.here k x) 8 v.toNat
  | .ok (.peer p a) => s.writePlace (.peer p a) 8 v.toNat

/-- The core that a REPLY goes to: the one that runs its firing, or that of its address. -/
def State.replyCore (s : State) (m : Msg) : Option Nat :=
  if m.request ≠ 0 then (s.threadOf m.firing).map coreOf else (s.resolve m.sender m.reply 8).map (s.cap m.capsule).coreFor

/-- Whether a kill discards a REPLY at the core that it goes to (R137, R214). -/
def State.replyDiscarded (s : State) (m : Msg) : Bool :=
  match s.replyCore m with
  | some c => s.discards c m.capsule
  | none => false

/-- The peer package that a REPLY's address names, if it names one (R131, R137). -/
def State.replyPackage (s : State) (m : Msg) : Option Nat :=
  match s.resolve m.sender m.reply 8 with
  | some x => if 2 ^ 63 ≤ m.reply.toNat ∧ x.package ≠ s.packageOf (s.cap m.capsule) then some x.package else none
  | none => none

/-- A REPLY for a peer package leaves to it (R131, DESIGN CHOICE log 8); what stays of it is its unit, until the peer acknowledges it. -/
def State.replyLeaves (s : State) (n : Nat) (m : Msg) (package : Nat) : State :=
  { s with net := s.net.set n { m with kind := 0, request := 0, number := 0, target := coreCount + package } }.toPod
    ((s.cap m.capsule).podOf package) 20 m.wire

/-- REPLY (R137): A REPLY is written to a reply window register, a scratchpad word as a fill, or plain memory, or leaves to the peer package that its
address names. The REPLY of a host's atomic leaves through its port (R171). -/
def execReply (n : Nat) (s : State) : Result :=
  match s.net[n]? with
  | none => .next s
  | some m =>
    if m.kind ≠ 4 then .next s
    else
      let rest := { s with net := s.net.eraseIdx n }
      if m.ofHost then .next { rest with outbox := rest.outbox ++ [.rma (m.request - 1) 0 m.body] }
      else if decide ((s.cap m.capsule).stage = .ended) || s.replyDiscarded m then .next rest
      else if m.request = 0 then
        match s.replyPackage m with
        | some p => .next (s.replyLeaves n m p)
        | none => .next ((rest.replyToAddress m).subCount m.capsule 1)
      else
        match s.threadOf m.firing with
        | some t => .next ((rest.answerTo t m.request (dwordB m.body 0)).subCount m.capsule 1)
        | none =>
          match s.replyPackage m with
          | some p => .next (s.replyLeaves n m p)
          | none => if s.away m.firing then .next s else .next (rest.subCount m.capsule 1)

end Sys2Proof.Machine
end

