-- ==== Sys2Proof/Machine/Sync.lean ====
section
/-! DEFINITION. Fences, barriers and timeline waits (R133, R154 to R156). -/

namespace Sys2Proof.Machine

/-- The tiles of a core's TCWs numbered at or below n on channel 4 are covered: they read their values again (R29, R156). -/
def State.coverTiles (s : State) (core n : Nat) : State :=
  let c := s.cluster (clusterOf core)
  if c.openTiles.isEmpty then s
  else s.setCluster (clusterOf core) { c with openTiles := c.openTiles.filter fun o => decide (o.core ≠ core ∨ n < o.number) }

/-- A fence of the thread's own accesses: it waits for the replies the thread is owed, when asked, and for its posted atomics;
everything else is performed already (R154, DESIGN CHOICE log 3). -/
def State.fence (s : State) (word : Nat) (replies atomics : Bool) : Result :=
  s.issue (useG word []).bar fun s =>
    if replies && !s.me.requests.isEmpty then .next (s.hold .reply)
    else if atomics && (s.me.requests.any fun r => r.2) then .next (s.hold .reply)
    else if atomics && s.atomicBefore s.me.firing s.nextId then .next (s.hold .posted)
    else .next s.retire

/-- Whether every number that this thread holds has completed (R154). -/
def State.enginesDone (s : State) : Bool :=
  s.me.issued.all fun e => decide (e.2 ≤ s.myCore.tlwOf e.1)

/-- fence.acq (R154): Makes every earlier load and reply-returning instruction an acquire at the scope. -/
def execFenceAcq (sc : Scope) (s : State) : Result :=
  s.fence (encR 0x39 (0 + sc.code) 0 0 0) true false

/-- fence.rel (R154): Orders every earlier access before any later store, atomic, message or engine command at the scope. -/
def execFenceRel (sc : Scope) (s : State) : Result :=
  s.fence (encR 0x39 (8 + sc.code) 0 0 0) false true

/-- fence.full (R154): Orders every earlier access before any later access at the scope. -/
def execFenceFull (sc : Scope) (s : State) : Result :=
  s.fence (encR 0x39 (16 + sc.code) 0 0 0) true true

/-- fence.eng (R154): Waits for the thread's engine numbers on every channel and acquires their operations. -/
def execFenceEng (sc : Scope) (s : State) : Result :=
  s.issue (useG (encR 0x39 (24 + sc.code) 0 0 0) []).bar fun s =>
    if s.enginesDone then .next (s.coverTiles (coreOf s.who) (sget 0 s.me.issued 4)).retire
    else .next (s.hold .engines)

/-! ### Barriers -/

/-- The instance of a scope that contains a core, by its footprint-virtual coordinates (R33). -/
def scopeInstance (coord : Nat) : Scope → Nat
  | .core => coord % 2 ^ 12
  | .quad => coord % 2 ^ 12 / 4
  | .clu => coord % 2 ^ 12 / 8
  | .die => coord % 2 ^ 12 / 2 ^ 10
  | .pkg | .pod => 0

/-- The key of a barrier in its capsule's table (R133). -/
def barrierKey (coord : Nat) (sc : Scope) (id : Nat) : Nat := sc.code * 2 ^ 20 + scopeInstance coord sc * 8 + id

/-- The key of the issuing thread's barrier. -/
def State.barKey (s : State) (sc : Scope) (id : Nat) : Nat := barrierKey s.myCore.coord.toNat sc id

/-- The barrier of the issuing thread's instance. -/
def State.barrier (s : State) (sc : Scope) (id : Nat) : Barrier :=
  sget Barrier.reset (s.cap s.myCap).barriers (s.barKey sc id)

/-- The footprint cores of a capsule on the other packages of its gang. -/
def Capsule.peerCores (c : Capsule) (own : Nat) : Nat :=
  let columns := fun p => (List.range c.image.dies).foldl (fun acc i => acc + c.colsIn own p i) 0
  (((List.range c.image.packages).filter fun p => decide (p ≠ own)).map fun p => 8 * c.image.rows * columns p).foldl (· + ·) 0

/-- The fixed expected count of barrier 0 of a capsule's instance of a scope that holds the core with a COORD: its footprint cores (R133). -/
def Capsule.coresIn (c : Capsule) (coord : Word) : Scope → Nat
  | .core => 1
  | .quad => 4
  | .clu => 8
  | .die => 8 * c.colsOf (coordField coord 11 10) * c.image.rows
  | .pkg => c.cores.length
  | .pod => c.cores.length + c.peerCores (coordField coord 23 12)

/-- The fixed expected count of barrier 0 of the issuing thread's instance (R133). -/
def State.barrierZero (s : State) (sc : Scope) : Nat := (s.cap s.myCap).coresIn s.myCore.coord sc

/-- The count of an arrival: fixed for barrier 0, g[a] otherwise (R133, R155). -/
def State.barCount (s : State) (sc : Scope) (id : Nat) (a : Nat) : Nat :=
  if id = 0 then s.barrierZero sc else (s.rg a).toNat

/-- The issuing thread's record for a scope and id (R155). -/
def Thread.barRec (t : Thread) (sc : Scope) (id : Nat) : Option BarRec :=
  t.barRecs.find? fun r => decide (r.scope = sc ∧ r.id = id)

/-- The record is cleared. -/
def Thread.dropRec (t : Thread) (sc : Scope) (id : Nat) : Thread :=
  { t with barRecs := t.barRecs.filter fun r => !decide (r.scope = sc ∧ r.id = id) }

/-- A barrier after one arrival with a count: the last one completes the phase, and E stays for barrier 0 alone (R133). -/
def Barrier.arrive (b : Barrier) (id count : Nat) : Barrier :=
  if b.arrived + 1 = count then ⟨if id = 0 then some count else none, 0, b.phase + 1⟩ else ⟨some count, b.arrived + 1, b.phase⟩

/-- One arrival: it is counted in the current phase, which the thread records (R133). An arrival at pod level reaches every member of the
gang (DESIGN CHOICE log 8). -/
def State.barArrive (s : State) (sc : Scope) (id count : Nat) : State :=
  let b := s.barrier sc id
  let c := s.cap s.myCap
  let s := s.setCap s.myCap { c with barriers := sset Barrier.reset c.barriers (s.barKey sc id) (b.arrive id count) }
  let s := s.setMe { s.me with barRecs := s.me.barRecs ++ [⟨sc, id, b.phase⟩] }
  if sc = .pod then s.toMembers c 7 (toBytes 8 c.id.toNat ++ toBytes 8 id ++ toBytes 8 count) else s

/-- Whether an arrival is ILLEGAL: H, the scope core, a held record, or a count that R133 refuses (R155). -/
def State.badArrival (s : State) (sc : Scope) (id a : Nat) : Bool :=
  decide (s.role = 2) || !barOk sc || (s.me.barRec sc id).isSome || (decide (id = 0) && decide (a ≠ 0)) ||
  (decide (id ≠ 0) && s.hasG a &&
    (decide (s.barCount sc id a < 1 ∨ 65535 < s.barCount sc id a) ||
     (match (s.barrier sc id).expected with
      | none => false
      | some e => decide (e ≠ s.barCount sc id a))))

/-- The wait: on the recorded phase, whose end clears the record (R155). -/
def State.barWait (s : State) (sc : Scope) (id : Nat) : Result :=
  match s.me.barRec sc id with
  | none => .next s.retire
  | some r =>
    if (s.barrier sc id).phase = r.phase then .next (s.hold (.phase sc id r.phase))
    else .next (s.setMe { s.me.dropRec sc id with syncArrived := false }).retire

/-- bar.arrive (R155): Counts one arrival at a barrier and records the phase without waiting. -/
def execBarArrive (sc : Scope) (id : Fin 8) (a : G) (s : State) : Result :=
  s.issueRelease ((useG (encR 0x3A sc.code 0 a id) [a]).bar.ill (s.badArrival sc id a)) fun s =>
    .next (s.barArrive sc id (s.barCount sc id a)).retire

/-- bar.wait (R155): Waits until the recorded barrier phase completes, then acquires at the scope. -/
def execBarWait (sc : Scope) (id : Fin 8) (s : State) : Result :=
  s.issue ((useG (encR 0x3A (8 + sc.code) 0 0 id) []).bar.ill (decide (s.role = 2) || !barOk sc || (s.me.barRec sc id).isNone)) fun s => s.barWait sc id

/-- bar.sync (R155): Arrives at a barrier and then waits for the phase. -/
def execBarSync (sc : Scope) (id : Fin 8) (a : G) (s : State) : Result :=
  if s.me.syncArrived then s.barWait sc id
  else
    s.issueRelease ((useG (encR 0x3A (16 + sc.code) 0 a id) [a]).bar.ill (s.badArrival sc id a)) fun s =>
      let s := s.barArrive sc id (s.barCount sc id a)
      (s.setMe { s.me with syncArrived := true }).barWait sc id

/-- waitt (R156): Waits until a timeline channel's watermark reaches g[a] and acquires the covered operations. -/
def execWaitt (ch : Fin 8) (a : G) (s : State) : Result :=
  let n := (s.rg a).toNat
  let bad := s.hasG a && decide (s.myCore.lastIssued ch < n)
  s.issue ((useG (encI 0x3B ch 0 a) [a]).bar.ill bad) fun s =>
    if n ≤ s.myCore.tlwOf ch then .next ((if ch.val = 4 then s.coverTiles (coreOf s.who) n else s).retire)
    else .next (s.hold (.timeline ch n))

end Sys2Proof.Machine
end

