-- ==== Sys2Proof/Machine/Tasks.lean ====
section
/-! DEFINITION. Firings in motion: task packets at their target (R124), register contexts (R126 to R128), the start of firings (R123)
and of delegated routines (R145), multicast lines (R146), and acknowledgements between packages (R131). -/

namespace Sys2Proof.Machine

/-! ### TASK messages -/

/-- Whether a message goes ahead of another in their sender's order: sent earlier, by the same origin, to the same core (R132). -/
def State.heldBehind (s : State) (m : Msg) : Bool :=
  s.net.any fun q => decide (q.origin = m.origin ∧ q.target = m.target ∧ q.serial < m.serial ∧ q.kind ≤ 2) && !q.bounce

/-- Whether a core has room for a message and its ready entry (R122, R124). -/
def Core.accepts (c : Core) (m : Msg) : Bool := decide (c.inboxBytes + m.bytesLen ≤ 16384 ∧ c.entryCount < 256)

/-- A message is accepted as a ready entry of a source (R124, R127). -/
def Core.append (c : Core) (codelet source : Nat) (m : Msg) : Core := { c with ring := c.ring ++ [⟨codelet, source, 0, some m⟩] }

/-- A spawn of a peer receives its REPLY (R124, R131): it leaves to the package that issued it. No thread sends it; its origin names H of the target
(DESIGN CHOICE log 102). -/
def State.tellSpawner (s : State) (m : Msg) (v : Word) : State :=
  if m.reply = 0 then s
  else s.toPod ((s.cap m.capsule).podOf (m.sender - coreCount)) 20
    (replyMsg m.capsule m.target (s.originOf (hThread m.target)) m.reply 0 m.request v).wire

/-- The result of a spawn (R124, R144): it is written to its register on the thread that runs its firing; it waits as a late result for a firing that
is saved or carried (R128); and it leaves to a peer that spawned. -/
def State.spawnResult (s : State) (m : Msg) (v : Word) : State :=
  if coreCount ≤ m.sender then s.tellSpawner m v
  else
    match s.threadOf m.firing with
    | some t => s.answerTo t m.request v
    | none => { s with loads := s.loads ++ [⟨m.firing, m.sender, m.request, .g (m.reply.toNat % 64), lateG v, true⟩] }

/-- TASK (R124): A TASK message reaches its target and is discarded, bounced or accepted as a ready entry. (DESIGN CHOICE log 17) -/
def execTask (n : Nat) (s : State) : Result :=
  match s.net[n]? with
  | none => .next s
  | some m =>
    if m.kind ≠ 1 ∨ m.bounce ∨ coreCount ≤ m.target ∨ fieldB m.body 2 2 = 0xFFFF then .next s
    else if s.heldBehind m || s.early m then .next s
    else
      let s := { s with net := s.net.eraseIdx n }
      if s.discards m.target m.capsule then .next (s.sweepMessage m)
      else if !m.ok || !packetOk (s.cap m.capsule) m.body then .next (s.discard m)
      else
        let s := s.appendWaiting m.target
        let c := s.core m.target
        if c.waiting.isEmpty && c.accepts m then
          .next ((s.setCore m.target (c.append (fieldB m.body 2 2) 1 m)).spawnResult m 0)
        else .next { s with net := s.net ++ [{ m with bounce := true, target := m.sender }] }

/-- BOUNCE_REFUSAL (R124): A bounce refusal reaches the sender, removes its unit and makes spawn return 1. A peer's leaves to it; what stays of it
is its unit, until the peer acknowledges it (R131, DESIGN CHOICE log 8). -/
def execBounceRefusal (n : Nat) (s : State) : Result :=
  match s.net[n]? with
  | none => .next s
  | some m =>
    if !m.bounce then .next s
    else if coreCount ≤ m.target then
      let left := { m with bounce := false, kind := 0, request := 0, number := 0 }
      .next ({ s with net := s.net.set n left }.toPod ((s.cap m.capsule).podOf (m.target - coreCount)) 11 m.wire)
    else .next (({ s with net := s.net.eraseIdx n }.subCount m.capsule 1).spawnResult m 1)

/-! ### Migration -/

/-- REGISTER_CONTEXT (R127): A migrating register context is accepted at its target as a source-2 entry, behind the entries that wait for room on its
ring (R122), once the capsule has started (DESIGN CHOICE log 109). -/
def execRegisterContext (n : Nat) (s : State) : Result :=
  match s.net[n]? with
  | none => .next s
  | some m =>
    if m.kind ≠ 1 ∨ m.bounce ∨ coreCount ≤ m.target ∨ fieldB m.body 2 2 ≠ 0xFFFF then .next s
    else if s.discards m.target m.capsule then .next { s with net := s.net.eraseIdx n }
    else if (s.cap m.capsule).stage = .loaded then .next s
    else
      let s := s.appendWaiting m.target
      let c := s.core m.target
      if c.waiting.isEmpty && c.accepts m then .next ({ s with net := s.net.eraseIdx n }.setCore m.target (c.append 0xFFFF 2 m)) else .next s

/-- Whether PREEMPT holds a thread at the boundary at which it has been taken: PREEMPT has reached its core, no window is open, and no trap is in
progress (R40, R175). What it waits for is done or withdrawn, and it issues nothing more before it is saved. -/
def State.preempted (s : State) (thread : Nat) : Bool :=
  let c := s.cap (s.capOf (coreOf thread))
  decide (c.stage = .preempting) && c.reached.contains (coreOf thread) && decide ((s.thr thread).window = 0) && decide ((s.thr thread).mode = .capsule)

/-- Whether every late result owed to a thread is a load reply that migr need not wait for, and no load from CXL memory or a peer is outstanding,
one to g0 or with a cancelled destination among them (R127, R128). -/
def State.onlyLoadsOwed (s : State) (t : Thread) : Bool :=
  t.requests.isEmpty &&
  (s.loads.all fun l => decide (l.firing ≠ t.firing) || !l.far) &&
  t.pending.all fun p => s.loads.any fun l => decide (l.firing = t.firing ∧ l.request = p.id)

/-- The message that carries a migrating firing (R126): a context without v registers and flags. -/
def State.contextMsg (s : State) (t target : Nat) : Msg :=
  let x := s.thr t
  { kind := 1, words := [], origin := s.originOf t, reply := 0, body := contextBytes x 0 0, capsule := s.capOf (coreOf t), target,
    firing := x.firing, sender := coreOf t, code := x.pc, request := 0, number := 0, bounce := false, serial := 0, key := 0 }

/-- DEPARTURE (R127): A migrating firing departs once its window, stores and late results allow, unless PREEMPT has been taken at its migr, which then
issues again at resumption (R175); migr completes, and the
context takes the firing's unit with it. A context for a peer package leaves to it; its unit stays in this share until the peer
acknowledges it (R131). -/
def execDeparture (thread : Nat) (s : State) : Result :=
  let x := s.thr thread
  match x.wait with
  | .departure target =>
    if x.live && decide (x.window = 0) && decide (x.unacked = 0) && s.onlyLoadsOwed x && !(s.core (coreOf thread)).halted && !s.preempted thread then
      let s := s.onThread thread State.retire
      let m := s.contextMsg thread target
      let c := s.core (coreOf thread)
      let s := s.setCore (coreOf thread) { c with forwarding := c.forwarding ++ [⟨x.firing, target, m.origin, s.cycle + 512, x.pending.map Pending.id⟩] }
      .next ((s.setThr thread (s.thr thread).ended).sendOut m)
    else .next s
  | .nothing | .scoreboard _ | .tag _ | .timeline _ _ | .engines | .phase _ _ _ | .matrixRoom | .copyRoom | .setterRoom
  | .transferRoom | .posted | .reply => .next s

/-- FORWARDING_ENTRY_EXPIRY (R127): The old core's forwarding entry ends 512 cycles after departure; every reply for its firing has been delivered
within that time. -/
def execForwardingEntryExpiry (core : Nat) (s : State) : Result :=
  let c := s.core core
  let stays := fun (e : Forward) => decide (s.cycle < e.until_) || s.loads.any fun l => decide (l.firing = e.firing)
  .next (s.setCore core { c with forwarding := c.forwarding.filter stays })

/-! ### What a restored firing is owed -/

/-- Whether a message answers a request of a firing's register, or will (R128). -/
def Msg.owes (m : Msg) (firing reg : Nat) : Bool :=
  decide (m.firing = firing ∧ m.request ≠ 0 ∧ m.reply.toNat % 64 = reg)

/-- The requests outstanding for a g register of a firing: load replies, REPLYs and engine tokens (R128). -/
def State.owed (s : State) (firing reg : Nat) : List Nat :=
  ((s.loads.filter fun l => decide (l.firing = firing ∧ l.reg = .g reg)).map LoadReply.request) ++
  ((s.net.filter fun m => m.owes firing reg).map Msg.request) ++
  (s.cores.flatMap fun e => (e.2.inbox.filter fun m => m.owes firing reg).map Msg.request) ++
  (s.threads.filterMap fun e => e.2.handling.bind fun m => if m.owes firing reg then some m.request else none) ++
  ((s.peerLoads.filter fun l => decide (l.firing = firing ∧ l.reg = reg)).map PeerLoad.request) ++
  ((s.mcsts.filter fun m => decide (m.firing = firing ∧ m.reg = reg)).map Mcst.request) ++
  ((s.transfers.filter fun m => decide (m.firing = firing ∧ m.reg = reg)).map Transfer.request) ++
  (s.clusters.flatMap fun e =>
    ((e.2.copies.filter fun m => decide (m.firing = firing ∧ m.reg = reg)).map CopyOp.request) ++
    ((e.2.setterOps.filter fun m => decide (m.firing = firing ∧ m.reg = reg)).map SetterOp.request))

/-- The pending destinations of a restored firing: for each register its latest request still outstanding (R126, R128). -/
def State.owedPending (s : State) (firing : Nat) (regs : List Nat) : List Pending :=
  regs.filterMap fun n =>
    match s.owed firing n with
    | [] => none
    | r :: l => some ⟨l.foldl max r, .g n, 0, none⟩

/-- The requests of a firing that a REPLY will answer, one to g0 among them, each with whether later accesses wait for it: those a restored firing
still has outstanding (R128, R137, R172). -/
def State.owedReplies (s : State) (firing : Nat) : List (Nat × Bool) :=
  ((s.net ++ s.cores.flatMap (fun e => e.2.inbox) ++ s.threads.filterMap fun e => e.2.handling).filter fun m =>
    decide (m.firing = firing ∧ m.request ≠ 0)).map fun m => (m.request, m.isAtomic)

/-! ### The start of firings and routines -/

/-- A free thread's registers at the start of a firing (R10, R123); what the thread itself keeps stays. -/
def startThread (old : Thread) (sregs vregs : Nat) (pc : Word) (g : List Word) (successors : List Word) (firing codelet : Nat) : Thread :=
  { Thread.reset with
    live := true
    pc
    g := (g.take (sregs - 1)).zipIdx.foldl (fun acc e => sset 0 acc (e.2 + 1) e.1) []
    sregs
    vregs
    successors
    firing
    codelet
    trapCause := old.trapCause
    trapPc := old.trapPc
    trapVal := old.trapVal
    shadow := old.shadow
    issued := old.issued }

/-- The dwords of a packet's payload (R124). -/
def packetPayload (b : List Byte) : List Word :=
  let n := fieldB b 4 1
  (List.range ((fieldB b 0 2 - 8 - 8 * n) / 8)).map fun i => dwordB b (8 + 8 * n + 8 * i)

/-- The successor handles of a packet. -/
def packetHandles (b : List Byte) : List Word := (List.range (fieldB b 4 1)).map fun i => dwordB b (8 + 8 * i)

/-- The scalar and vector allotment that an entry asks for (R16, R123). -/
def entryAllot (c : Capsule) (e : Entry) : Option (Nat × Nat) :=
  if e.source = 2 then e.message.map fun m => (fieldB m.body 5 1, fieldB m.body 6 1)
  else c.image.codelets[e.codelet]?.map fun d => (d.sregs, d.vregs)

/-- Whether the pool of a core holds an allotment beside the other task thread's (R15, R16). -/
def State.poolHolds (s : State) (core : Nat) (a : Nat × Nat) : Bool :=
  let x := s.thr (core * 4)
  let y := s.thr (core * 4 + 1)
  decide (x.sregs + y.sregs + a.1 ≤ 208 ∧ x.vregs + y.vregs + a.2 ≤ 56)

/-- The thread that an entry starts on a free thread (R123). A context from a resume record keeps its barrier records: a phase bit that is
the barrier's names the current phase, and another the one before it, which is complete (R126, R155). -/
def State.entryThread (s : State) (cap core t : Nat) (e : Entry) (a : Nat × Nat) : Thread :=
  let c := s.cap cap
  let old := s.thr t
  let pc := BitVec.ofNat 64 ((c.image.codelets[e.codelet]?.map Codelet.code).getD 0)
  match e.message with
  | none => startThread old a.1 a.2 pc (c.image.args.take 8) [] s.nextId e.codelet
  | some m =>
    if e.source = 2 then
      let x := contextThread old m.body
      let firing := if m.firing = 0 then s.nextId else m.firing
      let recs := (contextBarRecs m.body).map fun r =>
        let now := (sget Barrier.reset c.barriers (barrierKey (s.core core).coord.toNat r.1 r.2.1)).phase
        (⟨r.1, r.2.1, if now % 2 = r.2.2 then now else now - 1⟩ : BarRec)
      let pending := s.owedPending firing (contextPending m.body)
      { x with firing, barRecs := recs, pending, requests := s.owedReplies firing }
    else startThread old a.1 a.2 pc (packetPayload m.body) (packetHandles m.body) s.nextId e.codelet

/-- FIRING_START (R123): A free task thread takes the head ready entry and starts the firing once its allotment is available. -/
def execFiringStart (thread : Nat) (s : State) : Result :=
  let core := coreOf thread
  let c := s.core core
  let cap := s.capOf core
  if 2 ≤ roleOf thread ∨ (s.thr thread).live ∨ c.halted ∨ !(s.cap cap).runs ∨ (roleOf thread = 1 ∧ !(s.thr (core * 4)).live) then .next s
  else
    match c.ring with
    | [] => .next s
    | e :: r =>
      match entryAllot (s.cap cap) e with
      | none => .next s
      | some a =>
        if s.poolHolds core a then
          let x := s.entryThread cap core thread e a
          .next ((s.setCore core { c with ring := r, ringHead := (c.ringHead + 1) % 256 }).setThr thread x).fresh
        else .next s

/-- The thread of a delegated routine at its first instruction (R145). -/
def routineThread (old : Thread) (c : Capsule) (m : Msg) (firing : Nat) : Thread :=
  let q := fieldB m.body 2 2
  let pc := BitVec.ofNat 64 ((c.image.codelets[q]?.map Codelet.code).getD 0)
  { startThread old 32 8 pc (packetPayload m.body) (packetHandles m.body) firing q with handling := some m }

/-- DELEGATE (R145): S starts a delegated routine from a DELEGATE message in arrival order; it waits until the sender's earlier
atomics are performed. -/
def execDelegate (core : Nat) (s : State) : Result :=
  let s := s.arriveAt core
  let c := s.core core
  if (s.thr (sThread core)).live || c.halted || !(s.cap (s.capOf core)).runs then .next s
  else
    match c.inbox.find? fun m => decide (m.kind = 2) with
    | none => .next s
    | some m =>
      if s.atomicBefore m.firing m.serial then .next s
      else -- the message leaves the inbox, and its room is free, as its service begins (DESIGN CHOICE log 90)
        let x := routineThread (s.thr (sThread core)) (s.cap m.capsule) m s.nextId
        .next ((s.setCore core { c with inbox := c.inbox.erase m }).setThr (sThread core) x).fresh

/-! ### Multicast -/

/-- Whether an earlier line of the same thread to the same package is not yet performed (R146). -/
def State.lineBehind (s : State) (m : Mcst) : Bool :=
  s.mcsts.any fun q => decide (q.thread = m.thread ∧ q.package = m.package ∧ q.number < m.number) && !q.acked

/-- A line reaches this package as a member: it passes the capsule's own extent table and is written, or is reported and writes nothing (R138, R139,
R146); on a failed CXL set it ends in MEMERR (R230). -/
def State.acceptLine (s : State) (cap core : Nat) (dest : Word) (line : List Byte) (code origin : Word) (number : Nat) : State :=
  let record := fun (cause : Nat) =>
    s.recordOf cap 1 cause code dest (extentIndex (s.cap cap) cause dest) origin (BitVec.ofNat 64 (7 * 2 ^ 60 + number))
  match s.reach core dest 256 { accStore with need := rightW + rightM } with
  | .ok (.here k e) =>
    if s.writeFails (.here k e) then s.failCapsule cap (record causeMemerr) else (s.setByteList k line).touched k 256
  | .ok (.peer _ _) => s
  | .error cause => s.report cap (record cause)

/-- MCST_LINE (R146): A multicast line is written at a member package and acknowledged. A line for a peer leaves to it (DESIGN CHOICE log 8); what
a peer sends here is a peer's turn. -/
def execMcstLine (n : Nat) (s : State) : Result :=
  match s.mcsts[n]? with
  | none => .next s
  | some m =>
    if m.acked || s.lineBehind m then .next s
    else
      let s := { s with mcsts := s.mcsts.set n { m with acked := true } }
      let core := coreOf m.thread
      if m.package ≠ coordField (s.core core).coord 23 12 then
        .next (s.toPod ((s.cap m.capsule).podOf m.package) 3 (toBytes 8 m.destination.toNat ++ m.line))
      else .next (s.acceptLine m.capsule core m.destination m.line m.code (s.originOf m.thread) m.number)

/-- An engine token or number that an operation returns to its register: it arrives as a late result (R39, R266). -/
def State.sendToken (s : State) (firing thread reg request number : Nat) : State :=
  let r : LoadReply := ⟨firing, coreOf thread, request, .g reg, lateG (BitVec.ofNat 64 number), true⟩
  { s with loads := s.loads ++ [r] }

/-- MCST_ACKNOWLEDGEMENT (R146): The last member acknowledgement completes an mcst's number. -/
def execMcstAcknowledgement (n : Nat) (s : State) : Result :=
  match s.mcsts[n]? with
  | none => .next s
  | some m =>
    let mine := fun (q : Mcst) => decide (q.thread = m.thread ∧ q.request = m.request)
    if s.mcsts.any fun q => mine q && !q.acked then .next s
    else
      let s := { s with mcsts := s.mcsts.filter fun q => !mine q }
      let s := (s.completeNumber (coreOf m.thread) 7 m.number).subCount m.capsule 1
      .next (s.sendToken m.firing m.thread m.reg m.request m.number)

/-! ### Between packages -/

/-- The origin word of the REPLY with which a peer package answers a message (R46): H of the home of an operation's target (R23), S of the target of
a delegated routine (R145), or H of the target of a TASK (DESIGN CHOICE log 102). -/
def State.peerOrigin (s : State) (package : Nat) (m : Msg) : Word :=
  let a := if m.kind = 0 then m.located else BitVec.ofNat 64 (m.wrote.toNat / 2 ^ 35 * 2 ^ 35)
  let thread := if m.kind = 2 then 3 else 2
  match s.resolve m.sender a 1 with
  | none => BitVec.ofNat 64 (package * 2 ^ 12 + thread * 2 ^ 24)
  | some x =>
    let c := s.cap m.capsule
    let bank := x.offset / 8 % 8
    let cols := c.colsIn (s.packageOf c) package x.die
    let i := x.offset / 2 ^ 12 % (c.image.rows * cols)
    let y : Mesh :=
      if x.unit = 2 then { x with col := i % cols, row := i / cols, core := bank }
      else if x.unit = 0 ∨ x.unit = 4 then x
      else { x with core := bank }
    BitVec.ofNat 64 (package * 2 ^ 12 + y.die * 2 ^ 10 + y.col * 2 ^ 6 + y.row * 2 ^ 3 + y.core + thread * 2 ^ 24)

/-- CROSS_PACKAGE_ACKNOWLEDGEMENT (R131): A receiving package's acknowledgement removes the sender's unit for a cross-package message;
a request's REPLY comes back with a value from the peer, which is free (DESIGN CHOICE log 8). -/
def execCrossPackageAcknowledgement (capsule package : Nat) (s : State) : Result :=
  match s.net.find? fun m => decide (m.capsule = capsule ∧ m.target = coreCount + package ∧ m.kind ≠ 4) && !m.held with
  | none => .next s
  | some m =>
    let s := { s with net := s.net.erase m }
    if m.request = 0 then .next (s.endMessage m)
    else
      let v := BitVec.ofNat 64 (ofBytes ((List.range 8).map fun i => Config.peerByte s.steps (m.written.toNat + i)))
      let v := if m.kind = 1 then v &&& 1 else v
      .next (s.send (replyMsg m.capsule m.sender (s.peerOrigin package m) m.reply m.firing m.request v))

end Sys2Proof.Machine
end

