-- ==== Sys2Proof/Machine/Copies.lean ====
section
/-! DEFINITION. The copy engine (R244, R245, R261 to R263), the block-transfer engines (R264, R265), and transient conditions
(R258). -/

namespace Sys2Proof.Machine

/-! ### The copy shadow -/

/-- Write a copy shadow register (R244), which cpgo has not used yet (R153). -/
def State.cps (s : State) (fn3 a la : Nat) (f : Shadow → Word → Shadow) : Result :=
  s.issue ((useG (encM 0x40 fn3 la 0 a 0) [a]).ill (decide (s.role = 2))) fun s =>
    .next ((s.setMe { s.me with shadow := { f s.me.shadow (s.rg a) with written := true } }).finishOpen la)

/-- cps.src (R244): Writes the copy shadow register SRC. -/
def execCpsSrc (a : G) (la : La) (s : State) : Result := s.cps 0 a la fun x v => { x with src := v }
/-- cps.dst (R244): Writes the copy shadow register DST. -/
def execCpsDst (a : G) (la : La) (s : State) : Result := s.cps 1 a la fun x v => { x with dst := v }
/-- cps.sstr (R244): Writes the copy shadow register SSTR. -/
def execCpsSstr (a : G) (la : La) (s : State) : Result := s.cps 2 a la fun x v => { x with sstr := v }
/-- cps.dstr (R244): Writes the copy shadow register DSTR. -/
def execCpsDstr (a : G) (la : La) (s : State) : Result := s.cps 3 a la fun x v => { x with dstr := v }
/-- cps.shape (R244): Writes the copy shadow register SHAPE. -/
def execCpsShape (a : G) (la : La) (s : State) : Result := s.cps 4 a la fun x v => { x with shape := v }
/-- cps.fmt (R244): Writes the copy shadow register FMT. -/
def execCpsFmt (a : G) (la : La) (s : State) : Result := s.cps 5 a la fun x v => { x with fmt := v }
/-- cps.chan (R244): Writes the copy shadow register CHAN. -/
def execCpsChan (a : G) (la : La) (s : State) : Result := s.cps 6 a la fun x v => { x with chan := v }

/-! ### cpgo -/

/-- The counts of SHAPE (R244). -/
def Shadow.n0 (x : Shadow) : Nat := bits x.shape.toNat 23 0
def Shadow.n1 (x : Shadow) : Nat := bits x.shape.toNat 39 24
def Shadow.n2 (x : Shadow) : Nat := bits x.shape.toNat 55 40

/-- The ILLEGAL of R245 that depends on no side's format: a count of 0, or a reserved bit. -/
def Shadow.bad (x : Shadow) : Bool :=
  decide (x.n0 = 0 ∨ x.n1 = 0 ∨ x.n2 = 0 ∨ 2 ^ 56 ≤ x.shape.toNat ∨ 2 ^ 8 ≤ x.fmt.toNat ∨ 4 ≤ x.chan.toNat)

/-- Whether an address is a scratchpad mesh address. -/
def isUnit1 (a : Word) : Bool := decide (2 ^ 63 ≤ a.toNat ∧ bits a.toNat 37 35 = 1)

/-- A side's format (R245, R262): that of its bat, or its FMT field; none when a scratchpad side's first byte is outside the
footprint. -/
def State.sideFormat (s : State) (core : Nat) (a : Word) (field : Nat) : Option Nat :=
  if isUnit1 a then s.batFormat core a else some field

/-- Whether a copy moves bytes (R82, R262). -/
def rawCopy (sf df : Nat) : Bool := decide (sf = df ∨ sf = 0 ∨ df = 0)

/-- Whether n0 breaks the block size of a side of a converting copy (R262). (DEDUCED log 59) -/
def blockBad (sf df n0 : Nat) : Bool :=
  !rawCopy sf df && ((decide (fmtBlock sf ≠ 0) && decide (n0 % fmtBlock sf ≠ 0)) || (decide (fmtBlock df ≠ 0) && decide (n0 % fmtBlock df ≠ 0)))

/-- A copy is accepted (R245): the shadow and the formats are latched, a number taken, one unit added. -/
def State.acceptCopy (s : State) (d la sf df : Nat) : State :=
  let x := s.me.shadow
  let chan := x.chan.toNat
  let s := (s.takeNumbers chan 1).addCount s.myCap 1
  let op : CopyOp :=
    { shadow := x, sfmt := sf, dfmt := df, chan, thread := s.who, reg := d, firing := s.me.firing, request := s.nextId,
      number := s.myCore.lastIssued chan, code := s.me.pc, next := 0, done := [], moved := false }
  let k := s.cluster s.myCluster
  let s := s.setCluster s.myCluster { k with copies := k.copies ++ [op] }
  (s.setMe { s.me with shadow := { x with written := false } }).finishRequest (.g d) la

/-- The ILLEGAL of R245 that a thread's copy shadow registers raise: that of the counts and reserved bits, and where both sides' formats are
known that of n0. -/
def State.copyBad (s : State) : Bool :=
  let x := s.me.shadow
  let core := coreOf s.who
  x.bad ||
  match s.sideFormat core x.src (bits x.fmt.toNat 3 0), s.sideFormat core x.dst (bits x.fmt.toNat 7 4) with
  | some sf, some df => blockBad sf df x.n0
  | none, _ | some _, none => false

/-- cpgo (R245): Checks the copy shadow registers and hands the copy engine one copy, taking a timeline number. -/
def execCpgo (d : G) (la : La) (s : State) : Result :=
  let word := encM 0x41 0 la d 0 0
  s.issueRelease ((useG word [d]).bar.ill (decide (s.role = 2) || s.copyBad)) fun s =>
    let x := s.me.shadow
    let core := coreOf s.who
    match s.sideFormat core x.src (bits x.fmt.toNat 3 0), s.sideFormat core x.dst (bits x.fmt.toNat 7 4) with
    | none, _ => s.takeTrap causeMeshbound x.src
    | some _, none => s.takeTrap causeMeshbound x.dst
    | some sf, some df =>
      if 32 ≤ (s.cluster s.myCluster).copies.length then .next (s.hold .copyRoom)
      else .next (s.acceptCopy d la sf df)

/-! ### Moving rows -/

/-- The bytes that a move has just written and that R4 leaves open: one that any source row of it covers, moved or not (R262, R264), and in a
raw move one that is written twice (R245). -/
def openOf (raw : Bool) (covered before written : List Nat) : List Nat :=
  written.filter fun k => covered.contains k || (raw && decide (1 < (before ++ written).count k))

/-- The bytes that the source rows of a move cover, of n bytes each. -/
def State.covered (s : State) (core n : Nat) (rows : List (Word × Word)) : List Nat :=
  rows.flatMap fun r => (List.range n).filterMap fun i => s.keyAt (s.cap (s.capOf core)) core (r.1 + BitVec.ofNat 64 i)

/-- Convert the bytes of a row of n elements (R78 to R82). -/
def convertRow (sf df n : Nat) (l : List Byte) : List Byte := encodeRow df (decodeRow sf n l)

/-- The bytes of a source row: n of them, or those of n elements. -/
def sourceBytes (sf df n : Nat) : Nat := if rawCopy sf df then n else rowBytes sf n

/-- Move one row, of n bytes or of n elements: its source is checked and read, then its destination checked and written. The keys of the bytes
written are named. -/
def State.moveRow (s : State) (core : Nat) (allows : Mesh → Bool) (sf df n : Nat) (src dst : Word) :
    Except (Nat × Word) (State × List Nat) :=
  match s.readRange core accLoad allows (sourceBytes sf df n) src with
  | .error e => .error e
  | .ok l =>
    let out := if rawCopy sf df then l.map Prod.snd else convertRow sf df n (l.map Prod.snd)
    match s.placeRange core accStore allows out.length dst with
    | .error e => .error e
    | .ok q => .ok (s.writeRow q out, q.filterMap Place.key?)

/-- Move rows in turn up to the first that fails; rows that moved stay moved (R263, R264). Each row is read whole before it is written (DESIGN
CHOICE log 82). -/
def State.moveRows (s : State) (core : Nat) (allows : Mesh → Bool) (sf df n : Nat) :
    List (Word × Word) → List Nat → State × List Nat × Option (Nat × Word)
  | [], done => (s, done, none)
  | (src, dst) :: r, done =>
    match s.moveRow core allows sf df n src dst with
    | .error e => (s, done, some e)
    | .ok (s, m) => State.moveRows s core allows sf df n r (done ++ m)

/-- A signed 32-bit stride times a count. -/
def strideBy (w : Word) (hi lo i : Nat) : Word := BitVec.ofInt 64 ((BitVec.ofNat 32 (bits w.toNat hi lo)).toInt * i)

/-- The rows of a copy (R245, R262). -/
def Shadow.rows (x : Shadow) : List (Word × Word) :=
  (List.range x.n2).flatMap fun i2 => (List.range x.n1).map fun i1 =>
    (x.src + strideBy x.sstr 63 32 i2 + strideBy x.sstr 31 0 i1, x.dst + strideBy x.dstr 63 32 i2 + strideBy x.dstr 31 0 i1)

/-- Whether a copy may run now: among the first four that have not moved, and behind no copy of its thread and channel (R261). -/
def Cluster.copyReady (k : Cluster) (n : Nat) (x : CopyOp) : Bool :=
  let ahead := (k.copies.take n).filter fun y => !y.moved
  !x.moved && decide (ahead.length < 4) && !(ahead.any fun y => decide (y.thread = x.thread ∧ y.chan = x.chan))

/-- Rows of a move run in turn (moveRows), those of all its rows that come next; then the bytes just written that R4 leaves open take free values.
That goes for a move that ends in a fault as for one that completes (DEDUCED log 82). -/
def State.moveNext (s : State) (core : Nat) (allows : Mesh → Bool) (sf df n : Nat) (all next : List (Word × Word)) (done : List Nat) :
    State × List Nat × Option (Nat × Word) :=
  let r := s.moveRows core allows sf df n next done
  let covered := s.covered core (sourceBytes sf df n) all
  (r.1.openBytes (openOf (rawCopy sf df) covered done (r.2.1.drop done.length)), r.2)

/-- A copy's next rows move, at most so many of them (R262, R263). -/
def State.copyRows (s : State) (limit cluster n : Nat) : State :=
  let k := s.cluster cluster
  match k.copies[n]? with
  | none => s
  | some x =>
    let core := coreOf x.thread
    let cap := s.capOf core
    if !k.copyReady n x || !(s.cap cap).runs then s
    else
      let rows := (x.shadow.rows.drop x.next).take limit
      let r := s.moveNext core copyAllows x.sfmt x.dfmt x.shadow.n0 x.shadow.rows rows x.done
      let s := r.1
      match r.2.2 with
      | none =>
        let next := x.next + rows.length
        let y := { x with next, done := r.2.1, moved := decide (x.shadow.rows.length ≤ next) }
        s.setCluster cluster { s.cluster cluster with copies := k.copies.set n y }
      | some (cause, a) =>
        let s := s.setCluster cluster { s.cluster cluster with copies := k.copies.eraseIdx n }
        s.failCapsule cap (s.engineRecord cap x.thread cause x.code a x.chan x.number)

/-- COPY (R262): The copy engine starts an accepted copy and moves or converts its rows, or what is left of them. -/
def execCopy (cluster n : Nat) (s : State) : Result :=
  .next (s.copyRows (((s.cluster cluster).copies[n]?.map fun x => x.shadow.rows.length).getD 0) cluster n)

/-- COPY_COMPLETION (R266): A copy completes, its number and token are written and TLW advances. -/
def execCopyCompletion (cluster n : Nat) (s : State) : Result :=
  let k := s.cluster cluster
  match k.copies[n]? with
  | none => .next s
  | some x =>
    let core := coreOf x.thread
    if !x.moved || ((k.copies.take n).any fun y => decide (y.thread = x.thread ∧ y.chan = x.chan)) then .next s
    else
      let s := s.setCluster cluster { k with copies := k.copies.eraseIdx n }
      .next (((s.completeNumber core x.chan x.number).subCount (s.capOf core) 1).sendToken x.firing x.thread x.reg x.request x.number)

/-! ### Block transfers -/

/-- Whether a descriptor keeps its table (R264). -/
def descriptorOk (b : List Byte) : Bool :=
  let n := fieldB b 16 8
  decide (fieldB b 0 8 % 64 = 0 ∧ fieldB b 8 8 % 64 = 0 ∧ 64 ≤ n ∧ n ≤ 2 ^ 30 ∧ n % 64 = 0 ∧ fieldB b 24 8 = 0)

/-- The block-transfer engine of a cluster: one for each physical row of a die (R265). -/
def engineOf (cl : Nat) : Nat := dieOf cl * 8 + cl % 96 / 12

/-- A transfer leaves for its engine (R264). -/
def State.sendTransfer (s : State) (d la : Nat) (b : List Byte) : State :=
  let s := (s.takeNumbers 6 1).addCount s.myCap 1
  let x : Transfer :=
    { src := dwordB b 0, dst := dwordB b 8, length := fieldB b 16 8, capsule := s.myCap, thread := s.who, reg := d,
      firing := s.me.firing, request := s.nextId, number := s.myCore.lastIssued 6, code := s.me.pc, engine := engineOf s.myCluster,
      stage := 0, ticket := 0, hint := 0, next := 0, done := [] }
  { s with transfers := s.transfers ++ [x] }.finishRequest (.g d) la

/-- btx (R264): Reads a block-transfer descriptor and sends the transfer to its row's block-transfer engine. -/
def execBtx (d a : G) (la : La) (s : State) : Result :=
  let word := encM 0x42 0 la d a 0
  s.issueRelease ((useG word [d, a]).bar.ill (decide (s.role = 2))) fun s =>
    let x := s.rg a
    let core := coreOf s.who
    if x.toNat % 8 ≠ 0 then s.takeTrap causeAlign x
    else
      match s.readRange core accLoad (fun m => unitAllows m accLoad) 32 x with
      | .error e => s.takeTrap e.1 e.2
      | .ok l =>
        if !descriptorOk (l.map Prod.snd) then s.takeTrap causeIllegal (BitVec.ofNat 64 word)
        else if 8 ≤ (s.transfers.filter fun t => decide (coreOf t.thread = core)).length then .next (s.hold .transferRoom)
        else .next (s.sendTransfer d la (l.map Prod.snd))

/-- Free entries of an engine (R265). -/
def State.freeEntries (s : State) (engine : Nat) : Nat :=
  16 - (s.transfers.filter fun t => decide (t.engine = engine ∧ t.stage = 2)).length

/-- Tickets that wait at an engine and are older than a number (R265). -/
def State.olderTickets (s : State) (engine before : Nat) : Nat :=
  (s.transfers.filter fun t => decide (t.engine = engine ∧ t.stage = 1 ∧ t.ticket < before)).length

/-- The cycle of the retry that a hint allows (R265). -/
def State.retryAt (s : State) (older : Nat) : Nat := s.cycle + min 65535 (64 * (older + 1))

/-- BLOCK_TRANSFER_ARRIVAL (R265): A block transfer reaches its engine and is accepted or refused with a ticket and hint. -/
def execBlockTransferArrival (n : Nat) (s : State) : Result :=
  match s.transfers[n]? with
  | none => .next s
  | some x =>
    let ticket := sget 0 s.tickets x.engine + 1
    let waiting := s.olderTickets x.engine ticket
    if x.stage ≠ 0 then .next s
    else if waiting < s.freeEntries x.engine then .next { s with transfers := s.transfers.set n { x with stage := 2 } }
    else
      let y := { x with stage := 1, ticket, hint := s.retryAt waiting }
      .next { s with tickets := sset 0 s.tickets x.engine ticket, transfers := s.transfers.set n y }

/-- BLOCK_TRANSFER_RETRY (R265): After the hint's cycles the sender's interface retries a refused transfer. -/
def execBlockTransferRetry (n : Nat) (s : State) : Result :=
  match s.transfers[n]? with
  | none => .next s
  | some x =>
    let older := s.olderTickets x.engine x.ticket
    if x.stage ≠ 1 ∨ s.cycle < x.hint then .next s
    else if older < s.freeEntries x.engine then .next { s with transfers := s.transfers.set n { x with stage := 2 } }
    else .next { s with transfers := s.transfers.set n { x with hint := s.retryAt older } }

/-- The lines of a transfer (R264). -/
def Transfer.lines (x : Transfer) : List (Word × Word) :=
  (List.range (x.length / 64)).map fun i => (x.src + BitVec.ofNat 64 (64 * i), x.dst + BitVec.ofNat 64 (64 * i))

/-- The next lines of a transfer move, at most so many of them; after its last it completes (R264). -/
def State.moveLines (s : State) (limit n : Nat) (x : Transfer) : State :=
  let core := coreOf x.thread
  let lines := (x.lines.drop x.next).take limit
  let r := s.moveNext core transferAllows 0 0 64 x.lines lines x.done
  let s := r.1
  let next := x.next + lines.length
  match r.2.2 with
  | some (cause, a) =>
    { s with transfers := s.transfers.eraseIdx n }.failCapsule x.capsule (s.engineRecord x.capsule x.thread cause x.code a 6 x.number)
  | none =>
    if next < x.lines.length then { s with transfers := s.transfers.set n { x with next, done := r.2.1 } }
    else
      let s := { s with transfers := s.transfers.eraseIdx n }
      ((s.completeNumber core 6 x.number).subCount x.capsule 1).sendToken x.firing x.thread x.reg x.request x.number

/-- One line of an accepted transfer moves. -/
def State.moveLine (s : State) (n : Nat) : State :=
  match s.transfers[n]? with
  | none => s
  | some x => if x.stage ≠ 2 ∨ !(s.cap x.capsule).runs then s else s.moveLines 1 n x

/-- BLOCK_TRANSFER_COMPLETION (R264): A block transfer completes and its number is written. The lines that are left move in this step. -/
def execBlockTransferCompletion (engine n : Nat) (s : State) : Result :=
  match s.transfers[n]? with
  | none => .next s
  | some x =>
    if x.engine ≠ engine ∨ x.stage ≠ 2 ∨ !(s.cap x.capsule).runs then .next s
    else .next (s.moveLines x.lines.length n x)

/-! ### Transient conditions -/

/-- The sixteenth restart in a row on one access of the matrix unit (R258): MEMERR ends the capsule of the TCW that drains, of the one in
MULTIPLY, or of the head that the arbiter would start. -/
def State.matrixMemErr (s : State) (cl : Nat) : State :=
  match s.segmentOf cl with
  | some g => s.glazeAccess g (causeMemerr, s.freeWord 0)
  | none =>
    match (s.inMultiply cl).orElse fun _ => (s.pick cl).map fun p => (p.1, p.2.1) with
    | none => s
    | some (q, i) =>
      match (s.core (cl * 8 + q)).slots[i]? with
      | none => s
      | some x => s.tcwFault (cl * 8 + q) i x causeMemerr 0 (s.freeWord 0) []

/-- The same for the copy engine: the oldest copy that has not moved (R263). -/
def State.copyMemErr (s : State) (cl : Nat) : State :=
  let k := s.cluster cl
  match k.copies.findIdx? fun x => !x.moved with
  | none => s
  | some n =>
    match k.copies[n]? with
    | none => s
    | some x =>
      let cap := s.capOf (coreOf x.thread)
      let s := s.setCluster cl { k with copies := k.copies.eraseIdx n }
      s.failCapsule cap (s.engineRecord cap x.thread causeMemerr x.code (s.freeWord 0) x.chan x.number)

/-- The same for a block-transfer engine: its oldest accepted transfer (R264). -/
def State.transferMemErr (s : State) (engine : Nat) : State :=
  match s.transfers.findIdx? fun x => decide (x.engine = engine ∧ x.stage = 2) with
  | none => s
  | some n =>
    match s.transfers[n]? with
    | none => s
    | some x =>
      let s := { s with transfers := s.transfers.eraseIdx n }
      s.failCapsule x.capsule (s.engineRecord x.capsule x.thread causeMemerr x.code (s.freeWord 0) 6 x.number)

/-- The matrix unit restarts from its progress point: a drain runs its segment again (R279), and a multiply goes on from its last K-step, which
changes nothing. -/
def State.matrixRestart (s : State) (cl : Nat) : State :=
  match s.segmentOf cl with
  | some g => s.restartSegment g
  | none => s

/-- TRANSIENT_CONDITION (R258): An engine access meets a transient condition and restarts from its progress point; a copy's row and a
transfer's line have none within them, so their restart changes nothing. At the sixteenth restart in a row it is treated as MEMERR, at an
address that the condition alone knows (DESIGN CHOICE log 19). -/
def execTransientCondition (engine : EngineKind) (unit : Nat) (n : Nat) (s : State) : Result :=
  if n < 16 then
    match engine with
    | .matrix => .next (s.matrixRestart unit)
    | .copy | .blockTransfer => .next s
  else
    match engine with
    | .matrix => .next (s.matrixMemErr unit)
    | .copy => .next (s.copyMemErr unit)
    | .blockTransfer => .next (s.transferMemErr unit)

end Sys2Proof.Machine
end

