-- ==== Sys2Proof/Machine/Ending.lean ====
section
/-! DEFINITION. How capsules end: completion (R130, R131), kill (R214, R215), the wipe, and the drop at the saggar column (R233). -/

namespace Sys2Proof.Machine

/-! ### The wipe -/

/-- Whether a memory key lies in on-chip memory that a capsule holds: TCM, scratchpad, accumulator memory, or its die-SRAM slices. -/
def Capsule.holdsKey (c : Capsule) (k : Nat) : Bool :=
  if k < 2 ^ 44 then false
  else if k < 2 ^ 45 then c.clusters.contains ((k - 2 ^ 44) / 2 ^ 18 / 8)
  else if k < 2 ^ 46 then c.clusters.contains ((k - 2 ^ 45) / 2 ^ 22)
  else if k < 2 ^ 47 then
    c.placed.any fun p => decide (dsramKey p.die p.sram ≤ k ∧ k < dsramKey p.die p.sram + c.image.dsramKib * 1024)
  else c.clusters.contains ((k - 2 ^ 47) / 2 ^ 19)

/-- The dies whose clusters some capsule other than n holds. -/
def State.diesHeld (s : State) (n : Nat) : List Nat :=
  s.capsules.flatMap fun e => if e.1 = n then [] else e.2.placed.map PlacedDie.die

/-- A core that a capsule leaves keeps its halt group, and a halt of the group goes on until its resume (R216); it keeps the messages of others that it serves as their home (R23). -/
def Core.freed (c : Core) (n : Nat) : Core :=
  { Core.reset with haltGroup := c.haltGroup, halted := c.halted, inbox := c.inbox.filter fun m => decide (m.capsule ≠ n) }

/-- The time a capsule has run over all its placements, this one included (R191). -/
def State.timeRun (s : State) (c : Capsule) : Nat :=
  c.runTime + (match c.started with
    | some t => if c.placed.isEmpty then 0 else s.podTick - t
    | none => 0)

/-- The footprint of a capsule is wiped and freed (R214 step 6): on-chip memories, tags, threads, cores, engines and barriers; a
die that empties loses its world. -/
def State.wipe (s : State) (n : Nat) : State :=
  let c := s.cap n
  let cores := c.cores
  let clusters := c.clusters
  let held := s.diesHeld n
  let mine := fun t => cores.contains (coreOf t)
  let s :=
    { s with
      mem := s.mem.filter fun e => !c.holdsKey e.1
      tags := s.tags.filter fun e => !c.holdsKey (8 * e.1)
      tagQueue := s.tagQueue.filter fun r => !mine r.thread && !c.holdsKey r.addr
      awayTags := s.awayTags.filter fun a => !mine a.thread
      peerLoads := s.peerLoads.filter fun l => decide (l.capsule ≠ n)
      poison := s.poison.filter fun l => !c.holdsKey (64 * l)
      threads := s.threads.filter fun e => !mine e.1
      clusters := s.clusters.filter fun e => !clusters.contains e.1
      net := s.net.filter fun m => decide (m.capsule ≠ n)
      loads := s.loads.filter fun l => !cores.contains l.core
      stores := s.stores.filter fun e => !cores.contains e.2
      mcsts := s.mcsts.filter fun m => decide (m.capsule ≠ n)
      transfers := s.transfers.filter fun t => decide (t.capsule ≠ n)
      reports := s.reports.filter fun r => decide (r.capsule ≠ n)
      worlds := s.worlds.filter fun w => held.contains w.1 || !(c.placed.any fun p => decide (p.die = w.1)) }
  let s := cores.foldl (fun acc k => State.setCore acc k ((acc.core k).freed n)) s
  s.setCap n { c with placed := [], barriers := [], runTime := s.timeRun c, started := none, saved := [], reached := [], answered := [] }

/-- The end of a capsule: the wipe, and its entries complete (R157, R214). -/
def State.endCapsule (s : State) (n : Nat) : State :=
  let s := s.wipe n
  (s.setCap n { s.cap n with stage := .ended, kill := none }).closeEntries n

/-! ### Completion -/

/-- The second and third conditions of R130 on a core: every number is complete, and no store is unacknowledged. -/
def State.coreQuiet (s : State) (core : Nat) : Bool :=
  let c := s.core core
  ((List.range 8).all fun ch => decide (c.tlwOf ch = c.lastIssued ch)) && decide (c.unacked = 0) &&
  ((List.range 4).all fun r => decide ((s.thr (core * 4 + r)).unacked = 0))

/-- Whether a capsule is quiet on this package (R130, R131). -/
def State.quiet (s : State) (n : Nat) : Bool :=
  let c := s.cap n
  decide (c.outstanding = 0) && c.cores.all s.coreQuiet

/-- The completion record (R211). -/
def State.completion (s : State) (n count : Nat) : Record :=
  { kind := 3, cause := if count = 0 then 0 else 1, capsule := (s.cap n).id, code := 0, value := BitVec.ofNat 64 count,
    extent := 0xFFFFFFFF, origin := 0, thread := 0, timeline := 0, tick := s.podTick }

/-- A capsule completes (R130, R131): its final record, the wipe and the end of its entries. -/
def State.complete (s : State) (n count : Nat) : State := (s.reportFinal n (s.completion n count)).endCapsule n

/-- CAPSULE_COMPLETION (R130): The device detects that the outstanding count, watermarks and stores all allow completion and ends the
capsule. A gang completes in waves instead. One that is being pre-empted completes after it is resumed (DESIGN CHOICE log 103). -/
def execCapsuleCompletion (capsule : Nat) (s : State) : Result :=
  let c := s.cap capsule
  if c.stage = .running ∧ c.image.packages = 1 ∧ s.quiet capsule then .next (s.complete capsule c.faultFirings) else .next s

/-- What the peers of a gang report in a wave, which is free (DESIGN CHOICE log 8): whether every one is quiet. -/
def State.peersQuiet (s : State) (c : Capsule) : Bool :=
  (c.image.members.filter fun m => decide (m ≠ s.mgmt.podId)).all fun m => (Config.peerByte s.steps m).toNat % 2 == 1

/-- The same: whether none has received a unit since the last wave. -/
def State.peersStill (s : State) (c : Capsule) : Bool :=
  (c.image.members.filter fun m => decide (m ≠ s.mgmt.podId)).all fun m => (Config.peerByte s.steps m).toNat / 2 % 2 == 1

/-- Firings that faults ended on the peers of a gang, free values of theirs (DESIGN CHOICE log 8). -/
def State.peerFaults (s : State) (c : Capsule) : Nat :=
  ((c.image.members.filter fun m => decide (m ≠ s.mgmt.podId)).map fun m =>
    ofBytes ((List.range 4).map fun i => Config.peerByte s.steps (m + 4096 * (i + 1)))).foldl (· + ·) 0

/-- The same: whether this member is quiet, and how many units it has received since the last wave. -/
def State.waveReport (s : State) (n : Nat) : List Byte := toBytes 8 (if s.quiet n then 1 else 0) ++ toBytes 8 (s.cap n).received

/-- COMPLETION_WAVE (R131): Footprint package 0 collects quiet states and unit counts from every gang member; two quiet waves in a row, with no
unit received in between, complete the gang, and package 0 tells every member. Another member sends its report, and completes when package
0 tells it so. -/
def execCompletionWave (capsule : Nat) (s : State) : Result :=
  let c := s.cap capsule
  let next := { c with received := 0 }
  if c.stage ≠ .running ∨ c.image.packages = 1 then .next s
  else if s.packageOf c ≠ 0 then
    .next ((s.toPod (c.podOf 0) 9 (toBytes 8 c.id.toNat ++ s.waveReport capsule)).setCap capsule next)
  else if !(s.quiet capsule && s.peersQuiet c) then .next (s.setCap capsule { next with waves := 0 })
  else if decide (c.waves = 0 ∨ c.received ≠ 0) || !s.peersStill c then .next (s.setCap capsule { next with waves := 1 })
  else .next ((s.toMembers c 8 (toBytes 8 c.id.toNat)).complete capsule (c.faultFirings + s.peerFaults c))

/-! ### Kill -/

/-- The children that a core's sweep discards: delegations and task packets that have not started (R215). -/
def Core.childrenOf (c : Core) : Nat :=
  (c.inbox.filter fun m => decide (m.kind = 2)).length + ((c.ring ++ c.waiting).filter fun e => decide (e.source = 1)).length

/-- The engines of a core's cluster drop what the core has queued, and a drain of its queue ends (R214). -/
def Cluster.dropCore (k : Cluster) (core : Nat) : Cluster :=
  { k with
    copies := k.copies.filter fun x => decide (coreOf x.thread ≠ core)
    setterOps := k.setterOps.filter fun x => decide (coreOf x.thread ≠ core)
    openTiles := k.openTiles.filter fun o => decide (o.core ≠ core)
    drain := match k.drain with
      | some d => if d.core = core then none else some d
      | none => none }

/-- A core takes a kill (R214 steps 2 and 3): its threads reset, its messages, entries and waiting tag requests discarded, its
engines' work dropped, and its cluster's router set to discard the capsule's packets for 4,096 cycles. A halted core leaves its halt
group (R215). -/
def State.sweepCore (s : State) (n core : Nat) : State :=
  let c := s.core core
  let kids := c.childrenOf
  let cl := clusterOf core
  let s :=
    { s.withdraw fun t => decide (coreOf t = core) with
      threads := s.threads.filter fun e => decide (coreOf e.1 ≠ core)
      loads := s.loads.filter fun l => decide (l.core ≠ core)
      stores := s.stores.filter fun e => decide (e.2 ≠ core)
      mcsts := s.mcsts.filter fun m => decide (coreOf m.thread ≠ core)
      transfers := s.transfers.filter fun t => decide (coreOf t.thread ≠ core)
      routers := s.routers ++ [(n, cl, s.cycle + 4096)] }
  let s := s.setCluster cl ((s.cluster cl).dropCore core)
  let s := s.setCore core
    { c with inbox := c.inbox.filter (fun m => decide (m.capsule ≠ n)), ring := [], waiting := [], slots := [], unacked := 0,
             haltGroup := if c.halted then none else c.haltGroup, halted := false, forwarding := [], issued := [], tlw := [], completed := [] }
  match (s.cap n).kill with
  | some k => s.setCap n { s.cap n with kill := some { k with children := k.children + kids, swept := core :: k.swept } }
  | none => s

/-- KILL_MESSAGE (R214): A core receiving the kill resets the capsule's threads and discards its work. -/
def execKillMessage (core : Nat) (s : State) : Result :=
  let n := s.capOf core
  match (s.cap n).kill with
  | some k => if (s.cap n).stage = .killing ∧ !k.swept.contains core then .next (s.sweepCore n core) else .next s
  | none => .next s

/-- ROUTER_DISCARD_EXPIRY (R214): A router stops discarding the capsule's packets 4,096 cycles after its receipt. -/
def execRouterDiscardExpiry (capsule cluster : Nat) (s : State) : Result :=
  .next { s with routers := s.routers.filter fun r => !decide (r.1 = capsule ∧ r.2.1 = cluster ∧ r.2.2 ≤ s.cycle) }

/-- Messages of a capsule that are still on their way, or wait at a home outside its footprint, are discarded, its children counted (R214 step 4). -/
def State.dropNet (s : State) (n : Nat) : State :=
  let mine := (s.net ++ s.cores.flatMap fun e => e.2.inbox).filter fun m => decide (m.capsule = n)
  let keep := fun (e : Nat × Core) => (e.1, { e.2 with inbox := e.2.inbox.filter fun m => decide (m.capsule ≠ n) })
  mine.foldl State.sweepMessage { s with net := s.net.filter fun m => decide (m.capsule ≠ n), cores := s.cores.map keep }

/-- Derived images of a capsule, or of one that it resumes, that admission has not read are discarded and counted, and their units leave every count
that they stand in (R197, R215). -/
def State.dropDerived (s : State) (n : Nat) : State :=
  let line := s.line s.capsules.length n
  let waits := fun (c : Capsule) => c.derived && decide (c.stage = .offered) && line.contains c.parent
  let lost := (s.capsules.filter fun e => waits e.2).map Prod.snd
  let kids := lost.length
  let drop := fun (e : Nat × Capsule) => if waits e.2 then (e.1, { e.2 with stage := .ended, entryDone := true }) else e
  let s := lost.foldl State.parentRead { s with capsules := s.capsules.map drop }
  match (s.cap n).kill with
  | some k => s.setCap n { s.cap n with kill := some { k with children := k.children + kids } }
  | none => s

/-- The final record of a kill: that of a command, a watchdog or a gang miss carries the tick of its writing (R211). -/
def finalOf (k : Kill) (tick : Nat) : Record :=
  if k.final.cause = causeKilled ∨ k.final.cause = causeWatchdog then { k.final with tick } else k.final

/-- The records of a confirmed kill (R211, R214 step 5, R215): the final record, the end notice, and the count of its children. (DESIGN CHOICE log 50) -/
def State.killRecords (s : State) (n : Nat) (k : Kill) : State :=
  let c := s.cap n
  let r := finalOf k s.podTick
  let s := s.reportFinal n r
  let notice : Record :=
    { r with kind := 6, value := BitVec.ofNat 64 (min c.reportIndex 63), extent := 0xFFFFFFFF, origin := 0, thread := 0,
             timeline := 0, tick := s.podTick }
  let s := s.ownerRecord c.image.owner c notice
  s.refusal c.image.owner c c.id causeKilled 17 k.children 0xFFFFFFFF

/-- PURGE_CONFIRMED (R214): The purge reduction completes, the final record and end notice are written and everything is wiped. -/
def execPurgeConfirmed (capsule : Nat) (s : State) : Result :=
  let c := s.cap capsule
  match c.kill with
  | none => .next s
  | some k =>
    if c.stage ≠ .killing ∨ !(c.cores.all fun x => k.swept.contains x) then .next s
    else
      let s := (s.dropNet capsule).dropDerived capsule
      match (s.cap capsule).kill with
      | none => .next s
      | some k => .next ((s.killRecords capsule k).endCapsule capsule)

/-- A kill by a command, the watchdog or a gang miss (R211): its final record, whose tick is that of its writing. -/
def State.killFor (s : State) (n cause : Nat) : State :=
  s.startKill n (s.recordOf n 1 cause 0 0 0xFFFFFFFF 0 0)

/-- DEADLINE_WATCHDOG (R191): A placed capsule still running at its deadline tick is killed with WATCHDOG. -/
def execDeadlineWatchdog (capsule : Nat) (s : State) : Result :=
  let c := s.cap capsule
  if c.image.deadline ≠ 0 ∧ c.image.deadline ≤ s.podTick ∧ !c.placed.isEmpty then .next (s.killFor capsule causeWatchdog) else .next s

/-- RUN_LIMIT (R191): A capsule whose run time exceeds its key's run limit is killed with WATCHDOG. -/
def execRunLimit (capsule : Nat) (s : State) : Result :=
  let c := s.cap capsule
  let limit := ((s.key? c.image.owner).map OwnerKey.runLimit).getD 0
  if limit ≠ 0 ∧ !c.placed.isEmpty ∧ limit < s.timeRun c then
    .next (s.killFor capsule causeWatchdog)
  else .next s

/-! ### The saggar column -/

/-- Whether a core lies in the saggar column (R232, R233). -/
def State.saggarCore (s : State) (core : Nat) : Bool :=
  decide (core < coreCount ∧ clusterOf core / 96 = 0 ∧ clusterOf core % 12 < s.saggarWidth)

/-- Whether a message is a capsule's packet addressed into the column: one for a core there, but no operation on DRAM whose home lies there
(R23), and no host's atomic (R171). A REPLY goes to the core of its firing or of its address (R137). -/
def State.intoColumn (s : State) (m : Msg) : Bool :=
  (if m.kind = 4 then (s.replyCore m).any s.saggarCore else s.saggarCore m.target) && !m.ofHost &&
  !(m.isAtomic && decide (m.key < 2 ^ 44))

/-- FIREWALL_DROP (R233): A capsule packet addressed into the saggar column is dropped and reported as RIGHTS; the capsule continues.
The record's value is the address that the packet was sent to. -/
def execFirewallDrop (n : Nat) (s : State) : Result :=
  match s.net[n]? with
  | none => .next s
  | some m =>
    if !s.intoColumn m then .next s
    else
      let s := { s with net := s.net.eraseIdx n }
      let value := if m.kind = 4 then m.reply else m.wrote
      let s := s.report m.capsule (s.recordOf m.capsule 1 causeRights m.code value 0xFFFFFFFF m.origin m.timeline)
      .next ((s.subCount m.capsule 1).completeNumber m.sender 7 m.number)

end Sys2Proof.Machine
end

