-- ==== Sys2Proof/Machine/Setter.lean ====
section
/-! DEFINITION. The Setter: its instructions (R285 to R288, R295, R296), the placement of records and the emission of shelves (R282 to
R284, R287 to R290). The step of a SETR instruction is its arrival at the Setter (R291, DEDUCED log 24). -/

namespace Sys2Proof.Machine

/-! ### Sessions -/

/-- A session of a cluster. -/
def Cluster.session (k : Cluster) (q : Nat) : Session := sget Session.reset k.sessions q
/-- Replace a session. -/
def State.setSession (s : State) (cl q : Nat) (x : Session) : State :=
  s.setCluster cl { s.cluster cl with sessions := sset Session.reset (s.cluster cl).sessions q x }

/-- The session word (R290). -/
def Session.word (x : Session) : Word := BitVec.ofNat 64 (x.state % 4 * 2 ^ 54 + x.emitted % 2 ^ 32 * 2 ^ 22 + x.position % 2 ^ 22)

/-- The lowest free session (R286, R290). -/
def Cluster.freeSession (k : Cluster) : Option Nat :=
  (List.range 4).find? fun q => decide ((k.session q).state = 0 ∨ (k.session q).state = 3)

/-- The status word of the Setter (R296). -/
def Cluster.setStat (k : Cluster) : Word :=
  let open_ := ((List.range 4).map fun q => (k.session q).shelves.length % 16 * 2 ^ (16 + 4 * q)).foldl (· + ·) 0
  let states := ((List.range 4).map fun q => (k.session q).state % 4 * 2 ^ (2 * q)).foldl (· + ·) 0
  BitVec.ofNat 64 (open_ + k.setterOps.length * 2 ^ 8 + states)

/-! ### The instructions -/

/-- set.open (R286): Opens the lowest free Setter session with its output at a scratchpad address. -/
def execSetOpen (d a : G) (la : La) (s : State) : Result :=
  s.issueMem ((useG (encM 0x46 0 la d a 0) [d, a]).ill (decide (s.role = 2))) fun s =>
    let x := s.rg a
    let core := coreOf s.who
    if x.toNat % 8 ≠ 0 then s.takeTrap causeAlign x
    else if x.toNat < 2 ^ 63 then s.takeTrap causeRights x
    else
      match s.resolve core x 1 with
      | none => s.takeTrap causeMeshbound x
      | some m =>
        let own := decide (m.package = coordField s.myCore.coord 23 12 ∧ (s.cap s.myCap).clusterFor m = s.myCluster)
        if m.unit ≠ 1 ∨ !own then s.takeTrap causeRights x
        else
          match (s.cluster s.myCluster).freeSession with
          | none => .next (s.finishLate (.g d) la (lateG 0xFFFFFFFFFFFFFFFF) true)
          | some q =>
            let s := s.setSession s.myCluster q ⟨1, 0, m.offset, m.offset, 0, []⟩
            .next (s.finishLate (.g d) la (lateG (BitVec.ofNat 64 q)) true)

/-- An operation is accepted: a number on channel 5, one unit, and its token's register pending (R287, R288). -/
def State.acceptSetter (s : State) (kind q d la : Nat) (address : Word) (count : Nat) : State :=
  let s := (s.takeNumbers 5 1).addCount s.myCap 1
  let op : SetterOp :=
    { kind, session := q, thread := s.who, reg := d, firing := s.me.firing, request := s.nextId, code := s.me.pc,
      number := s.myCore.lastIssued 5, address, count, next := 0, begun := false }
  let k := s.cluster s.myCluster
  (s.setCluster s.myCluster { k with setterOps := k.setterOps ++ [op] }).finishRequest (.g d) la

/-- Whether a set.put is ILLEGAL (R287). -/
def State.badPut (s : State) (b : Nat) : Bool :=
  let n := (s.rg b).toNat
  decide (s.role = 2) ||
  (s.hasG b && decide (2 ^ 18 ≤ n ∨ n % 2 ^ 16 = 0 ∨ 4096 < n % 2 ^ 16 ∨ ((s.cluster s.myCluster).session (bits n 17 16)).state ≠ 1))

/-- set.put (R287): Hands the Setter a run of constraint records for a session, taking a channel-5 number. -/
def execSetPut (d a b : G) (la : La) (s : State) : Result :=
  s.issueRelease ((useG (encM 0x46 1 la d a b) [d, a, b]).bar.ill (s.badPut b)) fun s =>
    let x := s.rg a
    let n := (s.rg b).toNat
    if x.toNat % 16 ≠ 0 then s.takeTrap causeAlign x
    else if 8 ≤ (s.cluster s.myCluster).setterOps.length then .next (s.hold .setterRoom)
    else .next (s.acceptSetter 1 (bits n 17 16) d la x (n % 2 ^ 16))

/-- set.take (R295): Returns a session word and acquires the session's output below its position. -/
def execSetTake (d a : G) (la : La) (s : State) : Result :=
  let bad := s.hasG a && decide (3 < (s.rg a).toNat)
  s.issueMem ((useG (encM 0x46 2 la d a 0) [d, a]).ill (decide (s.role = 2) || bad)) fun s =>
    .next (s.finishLate (.g d) la (lateG ((s.cluster s.myCluster).session (s.rg a).toNat).word) true)

/-- set.close (R288): Closes a Setter session, taking a channel-5 number. -/
def execSetClose (d a : G) (la : La) (s : State) : Result :=
  let q := (s.rg a).toNat
  let bad := s.hasG a && decide (3 < q ∨ ((s.cluster s.myCluster).session q).state ≠ 1)
  s.issueRelease ((useG (encM 0x46 3 la d a 0) [d, a]).bar.ill (decide (s.role = 2) || bad)) fun s =>
    if 8 ≤ (s.cluster s.myCluster).setterOps.length then .next (s.hold .setterRoom)
    else
      let x := (s.cluster s.myCluster).session q
      .next ((s.setSession s.myCluster q { x with state := 2 }).acceptSetter 2 q d la 0 0)

/-- set.stat (R296): Returns the Setter's status word without acquiring. -/
def execSetStat (d : G) (la : La) (s : State) : Result :=
  s.issueMem ((useG (encM 0x46 4 la d 0 0) [d]).ill (decide (s.role = 2))) fun s =>
    .next (s.finishLate (.g d) la (lateG (s.cluster s.myCluster).setStat) true)

/-! ### Shelves -/

/-- The bytes of a shelf's record (R284). -/
def Shelf.bytes (h : Shelf) (reason : Nat) : List Byte :=
  let n := h.indices.length
  toBytes 8 (h.number % 2 ^ 32 * 2 ^ 32 + reason * 2 ^ 24 + h.bodies.length * 2 ^ 16 + n) ++
  h.indices.flatMap (toBytes 2) ++ List.replicate (8 * ((n + 3) / 4) - 2 * n) 0

/-- A failure of an operation of the Setter ends the capsule (R286, R287). -/
def State.setterFault (s : State) (cl : Nat) (op : SetterOp) (cause : Nat) (value : Word) : State :=
  let cap := s.capOf (coreOf op.thread)
  let k := s.cluster cl
  let s := s.setCluster cl { k with setterOps := k.setterOps.erase op }
  s.failCapsule cap (s.engineRecord cap op.thread cause op.code value 5 op.number)

/-- Write bytes at a session's position and move it past them; past the scratchpad's end the write faults (R286), and the session stays as the
emissions before have left it (R290). -/
def State.setterWrite (s : State) (cl : Nat) (op : SetterOp) (x : Session) (l : List Byte) : Except State (State × Session) :=
  if 0x400000 < x.position + l.length then .error ((s.setSession cl op.session x).setterFault cl op causeMeshbound (s.meshOf (coreOf op.thread) 1 0x400000))
  else
    let k := spadKey cl x.position
    .ok ((s.setByteList k l).touched k l.length, { x with position := x.position + l.length })

/-- emit(s, reason) of R283: the oldest shelf that meets p leaves the window. -/
def State.emit (s : State) (cl : Nat) (op : SetterOp) (x : Session) (h : Shelf) (reason : Nat) : Except State (State × Session) :=
  match s.setterWrite cl op x (h.bytes reason) with
  | .error e => .error e
  | .ok (s, x) => .ok (s, { x with emitted := (x.emitted + 1) % 2 ^ 32, shelves := x.shelves.erase h })

/-- The distinct bodies of a record (R283). -/
def recordBodies (b : List Byte) : List Nat :=
  (List.range 4).foldl (fun acc i =>
    let v := fieldB b (3 * i) 3
    if v = 0xFFFFFF ∨ acc.contains v then acc else acc ++ [v]) []

/-- Whether a shelf takes bodies (R283). -/
def Shelf.takes (h : Shelf) (l : List Nat) : Bool :=
  (l.all fun v => !h.bodies.contains v) && decide (h.indices.length < 32 ∧ h.bodies.length + l.length ≤ 128)

/-- place(c) of R283. -/
def State.placeRecord (s : State) (cl : Nat) (op : SetterOp) (x : Session) (b : List Byte) : Except State (State × Session) :=
  let l := recordBodies b
  let index := fieldB b 12 2
  match x.shelves.findIdx? fun h => h.takes l with
  | some i =>
    let h := x.shelves.getD i ⟨0, [], []⟩
    let h : Shelf := { h with indices := h.indices ++ [index], bodies := h.bodies ++ l }
    let x := { x with shelves := x.shelves.set i h }
    if h.indices.length = 32 ∨ h.bodies.length = 128 then s.emit cl op x h 2 else .ok (s, x)
  | none =>
    let fresh := fun (r : State × Session) =>
      (r.1, { r.2 with next := r.2.next + 1, shelves := r.2.shelves ++ [⟨r.2.next, [index], l⟩] })
    match x.shelves with
    | h :: _ => if 8 ≤ x.shelves.length then (s.emit cl op x h 1).map fresh else .ok (fresh (s, x))
    | [] => .ok (fresh (s, x))

/-- Emit every shelf of a list, oldest first, with reason 3 (R283). -/
def State.emitAll (s : State) (cl : Nat) (op : SetterOp) : List Shelf → Session → Except State (State × Session)
  | [], x => .ok (s, x)
  | h :: r, x =>
    match s.emit cl op x h 3 with
    | .error e => .error e
    | .ok (s, x) => State.emitAll s cl op r x

/-! ### The operations -/

/-- The oldest operation is done: its number completes, its unit goes and its token is written (R289, R294). -/
def State.completeSetter (s : State) (cl : Nat) (op : SetterOp) : State :=
  let core := coreOf op.thread
  let k := s.cluster cl
  let s := s.setCluster cl { k with setterOps := k.setterOps.tail }
  ((s.completeNumber core 5 op.number).subCount (s.capOf core) 1).sendToken op.firing op.thread op.reg op.request op.number

/-- Where the Setter may read records (R287). -/
def setterAllows (m : Mesh) : Bool := decide (m.unit = 1) || decide (m.unit = 0 ∧ m.offset < 0x39800)

/-- The oldest operation of a cluster's Setter, if its capsule runs (R289). -/
def State.setterHead (s : State) (cl : Nat) : Option SetterOp :=
  match (s.cluster cl).setterOps.head? with
  | none => none
  | some op => if (s.cap (s.capOf (coreOf op.thread))).runs then some op else none

/-- The oldest operation goes on with its next record; after its last it completes. -/
def State.setterNext (s : State) (cl : Nat) (op : SetterOp) : State :=
  let k := s.cluster cl
  if op.next + 1 < op.count then
    s.setCluster cl { k with setterOps := { op with next := op.next + 1 } :: k.setterOps.tail }
  else s.completeSetter cl op

/-- SETTER_PUT (R287): The Setter begins performing an accepted set.put after every earlier operation. -/
def execSetterPut (cluster : Nat) (s : State) : Result :=
  match s.setterHead cluster with
  | none => .next s
  | some op =>
    if op.kind ≠ 1 then .next s
    else
      let k := s.cluster cluster
      .next (s.setCluster cluster { k with setterOps := { op with begun := true } :: k.setterOps.tail })

/-- PLACE (R283): The Setter places one record into a shelf, emitting shelves as they fill or the window overflows. A record with
flags is reported and skipped (R287). -/
def execPlace (cluster : Nat) (s : State) : Result :=
  match s.setterHead cluster with
  | none => .next s
  | some op =>
    if op.kind ≠ 1 ∨ !op.begun then .next s
    else
      let a := op.address + BitVec.ofNat 64 (16 * op.next)
      let cap := s.capOf (coreOf op.thread)
      match s.readRange (coreOf op.thread) accLoad setterAllows 16 a with
      | .error e => .next (s.setterFault cluster op e.1 e.2)
      | .ok l =>
        let b := l.map Prod.snd
        if fieldB b 14 2 ≠ 0 then
          .next ((s.report cap (s.engineRecord cap op.thread causeIllegal op.code a 5 op.number)).setterNext cluster op)
        else
          match s.placeRecord cluster op ((s.cluster cluster).session op.session) b with
          | .error e => .next e
          | .ok (s, x) => .next ((s.setSession cluster op.session x).setterNext cluster op)

/-- A close emits its session's oldest open shelf alone (R288): a take may be served between two records (R295). -/
def State.closeShelf (s : State) (cl : Nat) : State :=
  match s.setterHead cl with
  | none => s
  | some op =>
    let x := (s.cluster cl).session op.session
    match x.shelves with
    | [] => s
    | h :: _ =>
      if op.kind ≠ 2 then s
      else
        match s.emit cl op x h 3 with
        | .error e => e
        | .ok (s, x) => s.setSession cl op.session x

/-- SESSION_CLOSE (R288): The Setter emits every open shelf that is left and the end mark, frees the session and completes the close number. -/
def execSessionClose (cluster : Nat) (s : State) : Result :=
  match s.setterHead cluster with
  | none => .next s
  | some op =>
    if op.kind ≠ 2 then .next s
    else
      let x := (s.cluster cluster).session op.session
      match s.emitAll cluster op x.shelves x with
      | .error e => .next e
      | .ok (s, x) =>
        match s.setterWrite cluster op x (List.replicate 8 0) with
        | .error e => .next e
        | .ok (s, x) => .next ((s.setSession cluster op.session { x with state := 3 }).completeSetter cluster op)

end Sys2Proof.Machine
end

