-- ==== Sys2Proof/Machine/Records.lean ====
section
/-! DEFINITION. The bytes of resume records and spill areas (R206 to R209, R259, R263, R264, R269, R300). -/

namespace Sys2Proof.Machine

/-- A record under way: its bytes that are not 0, by offset. -/
abbrev Bytes := Sparse Byte

/-- Lay a list of bytes at an offset. -/
def Bytes.put (m : Bytes) (o : Nat) : List Byte → Bytes
  | [] => m
  | b :: r => Bytes.put (sset 0 m o b) (o + 1) r

/-- Lay a slice of memory at an offset. -/
def Bytes.slice (m : Bytes) (o : Nat) (x : Sparse Byte) : Bytes := smerge 0 o m x

/-- The footprint clusters in coordinate order: die, column, row (R11, R175, R206). -/
def Capsule.coordClusters (c : Capsule) : List Nat :=
  c.placed.flatMap fun p => (List.range p.cols).flatMap fun k => (List.range c.image.rows).map fun r => clusterAt p.die (p.col + k) (p.row + r)

/-! ### Rings and inboxes (R122, R207, R209) -/

/-- Where each message of a list lies when they are laid one after another in the inbox region (DESIGN CHOICE log 30). -/
def inboxOffsets : List Msg → Nat → List (Msg × Nat)
  | [], _ => []
  | m :: r, o => (m, o) :: inboxOffsets r (o + m.bytesLen)

/-- The eight bytes of a ready entry (R122), with the inbox offset of its message. -/
def Entry.bytes (e : Entry) (l : List (Msg × Nat)) : List Byte :=
  let at_ := match e.message with
    | none => e.locator
    | some m => ((l.find? fun x => decide (x.1 = m)).map Prod.snd).getD 0
  toBytes 8 (e.codelet * 2 ^ 48 + e.source * 2 ^ 46 + at_)

/-- The messages of its capsule that occupy a core's inbox. -/
def Core.ownInboxed (c : Core) : List Msg := c.inboxed.filter fun m => decide (m.capsule = c.capsule.getD 0)

/-- A core's TCM as a record holds it: the user region, the inbox and the ring; the resident region is zero (R207). -/
def State.tcmImage (s : State) (core : Nat) : Bytes :=
  let c := s.core core
  let l := inboxOffsets c.ownInboxed 0x39800
  let m := sslice (tcmKey core 0) 0x39800 s.mem
  let m := l.foldl (fun m x => Bytes.put m x.2 x.1.bytes) m
  c.ring.zipIdx.foldl (fun m e => Bytes.put m (0x3F800 + 8 * ((c.ringHead + e.2) % 256)) (e.1.bytes l)) m

/-- The ring state of a core (R209). -/
def Core.ringState (c : Core) : List Byte :=
  (match c.waiting.head? with
   | none => toBytes 8 0
   | some e => e.bytes (inboxOffsets c.ownInboxed 0x39800)) ++
  toBytes 2 c.ringHead ++ toBytes 2 c.ring.length ++ toBytes 1 (if c.waiting.isEmpty then 0 else 1) ++ toBytes 3 0

/-! ### Engines -/

/-- The barrier dword of R207. -/
def Barrier.dword (b : Barrier) : Nat :=
  b.expected.getD 0 % 2 ^ 16 + b.arrived % 2 ^ 16 * 2 ^ 16 + b.phase % 2 * 2 ^ 32 + (if b.expected.isSome then 2 ^ 33 else 0)

/-- The eight barrier dwords of the instance of a scope that holds the core with a COORD; E of barrier 0 is fixed (R133). -/
def Capsule.barrierBytes (c : Capsule) (coord : Nat) (sc : Scope) : List Byte :=
  (List.range 8).flatMap fun id =>
    let b := sget Barrier.reset c.barriers (barrierKey coord sc id)
    let e := c.coresIn (BitVec.ofNat 64 coord) sc
    toBytes 8 (if id = 0 ∧ e ≠ 0 then { b with expected := some e } else b).dword

/-- Drain parameters as R259 and R269 lay them out. -/
def Params.bytes (p : Params) : List Byte :=
  toBytes 8 p.outbase.toNat ++ toBytes 8 p.rowbase.toNat ++ toBytes 8 p.colbase.toNat ++ toBytes 4 (p.outstride + p.outfmt * 2 ^ 24)

/-- The code of a slot's state (R249). -/
def SlotState.code : SlotState → Nat
  | .queued => 1 | .multiply | .ending => 2 | .drain | .finished => 3 | .faulted => 4

/-- A matrix queue slot (R259); no drain is in progress when a record is written. -/
def Slot.bytes (x : Slot) : List Byte :=
  toBytes 32 x.tcw ++ x.params.bytes ++ toBytes 4 (x.rowProgress + x.state.code * 2 ^ 26)

/-- The issuer of a slot (R259). -/
def Slot.issuer (x : Slot) : List Byte := toBytes 8 x.first ++ toBytes 4 x.code.toNat ++ toBytes 2 (roleOf x.thread) ++ toBytes 2 0

/-- Copy shadow registers in the order of R263. -/
def Shadow.bytes (x : Shadow) : List Byte :=
  [x.src, x.dst, x.sstr, x.dstr, x.shape, x.fmt, x.chan].flatMap fun w => toBytes 8 w.toNat

/-- An accepted copy (R263). -/
def CopyOp.bytes (x : CopyOp) : List Byte :=
  ([x.shadow.src, x.shadow.dst, x.shadow.sstr, x.shadow.dstr, x.shadow.shape].flatMap fun w => toBytes 8 w.toNat) ++
  toBytes 1 x.sfmt ++ toBytes 1 x.dfmt ++ toBytes 1 x.chan ++ toBytes 1 (roleOf x.thread) ++ toBytes 1 (coreOf x.thread % 8) ++ toBytes 3 0 ++
  toBytes 8 x.number ++ toBytes 4 x.code.toNat ++ toBytes 4 (x.next % x.shadow.n1 + x.next / x.shadow.n1 * 2 ^ 16)

/-- A block transfer (R264): the manual names its fields and not their offsets (DESIGN CHOICE log 34). -/
def Transfer.bytes (x : Transfer) : List Byte :=
  toBytes 8 x.src.toNat ++ toBytes 8 x.dst.toNat ++ toBytes 8 x.length ++ toBytes 8 0 ++ toBytes 8 x.number ++
  toBytes 1 (coreOf x.thread % 8) ++ toBytes 1 (roleOf x.thread) ++ toBytes 2 0 ++ toBytes 4 x.code.toNat ++ toBytes 8 (64 * x.next) ++ toBytes 8 0

/-- An accepted Setter operation (R300). -/
def SetterOp.bytes (x : SetterOp) : List Byte :=
  toBytes 1 x.kind ++ toBytes 1 x.session ++ toBytes 1 (coreOf x.thread % 8) ++ toBytes 1 (roleOf x.thread) ++ toBytes 4 x.code.toNat ++
  toBytes 8 x.number ++ toBytes 8 x.address.toNat ++ toBytes 2 x.count ++ toBytes 2 x.next ++ toBytes 4 0

/-- An open shelf (R300). -/
def Shelf.saved (h : Shelf) : List Byte :=
  let head := toBytes 4 (h.number % 2 ^ 32) ++ toBytes 1 h.indices.length ++ toBytes 1 h.bodies.length ++ toBytes 2 0 ++
    h.indices.flatMap (toBytes 2)
  head ++ List.replicate (0x48 - head.length) 0 ++ h.bodies.flatMap (toBytes 3)

/-- A session's block (R300). -/
def Session.put (x : Session) (m : Bytes) (o : Nat) : Bytes :=
  let m := Bytes.put m o (toBytes 8 x.word.toNat ++ toBytes 4 (x.next % 2 ^ 32) ++ toBytes 1 x.shelves.length)
  x.shelves.zipIdx.foldl (fun m h => Bytes.put m (o + 0x40 + 0x200 * h.2) h.1.saved) m

/-- The Setter's area (R300). -/
def Cluster.putSetter (k : Cluster) (m : Bytes) (o : Nat) : Bytes :=
  let m := Bytes.put m o (toBytes 4 k.setterOps.length)
  let m := k.setterOps.zipIdx.foldl (fun m x => Bytes.put m (o + 0x100 + 32 * x.2) x.1.bytes) m
  (List.range 4).foldl (fun m q => (k.session q).put m (o + 0x400 + 0x1800 * q)) m

/-- A bit list as bytes: bit n of the area is set for each n of the list. -/
def Bytes.putBits (m : Bytes) (o : Nat) (l : List Nat) : Bytes :=
  l.foldl (fun m n => sset 0 m (o + n / 8) (sget 0 m (o + n / 8) ||| BitVec.ofNat 8 (2 ^ (n % 8)))) m

/-! ### Cluster blocks (R207) -/

/-- What a cluster block holds of one core, q of its cluster. -/
def State.putCore (s : State) (m : Bytes) (o core : Nat) : Bytes :=
  let q := core % 8
  let c := s.core core
  let m := Bytes.slice m (o + 0x40000 * q) (s.tcmImage core)
  let m := Bytes.put m (o + 0x690080 + 8 * q) (toBytes 8 c.mqw.toNat)
  let m := Bytes.put m (o + 0x690100 + 128 * q) ((List.range 8).flatMap fun ch => toBytes 8 (c.lastIssued ch) ++ toBytes 8 (c.tlwOf ch))
  let m := Bytes.put m (o + 0x690600 + 16 * q) c.ringState
  let m := Bytes.put m (o + 0x6906A0 + 32 * q) c.params.bytes
  let m := c.slots.zipIdx.foldl (fun m x =>
    Bytes.put (Bytes.put m (o + 0x690800 + 0x100 * q + 16 * x.2) x.1.issuer) (o + 0x691000 + 0x400 * q + 64 * x.2) x.1.bytes) m
  let shadows := [0, 1, 3].flatMap fun r => (s.thr (core * 4 + r)).shadow.bytes
  Bytes.put m (o + 0x695000 + 3 * 56 * q) shadows

/-- The block of a cluster at an offset of the record. -/
def State.putCluster (s : State) (c : Capsule) (m : Bytes) (o cl : Nat) : Bytes :=
  let k := s.cluster cl
  let m := (List.range 8).foldl (fun m q => s.putCore m o (cl * 8 + q)) m
  let m := Bytes.slice m (o + 0x200000) (sslice (spadKey cl 0) 0x400000 s.mem)
  let m := Bytes.putBits m (o + 0x600000) ((sslice (spadKey cl 0 / 8) 0x80000 s.tags).map Prod.fst)
  let m := Bytes.slice m (o + 0x610000) (sslice (accKey cl 0) 0x80000 s.mem)
  let m := Bytes.put m (o + 0x690000) ((List.range 16).flatMap fun i => toBytes 8 (sget 0 k.bfmt i).toNat)
  let at_ := (s.core (cl * 8)).coord.toNat
  let bars := c.barrierBytes at_ .quad ++ c.barrierBytes (at_ + 4) .quad ++ c.barrierBytes at_ .clu
  let m := Bytes.put m (o + 0x690500) bars
  let m := Bytes.putBits m (o + 0x690680) k.directory
  let m := Bytes.put m (o + 0x693000) ((List.range 2048).flatMap fun w => toBytes 4 (k.drainWord w))
  let m := k.copies.zipIdx.foldl (fun m x => Bytes.put m (o + 0x695600 + 64 * x.2) x.1.bytes) m
  let m := k.putSetter m (o + 0x696000)
  let moves := s.transfers.filter fun t => decide (clusterOf (coreOf t.thread) = cl ∧ t.stage = 2)
  moves.zipIdx.foldl (fun m x => Bytes.put m (o + 0x69E000 + 64 * x.2) x.1.bytes) m

/-! ### Contexts -/

/-- The message of a saved firing's context (R126, R206): its origin names the saved thread; what follows the context lies outside
the message's length. -/
def State.savedMsg (s : State) (x : Saved) : Msg :=
  let t := x.context
  { kind := 1, words := [], origin := s.originOf x.thread, reply := 0, body := contextBytes t t.vregs (contextFlags t) ++ contextTail t,
    capsule := s.capOf (coreOf x.thread), target := coreOf x.thread, firing := t.firing, sender := coreOf x.thread, code := t.pc,
    request := 0, number := 0, bounce := false, serial := 0, key := 0 }

/-- The bytes of a saved context in the record (R175, R206). -/
def State.savedBytes (s : State) (x : Saved) : List Byte :=
  let m := s.savedMsg x
  let packet := 16 + contextLength m.body
  toBytes 1 1 ++ toBytes 1 0 ++ toBytes 2 packet ++ toBytes 4 (m.origin.toNat % 2 ^ 32) ++ toBytes 8 0 ++ m.body

/-- The saved firings of a capsule in the order of R175: by coordinate, then thread. -/
def Capsule.savedOrder (c : Capsule) : List Saved :=
  c.coordClusters.flatMap fun cl => (List.range 32).flatMap fun t => c.saved.filter fun x => decide (x.thread = cl * 32 + t)

/-! ### The record -/

/-- The header of the record (R206). -/
def State.recordHeader (s : State) (c : Capsule) : List Byte :=
  toBytes 4 0x53525250 ++ toBytes 2 1 ++ toBytes 2 (bits c.image.flags 2 2) ++ toBytes 8 c.id.toNat ++ toBytes 8 c.image.va ++
  toBytes 4 c.image.length ++ toBytes 4 c.saved.length ++ toBytes 4 c.reportIndex ++ toBytes 2 c.clusters.length ++
  toBytes 2 (s.packageOf c) ++ toBytes 8 s.podTick ++ toBytes 8 c.outstanding ++ toBytes 8 (s.timeRun c)

/-- The barriers of the die, pkg and pod levels, after the MAC (R207). -/
def Capsule.tailBarriers (c : Capsule) (package : Nat) : List Byte :=
  ((List.range 4).flatMap fun d => c.barrierBytes (package * 2 ^ 12 + d * 2 ^ 10) .die) ++
  c.barrierBytes (package * 2 ^ 12) .pkg ++ c.barrierBytes (package * 2 ^ 12) .pod

/-- The resume record but for its MAC (R206, R207). Poisoned bytes of on-chip memory are saved as any others (DESIGN CHOICE log 118). -/
def State.recordBytes (s : State) (c : Capsule) : Bytes :=
  let n := c.clusters.length
  let z := c.image.dsramKib * 1024
  let m := Bytes.put [] 0 (s.recordHeader c ++ c.savedOrder.flatMap s.savedBytes)
  let m := c.coordClusters.zipIdx.foldl (fun m k => s.putCluster c m (0x60000 * n + 0x6A0000 * k.2) k.1) m
  let m := c.placed.zipIdx.foldl (fun m p => Bytes.slice m (0x700000 * n + z * p.2) (sslice (dsramKey p.1.die p.1.sram) z s.mem)) m
  Bytes.put m (recordTail c.image n + 64) (c.tailBarriers (s.packageOf c))

/-- The length of a capsule's record on its placement (R206). -/
def Capsule.recordLen (c : Capsule) : Nat := recordTail c.image c.clusters.length + 4096

/-- Write the record at the resume area of this package, and its MAC into the tail (R206, R208); the MAC is the answer. Where the area meets a
write-locked code range (R187) or a failed CXL set (R230) nothing is written (DESIGN CHOICE log 95). -/
def State.writeRecord (s : State) (c : Capsule) : State × Nat :=
  let va := c.image.resumeVa + s.packageOf c * c.image.resumeBytes c.image.requested
  match c.keyOf va with
  | none => (s, 0)
  | some k =>
    let len := c.recordLen
    if s.codeLocked k len || s.writeFails (.here k none) then (s, 0)
    else
    let s := { s with mem := smerge unlisted k (sclear k len s.mem) (s.recordBytes c) }.touched k len
    let tag := s.recordMac c.digest k (len - 4096)
    (s.setBytes (k + len - 4096) 64 tag, tag % 2 ^ 512)

/-! ### The spill area (R209) -/

/-- A message that an interface holds: where it goes, and its bytes, padded. A REPLY goes to the address it answers. -/
def State.spillBytes (s : State) (m : Msg) : List Byte :=
  let dest := if m.kind = 4 then m.reply else s.meshOf m.target 0 0
  let b := if m.kind = 4 then { m with reply := 0 }.bytes else m.bytes
  toBytes 8 dest.toNat ++ b ++ List.replicate ((8 - b.length % 8) % 8) 0

/-- A transfer that waits for its engine, spilled as an ENGINE message to its own core (R209, R265, DESIGN CHOICE log 34). -/
def State.spillTransfer (s : State) (t : Transfer) : List Byte :=
  let m : Msg :=
    { kind := 3, words := [], origin := s.originOf t.thread, reply := 0, body := t.bytes, capsule := t.capsule, target := coreOf t.thread,
      firing := 0, sender := coreOf t.thread, code := t.code, request := 0, number := 0, bounce := false, serial := 0, key := 0 }
  s.spillBytes m

/-- Write the spill area of this package (R188, R209), in each cluster's part of 8 KiB, which holds what an interface may hold
(DESIGN CHOICE log 68). Block transfers that no engine has accepted stand after all other messages (DESIGN CHOICE log 104). -/
def State.writeSpill (s : State) (n : Nat) (c : Capsule) : State :=
  let base := c.image.spillVa + s.packageOf c * (0x2000 * c.image.requested)
  c.coordClusters.zipIdx.foldl (fun acc e =>
    let msgs := acc.net.filter fun m => decide (m.capsule = n ∧ clusterOf m.sender = e.1)
    let waits := acc.transfers.filter fun t => decide (t.capsule = n ∧ clusterOf (coreOf t.thread) = e.1 ∧ t.stage ≠ 2)
    let l := msgs.flatMap acc.spillBytes ++ waits.flatMap acc.spillTransfer
    acc.putVa c (base + 0x2000 * e.2) ((toBytes 4 (msgs.length + waits.length) ++ toBytes 4 l.length ++ l).take 0x2000)) s

end Sys2Proof.Machine
end

