-- ==== Sys2Proof/Machine/Placement.lean ====
section
/-! DEFINITION. Placement, loading and start (R190 to R193), resumption (R175, R195, R209), and the launch of gangs (R192). -/

namespace Sys2Proof.Machine

/-! ### Where a footprint fits (R190) -/

/-- Whether no capsule holds a cluster. -/
def State.clusterFree (s : State) (cl : Nat) : Bool := (s.core (cl * 8)).capsule.isNone

/-- Whether no capsule holds a cluster of a die. -/
def State.dieFree (s : State) (die : Nat) : Bool :=
  s.cores.all fun e => decide (dieOf (clusterOf e.1) ≠ die) || e.2.capsule.isNone

/-- Whether a requested debug session reserves a die (R238): its own, or all of them where its tier's scope is the package. -/
def State.dieReserved (s : State) (die : Nat) : Bool := s.mgmt.debugSessions.any fun d => decide ((d.die = die ∨ 2 ≤ d.tier) ∧ d.stage = 0)

/-- Whether the open debug sessions of a die leave it to a world (R238). -/
def State.dieOpenTo (s : State) (world die : Nat) : Bool :=
  s.mgmt.debugSessions.all fun d => !decide (d.die = die ∧ d.tier = 1 ∧ d.stage = 1) ||
    decide (((s.key? d.key).map fun k => k.desc.world) = some world)

/-- Whether a die may take a capsule of a world (R190, R236): usable, not reserved, and free or of that world. -/
def State.dieTakes (s : State) (world die : Nat) : Bool :=
  s.mgmt.usableDies.contains die && !s.dieReserved die && s.dieOpenTo world die && (s.dieFree die || s.worlds.contains (die, world))

/-- SRAM of a die that is granted, in KiB (R190). -/
def State.sramUsed (s : State) (die : Nat) : Nat :=
  (s.capsules.map fun e => if e.2.placed.any fun p => decide (p.die = die) then e.2.image.dsramKib else 0).foldl (· + ·) 0

/-- Where the next slice of a die's SRAM begins: above every granted slice. (DESIGN CHOICE log 64) -/
def State.sramBase (s : State) (die : Nat) : Nat :=
  (s.capsules.map fun e =>
    (e.2.placed.map fun p => if p.die = die then p.sram + e.2.image.dsramKib * 1024 else 0).foldl max 0).foldl max 0

/-- Whether every cluster of a rectangle is free. -/
def State.rectFree (s : State) (die col row cols rows : Nat) : Bool :=
  (List.range rows).all fun r => (List.range cols).all fun k => s.clusterFree (clusterAt die (col + k) (row + r))

/-- The lowest place of a rectangle on a die: lowest row origin, then lowest column origin. -/
def State.rectOn (s : State) (die cols rows : Nat) : Option (Nat × Nat) :=
  (List.range (9 - rows)).findSome? fun r =>
    (((List.range (13 - cols)).filter fun k => decide (userFirst s.saggarWidth die ≤ k)).find? fun k => s.rectFree die k r cols rows).map fun k => (k, r)

/-- A rectangle on the lowest die that qualifies. -/
def State.placeRect (s : State) (i : Image) (world : Nat) : Option (List PlacedDie) :=
  (List.range 4).findSome? fun d =>
    if s.dieTakes world d && decide (s.sramUsed d + i.dsramKib ≤ 196608) then
      (s.rectOn d i.cols i.rows).map fun o => [⟨d, o.1, i.cols, o.2, s.sramBase d⟩]
    else none

/-- Whole dies, free ones in ascending order, among those that ok allows. -/
def State.placeDies (s : State) (i : Image) (world : Nat) (ok : Nat → Bool) : Option (List PlacedDie) :=
  let l := (List.range 4).filter fun d => s.mgmt.usableDies.contains d && !s.dieReserved d && s.dieOpenTo world d && s.dieFree d && ok d
  if i.dies ≤ l.length then some ((l.take i.dies).map fun d => ⟨d, userFirst s.saggarWidth d, userCols s.saggarWidth d, 0, 0⟩) else none

/-- Where a capsule can be placed now (R190): a continuation keeps the column counts it left, whose whole dies included die 0 or not;
record is its count of clusters, none for a capsule that starts. -/
def State.findPlacement (s : State) (c : Capsule) (record : Option Nat) : Option (List PlacedDie) :=
  let i := c.image
  if i.dies = 1 then s.placeRect i c.world
  else
    match record with
    | none => s.placeDies i c.world fun _ => true
    | some n =>
      if n = i.requested then s.placeDies i c.world fun d => decide (d ≠ 0)
      else if s.mgmt.usableDies.contains 0 && !s.dieReserved 0 && s.dieOpenTo c.world 0 && s.dieFree 0 then s.placeDies i c.world fun _ => true
      else none

/-- The header of a continuation's record, where its entry's mapping holds it. -/
def State.recordHead (s : State) (c : Capsule) : Option (RecordHeader × Nat) :=
  if c.continuation then (mappedKey c.mapping c.recordVa c.recordLength).map fun k => (parseRecord (s.byteList k 64), k) else none

/-- Where a capsule can be placed now. -/
def State.placementOf (s : State) (c : Capsule) : Option (List PlacedDie) :=
  s.findPlacement c ((s.recordHead c).map fun h => h.1.clusters)

/-! ### The order of service (R191) -/

/-- Where a capsule stands in the order of service: its class and, within DEADLINE, its deadline tick. A derived capsule stands in its parent's
class, by its own deadline tick or, where it has none, by its parent's (R197); fuel bounds the line of parents. (DESIGN CHOICE log 84) -/
def State.rank (s : State) : Nat → Capsule → Nat × Nat
  | 0, c => (c.image.cls, if c.image.cls = 0 then c.image.deadline else 0)
  | fuel + 1, c =>
    if !c.derived then (c.image.cls, if c.image.cls = 0 then c.image.deadline else 0)
    else
      let p := State.rank s fuel (s.cap c.parent)
      (p.1, if p.1 = 0 ∧ c.image.deadline ≠ 0 then c.image.deadline else p.2)

/-- Whether a capsule is served before another: by its rank, then in the order handed over. -/
def State.servedBefore (s : State) (a b : Nat × Capsule) : Bool :=
  let x := s.rank s.capsules.length a.2
  let y := s.rank s.capsules.length b.2
  decide (x.1 < y.1) || (decide (x.1 = y.1) && (decide (x.2 < y.2) || decide (x.2 = y.2 ∧ a.1 < b.1)))

/-- Whether pod time has reached the deadline tick of a capsule that waits: a DEADLINE capsule or a continuation (R191). -/
def State.tooLate (s : State) (c : Capsule) : Bool :=
  decide (c.stage = .placing ∧ (c.image.cls = 0 ∨ c.continuation) ∧ c.image.deadline ≠ 0 ∧ c.image.deadline ≤ s.podTick)

/-- Whether pod time has reached the start tick of a gang member that is not placed yet (R192). -/
def State.startMissed (s : State) (c : Capsule) : Bool :=
  decide (c.stage = .placing ∧ bits c.image.flags 2 2 = 1 ∧ !c.continuation ∧ c.image.gangStart ≤ s.podTick)

/-- Whether it is the turn of a capsule that waits: everything served before it cannot be placed now, and no ORDER flag there holds
it back. (DESIGN CHOICE log 61) -/
def State.turnOf (s : State) (n : Nat) : Bool :=
  s.capsules.all fun e =>
    decide (e.2.stage ≠ .placing ∨ e.1 = n) || s.tooLate e.2 || s.startMissed e.2 || !s.servedBefore e (n, s.cap n) ||
    ((s.placementOf e.2).isNone && !e.2.order)

/-- The footprint of a capsule counted as free: what its pre-emption or end would leave (R191). -/
def State.vacate (s : State) (n : Nat) : State :=
  let c := s.cap n
  let held := s.diesHeld n
  let s := c.cores.foldl (fun acc k => State.setCore acc k { acc.core k with capsule := none }) s
  { s with worlds := s.worlds.filter fun w => held.contains w.1 || !(c.placed.any fun p => decide (p.die = w.1)) }.setCap n { c with placed := [] }

/-- Running RESEARCH capsules, latest admitted first (R191). -/
def State.victims (s : State) : List Nat :=
  let l := s.capsules.filter fun e => decide (e.2.stage = .running ∧ e.2.image.cls = 2)
  (l.mergeSort fun a b => decide (b.2.admitted ≤ a.2.admitted)).map Prod.fst

/-- The smallest number of a list's first capsules whose clusters let a capsule be placed. -/
def State.fewest (c : Capsule) : List Nat → State → Option (List Nat)
  | [], _ => none
  | v :: r, s =>
    let s := s.vacate v
    if (s.placementOf c).isSome then some [v] else (State.fewest c r s).map fun l => v :: l

/-- Pre-emption for a deadline (R191): the fewest latest RESEARCH capsules are pre-empted; those whose pre-emption is under way count
as free already, those that are being killed do not (DESIGN CHOICE log 116). -/
def State.preemptFor (s : State) (c : Capsule) : State :=
  let going := (s.capsules.filter fun e => decide (e.2.stage = .preempting)).map Prod.fst
  let soon := going.foldl State.vacate s
  if (soon.placementOf c).isSome then s
  else
    match State.fewest c s.victims soon with
    | none => s
    | some l => l.foldl (fun acc v => State.setCap acc v { acc.cap v with stage := .preempting, reached := [], answered := [] }) s

/-! ### Loading (R193 step 15) -/

/-- FOOT of a core on a footprint die (R20). -/
def State.footWord (s : State) (c : Capsule) (p : PlacedDie) : Word :=
  let map := (c.placed.zipIdx.map fun e => e.1.die * 2 ^ (2 * e.2)).foldl (· + ·) 0
  BitVec.ofNat 64
    (map * 2 ^ 48 + c.image.packages * 2 ^ 35 + c.image.dies * 2 ^ 32 + c.image.rows * 2 ^ 28 + p.cols * 2 ^ 24 +
     s.mgmt.podId * 2 ^ 12 + p.die * 2 ^ 10 + p.col * 2 ^ 6 + p.row * 2 ^ 3)

/-- The cores of a footprint die with their COORD (R11). -/
def Capsule.coordsOf (c : Capsule) (package die : Nat) (p : PlacedDie) : List (Nat × Nat) :=
  (List.range c.image.rows).flatMap fun r => (List.range p.cols).flatMap fun k => (List.range 8).map fun q =>
    (clusterAt p.die (p.col + k) (p.row + r) * 8 + q, package * 2 ^ 12 + die * 2 ^ 10 + k * 2 ^ 6 + r * 2 ^ 3 + q)

/-- Every core of the footprint with its COORD and FOOT. -/
def State.footprint (s : State) (c : Capsule) : List (Nat × Nat × Word) :=
  c.placed.zipIdx.flatMap fun e => (c.coordsOf (s.packageOf c) e.2 e.1).map fun x => (x.1, x.2, s.footWord c e.1)

/-- The readiness pairs of this package are written into their TCMs (R180, R193); a record at a column of the requested shape that the die as
placed lacks writes nothing (DESIGN CHOICE log 85). -/
def State.writePairs (s : State) (c : Capsule) : State :=
  c.image.readiness.foldl (fun acc r =>
    if bits r.location 23 12 ≠ acc.packageOf c then acc
    else
      match (acc.footprint c).find? fun x => decide (x.2.1 = r.location) with
      | none => acc
      | some x => (State.setMem64 acc (tcmKey x.1 r.offset) r.word).setMem64 (tcmKey x.1 (r.offset + 8)) r.rates) s

/-- The footprint is taken: worlds latched, on-chip memories, tags and engines at their values at admission, COORD and FOOT written, and the place
of the capsule in the order of admission is that of its placement (R191, DESIGN CHOICE log 96). -/
def State.occupy (s : State) (n : Nat) (l : List PlacedDie) : State :=
  let c := { s.cap n with placed := l }
  let latched := l.filterMap fun p => if s.worlds.contains (p.die, c.world) then none else some (p.die, c.world)
  let clusters := c.clusters
  let s :=
    { s with
      worlds := s.worlds ++ latched
      mem := s.mem.filter fun e => !c.holdsKey e.1
      tags := s.tags.filter fun e => !c.holdsKey (8 * e.1)
      poison := s.poison.filter fun l => !c.holdsKey (64 * l)
      threads := s.threads.filter fun e => !c.cores.contains (coreOf e.1)
      clusters := s.clusters.filter fun e => !clusters.contains e.1 }
  let s := s.setCap n { c with stage := .loaded, admitted := s.nextId }
  let s := s.fresh
  (s.footprint c).foldl (fun acc x =>
    State.setCore acc x.1 { (acc.core x.1).freed n with capsule := some n, coord := BitVec.ofNat 64 x.2.1, foot := x.2.2 }) s

/-! ### Start (R193 step 16) -/

/-- The entry records of this package (R180). -/
def State.entriesHere (s : State) (c : Capsule) : List EntryRec :=
  c.image.entries.filter fun e => decide (e.package = 0xFFFF ∨ e.package = s.packageOf c)

/-- The cores that an entry record names, in ascending order. -/
def Capsule.entryCores (c : Capsule) (e : EntryRec) : List (Nat × Nat) :=
  match c.clusters.head? with
  | none => []
  | some cl => ((List.range 8).filter fun q => decide (e.mask / 2 ^ q % 2 = 1)).map fun q => (cl * 8 + q, e.codelet)

/-- A capsule starts: a source-3 entry for each entry firing, and a unit of the outstanding count for each, beside those that peers' messages have
brought a gang member since it loaded (R122, R129, R131). -/
def State.start (s : State) (n : Nat) : State :=
  let c := s.cap n
  let l := (s.entriesHere c).flatMap c.entryCores
  let s := s.setCap n { c with stage := .running, started := some s.podTick, outstanding := c.outstanding + l.length }
  l.foldl (fun acc e => State.setCore acc e.1 { acc.core e.1 with ring := (acc.core e.1).ring ++ [⟨e.2, 3, 0, none⟩] }) s

/-! ### Resumption (R175, R195, R209) -/

/-- How what was saved moves to a new placement: the cores of the old and the new one in footprint order, their dies, the number of
the continuation, and a base that keeps the identities it brings apart from every one in use. -/
structure Move where
  old : List Nat
  new : List Nat
  oldDies : List PlacedDie
  newDies : List PlacedDie
  capsule : Nat
  base : Nat

/-- The new core of an old one. -/
def Move.core (m : Move) (c : Nat) : Nat := m.new.getD (m.old.idxOf c) c
/-- The new cluster of an old one. -/
def Move.cluster (m : Move) (cl : Nat) : Nat := clusterOf (m.core (cl * 8))
/-- The new thread of an old one. -/
def Move.thread (m : Move) (t : Nat) : Nat := m.core (coreOf t) * 4 + roleOf t
/-- A fresh identity for an old one. -/
def Move.fresh (m : Move) (i : Nat) : Nat := if i = 0 then 0 else m.base + i
/-- A memory key in the new placement. -/
def Move.key (m : Move) (k : Nat) : Nat :=
  if k < 2 ^ 44 then k
  else if k < 2 ^ 45 then tcmKey (m.core ((k - 2 ^ 44) / 2 ^ 18)) ((k - 2 ^ 44) % 2 ^ 18)
  else if k < 2 ^ 46 then spadKey (m.cluster ((k - 2 ^ 45) / 2 ^ 22)) ((k - 2 ^ 45) % 2 ^ 22)
  else if k < 2 ^ 47 then
    let die := (k - 2 ^ 46) / 2 ^ 44
    match (m.oldDies.zip m.newDies).find? fun e => decide (e.1.die = die) with
    | some e => dsramKey e.2.die (e.2.sram + ((k - 2 ^ 46) % 2 ^ 44 - e.1.sram))
    | none => k
  else accKey (m.cluster ((k - 2 ^ 47) / 2 ^ 19)) ((k - 2 ^ 47) % 2 ^ 19)

/-- A message in the new placement. -/
def Move.msg (m : Move) (x : Msg) : Msg :=
  { x with
    capsule := m.capsule
    target := if x.target < coreCount then m.core x.target else x.target
    sender := m.core x.sender
    firing := m.fresh x.firing
    request := m.fresh x.request
    serial := m.fresh x.serial
    key := m.key x.key }
/-- A ready entry. -/
def Move.entry (m : Move) (e : Entry) : Entry := { e with message := e.message.map m.msg }
/-- A core's queues, on the new core x. -/
def Move.coreState (m : Move) (x c : Core) : Core :=
  { c with
    capsule := x.capsule
    coord := x.coord
    foot := x.foot
    haltGroup := x.haltGroup
    halted := x.halted
    inbox := x.inbox ++ c.inbox.map m.msg
    ring := c.ring.map m.entry
    waiting := c.waiting.map m.entry
    forwarding := []
    slots := c.slots.map fun s => { s with thread := m.thread s.thread } }
/-- A cluster's engines; the arbiter starts anew (R250). -/
def Move.clusterState (m : Move) (k : Cluster) : Cluster :=
  { k with
    cur := 7
    credit := 0
    openTiles := k.openTiles.map fun o => { o with core := m.core o.core }
    copies := k.copies.map fun x =>
      { x with thread := m.thread x.thread, firing := m.fresh x.firing, request := m.fresh x.request, done := x.done.map m.key }
    setterOps := k.setterOps.map fun x => { x with thread := m.thread x.thread, firing := m.fresh x.firing, request := m.fresh x.request } }
/-- A late result of a firing that a ready entry or a message carries. -/
def Move.load (m : Move) (x : LoadReply) : LoadReply := { x with core := m.core x.core, firing := m.fresh x.firing, request := m.fresh x.request }

/-- A block transfer, sent again (R265). -/
def Move.transfer (m : Move) (x : Transfer) : Transfer :=
  { x with
    capsule := m.capsule
    thread := m.thread x.thread
    firing := m.fresh x.firing
    request := m.fresh x.request
    engine := engineOf (clusterOf (m.core (coreOf x.thread)))
    stage := 0
    ticket := 0
    hint := 0
    done := x.done.map m.key }

/-- n bytes of memory are copied from a key to another; the lines written whole lose their poison (R213). -/
def State.copyIn (s : State) (dst src n : Nat) : State :=
  { s with mem := smerge unlisted dst (sclear dst n s.mem) (sslice src n s.mem) }.clearPoison dst n

/-- The memories of the new placement from the record at a key (R207): the user regions, scratchpads, accumulator memories and
die-SRAM slices. -/
def State.restoreMemory (s : State) (c : Capsule) (k : Nat) : State :=
  let n := c.clusters.length
  let z := c.image.dsramKib * 1024
  let s := c.coordClusters.zipIdx.foldl (fun acc e =>
    let o := k + 0x60000 * n + 0x6A0000 * e.2
    let acc := (List.range 8).foldl (fun acc q => State.copyIn acc (tcmKey (e.1 * 8 + q) 0) (o + 0x40000 * q) 0x39800) acc
    (acc.copyIn (spadKey e.1 0) (o + 0x200000) 0x400000).copyIn (accKey e.1 0) (o + 0x610000) 0x80000) s
  c.placed.zipIdx.foldl (fun acc p => State.copyIn acc (dsramKey p.1.die p.1.sram) (k + 0x700000 * n + z * p.2) z) s

/-- A saved context goes on the ring of its core as a source-2 entry, or waits there for room; a delegated routine goes back to S (R175,
R206). -/
def State.appendContext (s : State) (m : Move) (x : Saved) : State :=
  let core := m.core (coreOf x.thread)
  let msg := { m.msg (s.savedMsg x) with capsule := m.capsule, target := core, sender := core }
  let c := s.core core
  if roleOf x.thread = 3 then
    let t := s.thr (m.thread x.thread)
    let firing := m.fresh x.context.firing
    let pending := s.owedPending firing ((List.range 64).filter fun r => x.context.pending.any fun p => decide (p.reg = .g r))
    let requests := s.owedReplies firing
    s.setThr (m.thread x.thread)
      { x.context with firing, pending, shadow := t.shadow, issued := t.issued, handling := x.context.handling.map m.msg,
                       live := true, wait := .nothing, requests }
  else
    let e : Entry := ⟨0xFFFF, 2, 0, some { msg with origin := s.originOf (m.thread x.thread) }⟩
    if c.ring.length < 256 ∧ c.waiting = [] then s.setCore core { c with ring := c.ring ++ [e] }
    else s.setCore core { c with waiting := c.waiting ++ [e] }

/-- The snapshot that a record's MAC names, among the capsules of its ID on this package (DESIGN CHOICE log 33). -/
def State.snapshotFor (s : State) (id : Word) (tag : Nat) : Option Snapshot :=
  s.capsules.findSome? fun e =>
    if e.2.id = id then e.2.snap.bind fun x => if x.tag = tag then some x else none else none

/-- The continuation takes up what was saved, in the order of R209: memories, tags and engine states; the pending appends; the spilled
messages; the contexts. -/
def State.restore (s : State) (n : Nat) (x : Snapshot) (k : Nat) : State :=
  let c := s.cap n
  let old : Capsule := { c with placed := x.placed }
  let m : Move := ⟨old.cores, c.cores, x.placed, c.placed, n, s.nextId⟩
  let s := s.restoreMemory c k
  let s := { s with
    nextId := 2 * s.nextId
    tags := x.tags.foldl (fun t e => sset false t (m.key (8 * e.1) / 8) e.2) s.tags
    net := s.net ++ x.net.map m.msg
    loads := s.loads ++ x.loads.map m.load
    transfers := s.transfers ++ x.transfers.map m.transfer }
  let s := x.cores.foldl (fun acc e => State.setCore acc (m.core e.1) (m.coreState (acc.core (m.core e.1)) e.2)) s
  let s := x.clusters.foldl (fun acc e => State.setCluster acc (m.cluster e.1) (m.clusterState e.2)) s
  let s := x.threads.foldl (fun acc e =>
    State.setThr acc (m.thread e.1) { Thread.reset with shadow := e.2.shadow, issued := e.2.issued }) s
  let s := x.saved.foldl (fun acc e => State.appendContext acc m e) s
  s.setCap n { s.cap n with
    barriers := x.barriers, faultFirings := x.faultFirings, dropped := x.dropped, home := x.home, stage := .running,
    started := some s.podTick }

/-! ### PLACEMENT -/

/-- A placed continuation loads (R195): its record must be readable, else it is refused with code 1 (DESIGN CHOICE log 94), and its MAC must still
verify as it is read, else it is refused with code 16 and leaves nothing. -/
def State.resume (s : State) (n : Nat) (l : List PlacedDie) : State :=
  let c := s.cap n
  match s.recordHead c with
  | none => s.refuse n c.id 1 0xFFFFFFFF
  | some (_, k) =>
    let tail := c.recordLength - 4096
    if s.poisoned k c.recordLength then (s.logForgery k c.recordLength).refuse n c.id 1 0xFFFFFFFF
    else
    match s.snapshotFor c.id (s.bytes (k + tail) 64) with
    | none => s.refuse n c.id 16 0xFFFFFFFF
    | some x => if s.recordVerifies c.digest k tail then (s.occupy n l).restore n x k else s.refuse n c.id 16 0xFFFFFFFF

/-- A placed capsule loads, and starts unless it is a gang, which waits for its start tick (R192, R193). -/
def State.load (s : State) (n : Nat) (l : List PlacedDie) : State :=
  let s := s.occupy n l
  let s := s.writePairs (s.cap n)
  if bits (s.cap n).image.flags 2 2 = 1 then s else s.start n

/-- Whether a gang capsule waits on a package that has lost its PTP lock (R228). -/
def State.unlocked (s : State) (c : Capsule) : Bool := decide (bits c.image.flags 2 2 = 1) && !s.mgmt.locked

/-- PLACEMENT (R190): A waiting capsule is placed, loaded and started once clusters and SRAM allow; a DEADLINE capsule that cannot be
placed pre-empts (R191), and a gang is refused with code 15 while the package is unlocked (R228). -/
def execPlacement (capsule : Nat) (s : State) : Result :=
  let c := s.cap capsule
  if c.stage ≠ .placing ∨ s.tooLate c ∨ s.startMissed c then .next s
  else if s.unlocked c then .next (s.refuse capsule c.id 15 0xFFFFFFFF)
  else if !s.turnOf capsule then .next s
  else
    match s.placementOf c with
    | some l => .next (if c.continuation then s.resume capsule l else s.load capsule l)
    | none => .next (if c.image.cls = 0 then s.preemptFor c else s)

/-- MISSED_DEADLINE (R191): An unplaced capsule reaches its deadline tick and is refused with code 14: a DEADLINE capsule, or a continuation
with a deadline tick. -/
def execMissedDeadline (capsule : Nat) (s : State) : Result :=
  let c := s.cap capsule
  if s.tooLate c then
    .next (s.refuse capsule c.id 14 0xFFFFFFFF)
  else .next s

/-! ### Gangs (R192) -/

/-- READY_NOTICE (R192): A placed gang member's ready notice reaches footprint package 0. A member of another package sends its own, which it
cannot where its pod table lacks package 0 (R229); on package 0 it is noted, a peer's also while package 0 has not loaded its own part yet. -/
def execReadyNotice (capsule package : Nat) (s : State) : Result :=
  let c := s.cap capsule
  let own := decide (package = s.packageOf c)
  let ready := decide (c.stage = .loaded) || (!own && decide (c.stage = .placing))
  if !ready ∨ c.image.packages ≤ package ∨ c.notices.contains package then .next s
  else if s.packageOf c = 0 then .next (s.setCap capsule { c with notices := package :: c.notices })
  else if package = s.packageOf c ∧ s.reaches (c.podOf 0) then
    .next ((s.setCap capsule { c with notices := [package] }).toPod (c.podOf 0) 5 (toBytes 64 c.digest))
  else .next s

/-- GO (R192): At the start tick minus 20 us package 0 sends GO when it holds every notice. On another member, GO arrives. -/
def execGo (capsule : Nat) (s : State) : Result :=
  let c := s.cap capsule
  if c.stage ≠ .loaded ∨ c.go then .next s
  else if s.packageOf c ≠ 0 then .next (s.setCap capsule { c with go := true })
  else if c.notices.length = c.image.packages ∧ s.podTick ≤ c.image.gangStart - 20000 then
    .next ((s.toMembers c 6 (toBytes 64 c.digest)).setCap capsule { c with go := true })
  else .next s

/-- GANG_START (R192): At the start tick a member starts its entry firings, or kills the gang if it holds no GO, with refusal code 15. A member
that is not placed yet holds no GO: it is refused, and the kill goes to the others (R193 step 14). -/
def execGangStart (capsule : Nat) (s : State) : Result :=
  let c := s.cap capsule
  if s.startMissed c then .next ((s.toMembers c 4 (toBytes 8 c.id.toNat ++ toBytes 4 causeKilled)).refuse capsule c.id 15 0xFFFFFFFF)
  else if c.stage ≠ .loaded ∨ s.podTick < c.image.gangStart then .next s
  else if c.go then .next (s.start capsule)
  else .next ((s.refusal c.owner c c.id causeQueue 15 c.queue 0xFFFFFFFF).killFor capsule causeKilled)

end Sys2Proof.Machine
end

