-- ==== Sys2Proof/Machine/Preempt.lean ====
section
/-! DEFINITION. Pre-emption (R175, R206 to R210): the interrupt at a core, the resume record, and the publication of the
continuation. -/

namespace Sys2Proof.Machine

/-! ### The interrupt -/

/-- Whether a request of a thread is one that pre-emption leaves owed: the REPLY of a dlg, whose message is on its way, in an
inbox, or with an S that runs or was saved, or the token of an engine operation (R128). -/
def State.mayBeOwed (s : State) (t : Thread) (id : Nat) : Bool :=
  let mine := fun (firing request : Nat) => decide (firing = t.firing ∧ request = id)
  let dlg := fun (m : Msg) => mine m.firing m.request && decide (m.kind = 2)
  (s.net.any dlg) ||
  (s.cores.any fun e => e.2.inbox.any dlg) ||
  (s.threads.any fun e => e.2.handling.any dlg) ||
  (s.capsules.any fun e => e.2.saved.any fun x => x.context.handling.any dlg) ||
  (s.transfers.any fun x => mine x.firing x.request) ||
  (s.clusters.any fun e => (e.2.copies.any fun x => mine x.firing x.request) || e.2.setterOps.any fun x => mine x.firing x.request)

/-- Whether a message on its way can not move any more while its capsule is pre-empted: a REPLY to a firing that is saved or carried, a context, a
TASK held behind another message, and one to a core of the footprint that has no room for it. -/
def State.stands (s : State) (m : Msg) : Bool :=
  if m.bounce ∨ coreCount ≤ m.target then false
  else if m.kind = 4 then decide (m.request ≠ 0) && (s.threadOf m.firing).isNone && s.away m.firing
  else if m.kind = 1 then decide (fieldB m.body 2 2 = 0xFFFF) || s.heldBehind m || s.atomicBefore m.firing m.serial
  else (s.cap m.capsule).cores.contains m.target && decide ((s.arriveAt m.target).net.length = s.net.length)

/-- Whether no message of a capsule can move any more while it is pre-empted. What waits so is spilled (R209, R301). -/
def State.messagesStand (s : State) (n : Nat) : Bool :=
  (s.cores.all fun e => e.2.inbox.all fun m => decide (m.kind ≠ 0 ∨ m.capsule ≠ n)) &&
  s.net.all fun m => decide (m.capsule ≠ n) || s.stands m

/-- Whether a HANDLE message of a capsule is still to be served. -/
def State.handlesLeft (s : State) (n : Nat) : Bool :=
  (s.net ++ s.cores.flatMap fun e => e.2.inbox).any fun m => decide (m.capsule = n ∧ m.kind = 0)

/-- Whether a live thread stands at a boundary where PREEMPT is taken (R40, R128, R172, R175): no window open, no trap in progress, its
stores performed, and every other late result written, one to g0 among them. A request whose message finds no room for good stays owed
(DESIGN CHOICE log 99). -/
def State.atBoundary (s : State) (n : Nat) (t : Thread) : Bool :=
  let owed := fun (id : Nat) => s.mayBeOwed t id || ((t.requests.any fun r => decide (r.1 = id)) && s.messagesStand n)
  !t.live ||
  (decide (t.window = 0) && decide (t.mode = .capsule) && decide (t.unacked = 0) && (t.pending.all fun p => owed p.id) &&
   (t.requests.all fun r => owed r.1) &&
   (s.loads.all fun l => decide (l.firing ≠ t.firing)) && s.net.all fun m => decide (m.kind ≠ 4 ∨ m.firing ≠ t.firing))

/-- The thread's firing is saved and leaves it; its waiting instruction issues again at resumption. -/
def State.saveThread (s : State) (n t : Nat) : State :=
  let x := s.thr t
  if !x.live then s
  else
    let s := s.setCap n { s.cap n with saved := (s.cap n).saved ++ [⟨t, { x with wait := .nothing }⟩] }
    (s.withdraw fun r => decide (r = t)).setThr t x.ended

/-- Contexts that wait for room on the ring are firings not yet taken from it: they are saved again as they came (R175, R209). -/
def State.saveWaiting (s : State) (n core : Nat) : State :=
  let c := s.core core
  let again := c.waiting.filterMap fun e => e.message.map fun m =>
    (⟨core * 4 + bits m.origin.toNat 25 24, s.entryThread n core (core * 4) e (0, 0)⟩ : Saved)
  (s.setCore core { c with waiting := c.waiting.filter fun e => decide (e.source = 0) }).setCap n
    { s.cap n with saved := (s.cap n).saved ++ again }

/-- The core leaves its halt group, if it is halted (R209). -/
def State.unhalt (s : State) (core : Nat) : State :=
  let k := s.core core
  if k.halted then s.setCore core { k with halted := false, haltGroup := none } else s

/-- PREEMPT reaches a core (R175): from now on each of its threads stops at its own first window-free boundary; a waiting tag request leaves its
queue, its instruction not completed (R151); and a halted core leaves its halt group, its halt boundary serving as the core's boundary (R209). -/
def State.interrupt (s : State) (core : Nat) : State :=
  let n := s.capOf core
  let s := s.unhalt core
  if (s.cap n).reached.contains core then s
  else (s.withdraw fun t => decide (coreOf t = core)).setCap n { s.cap n with reached := core :: (s.cap n).reached }

/-- The firings of a core that stand at a boundary are saved, each by itself (R175). -/
def State.saveThreads (s : State) (n core : Nat) : State :=
  [core * 4, core * 4 + 1, core * 4 + 3].foldl (fun acc t => if acc.atBoundary n (acc.thr t) then acc.saveThread n t else acc) s

/-- Whether a task thread or S of a core holds a firing that is not saved. -/
def State.unsaved (s : State) (core : Nat) : Bool := [core * 4, core * 4 + 1, core * 4 + 3].any fun t => (s.thr t).live

/-- PREEMPT_INTERRUPT (R175): A core takes PREEMPT at each thread's first window-free boundary and saves each live firing. A thread that still waits
there for what the firing is owed, or for its trap's handler, which goes first, is saved once it has it, and issues nothing before (R128). The core
answers when every firing is saved and H stands between two handlers; a handler that waits to append ends at once, its entry the pending append, and the
entry of every accepted message is on the ring already (R209). (DESIGN CHOICE log 62) -/
def execPreemptInterrupt (core : Nat) (s : State) : Result :=
  let n := s.capOf core
  let c := s.cap n
  if c.stage ≠ .preempting ∨ c.answered.contains core then .next s
  else
    let s := (s.interrupt core).saveThreads n core
    let s := if s.appends core then s.freeH core else s
    if s.midInline core || s.unsaved core then .next s
    else
      let s := s.saveWaiting n core
      .next (s.setCap n { s.cap n with answered := core :: (s.cap n).answered })

/-! ### The resume record -/

/-- Whether the work of a capsule that must end before its record is written has ended (R175 step 2, R209, R258): every core has
answered, every entry reserved for a message is appended, no store, multicast or report is on its way, nor a late result of a firing that runs
here or has left, no drain runs and no TCW or copy waits to complete, and no HANDLE message is left but those that find no room. -/
def State.recordReady (s : State) (n : Nat) : Bool :=
  let c := s.cap n
  let cores := c.cores
  (cores.all fun x => c.answered.contains x && !(s.thr (hThread x)).live && decide ((s.core x).unacked = 0) &&
    (s.core x).waiting.all (fun e => decide (e.source = 0))) &&
  (s.cores.all fun e => cores.contains e.1 || e.2.inbox.all fun m => decide (m.capsule ≠ n)) &&
  (s.stores.all fun e => !cores.contains e.2) && (s.peerLoads.all fun l => decide (l.capsule ≠ n)) &&
  (s.loads.all fun l => !cores.contains l.core || (s.away l.firing && (s.departed l.firing).isNone)) &&
  (s.mcsts.all fun m => decide (m.capsule ≠ n)) && (s.reports.all fun r => decide (r.capsule ≠ n)) &&
  (cores.all fun x => (s.core x).slots.all fun y => decide (y.state ≠ .drain ∧ y.state ≠ .finished)) &&
  (c.clusters.all fun cl => (s.cluster cl).drain.isNone && (s.cluster cl).copies.all fun x => !x.moved) &&
  (s.net.all fun m => decide (m.capsule ≠ n ∨ m.target < coreCount)) && (s.messagesStand n || !s.handlesLeft n)

/-- The late results of firings that a ready entry or a message carries: what they are owed stays with them (R128). -/
def State.carriedLoads (s : State) (n : Nat) : List LoadReply := s.loads.filter fun l => (s.cap n).cores.contains l.core

/-- What the record's bytes do not name (DESIGN CHOICE log 33). -/
def State.snapshot (s : State) (n tag : Nat) : Snapshot :=
  let c := s.cap n
  let cores := c.cores
  { tag
    placed := c.placed
    cores := (s.cores.filter fun e => cores.contains e.1).map fun e =>
      (e.1, { e.2 with inbox := e.2.inbox.filter fun m => decide (m.capsule = n) })
    clusters := s.clusters.filter fun e => c.clusters.contains e.1
    threads := s.threads.filter fun e => cores.contains (coreOf e.1)
    saved := c.savedOrder
    net := s.net.filter fun m => decide (m.capsule = n)
    loads := s.carriedLoads n
    transfers := s.transfers.filter fun t => decide (t.capsule = n)
    tags := s.tags.filter fun e => c.holdsKey (8 * e.1)
    barriers := c.barriers
    outstanding := c.outstanding
    faultFirings := c.faultFirings
    dropped := c.dropped
    home := c.home }

/-- RESUME_RECORD_WRITE (R206): Once saved stores are performed, the resume record, spill area and MAC are written and the clusters
freed. -/
def execResumeRecordWrite (capsule : Nat) (s : State) : Result :=
  let c := s.cap capsule
  if c.stage ≠ .preempting ∨ !s.recordReady capsule then .next s
  else
    let r := (s.writeSpill capsule c).writeRecord c
    let snap := r.1.snapshot capsule r.2
    let s := r.1.wipe capsule
    .next (s.setCap capsule { s.cap capsule with stage := .saved, snap := some snap, recordLength := c.recordLen })

/-! ### Publication (R210) -/

/-- The CAPSULE entry of a continuation (R157, R175): its flags and its sequence number are 0 (DESIGN CHOICE log 83). -/
def State.continuationEntry (s : State) (c : Capsule) : List Byte :=
  toBytes 1 1 ++ toBytes 1 0 ++ toBytes 2 0 ++ toBytes 4 24 ++ toBytes 8 (s.resumeVaOf c) ++ toBytes 8 c.recordLength

/-- The home queue cannot take the continuation (R198): a record of code 18, and the entry is complete. -/
def State.unpublished (s : State) (n : Nat) : State :=
  let c := s.cap n
  let s := s.refusal c.image.owner c c.id causeQueue 18 c.home 0xFFFFFFFF
  (s.setCap n { c with stage := .ended }).closeEntries n

/-- An attempt to publish under the lock, the queue's last timeline (R210): a held lock, a full ring, a write index that no slot has (DESIGN CHOICE
log 111), or a lock or control block that cannot be read (DESIGN CHOICE log 94) leaves it for a later attempt. The bytes of
the slot behind the entry's 24 stay as they were (DESIGN CHOICE log 83). -/
def State.publish (s : State) (n : Nat) : State :=
  let c := s.cap n
  match s.queue? c.home with
  | none => s.unpublished n
  | some q =>
    if q.desc.owner ≠ c.image.owner then s.unpublished n
    else
      let lock := timelineKey q.desc (q.desc.timelineCount - 1)
      let w := s.control q 0x00
      let next := (w + 1) % q.desc.slots
      let control := handleKey q.desc.control
      if s.poisoned lock 8 ∨ s.poisoned control 32 then
        State.setCap ((s.logForgery lock 8).logForgery control 32) n { c with stage := .publishing, started := some s.podTick }
      else if s.mem64 lock ≠ 0 ∨ next = s.control q 0x04 ∨ q.desc.slots ≤ w then
        s.setCap n { c with stage := .publishing, started := some s.podTick }
      else
        let k := handleKey q.desc.slotsBase + 64 * w
        let s := (s.ownWrite k (s.continuationEntry c)).setControl q 0x00 next
        s.setCap n { c with stage := .ended, started := none, published := some (c.home, w) }

/-- CONTINUATION_PUBLISH (R210): Firmware takes the publish lock and publishes the continuation entry in the home queue. -/
def execContinuationPublish (capsule : Nat) (s : State) : Result :=
  if (s.cap capsule).stage = .saved then .next (s.publish capsule) else .next s

/-- PUBLISH_RETRY (R210): Firmware retries the publish lock after 1 us. -/
def execPublishRetry (capsule : Nat) (s : State) : Result :=
  let c := s.cap capsule
  let due := match c.started with
    | some t => decide (t + 1000 ≤ s.podTick)
    | none => true
  if decide (c.stage = .publishing) && due then .next (s.publish capsule) else .next s

end Sys2Proof.Machine
end

