-- ==== Sys2Proof/Machine/Host.lean ====
section
/-! DEFINITION. What hosts do to the device over Ultra Ethernet (R171, R218 to R227, R229, R234, R235, R238, R239): RMA operations
on windows, and the commands of the management endpoint. -/

namespace Sys2Proof.Machine

/-! ### RMA (R171, R218 to R220) -/

/-- Completions of an RMA operation: done, remote operation error, remote access error, remote error. -/
def rmaDone : Nat := 0
def rmaOperationError : Nat := 1
def rmaAccessError : Nat := 2
def rmaRemoteError : Nat := 3

/-- The completion of a host's operation. -/
def State.rmaReply (s : State) (host status : Nat) (data : List Byte) : State :=
  { s with outbox := s.outbox ++ [.rma host status data] }

/-- The owner host at this pod time (R224): none once the one elected has sent no keepalive for 5 s. -/
def State.ownerNow (s : State) : Option Word := if s.mgmt.lastKeepalive + 5000000000 ≤ s.podTick then none else s.mgmt.owner

/-- Whether a host is the owner (R223). -/
def State.isOwner (s : State) (host : Nat) : Bool := decide (s.ownerNow = some (BitVec.ofNat 64 host))

/-- The window with this number (R220). -/
def State.window? (s : State) (n : Nat) : Option WindowDesc := s.windows.find? fun w => decide (w.number = n)

/-- The world of a key of the table; 0 for none. -/
def State.worldOf (s : State) (key : Nat) : Nat := ((s.key? key).map fun k => k.desc.world).getD 0

/-- Whether a window may reach a byte: a die of a protected world is reached by a key of that world alone (R236). A die of world 0 is reached by
every key (DESIGN CHOICE log 107). -/
def State.windowWorld (s : State) (w : WindowDesc) (key : Nat) : Bool :=
  decide (2 ^ 38 ≤ key) || s.worlds.all fun e => decide (e.1 ≠ key / 2 ^ 36 ∨ e.2 = 0 ∨ e.2 = s.worldOf w.key)

/-- The key of n bytes at an offset of a window that an operation may use; none is a remote access error (R219, R220, R236). -/
def State.windowKey (s : State) (host window offset n need : Nat) (write : Bool) : Option Nat :=
  match s.window? window with
  | none => none
  | some w =>
    let k := handleKey w.handle + offset
    if !(s.isOwner host || (!write && decide (bits w.rights 6 6 = 1))) then none
    else if w.length < offset + n || !hasRights w.rights need then none
    else if !s.windowWorld w k || (write && s.codeLocked k n) then none
    else some k

/-- Whether an operation can arrive: some Ultra Ethernet port has trained (R218, R231). -/
def State.reachable (s : State) : Bool := !s.mgmt.ports.isEmpty

/-- RMA_READ (R219): A host RMA read of a window; a poisoned line completes with a remote error (R213). -/
def execRmaRead (host window offset length : Nat) (s : State) : Result :=
  if !s.reachable then .next s
  else
    match s.windowKey host window offset length rightR false with
    | none => .next (s.rmaReply host rmaAccessError [])
    | some k =>
      if s.poisoned k length then .next ((s.logForgery k length).rmaReply host rmaRemoteError [])
      else .next (s.rmaReply host rmaDone (s.byteList k length))

/-- RMA_WRITE (R219): An owner host RMA write to a window; a write to a write-locked code range is refused (R187), and one to a failed CXL set
completes with a remote error (R230). -/
def execRmaWrite (host window offset : Nat) (data : List Byte) (s : State) : Result :=
  if !s.reachable then .next s
  else
    match s.windowKey host window offset data.length rightW true with
    | none => .next (s.rmaReply host rmaAccessError [])
    | some k =>
      if s.writeFails (.here k none) then .next (s.rmaReply host rmaRemoteError [])
      else .next (((s.setByteList k data).touched k data.length).rmaReply host rmaDone [])

/-! ### Host atomics (R171) -/

/-- The write of a port's atomic unit, and the completion of its operation. Where the dword has become write-locked code since the unit read it,
it is refused as the port refuses every write there (R187); where its CXL set has failed since, it ends in a remote error (R213, R230). -/
def State.portWrite (s : State) (p : PortOp) : State :=
  if p.value.isSome && s.codeLocked p.key 8 then s.rmaReply p.host rmaAccessError []
  else if p.value.isSome && s.writeFails (.here p.key none) then s.rmaReply p.host rmaRemoteError []
  else
    let s := match p.value with
      | some v => (s.setMem64 p.key v).touched p.key 8
      | none => s
    s.rmaReply p.host rmaDone (toBytes 8 p.old.toNat)

/-- A step passes for the ports' atomic units: the operations that are due write, in order, and the others wait on. -/
def State.portWrites (s : State) : State :=
  let due := s.portOps.filter fun p => decide (p.left = 0)
  let rest := (s.portOps.filter fun p => decide (p.left ≠ 0)).map fun p => { p with left := p.left - 1 }
  due.foldl State.portWrite { s with portOps := rest }

/-- The operations of a port on a dword that have yet to write do so now: they are indivisible with respect to the next one. -/
def State.portSettle (s : State) (port key : Nat) : State :=
  let mine := fun (p : PortOp) => decide (p.port = port ∧ p.key = key)
  (s.portOps.filter mine).foldl State.portWrite { s with portOps := s.portOps.filter fun p => !mine p }

/-- A host atomic on a window with A: with SA as a HANDLE message to the home core, as an amo or cas; without SA as a read by the
port's atomic unit, whose write follows after a free number of steps (R171, DESIGN CHOICE log 35). `code` and `fn` are those of R135,
`value` is what the unit writes for the value it read. -/
def State.hostAtomic (s : State) (port host window offset code fn : Nat) (op1 op2 : Word) (value : Word → Option Word) : Result :=
  if !s.mgmt.ports.contains port then .next s
  else if offset % 8 ≠ 0 then .next (s.rmaReply host rmaAccessError [])
  else
    match s.windowKey host window offset 8 rightA true with
    | none => .next (s.rmaReply host rmaAccessError [])
    | some k =>
      if hasRights (((s.window? window).map WindowDesc.rights).getD 0) rightSA then
        .next (s.send
          { kind := 0, words := [], origin := 0x3FFFFFF, reply := 0, body := opPayload code fn 8 0 0 op1 op2 0, capsule := 0,
            target := homeOfKey k, firing := 0, sender := coreCount, code := 0, request := host + 1, number := 0, bounce := false,
            serial := 0, key := k })
      else
        let s := s.portSettle port k
        if s.poisoned k 8 then .next ((s.logForgery k 8).rmaReply host rmaRemoteError [])
        else
          let old := s.mem64 k
          .next { s with portOps := s.portOps ++ [⟨port, host, k, old, value old, Config.freeCycles s.steps⟩] }

/-- FETCH_ADD (R171): An owner host 64-bit fetch-add on a window with A. -/
def execFetchAdd (port host window offset : Nat) (value : Word) (s : State) : Result :=
  s.hostAtomic port host window offset 0x30 0 value 0 fun old => some (old + value)

/-- SWAP (R171): An owner host 64-bit swap on a window with A. -/
def execSwap (port host window offset : Nat) (value : Word) (s : State) : Result :=
  s.hostAtomic port host window offset 0x30 6 value 0 fun _ => some value

/-- COMPARE_SWAP (R171): An owner host 64-bit compare-swap on a window with A. -/
def execCompareSwap (port host window offset : Nat) (compare value : Word) (s : State) : Result :=
  s.hostAtomic port host window offset 0x32 0 compare value fun old => if old = compare then some value else none

/-- UNSUPPORTED_UET_REQUEST (R218): A request for an unsupported delivery service or operation is answered with a remote operation
error and has no effect. -/
def execUnsupportedUetRequest (host : Nat) (s : State) : Result :=
  if !s.reachable then .next s else .next { s with outbox := s.outbox ++ [.unsupported host] }

/-! ### Management (R221, R222) -/

/-- Status codes of a response (R221). -/
def stDone : Nat := 0
def stNotOwner : Nat := 1
def stMalformed : Nat := 2
def stAuth : Nat := 3
def stNoResource : Nat := 4
def stRefused : Nat := 5

/-- The session key of a host (R223). -/
def Mgmt.sessionKey (m : Mgmt) (host : Word) : Option Nat := (m.sessionKeys.find? fun e => decide (e.1 = host)).map Prod.snd

/-- The bytes of a management response before its tag (R221): its header and its body. -/
def responseBytes (host : Word) (sequence command status : Nat) (body : List Byte) : List Byte :=
  toBytes 2 command ++ toBytes 2 status ++ toBytes 4 sequence ++ toBytes 8 host.toNat ++ toBytes 4 body.length ++ toBytes 4 0 ++ body

/-- A response of the device, with its tag under the host's session key (R221). -/
def State.mgmtResponse (s : State) (host : Word) (sequence code status : Nat) (body : List Byte) : Response :=
  .management host sequence code status body (Config.responseTag (s.mgmt.sessionKey host) (responseBytes host sequence code status body))

/-- The response to a command (R221). -/
def State.respond (s : State) (h : MgmtHeader) (code status : Nat) (body : List Byte) : State :=
  { s with outbox := s.outbox ++ [s.mgmtResponse h.host h.sequence code status body] }

/-- Whether a request's header has the values of R221. -/
def requestOk (h : MgmtHeader) : Bool := decide (h.status = 0 ∧ h.bodyLength ≤ 4016 ∧ h.reserved = 0)

/-- Whether the sender of a command holds a session and its tag verifies under the session's key (R221, R223). -/
def State.authentic (s : State) (h : MgmtHeader) (code : Nat) (fields : List Nat) : Bool :=
  s.mgmt.sessions.contains h.host &&
  (match s.mgmt.sessionKey h.host with
   | some k => Config.tagVerifies k h.host code h.sequence h.bodyLength fields h.tag
   | none => false)

/-- What the device does with a command whose header may be malformed (R221): at stage 1 nothing answers (R231). A malformed header is
answered before the tag is looked at (DESIGN CHOICE log 86). -/
def State.received (s : State) (h : MgmtHeader) (code : Nat) (f : State → State) : Result :=
  if s.mgmt.stage ≤ 1 then .next s else if !requestOk h then .next (s.respond h code stMalformed []) else .next (f s)

/-- A command of any host with a session (R221, R222); a tag that fails has no effect. -/
def State.command (s : State) (h : MgmtHeader) (code : Nat) (fields : List Nat) (body : State → State) : Result :=
  s.received h code fun s => if !s.authentic h code fields then s.respond h code stAuth [] else body s

/-- A command of the owner (R222): status 1 for any other host. (DESIGN CHOICE log 42) -/
def State.ownerCommand (s : State) (h : MgmtHeader) (code : Nat) (fields : List Nat) (body : State → State) : Result :=
  s.command h code fields fun s => if s.ownerNow = some h.host then body s else s.respond h code stNotOwner []

/-- The numbers of a list of bytes, for a tag. -/
def bytesOf (l : List Byte) : List Nat := l.map fun b => b.toNat
/-- The numbers of a physical range. -/
def rangeNumbers (r : PhysRange) : List Nat := [r.handle.toNat, r.length, r.rights]
/-- The numbers of a limit that may be left out. -/
def limitNumbers : Option Nat → List Nat
  | none => [0]
  | some l => [1, l]
/-- The numbers of a key. -/
def keyNumbers (k : KeyDesc) : List Nat :=
  [k.id, k.world, k.guilt, k.runLimit, k.grants.length, k.shares.length] ++ limitNumbers k.limit ++ k.grants.flatMap rangeNumbers ++
  k.shares.flatMap rangeNumbers ++ bytesOf k.publicKey
/-- The numbers of an extent. -/
def extentNumbers (e : Extent) : List Nat := [e.vaBase, e.length, e.handle.toNat, e.rights, e.flags]
/-- The numbers of a queue descriptor. -/
def queueNumbers (q : QueueDesc) : List Nat :=
  [q.number, q.owner, q.control.toNat, q.slotsBase.toNat, q.slots, q.timelines.toNat, q.timelineCount] ++ q.mapping.flatMap extentNumbers
/-- The numbers of a window. -/
def windowNumbers (w : WindowDesc) : List Nat := [w.number, w.key, w.handle.toNat, w.length, w.rights]
/-- The numbers of a halt group's setting. -/
def haltNumbers (g : HaltDesc) : List Nat :=
  [g.group, if g.armed then 1 else 0, if g.haltOnFault then 1 else 0] ++ g.members

/-- Whether a number is a power of two between two bounds. -/
def powerIn (lo hi n : Nat) : Bool := decide (lo ≤ n ∧ n ≤ hi) && (List.range 13).any fun i => decide (n = 2 ^ i)

/-- UNKNOWN_MANAGEMENT_COMMAND (R222): A management send that carries an unassigned command code is answered with status 2. -/
def execUnknownManagementCommand (h : MgmtHeader) (code : Nat) (s : State) : Result :=
  s.received h code fun s => s.respond h code stMalformed []

/-! ### Ownership (R223, R224) -/

/-- A host receives a session with a key. -/
def Mgmt.open (m : Mgmt) (host : Word) (key : Nat) : Mgmt :=
  { m with
    sessions := if m.sessions.contains host then m.sessions else host :: m.sessions
    sessionKeys := (host, key) :: m.sessionKeys.filter fun e => decide (e.1 ≠ host) }

/-- The session key that a share gives (R223): 32 bytes of SHAKE256 over the X448 secret (DESIGN CHOICE log 87). -/
def sessionKeyOf (share : List Byte) : Nat := Config.shake256 (Config.x448 share) 32

/-- A host becomes the owner. -/
def Mgmt.elect (m : Mgmt) (host : Word) (tick : Nat) : Mgmt := { m with owner := some host, lastKeepalive := tick, handover := none }

/-- Whether a claim passes the three checks of R223: the key is one of the configuration table's. -/
def State.claimValid (s : State) (host : Word) (priority : Nat) (key share signature : List Byte) : Bool :=
  (tableKeys s.mgmt.table).contains key && Config.claimVerifies priority key share signature &&
  decide (Config.shake256 key 8 = host.toNat)

/-- Whether one claim beats another: the lower pair of priority and host ID. -/
def claimLess (a b : Nat × Word × Nat) : Bool := decide (a.1 < b.1 ∨ (a.1 = b.1 ∧ a.2.1.toNat < b.2.1.toNat))

/-- The lowest of the claims of a window. -/
def claimWinner : List (Nat × Word × Nat) → Option (Nat × Word × Nat)
  | [] => none
  | c :: r =>
    match claimWinner r with
    | none => some c
    | some d => if claimLess d c then some d else some c

/-- The claim window closes: the lowest claim wins, and every claimant receives its answer. -/
def State.closeWindow (s : State) : State :=
  match claimWinner s.mgmt.claims with
  | none => { s with mgmt := { s.mgmt with claimOpen := false } }
  | some w =>
    let answer := fun (c : Nat × Word × Nat) => s.mgmtResponse c.2.1 c.2.2 0x0001 (if c = w then stDone else stRefused) []
    { s with
      outbox := s.outbox ++ s.mgmt.claims.map answer
      mgmt := { s.mgmt.elect w.2.1 s.podTick with claims := [], claimOpen := false } }

/-- Whether the open claim window has lasted its 10 ms. -/
def State.windowOver (s : State) : Bool := s.mgmt.claimOpen && decide (s.mgmt.claimTick + 10000000 ≤ s.podTick)

/-- A valid claim (R223): a hello gives a session alone; in a vacant slot the claim waits in its window; else it receives status 5. (DESIGN CHOICE
log 43) The session opens as the claim enters its window (DESIGN CHOICE log 105). -/
def State.takeClaim (s : State) (h : MgmtHeader) (priority key : Nat) : State :=
  if priority = 0xFFFF then ({ s with mgmt := s.mgmt.open h.host key }).respond h 0x0001 stDone []
  else if s.mgmt.stage ≠ 6 ∨ s.ownerNow.isSome then s.respond h 0x0001 stRefused []
  else
    let m := s.mgmt.open h.host key
    { s with mgmt := { m with
        claims := m.claims ++ [(priority, h.host, h.sequence)]
        claimOpen := true
        claimTick := if m.claimOpen then m.claimTick else s.podTick } }

/-- CLAIM (R223): A host claims ownership or says hello, opening a session. Its tag is not checked, since no session key exists before it (DESIGN
CHOICE log 120). -/
def execClaim (h : MgmtHeader) (priority : Nat) (key share signature : List Byte) (s : State) : Result :=
  s.received h 0x0001 fun s =>
    if !s.claimValid h.host priority key share signature then s.respond h 0x0001 stAuth []
    else (if s.windowOver then s.closeWindow else s).takeClaim h priority (sessionKeyOf share)

/-- CLAIM_WINDOW_CLOSE (R223): The 10 ms claim window closes and the lowest claim wins. -/
def execClaimWindowClose (s : State) : Result :=
  if s.windowOver then .next s.closeWindow else .next s

/-- HANDOVER (R224): The owner names a successor host, which must hold a session. The command is answered at once, before the successor accepts
(DESIGN CHOICE log 105). -/
def execHandover (h : MgmtHeader) (successor : Word) (s : State) : Result :=
  s.ownerCommand h 0x0002 [successor.toNat] fun s =>
    if !s.mgmt.sessions.contains successor then s.respond h 0x0002 stRefused []
    else ({ s with mgmt := { s.mgmt with handover := some (successor, s.podTick) } }).respond h 0x0002 stDone []

/-- ACCEPT (R224): The named successor accepts within 1 s and becomes owner. -/
def execAccept (h : MgmtHeader) (s : State) : Result :=
  s.command h 0x0003 [] fun s =>
    match s.mgmt.handover with
    | none => s.respond h 0x0003 stRefused []
    | some (successor, tick) =>
      if successor = h.host ∧ s.podTick ≤ tick + 1000000000 ∧ s.ownerNow.isSome then
        ({ s with mgmt := s.mgmt.elect h.host s.podTick }).respond h 0x0003 stDone []
      else s.respond h 0x0003 stRefused []

/-- HANDOVER_LAPSE (R224): A handover unaccepted for 1 s lapses, and the owner keeps the slot. -/
def execHandoverLapse (s : State) : Result :=
  match s.mgmt.handover with
  | none => .next s
  | some (_, tick) =>
    if tick + 1000000000 < s.podTick then .next { s with mgmt := { s.mgmt with handover := none } } else .next s

/-- KEEPALIVE (R222): A host keeps its session alive; the owner's keeps its slot (R224). The session of a host that is not the owner does not end for
want of one (DESIGN CHOICE log 119). -/
def execKeepalive (h : MgmtHeader) (s : State) : Result :=
  s.command h 0x0004 [] fun s =>
    let s := if s.ownerNow = some h.host then { s with mgmt := { s.mgmt with lastKeepalive := s.podTick } } else s
    s.respond h 0x0004 stDone []

/-- KEEPALIVE_TIMEOUT (R224): The owner slot falls vacant after 5 s without a keepalive; capsules, queues, keys and windows stay. -/
def execKeepaliveTimeout (s : State) : Result :=
  if s.mgmt.owner.isSome ∧ s.mgmt.lastKeepalive + 5000000000 ≤ s.podTick then
    .next { s with mgmt := { s.mgmt with owner := none, handover := none } }
  else .next s

/-! ### What the device tells (R222, R226, R227, R234) -/

/-- A capability record at an offset (R226): its header and its body, padded to 8 bytes. -/
def capRecord (id : Nat) (body : List Byte) (offset : Nat) (last : Bool) : List Byte :=
  let n := (8 + body.length + 7) / 8
  toBytes 2 id ++ toBytes 1 1 ++ toBytes 1 n ++ toBytes 4 (if last then 0 else offset + 8 * n) ++ body ++
  List.replicate (8 * n - 8 - body.length) 0

/-- The records of a list laid one after another from an offset (R226). -/
def capRecords : List (Nat × List Byte) → Nat → List Byte
  | [], _ => []
  | e :: r, o =>
    let b := capRecord e.1 e.2 o r.isEmpty
    b ++ capRecords r (o + b.length)

/-- A byte with a bit for each number of a list. -/
def bitSet (l : List Nat) : Nat := ((List.range 8).map fun i => if l.contains i then 2 ^ i else 0).foldl (· + ·) 0

/-- User clusters of a die (R227): none where its link failed (R231). -/
def State.dieClusters (s : State) (d : Nat) : Nat := if s.mgmt.usableDies.contains d then 8 * userCols s.saggarWidth d else 0

/-- The capability list (R227). -/
def State.capabilities (s : State) : List Byte :=
  let dies := [0, 1, 2, 3]
  capRecords
    [(0x0001, toBytes 4 4 ++ toBytes 4 Config.deviceStepping ++ toBytes 8 Config.deviceSerial),
     (0x0002, toBytes 1 s.saggarWidth ++ (dies.flatMap fun d => toBytes 1 (s.dieClusters d)) ++
       toBytes 2 ((dies.map s.dieClusters).foldl (· + ·) 0)),
     (0x0003, toBytes 1 (bitSet s.mgmt.ports) ++ (List.range 8).flatMap fun p => toBytes 6 (Config.fabricAddress p)),
     (0x0004, toBytes 1 (bitSet s.mgmt.cxlPorts) ++ toBytes 8 s.mgmt.cxlCapacity),
     (0x0005, toBytes 1 (if s.mgmt.locked then 1 else 0) ++ toBytes 2 s.mgmt.podId ++ toBytes 1 (tableDomain s.mgmt.table)),
     (0x0006, toBytes 1 Config.fusedDebugTier ++ dies.flatMap fun d => toBytes 1 (s.dbgTier d)),
     (0x0007, toBytes 2 s.mgmt.powerLimit ++ toBytes 2 2000),
     (0x0008, toBytes 4 s.mgmt.generation ++ toBytes 4 (tableGeneration s.mgmt.table))] 0

/-- READ_CAPABILITY (R226): Returns bytes of the capability list by offset and length. -/
def execReadCapability (h : MgmtHeader) (offset length : Nat) (s : State) : Result :=
  s.command h 0x0010 [offset, length] fun s =>
    if 4016 < length then s.respond h 0x0010 stMalformed []
    else s.respond h 0x0010 stDone ((s.capabilities.drop offset).take length)

/-- The first 168 bytes of a measurement (R234). -/
def State.measurement (s : State) (nonce : List Byte) : List Byte :=
  nonce ++ toBytes 4 s.mgmt.generation ++ toBytes 4 (tableGeneration s.mgmt.table) ++ toBytes 64 (Config.shake256 s.mgmt.firmware 64) ++
  toBytes 64 (Config.shake256 s.mgmt.table 64)

/-- MEASURE (R234): Returns the signed firmware and configuration measurement for a nonce. -/
def execMeasure (h : MgmtHeader) (nonce : List Byte) (s : State) : Result :=
  s.command h 0x0011 (bytesOf nonce) fun s =>
    if nonce.length ≠ 32 then s.respond h 0x0011 stMalformed []
    else s.respond h 0x0011 stDone (s.measurement nonce ++ Config.measureSignature (s.measurement nonce))

/-- READ_LOG (R222): Returns error-log records with protected worlds withheld: the latest that a response holds, each cut down when it
entered the log (R212). (DESIGN CHOICE log 45) -/
def execReadLog (h : MgmtHeader) (s : State) : Result :=
  s.command h 0x0012 [] fun s =>
    let l := s.mgmt.errorLog
    s.respond h 0x0012 stDone ((l.drop (l.length - 62)).flatMap fun e => e.1.bytes 0)

/-- The body of a status response: the stage, the owner's host ID, and the PTP lock (DESIGN CHOICE log 36). -/
def State.statusBody (s : State) : List Byte :=
  toBytes 4 s.mgmt.stage ++ toBytes 4 (if s.mgmt.locked then 1 else 0) ++ toBytes 8 ((s.ownerNow.map BitVec.toNat).getD 0)

/-- STATUS (R222): Returns the bring-up stage, owner host and PTP lock. It answers at every stage, to a host without a session too
(R231, DESIGN CHOICE log 36). -/
def execStatus (h : MgmtHeader) (s : State) : Result :=
  if s.mgmt.stage = 0 then .next s
  else if !requestOk h then .next (s.respond h 0x0013 stMalformed [])
  else if s.mgmt.sessions.contains h.host && !s.authentic h 0x0013 [] then .next (s.respond h 0x0013 stAuth [])
  else .next (s.respond h 0x0013 stDone s.statusBody)

/-! ### Owner keys (R185, R196, R201) -/

/-- Whether a key's fields have values of R185: a world ID is one byte (R182), and a physical range begins at a handle of R183, given the CXL
capacity. -/
def keyOk (cxl : Nat) (k : KeyDesc) : Bool :=
  decide (k.id < 2 ^ 32 ∧ k.publicKey.length = 57 ∧ k.world < 256 ∧ k.grants.length ≤ 64 ∧ k.shares.length ≤ 64 ∧ k.guilt < 2 ^ 32) &&
  (k.limit.all fun l => decide (1 ≤ l ∧ l < 2 ^ 32)) && (k.grants ++ k.shares).all fun r => handleOk r.handle r.length cxl

/-- The entry of the table for a key that is added; its limit is 8 where none is given (R185). -/
def OwnerKey.new (k : KeyDesc) : OwnerKey := ⟨k, k.guilt, k.limit.getD 8, k.runLimit, false, none, none⟩

/-- ADD_KEY (R185): Adds an owner key to the table of up to 256, or restores a revoked one (R196). -/
def execAddKey (h : MgmtHeader) (key : KeyDesc) (s : State) : Result :=
  s.ownerCommand h 0x0020 (keyNumbers key) fun s =>
    if !keyOk s.mgmt.cxlCapacity key then s.respond h 0x0020 stMalformed []
    else
      match s.key? key.id with
      | some k =>
        if k.revoked then (s.setKey key.id fun _ => OwnerKey.new key).respond h 0x0020 stDone []
        else s.respond h 0x0020 stRefused []
      | none =>
        if 256 ≤ s.keys.length then s.respond h 0x0020 stNoResource []
        else ({ s with keys := s.keys ++ [OwnerKey.new key] }).respond h 0x0020 stDone []

/-- Refuse a capsule that has not started with code 3, its footprint wiped if it is loaded (R196). -/
def State.refuseRevoked (s : State) (n : Nat) : State :=
  let c := s.cap n
  if c.stage = .placing then s.refuse n c.id 3 0xFFFFFFFF
  else if c.stage = .loaded then (s.wipe n).refuse n c.id 3 0xFFFFFFFF
  else s

/-- REVOKE_KEY (R196): Revokes an owner key, refusing its unstarted capsules. -/
def execRevokeKey (h : MgmtHeader) (key : Nat) (s : State) : Result :=
  s.ownerCommand h 0x0021 [key] fun s =>
    match s.key? key with
    | none => s.respond h 0x0021 stMalformed []
    | some _ =>
      let s := s.setKey key fun k => { k with revoked := true }
      let mine := (s.capsules.filter fun e => decide (e.2.image.owner = key)).map Prod.fst
      (mine.foldl State.refuseRevoked s).respond h 0x0021 stDone []

/-- SET_GUILT_AND_LIMIT (R201): Writes a key's guilt and limit, lifting a bar when guilt falls below limit. -/
def execSetGuiltAndLimit (h : MgmtHeader) (key guilt limit : Nat) (s : State) : Result :=
  s.ownerCommand h 0x0022 [key, guilt, limit] fun s =>
    if (s.key? key).isNone ∨ 2 ^ 32 ≤ guilt ∨ limit < 1 ∨ 2 ^ 32 ≤ limit then s.respond h 0x0022 stMalformed []
    else (s.setKey key fun k => { k with guilt, limit }).respond h 0x0022 stDone []

/-- SET_RUN_LIMIT (R185): Sets a key's run limit. -/
def execSetRunLimit (h : MgmtHeader) (key limit : Nat) (s : State) : Result :=
  s.ownerCommand h 0x0023 [key, limit] fun s =>
    if (s.key? key).isNone then s.respond h 0x0023 stMalformed []
    else (s.setKey key fun k => { k with runLimit := limit }).respond h 0x0023 stDone []

/-! ### Queues (R199, R202) -/

/-- Whether a descriptor has the values of R199, for its owner's key, given the CXL capacity: handles of R183, and mapping extents of R182. -/
def queueOk (cxl : Nat) (q : QueueDesc) (k : KeyDesc) : Bool :=
  decide (q.number < 1024 ∧ handleKey q.control % 4 = 0 ∧ handleKey q.slotsBase % 64 = 0 ∧ handleKey q.timelines % 8 = 0 ∧
    1 ≤ q.timelineCount ∧ q.timelineCount ≤ 256 ∧ q.mapping.length ≤ 4) &&
  powerIn 16 4096 q.slots && k.grants.any (rangeWithin q.control 32) &&
  fineHandleOk q.control 32 cxl && fineHandleOk q.slotsBase (64 * q.slots) cxl && fineHandleOk q.timelines (8 * q.timelineCount) cxl &&
  q.mapping.all fun e => extentOk cxl e && decide (e.rights = rightR) && keyCovers k e.handle e.length e.rights

/-- MAP_QUEUE (R199): Maps a queue and sets its control block to RUN; one whose control block cannot be read is refused (DESIGN CHOICE log 94). -/
def execMapQueue (h : MgmtHeader) (queue : QueueDesc) (s : State) : Result :=
  s.ownerCommand h 0x0030 (queueNumbers queue) fun s =>
    match s.key? queue.owner with
    | none => s.respond h 0x0030 stMalformed []
    | some k =>
      if !queueOk s.mgmt.cxlCapacity queue k.desc then s.respond h 0x0030 stMalformed []
      else if (s.queue? queue.number).isSome then s.respond h 0x0030 stRefused []
      else
        let q : Queue := ⟨queue, 0, .run, false⟩
        let control := handleKey queue.control
        if s.poisoned control 32 then (s.logForgery control 32).respond h 0x0030 stRefused []
        else
        let q := { q with read := s.control q 0x04 }
        let s := { s with queues := s.queues ++ [q] }
        (((s.setControl q 0x14 0).setControl q 0x10 0).setControl q 0x08 0).respond h 0x0030 stDone []

/-- UNMAP_QUEUE (R199): Unmaps a queue after the visit in progress; a visit is one step. -/
def execUnmapQueue (h : MgmtHeader) (queue : Nat) (s : State) : Result :=
  s.ownerCommand h 0x0031 [queue] fun s =>
    match s.queue? queue with
    | none => s.respond h 0x0031 stMalformed []
    | some _ => ({ s with queues := s.queues.filter fun q => decide (q.desc.number ≠ queue) }).respond h 0x0031 stDone []

/-- STOP_QUEUE (R202): Stops a queue, writing STOPPED at the end of the visit in progress; a visit is one step. A queue that is stopped already is
answered with status 0, and STOPPED is written again (DESIGN CHOICE log 98). -/
def execStopQueue (h : MgmtHeader) (queue : Nat) (s : State) : Result :=
  s.ownerCommand h 0x0032 [queue] fun s =>
    match s.queue? queue with
    | none => s.respond h 0x0032 stMalformed []
    | some q =>
      let was := match q.state with
        | .run => false
        | .error => true
        | .stopped => q.wasError
      ((s.setControl q 0x08 2).setQueue { q with state := .stopped, wasError := was }).respond h 0x0032 stDone []

/-- RESTART_QUEUE (R202): Restarts a stopped queue in RUN or ERROR. A queue that is not stopped is left as it is, and the answer is status 5 (DESIGN
CHOICE log 114). -/
def execRestartQueue (h : MgmtHeader) (queue : Nat) (s : State) : Result :=
  s.ownerCommand h 0x0033 [queue] fun s =>
    match s.queue? queue with
    | none => s.respond h 0x0033 stMalformed []
    | some q =>
      match q.state with
      | .run | .error => s.respond h 0x0033 stRefused []
      | .stopped =>
        let s := s.setControl q 0x08 (if q.wasError then 1 else 0)
        (s.setQueue { q with state := if q.wasError then .error else .run, wasError := false }).respond h 0x0033 stDone []

/-! ### Rings, events and windows (R220, R222, R225) -/

/-- REGISTER_OWNER_REPORT_RING (R225): Registers an owner report ring for a key. Its header is not written (DESIGN CHOICE log 106). -/
def execRegisterOwnerReportRing (h : MgmtHeader) (key : Nat) (base : Word) (slots : Nat) (s : State) : Result :=
  s.ownerCommand h 0x0034 [key, base.toNat, slots] fun s =>
    if (s.key? key).isNone || !powerIn 16 4096 slots || !fineHandleOk base (64 + 64 * slots) s.mgmt.cxlCapacity then s.respond h 0x0034 stMalformed []
    else (s.setKey key fun k => { k with ring := some ⟨base, slots⟩ }).respond h 0x0034 stDone []

/-- REGISTER_EVENT_ADDRESS (R222): Registers a host address for ring-write events. -/
def execRegisterEventAddress (h : MgmtHeader) (key address : Nat) (s : State) : Result :=
  s.ownerCommand h 0x0035 [key, address] fun s =>
    if (s.key? key).isNone then s.respond h 0x0035 stMalformed []
    else (s.setKey key fun k => { k with event := some address }).respond h 0x0035 stDone []

/-- Whether a window has the values of R220, for its key, given the CXL capacity: a handle of R183, and rights among R, W, A, SA and 'readable by
others', the others granted. -/
def windowOk (cxl : Nat) (w : WindowDesc) (k : KeyDesc) : Bool :=
  decide (w.number < 256 ∧ w.length ≠ 0 ∧ w.length % 4096 = 0 ∧ w.rights < 128 ∧ bits w.rights 2 2 = 0 ∧ bits w.rights 5 5 = 0) &&
  handleOk w.handle w.length cxl && keyCovers k w.handle w.length (w.rights % 64)

/-- MAP_WINDOW (R220): Maps an RMA window over a key's grant or share. -/
def execMapWindow (h : MgmtHeader) (window : WindowDesc) (s : State) : Result :=
  s.ownerCommand h 0x0038 (windowNumbers window) fun s =>
    match s.key? window.key with
    | none => s.respond h 0x0038 stMalformed []
    | some k =>
      if !windowOk s.mgmt.cxlCapacity window k.desc then s.respond h 0x0038 stMalformed []
      else if (s.window? window.number).isSome then s.respond h 0x0038 stRefused []
      else ({ s with windows := s.windows ++ [window] }).respond h 0x0038 stDone []

/-- UNMAP_WINDOW (R220): Unmaps an RMA window. -/
def execUnmapWindow (h : MgmtHeader) (window : Nat) (s : State) : Result :=
  s.ownerCommand h 0x0039 [window] fun s =>
    match s.window? window with
    | none => s.respond h 0x0039 stMalformed []
    | some _ => ({ s with windows := s.windows.filter fun w => decide (w.number ≠ window) }).respond h 0x0039 stDone []

/-! ### Capsules, the pod and firmware (R214, R229, R235) -/

/-- KILL_CAPSULE (R222): The owner host kills a capsule by ID. (DESIGN CHOICE log 44) -/
def execKillCapsule (h : MgmtHeader) (id : Word) (s : State) : Result :=
  s.ownerCommand h 0x0040 [id.toNat] fun s =>
    let l := (s.capsules.filter fun e => decide (e.2.id = id ∧ e.2.stage ≠ .ended ∧ e.2.stage ≠ .offered)).map Prod.fst
    if l.isEmpty then s.respond h 0x0040 stRefused []
    else (l.foldl (fun acc n => State.killFor acc n causeKilled) s).respond h 0x0040 stDone []

/-- POD_TABLE (R229): Writes the package's pod ID and peer fabric addresses. -/
def execPodTable (h : MgmtHeader) (own : Nat) (peers : List (Nat × Nat)) (s : State) : Result :=
  s.ownerCommand h 0x0041 (own :: peers.flatMap fun p => [p.1, p.2]) fun s =>
    if 4095 < own ∨ (peers.any fun p => decide (4095 < p.1)) then s.respond h 0x0041 stMalformed []
    else ({ s with mgmt := { s.mgmt with podId := own, peers } }).respond h 0x0041 stDone []

/-- STAGE_FIRMWARE (R235): Writes a vendor-signed firmware image to the standby flash half. -/
def execStageFirmware (h : MgmtHeader) (image : List Byte) (s : State) : Result :=
  s.ownerCommand h 0x0050 (bytesOf image) fun s =>
    if Config.firmwareVerifies image then ({ s with mgmt := { s.mgmt with staged := some image } }).respond h 0x0050 stDone []
    else s.respond h 0x0050 stAuth []

/-- ACTIVATE_FIRMWARE (R235): Makes the staged firmware current at one switch point. (DESIGN CHOICE log 46) -/
def execActivateFirmware (h : MgmtHeader) (s : State) : Result :=
  s.ownerCommand h 0x0051 [] fun s =>
    match s.mgmt.staged with
    | none => s.respond h 0x0051 stRefused []
    | some image =>
      let m := { s.mgmt with firmware := image, generation := Config.firmwareGeneration image, staged := none }
      ({ s with mgmt := m }).respond h 0x0051 stDone []

/-! ### Debug (R216, R238) -/

/-- The number of the next debug session. -/
def State.nextSession (s : State) : Nat := (s.mgmt.debugSessions.map DebugSession.number).foldl max 0 + 1

/-- OPEN_DEBUG_SESSION (R238): Requests a debug session at a tier, reserving its die; the response names the session. At each tier it names an owner
key of the table, else its status is 2; one whose scope meets that of another session has status 4 (DESIGN CHOICE log 108). -/
def execOpenDebugSession (h : MgmtHeader) (tier die key : Nat) (signatures : List Byte) (s : State) : Result :=
  s.ownerCommand h 0x0060 ([tier, die, key] ++ bytesOf signatures) fun s =>
    if tier < 1 ∨ 3 < tier ∨ 3 < die ∨ (s.key? key).isNone then s.respond h 0x0060 stMalformed []
    else if !Config.debugVerifies tier die key signatures then s.respond h 0x0060 stAuth []
    else if Config.fusedDebugTier < tier then s.respond h 0x0060 stRefused []
    else if s.mgmt.debugSessions.any fun d => decide (d.die = die ∨ 2 ≤ d.tier ∨ 2 ≤ tier) then s.respond h 0x0060 stNoResource []
    else
      let n := s.nextSession
      ({ s with mgmt := { s.mgmt with debugSessions := s.mgmt.debugSessions ++ [(⟨n, tier, die, key, 0⟩ : DebugSession)] } }).respond h 0x0060 stDone (toBytes 4 n)

/-- Whether a memory key lies in the on-chip memories of a die. -/
def onDie (die k : Nat) : Bool :=
  if k < 2 ^ 44 then false
  else if k < 2 ^ 45 then decide (dieOf ((k - 2 ^ 44) / 2 ^ 18 / 8) = die)
  else if k < 2 ^ 46 then decide (dieOf ((k - 2 ^ 45) / 2 ^ 22) = die)
  else if k < 2 ^ 47 then decide ((k - 2 ^ 46) / 2 ^ 44 = die)
  else decide (dieOf ((k - 2 ^ 47) / 2 ^ 19) = die)

/-- Whether a memory key lies in a range of a key's grants. -/
def granted (k : KeyDesc) (x : Nat) : Bool :=
  k.grants.any fun r => decide (handleKey r.handle ≤ x ∧ x < handleKey r.handle + r.length)

/-- The memory that a session's wipe rule clears (R238): its die's; every die's and the DRAM grants of every world; everything. -/
def State.debugClears (s : State) (d : DebugSession) (k : Nat) : Bool :=
  if d.tier = 1 then onDie d.die k
  else if d.tier = 2 then decide (2 ^ 44 ≤ k) || s.keys.any fun x => granted x.desc k
  else true

/-- The wipe of a debug session: what it writes leaves no poison, and no digest of code stays known (R187, R213). -/
def State.debugWipe (s : State) (d : DebugSession) : State :=
  { s with
    mem := s.mem.filter fun e => !s.debugClears d e.1
    tags := s.tags.filter fun e => !s.debugClears d (8 * e.1)
    poison := s.poison.filter fun l => !s.debugClears d (64 * l)
    codeCache := [] }

/-- Whether no capsule holds a cluster in the scope of a session. -/
def State.scopeFree (s : State) (d : DebugSession) : Bool :=
  (List.range 4).all fun die => !decide (d.die = die ∨ 2 ≤ d.tier) || s.dieFree die

/-- DEBUG_SESSION_START (R238): The reserved die empties, is wiped and the debug session opens. -/
def execDebugSessionStart (session : Nat) (s : State) : Result :=
  match s.mgmt.debugSessions.find? fun d => decide (d.number = session ∧ d.stage = 0) with
  | none => .next s
  | some d =>
    if !s.scopeFree d then .next s
    else
      let s := s.debugWipe d
      let opened := s.mgmt.debugSessions.map fun x => if x.number = session then { x with stage := 1 } else x
      .next { s with mgmt := { s.mgmt with debugSessions := opened } }

/-- The cores of a session's scope leave their halt groups. -/
def State.ungroup (s : State) (d : DebugSession) : State :=
  { s with cores := s.cores.map fun e =>
      if dieOf (clusterOf e.1) = d.die ∨ 2 ≤ d.tier then (e.1, { e.2 with haltGroup := none, halted := false }) else e }

/-- The capsules that were saved, ended: what their records' MACs stand for until the next power-on (R208, DESIGN CHOICE log 33). Derived images
that they had offered are gone, and their units with them. -/
def State.savedCapsules (s : State) : List (Nat × Capsule) :=
  s.capsules.filterMap fun e => e.2.snap.map fun x =>
    let line := s.line s.capsules.length e.1
    let offered := (s.capsules.filter fun k => k.2.derived && decide (k.2.stage = .offered) && line.contains k.2.parent).length
    (e.1, { Capsule.blank with id := e.2.id, image := { Image.empty with owner := e.2.image.owner }, stage := .ended, snap := some x,
                               recordLength := e.2.recordLength, entryDone := true, outstanding := e.2.outstanding - offered })

/-- Every part of the device but flash, fuses, the counts of power-ons and steps, a failed CXL set and what the resume key stands for is as after a
reset (R208, R230, R240, DEDUCED log 37). -/
def State.rebooted (s : State) : State :=
  { State.reset with
    steps := s.steps
    agenda := s.agenda
    outbox := s.outbox
    nextId := s.nextId
    capsules := s.savedCapsules
    mgmt := { Mgmt.reset with powerCount := s.mgmt.powerCount, cxlFailed := s.mgmt.cxlFailed, table := s.mgmt.table, firmware := s.mgmt.firmware,
                              generation := s.mgmt.generation, staged := s.mgmt.staged } }

/-- CLOSE_DEBUG_SESSION (R238): Closes a debug session and wipes as its tier requires; refused while the scope of an open one holds a
capsule (DESIGN CHOICE log 38). -/
def execCloseDebugSession (h : MgmtHeader) (session : Nat) (s : State) : Result :=
  s.ownerCommand h 0x0061 [session] fun s =>
    match s.mgmt.debugSessions.find? fun d => decide (d.number = session) with
    | none => s.respond h 0x0061 stMalformed []
    | some d =>
      let rest := s.mgmt.debugSessions.filter fun x => decide (x.number ≠ session)
      if d.stage = 0 then ({ s with mgmt := { s.mgmt with debugSessions := rest } }).respond h 0x0061 stDone []
      else if !s.scopeFree d then s.respond h 0x0061 stRefused []
      else if d.tier = 3 then (s.respond h 0x0061 stDone []).rebooted
      else
        let s := (s.debugWipe d).ungroup d
        ({ s with mgmt := { s.mgmt with debugSessions := rest } }).respond h 0x0061 stDone []

/-- Whether an open session at tier 1 or above covers a die (R216, R238). -/
def State.debugCovers (s : State) (die : Nat) : Bool :=
  s.mgmt.debugSessions.any fun d => d.active die

/-- A core with a new halt group; one that leaves its group runs on. -/
def Core.regroup (c : Core) (core group : Nat) (members : List Nat) : Core :=
  if members.contains core then { c with haltGroup := some group, halted := c.halted && decide (c.haltGroup = some group) }
  else if c.haltGroup = some group then { c with haltGroup := none, halted := false }
  else c

/-- The members of a group become those of its setting. -/
def State.setMembers (s : State) (g : HaltDesc) : State :=
  let l := ((s.cores.map Prod.fst).filter fun c => decide ((s.core c).haltGroup = some g.group)) ++ g.members
  l.foldl (fun acc c => State.setCore acc c ((acc.core c).regroup c g.group g.members)) s

/-- Whether a debug session is open. -/
def State.debugging (s : State) : Bool := s.mgmt.debugSessions.any fun d => decide (d.stage = 1)

/-- SET_HALT_GROUP (R216): Sets halt-group membership, arming and halt on fault, under an open debug session that covers each member. -/
def execSetHaltGroup (h : MgmtHeader) (group : HaltDesc) (s : State) : Result :=
  s.ownerCommand h 0x0062 (haltNumbers group) fun s =>
    if 16 ≤ group.group ∨ (group.members.any fun c => decide (coreCount ≤ c)) then s.respond h 0x0062 stMalformed []
    else if !s.debugging || !(group.members.all fun c => s.debugCovers (dieOf (clusterOf c))) then s.respond h 0x0062 stRefused []
    else
      let s := s.setMembers group
      let x := sget (⟨false, false, false⟩ : HaltGroup) s.mgmt.groups group.group
      let x := { x with armed := group.armed, haltOnFault := group.haltOnFault }
      ({ s with mgmt := { s.mgmt with groups := sset ⟨false, false, false⟩ s.mgmt.groups group.group x } }).respond h 0x0062 stDone []

/-- HALT (R216): A halt reaches the members of a halt group, which stop at window-free boundaries. The session commands it: one is
open, and the group is armed. -/
def execHalt (group : Nat) (s : State) : Result :=
  let x := sget (⟨false, false, false⟩ : HaltGroup) s.mgmt.groups group
  if x.armed && s.debugging then .next (s.haltGroup group) else .next s

/-- RESUME (R216): A resume releases the halted members of a group. -/
def execResume (group : Nat) (s : State) : Result :=
  let x := sget (⟨false, false, false⟩ : HaltGroup) s.mgmt.groups group
  if x.halted then
    let cores := s.cores.map fun e => if e.2.haltGroup = some group then (e.1, { e.2 with halted := false }) else e
    .next { s with cores, mgmt := { s.mgmt with groups := sset ⟨false, false, false⟩ s.mgmt.groups group { x with halted := false } } }
  else .next s

/-! ### Power (R239) -/

/-- POWER_LIMIT (R239): Sets the module's power limit, 600 to 2,000 W. -/
def execPowerLimit (h : MgmtHeader) (watts : Nat) (s : State) : Result :=
  s.ownerCommand h 0x0070 [watts] fun s =>
    if watts < 600 ∨ 2000 < watts then s.respond h 0x0070 stMalformed []
    else ({ s with mgmt := { s.mgmt with powerLimit := watts } }).respond h 0x0070 stDone []

end Sys2Proof.Machine
end

