-- ==== Sys2Proof/Machine/Device.lean ====
section
/-! DEFINITION. The device by itself: bring-up (R231), pod time (R228), CXL memory (R230), power and cooling (R239, R240), memory errors (R213,
R237), and what its board controller reads (R240). -/

namespace Sys2Proof.Machine

/-! ### Bring-up (R231) -/

/-- The bring-up stage changes. -/
def State.stageTo (s : State) (n : Nat) : State := { s with mgmt := { s.mgmt with stage := n } }

/-- Stage 1: the ROM boots and verifies the configuration table, which gives the power limit (R232, R239); a table that fails leaves the device
at stage 1. -/
def State.bootRom (s : State) : State :=
  if tableOk s.mgmt.table then State.stageTo { s with mgmt := { s.mgmt with powerLimit := tablePower s.mgmt.table } } 2 else s

/-- POWER_ON (R231): Main power comes on and the saggar column boots its ROM and verifies the configuration table. A device that is
powered and at stage 1 boots its ROM. -/
def execPowerOn (s : State) : Result :=
  if !s.mgmt.powered then
    let s := s.rebooted
    .next (State.bootRom { s with mgmt := { s.mgmt with powered := true, cxlFailed := false, powerCount := s.mgmt.powerCount + 1 } })
  else if s.mgmt.stage = 1 then .next s.bootRom
  else .next s

/-- DIE_LINK_TRAINING (R231): The die-to-die links finish training or exceed their bound; a die whose link fails is unusable. -/
def execDieLinkTraining (usable : List Nat) (s : State) : Result :=
  if s.mgmt.powered ∧ s.mgmt.stage = 2 then
    .next (State.stageTo { s with mgmt := { s.mgmt with usableDies := (List.range 4).filter fun d => usable.contains d } } 3)
  else .next s

/-- PORT_TRAINING (R231): The Ultra Ethernet ports finish training or exceed their bound; with none trained the device stays at stage 3. -/
def execPortTraining (ports : List Nat) (s : State) : Result :=
  let l := (List.range 8).filter fun p => ports.contains p
  if s.mgmt.powered ∧ s.mgmt.stage = 3 ∧ l ≠ [] then .next (State.stageTo { s with mgmt := { s.mgmt with ports := l } } 4) else .next s

/-! ### CXL memory (R230) -/

/-- How many of a list of ports have this capacity. -/
def capacityCount (l : List (Nat × Nat)) (n : Nat) : Nat := (l.filter fun p => decide (p.2 = n)).length

/-- The capacity that most ports with memory share; among equals that of the lowest port. -/
def commonCapacity (l : List (Nat × Nat)) : Nat :=
  l.foldl (fun best p => if capacityCount l best < capacityCount l p.2 then p.2 else best) 0

/-- The interleave set (R230): ports of the common capacity, 8, 4, 2 or 1 of them, at most 4 TiB in all (DEDUCED log 39). -/
def interleaveSet (ports : List (Nat × Nat)) : List (Nat × Nat) :=
  let l := (List.range 8).filterMap fun i => ports.find? fun p => decide (p.1 = i ∧ p.2 ≠ 0)
  let c := commonCapacity l
  let same := l.filter fun p => decide (p.2 = c)
  match [8, 4, 2, 1].find? fun n => decide (n ≤ same.length ∧ n * c ≤ 2 ^ 42) with
  | some n => same.take n
  | none => []

/-- CXL_ENUMERATION (R231): The CXL ports train and the interleave set forms from those that trained, each with its capacity in bytes. -/
def execCxlEnumeration (ports : List (Nat × Nat)) (s : State) : Result :=
  if s.mgmt.powered ∧ s.mgmt.stage = 4 then
    let l := interleaveSet ports
    let capacity := (l.map Prod.snd).foldl (· + ·) 0
    .next (State.stageTo { s with mgmt := { s.mgmt with cxlPorts := l.map Prod.fst, cxlCapacity := capacity } } 5)
  else .next s

/-- CXL_PORT_FAILURE (R230): A CXL port of the set fails after bring-up, and every access to the set gives MEMERR until the next
power-on. -/
def execCxlPortFailure (port : Nat) (s : State) : Result :=
  if s.mgmt.powered ∧ s.mgmt.stage = 6 ∧ s.mgmt.cxlPorts.contains port then .next { s with mgmt := { s.mgmt with cxlFailed := true } }
  else .next s

/-! ### Pod time (R228) -/

/-- The distance of PODTICK from pod time that counts as locked: 20 ns. -/
def lockRange : Nat := 20

/-- PODTICK after n nanoseconds of the local clock: it slews toward pod time by at most 50 ppm, one nanosecond in 20,000, and counts as locked
once within 20 ns of it; nanoseconds that do not make 20,000 yet are kept for the next step. -/
def State.slew (s : State) (n : Nat) : State :=
  let time := s.mgmt.slewed + n
  let bound : Int := (time / 20000 : Nat)
  let off := s.mgmt.podOffset
  let d : Int := if off < -bound then -bound else if bound < off then bound else off
  let rest := off - d
  { s with
    podTick := ((s.podTick : Int) + n + d).toNat
    mgmt := { s.mgmt with podOffset := rest, slewed := if s.mgmt.slewing then time % 20000 else 0, locked := s.mgmt.locked || (s.mgmt.slewing && decide (rest.natAbs ≤ lockRange)) } }

/-- PTP_LOCK (R228): PTP lock is reached: in stage 5 it sets PODTICK once and stage 6 begins; later it only slews PODTICK. -/
def execPtpLock (podTime : Nat) (s : State) : Result :=
  if !s.mgmt.powered then .next s
  else if s.mgmt.stage = 5 then
    .next (State.stageTo { s with podTick := podTime, mgmt := { s.mgmt with locked := true, slewing := true, podOffset := 0 } } 6)
  else if s.mgmt.stage = 6 then
    let d : Int := (podTime : Int) - s.podTick
    .next { s with mgmt := { s.mgmt with slewing := true, podOffset := d, locked := decide (d.natAbs ≤ lockRange) } }
  else .next s

/-- PTP_LOCK_TIMEOUT (R231): Stage 5 ends without a first PTP lock after its 10 s bound, and the device goes on free-running into
stage 6. -/
def execPtpLockTimeout (s : State) : Result :=
  if s.mgmt.powered ∧ s.mgmt.stage = 5 then .next (s.stageTo 6) else .next s

/-- LOCK_LOSS (R228): PTP lock is lost and PODTICK runs on the local clock. -/
def execLockLoss (s : State) : Result :=
  .next { s with mgmt := { s.mgmt with locked := false, slewing := false, podOffset := 0 } }

/-! ### Memory errors (R213, R230, R237) -/

/-- A 64-byte line is marked poisoned. -/
def State.poisonLine (s : State) (line : Nat) : State :=
  { s with poison := if s.poison.contains line then s.poison else line :: s.poison }

/-- An error of an array, a CXL device or a seal stage (R213, R230, R237): a corrected one is counted; an uncorrectable one, device poison and
exhausted retries poison the line; so does a line whose MAC fails on read, which the error log will mark. The agenda brings these (DESIGN CHOICE log 88). -/
def State.memoryEvent (s : State) (m : MemoryEvent) : Result :=
  if !s.mgmt.powered then .next s
  else
    match m with
    | .corrected => .next { s with mgmt := { s.mgmt with corrected := s.mgmt.corrected + 1 } }
    | .uncorrectable line =>
      .next (State.poisonLine { s with mgmt := { s.mgmt with forged := s.mgmt.forged.filter fun l => decide (l ≠ line) } } line)
    | .macFailure line =>
      .next (State.poisonLine { s with mgmt := { s.mgmt with forged := line :: s.mgmt.forged.filter fun l => decide (l ≠ line) } } line)

/-! ### The board controller's reads (R240) -/

/-- What a read of the board controller gives: the readings of sensors are free (DESIGN CHOICE log 77). -/
def State.boardData (s : State) : BoardRead → List Byte
  | .temperatures => Config.sensors s.steps 0
  | .currents => Config.sensors s.steps 1
  | .coolant => Config.sensors s.steps 2
  | .serial => toBytes 8 Config.deviceSerial
  | .identityKey => Config.identityKey

/-- A read of the board controller over its bus (R234, R240): nothing answers while main power is off. -/
def State.readBoard (s : State) (r : BoardRead) : Result :=
  if s.mgmt.powered then .next { s with outbox := s.outbox ++ [.board (s.boardData r)] } else .next s

/-! ### Throttling and power (R239, R240) -/

/-- The main clock one step of 75 MHz slower, down to 1.2 GHz (R239). (DESIGN CHOICE log 47) -/
def State.slower (s : State) : State := { s with mgmt := { s.mgmt with clockMHz := max 1200 (s.mgmt.clockMHz - 75) } }

/-- Main power is gone: every capsule ends with no record, and nothing but the fuses and the flash survives (R239, R240). -/
def State.unpowered (s : State) : State :=
  let s := s.rebooted
  { s with capsules := [], mgmt := { s.mgmt with powered := false, stage := 0 } }

/-- THERMAL_THROTTLE (R239): Junction temperature reaches 105 degrees C and the clock is throttled. -/
def execThermalThrottle (s : State) : Result := if s.mgmt.powered then .next s.slower else .next s

/-- POWER_LIMIT_THROTTLE (R239): While the 10 ms average power would exceed the limit, the device lowers the main clock in 75 MHz
steps, down to 1.2 GHz. -/
def execPowerLimitThrottle (s : State) : Result := if s.mgmt.powered then .next s.slower else .next s

/-- THERMAL_SHUTDOWN (R239): Junction temperature reaches 115 degrees C and the device removes its own power. -/
def execThermalShutdown (s : State) : Result := .next s.unpowered

/-- POWER_OFF (R240): The board controller removes main power, ending every capsule with no record. -/
def execPowerOff (s : State) : Result := .next s.unpowered

/-- RESET (R240): The board controller resets the module, which begins its bring-up anew (R231). -/
def execReset (s : State) : Result := if s.mgmt.powered then .next s.rebooted else .next s

end Sys2Proof.Machine
end

