-- ==== Sys2Proof/Machine/Mesh.lean ====
section
/-! DEFINITION. The mesh address instructions (R55). -/

namespace Sys2Proof.Machine

/-- What mcrd writes: the unit and the coordinates in the COORD layout (R55). -/
def Mesh.coords (m : Mesh) : Word :=
  BitVec.ofNat 64 (m.unit * 2 ^ 24 + m.package % 4096 * 2 ^ 12 + m.die % 4 * 2 ^ 10 + m.col * 2 ^ 6 + m.row * 2 ^ 3 + m.core)

/-- Coordinates and unit with offset, put together as a mesh address (R55). -/
def buildMesh (rel : Bool) (x y : Word) : Word :=
  BitVec.ofNat 64 (2 ^ 63 + (if rel then 2 ^ 62 else 0) + x.toNat % 2 ^ 24 * 2 ^ 38 + y.toNat % 2 ^ 38)

/-- mabs and mcrd: a virtual address gives one value, a mesh address is resolved or traps MESHBOUND (R55). -/
def State.meshQuery (s : State) (word : Nat) (d a : G) (virtual : Word → Word) (f : Mesh → Word) : Result :=
  s.issue (useG word [d, a]) fun s =>
    let x := s.rg a
    if x.toNat < 2 ^ 63 then .next (s.wg d (virtual x)).retire
    else
      match s.resolve (coreOf s.who) x 1 with
      | none => s.takeTrap causeMeshbound x
      | some m => .next (s.wg d (f m)).retire

/-- madr (R55): Builds an absolute mesh address from coordinates in g[a] and unit and offset in g[b]. -/
def execMadr (d a b : G) (s : State) : Result :=
  s.putG (encR 0x0D 0 d a b) [a, b] d fun s => buildMesh false (s.rg a) (s.rg b)

/-- mrel (R55): Builds a relative mesh address from coordinate deltas in g[a] and unit and offset in g[b]. -/
def execMrel (d a b : G) (s : State) : Result :=
  s.putG (encR 0x0D 1 d a b) [a, b] d fun s => buildMesh true (s.rg a) (s.rg b)

/-- mabs (R55): Resolves and checks a mesh address and writes it as an absolute footprint-virtual address. -/
def execMabs (d a : G) (s : State) : Result :=
  s.meshQuery (encR 0x0D 2 d a 0) d a id Mesh.word

/-- mcrd (R55): Resolves and checks a mesh address and writes its unit and coordinates to g[d]. -/
def execMcrd (d a : G) (s : State) : Result :=
  s.meshQuery (encR 0x0D 3 d a 0) d a (fun _ => BitVec.allOnes 64) Mesh.coords

end Sys2Proof.Machine
end

