-- ==== Sys2Proof/Machine/Lanes.lean ====
section
/-! DEFINITION. Vector registers, length and masks (R99, R100) and the shared forms of the vector instructions. -/

namespace Sys2Proof.Machine

/-- Element width in bits of a size code (R101, R106). -/
def Width.bitsOf : Width → Nat
  | .b => 8 | .h => 16 | .w => 32 | .d => 64

/-- elem(v, w, i). -/
def elem (v : Vec) (w i : Nat) : Nat := v.toNat / 2 ^ (i * w) % 2 ^ w

/-- v with element i of width w replaced by x. -/
def setElem (v : Vec) (w i x : Nat) : Vec :=
  let mask : Vec := BitVec.ofNat 512 (2 ^ w - 1) <<< (i * w)
  (v &&& ~~~mask) ||| (BitVec.ofNat 512 (x % 2 ^ w) <<< (i * w))

/-- The active count n of R99. -/
def activeCount (vl w : Nat) : Nat := if w = 64 then min vl 8 else vl * 32 / w

/-- Whether element i is active under a governing mask (R99): bit L of the mask governs the 64 bits of lane L. -/
def isActive (vl : Nat) (k : BitVec 8) (w i : Nat) : Bool :=
  decide (i < activeCount vl w) && k.getLsbD (i * w / 64)

/-- The active elements of the issuing thread in rising order. -/
def State.actives (s : State) (k w : Nat) : List Nat :=
  (List.range (512 / w)).filter fun i => isActive s.me.vl.toNat (s.rk k) w i

/-- Write computed elements into a register, collecting their flags. -/
def fillElems (w : Nat) (f : Nat → Nat × Nat) : List Nat → Vec → Nat → Vec × Nat
  | [], v, fl => (v, fl)
  | i :: r, v, fl => fillElems w f r (setElem v w i (f i).1) (fl ||| (f i).2)

/-- An instruction with these v operands and a governing mask. -/
def useV (word : Nat) (vs : List Nat) (k : Nat) : Use := ⟨word, [], vs, [k], false, false⟩

/-- Write a vector result with its flags and go on. The register counts as written, so that a late result pending on it is cancelled (R39), where no
element is active too (DESIGN CHOICE log 71). -/
def State.putV (s : State) (d : Nat) (r : Vec × Nat) : Result :=
  let s := s.wv d r.1
  .next (s.setMe (s.me.setFlags r.2)).retire

/-- An element-wise instruction: every active element of vd receives a value and raises its flags; the sources are read
before any element is written, and the other elements keep their old values (R100). -/
def State.vmap (s : State) (u : Use) (d k w : Nat) (f : State → Nat → Nat × Nat) : Result :=
  s.issue u fun s => s.putV d (fillElems w (f s) (s.actives k w) (s.rv d) 0)

/-- The pairwise tree of one level (R84). -/
def treeLevel (op : Nat → Nat → Nat × Nat) : List Nat → List Nat × Nat
  | [] => ([], 0)
  | [x] => ([x], 0)
  | x :: y :: r => let p := op x y; let q := treeLevel op r; (p.1 :: q.1, p.2 ||| q.2)

/-- The pairwise tree: levels until one value is left, with the flags of every ⊕ (R84). -/
def tree (op : Nat → Nat → Nat × Nat) : Nat → List Nat → Nat → List Nat × Nat
  | 0, l, fl => (l, fl)
  | n + 1, l, fl => let p := treeLevel op l; tree op n p.1 (fl ||| p.2)

end Sys2Proof.Machine
end

