-- ==== Sys2Proof/Machine/VecMem.lean ====
section
/-! DEFINITION. Vector loads and stores (R101 to R103). -/

namespace Sys2Proof.Machine

/-- Check the pieces of a vector access in rising order: their places, or the first failure with its lowest failing byte (R38, R101,
R204). A piece is an address and its bytes. -/
def State.pieces (s : State) (acc : Acc) : List (Word × Nat) → Except (Nat × Word) (List (Word × Nat × Place))
  | [] => .ok []
  | (a, n) :: r =>
    match s.reach (coreOf s.who) a n acc with
    | .error c => .error (c, s.badByte (coreOf s.who) a n acc c)
    | .ok p =>
      match State.pieces s acc r with
      | .error e => .error e
      | .ok l => .ok ((a, n, p) :: l)

/-- The 8-byte words of a unit-stride access of n bytes (R101). -/
def unitPieces : Nat → Word → Nat → List (Word × Nat)
  | 0, _, _ => []
  | k + 1, a, n => if n = 0 then [] else (a, min 8 n) :: unitPieces k (a + 8) (n - 8)

/-- The first piece that meets poison. -/
def State.poisonedPiece (s : State) (l : List (Word × Nat × Place)) : Option Word :=
  (l.find? fun p => s.poisonedAt p.2.2 p.2.1).map Prod.fst

/-- A vector load that has passed its checks: each piece goes to its bit position of vd (R101, R102, R213). -/
def State.vecLoad (s : State) (d la : Nat) (l : List ((Word × Nat × Place) × Nat)) : Result :=
  match s.poisonedPiece (l.map Prod.fst) with
  | some a => s.memErr a
  | none =>
    let data : Vec := l.foldl (fun v p => v ||| (BitVec.ofNat 512 (s.readPlace p.1.2.2 p.1.2.1) <<< p.2)) 0
    let mask : Vec := l.foldl (fun v p => v ||| (BitVec.ofNat 512 (2 ^ (8 * p.1.2.1) - 1) <<< p.2)) 0
    .next (s.finishLate (.v d) la ⟨data, mask⟩ (l.any fun p => p.1.2.2.far))

/-- The pieces of a vector store that leave: to a word of another package only the highest lane's value goes (R103). -/
def lastLanes : List ((Word × Nat × Place) × Nat) → List ((Word × Nat × Place) × Nat)
  | [] => []
  | p :: r =>
    match p.1.2.2 with
    | .here _ _ => p :: lastLanes r
    | .peer _ _ => if r.any fun q => decide (q.1.2.2 = p.1.2.2) then lastLanes r else p :: lastLanes r

/-- A vector store that has passed its checks: the pieces in rising order, so that the highest lane remains (R103). On a failed CXL set it
ends in MEMERR (R230). -/
def State.vecStore (s : State) (v la : Nat) (l : List ((Word × Nat × Place) × Nat)) : Result :=
  match l.find? fun p => s.writeFails p.1.2.2 with
  | some p => s.memErr p.1.1
  | none =>
    let data := (s.rv v).toNat
    let s' := (lastLanes l).foldl (fun t p => t.writePlace p.1.2.2 p.1.2.1 (data / 2 ^ p.2)) s
    .next ((if l.isEmpty then s' else s'.noteStore).finishOpen la)

/-- The lines that consecutive pieces cover whole lose their poison (R213). (DEDUCED log 65) -/
def State.wholeLines (s : State) (l : List (Word × Nat × Place)) : State :=
  let n := (l.map fun p => p.2.1).foldl (· + ·) 0
  match l.head?, l.getLast? with
  | some (_, _, .here k _), some (_, m, .here e _) => if e + m = k + n then s.clearPoison k n else s
  | _, _ => s

/-- A vector access whose pieces have passed their checks follows the thread's posted atomics on their bytes (R163, R166). -/
def State.afterPosted (s : State) (l : List ((Word × Nat × Place) × Nat)) (body : List ((Word × Nat × Place) × Nat) → Result) : Result :=
  if l.any fun p => s.postedAt p.1.2.2 p.1.2.1 then .next (s.hold .posted) else body l

/-- A unit-stride access: ALIGN, then each word (R101). -/
def State.unitAccess (s : State) (a : Nat) (imm : BitVec 8) (sz : Width) (acc : Acc)
    (body : List ((Word × Nat × Place) × Nat) → Result) : Result :=
  let addr := s.rg a + BitVec.ofInt 64 (64 * imm.toInt)
  let n := activeCount s.me.vl.toNat (Width.bitsOf sz) * (Width.bitsOf sz / 8)
  if n = 0 then body []
  else if addr.toNat % 8 ≠ 0 then s.takeTrap causeAlign addr
  else
    match s.pieces acc (unitPieces 8 addr n) with
    | .error (c, x) => s.takeTrap c x
    | .ok l => s.afterPosted (l.zipIdx.map fun p => (p.1, 64 * p.2)) body

/-- The checks of a strided or indexed access: per active lane ALIGN, then the rest; the first lane that fails decides, and TRAPVAL is its
address (R102). -/
def State.lanePieces (s : State) (acc : Acc) (addr : Nat → Word) : List Nat → Except (Nat × Word) (List ((Word × Nat × Place) × Nat))
  | [] => .ok []
  | i :: r =>
    match s.access (coreOf s.who) (addr i) 8 acc with
    | .error c => .error (c, addr i)
    | .ok p =>
      match State.lanePieces s acc addr r with
      | .error e => .error e
      | .ok l => .ok (((addr i, 8, p), 64 * i) :: l)

/-- A strided or indexed access over the active lanes. -/
def State.laneAccess (s : State) (k : Nat) (acc : Acc) (addr : Nat → Word)
    (body : List ((Word × Nat × Place) × Nat) → Result) : Result :=
  match s.lanePieces acc addr (s.actives k 64) with
  | .error (c, x) => s.takeTrap c x
  | .ok l => s.afterPosted l body

/-- The address of lane i: x + i × sy (R102). -/
def State.strideAddr (s : State) (a b i : Nat) : Word := s.rg a + BitVec.ofNat 64 i * s.rg b
/-- The address of lane i: x + elem(vb, 64, i) (R102). -/
def State.indexAddr (s : State) (a b i : Nat) : Word := s.rg a + BitVec.ofNat 64 (elem (s.rv b) 64 i)

/-- vld (R101): Loads the active elements of a vector register from consecutive bytes. -/
def execVld (d : V) (a : G) (imm : BitVec 8) (sz : Width) (la : La) (s : State) : Result :=
  s.issueMem ((useG (encVM 0x60 sz.code la imm.toNat a d) [a]).addV [d]) fun s => s.unitAccess a imm sz accLoad (s.vecLoad d la)

/-- vst (R101): Stores the active elements of a vector register to consecutive bytes. -/
def execVst (d : V) (a : G) (imm : BitVec 8) (sz : Width) (la : La) (s : State) : Result :=
  s.issueMem ((useG (encVM 0x61 sz.code la imm.toNat a d) [a]).addV [d]) fun s => s.unitAccess a imm sz accStore fun l => (s.wholeLines (l.map Prod.fst)).vecStore d la l

/-- vlds (R102): Loads active 64-bit lanes from strided addresses. -/
def execVlds (d : V) (a b : G) (k : K) (la : La) (s : State) : Result :=
  s.issueMem (((useG (encVS 0x62 k la b a d) [a, b]).addV [d]).addK [k]) fun s => s.laneAccess k accLoad (s.strideAddr a b) (s.vecLoad d la)

/-- vsts (R102): Stores active 64-bit lanes to strided addresses. -/
def execVsts (d : V) (a b : G) (k : K) (la : La) (s : State) : Result :=
  s.issueMem (((useG (encVS 0x63 k la b a d) [a, b]).addV [d]).addK [k]) fun s => s.laneAccess k accStore (s.strideAddr a b) (s.vecStore d la)

/-- vgth (R102): Gathers active 64-bit lanes from base plus vector indices. -/
def execVgth (d : V) (a : G) (b : V) (k : K) (la : La) (s : State) : Result :=
  s.issueMem (((useG (encVS 0x64 k la b a d) [a]).addV [d, b]).addK [k]) fun s => s.laneAccess k accLoad (s.indexAddr a b) (s.vecLoad d la)

/-- vsct (R102): Scatters active 64-bit lanes to base plus vector indices. -/
def execVsct (d : V) (a : G) (b : V) (k : K) (la : La) (s : State) : Result :=
  s.issueMem (((useG (encVS 0x65 k la b a d) [a]).addV [d, b]).addK [k]) fun s => s.laneAccess k accStore (s.indexAddr a b) (s.vecStore d la)

end Sys2Proof.Machine
end

