-- ==== Sys2Proof/Machine/Vector.lean ====
section
/-! DEFINITION. Vector arithmetic, comparison, selection, reduction, moves, permutation, conversion and the mask operations
(R104 to R113). -/

namespace Sys2Proof.Machine

/-- vd, va, vb: an element-wise operation on patterns (R104, R106). -/
def State.vop3 (s : State) (word : Nat) (d a b : V) (k : K) (w : Nat) (f : Nat → Nat → Nat → Nat × Nat) : Result :=
  s.vmap (useV word [d, a, b] k) d k w fun s i => f s.me.rm (elem (s.rv a) w i) (elem (s.rv b) w i)
/-- vd, va: an element-wise operation of one operand. -/
def State.vop2 (s : State) (word : Nat) (d a : V) (k : K) (w : Nat) (f : Nat → Nat → Nat × Nat) : Result :=
  s.vmap (useV word [d, a] k) d k w fun s i => f s.me.rm (elem (s.rv a) w i)
/-- vd, va, vb, vc: a fused multiply-add; np negates the product and nz the addend (R105). -/
def State.vop4 (s : State) (word : Nat) (d a b c : V) (k : K) (f : Fmt) (np nz : Bool) : Result :=
  s.vmap (useV word [d, a, b, c] k) d k f.width fun s i =>
    ffma f s.me.rm np nz (elem (s.rv a) f.width i) (elem (s.rv b) f.width i) (elem (s.rv c) f.width i)

/-- The signed reading of a w-bit pattern. -/
def signedN (w v : Nat) : Int := if v < 2 ^ (w - 1) then (v : Int) else (v : Int) - 2 ^ w
/-- An integer modulo 2^w. -/
def wrapN (w : Nat) (i : Int) : Nat := (i % 2 ^ w).toNat
/-- Clamp to a range, modulo 2^w. -/
def clampN (w : Nat) (lo hi i : Int) : Nat := wrapN w (if i < lo then lo else if hi < i then hi else i)
/-- Clamp to the signed w-bit range. -/
def clampS (w : Nat) (i : Int) : Nat := clampN w (-2 ^ (w - 1)) (2 ^ (w - 1) - 1) i
/-- Clamp to the unsigned w-bit range. -/
def clampU (w : Nat) (i : Int) : Nat := clampN w 0 (2 ^ w - 1) i

/-- An integer operation of R106: a value of the width and the operands' patterns, without flags. -/
def State.vint3 (s : State) (word : Nat) (d a b : V) (wc : Width) (k : K) (f : Nat → Nat → Nat → Nat) : Result :=
  s.vop3 word d a b k (Width.bitsOf wc) fun _ x y => quietF (f (Width.bitsOf wc) x y)

/-- vfadd.d (R104): Element-wise binary64 addition. -/
def execVfaddD (d a b : V) (k : K) (s : State) : Result :=
  s.vop3 (encV 0x66 0x00 k d a b) d a b k 64 (fadd fmt64)

/-- vfsub.d (R104): Element-wise binary64 subtraction. -/
def execVfsubD (d a b : V) (k : K) (s : State) : Result :=
  s.vop3 (encV 0x66 0x01 k d a b) d a b k 64 (fsub fmt64)

/-- vfmul.d (R104): Element-wise binary64 multiplication. -/
def execVfmulD (d a b : V) (k : K) (s : State) : Result :=
  s.vop3 (encV 0x66 0x02 k d a b) d a b k 64 (fmul fmt64)

/-- vfdiv.d (R104): Element-wise binary64 division. -/
def execVfdivD (d a b : V) (k : K) (s : State) : Result :=
  s.vop3 (encV 0x66 0x03 k d a b) d a b k 64 (fdiv fmt64)

/-- vfmin.d (R104): Element-wise binary64 minimum. -/
def execVfminD (d a b : V) (k : K) (s : State) : Result :=
  s.vop3 (encV 0x66 0x05 k d a b) d a b k 64 (fun _ x y => fminmax fmt64 false x y)

/-- vfmax.d (R104): Element-wise binary64 maximum. -/
def execVfmaxD (d a b : V) (k : K) (s : State) : Result :=
  s.vop3 (encV 0x66 0x06 k d a b) d a b k 64 (fun _ x y => fminmax fmt64 true x y)

/-- vfsgnj.d (R104): Element-wise binary64 sign injection. -/
def execVfsgnjD (d a b : V) (k : K) (s : State) : Result :=
  s.vop3 (encV 0x66 0x08 k d a b) d a b k 64 (fun _ x y => quietF (fsgnj fmt64 x y))

/-- vfsgnjn.d (R104): Element-wise binary64 inverted sign injection. -/
def execVfsgnjnD (d a b : V) (k : K) (s : State) : Result :=
  s.vop3 (encV 0x66 0x09 k d a b) d a b k 64 (fun _ x y => quietF (fsgnjn fmt64 x y))

/-- vfsgnjx.d (R104): Element-wise binary64 XOR sign injection. -/
def execVfsgnjxD (d a b : V) (k : K) (s : State) : Result :=
  s.vop3 (encV 0x66 0x0A k d a b) d a b k 64 (fun _ x y => quietF (fsgnjx fmt64 x y))

/-- vfsqrt.d (R104): Element-wise binary64 square root. -/
def execVfsqrtD (d a : V) (k : K) (s : State) : Result :=
  s.vop2 (encV 0x66 0x04 k d a 0) d a k 64 (fsqrt fmt64)

/-- vfclass.d (R104): Element-wise binary64 class mask. -/
def execVfclassD (d a : V) (k : K) (s : State) : Result :=
  s.vop2 (encV 0x66 0x0C k d a 0) d a k 64 (fun _ x => quietF (fclass fmt64 x))

/-- vfma.d (R105): Element-wise binary64 fused multiply-add. -/
def execVfmaD (d a b c : V) (k : K) (s : State) : Result :=
  s.vop4 (encVF4 0x68 0 k d a b c) d a b c k fmt64 false false

/-- vfms.d (R105): Element-wise binary64 fused multiply-subtract. -/
def execVfmsD (d a b c : V) (k : K) (s : State) : Result :=
  s.vop4 (encVF4 0x68 1 k d a b c) d a b c k fmt64 false true

/-- vfnma.d (R105): Element-wise binary64 negated-product multiply-add. -/
def execVfnmaD (d a b c : V) (k : K) (s : State) : Result :=
  s.vop4 (encVF4 0x68 2 k d a b c) d a b c k fmt64 true false

/-- vfnms.d (R105): Element-wise binary64 negated-product multiply-subtract. -/
def execVfnmsD (d a b c : V) (k : K) (s : State) : Result :=
  s.vop4 (encVF4 0x68 3 k d a b c) d a b c k fmt64 true true

/-- vfadd.s (R104): Element-wise binary32 addition. -/
def execVfaddS (d a b : V) (k : K) (s : State) : Result :=
  s.vop3 (encV 0x67 0x00 k d a b) d a b k 32 (fadd fmt32)

/-- vfsub.s (R104): Element-wise binary32 subtraction. -/
def execVfsubS (d a b : V) (k : K) (s : State) : Result :=
  s.vop3 (encV 0x67 0x01 k d a b) d a b k 32 (fsub fmt32)

/-- vfmul.s (R104): Element-wise binary32 multiplication. -/
def execVfmulS (d a b : V) (k : K) (s : State) : Result :=
  s.vop3 (encV 0x67 0x02 k d a b) d a b k 32 (fmul fmt32)

/-- vfdiv.s (R104): Element-wise binary32 division. -/
def execVfdivS (d a b : V) (k : K) (s : State) : Result :=
  s.vop3 (encV 0x67 0x03 k d a b) d a b k 32 (fdiv fmt32)

/-- vfmin.s (R104): Element-wise binary32 minimum. -/
def execVfminS (d a b : V) (k : K) (s : State) : Result :=
  s.vop3 (encV 0x67 0x05 k d a b) d a b k 32 (fun _ x y => fminmax fmt32 false x y)

/-- vfmax.s (R104): Element-wise binary32 maximum. -/
def execVfmaxS (d a b : V) (k : K) (s : State) : Result :=
  s.vop3 (encV 0x67 0x06 k d a b) d a b k 32 (fun _ x y => fminmax fmt32 true x y)

/-- vfsgnj.s (R104): Element-wise binary32 sign injection. -/
def execVfsgnjS (d a b : V) (k : K) (s : State) : Result :=
  s.vop3 (encV 0x67 0x08 k d a b) d a b k 32 (fun _ x y => quietF (fsgnj fmt32 x y))

/-- vfsgnjn.s (R104): Element-wise binary32 inverted sign injection. -/
def execVfsgnjnS (d a b : V) (k : K) (s : State) : Result :=
  s.vop3 (encV 0x67 0x09 k d a b) d a b k 32 (fun _ x y => quietF (fsgnjn fmt32 x y))

/-- vfsgnjx.s (R104): Element-wise binary32 XOR sign injection. -/
def execVfsgnjxS (d a b : V) (k : K) (s : State) : Result :=
  s.vop3 (encV 0x67 0x0A k d a b) d a b k 32 (fun _ x y => quietF (fsgnjx fmt32 x y))

/-- vfsqrt.s (R104): Element-wise binary32 square root. -/
def execVfsqrtS (d a : V) (k : K) (s : State) : Result :=
  s.vop2 (encV 0x67 0x04 k d a 0) d a k 32 (fsqrt fmt32)

/-- vfclass.s (R104): Element-wise binary32 class mask. -/
def execVfclassS (d a : V) (k : K) (s : State) : Result :=
  s.vop2 (encV 0x67 0x0C k d a 0) d a k 32 (fun _ x => quietF (fclass fmt32 x))

/-- vfma.s (R105): Element-wise binary32 fused multiply-add. -/
def execVfmaS (d a b c : V) (k : K) (s : State) : Result :=
  s.vop4 (encVF4 0x69 0 k d a b c) d a b c k fmt32 false false

/-- vfms.s (R105): Element-wise binary32 fused multiply-subtract. -/
def execVfmsS (d a b c : V) (k : K) (s : State) : Result :=
  s.vop4 (encVF4 0x69 1 k d a b c) d a b c k fmt32 false true

/-- vfnma.s (R105): Element-wise binary32 negated-product multiply-add. -/
def execVfnmaS (d a b c : V) (k : K) (s : State) : Result :=
  s.vop4 (encVF4 0x69 2 k d a b c) d a b c k fmt32 true false

/-- vfnms.s (R105): Element-wise binary32 negated-product multiply-subtract. -/
def execVfnmsS (d a b c : V) (k : K) (s : State) : Result :=
  s.vop4 (encVF4 0x69 3 k d a b c) d a b c k fmt32 true true

/-- vadd (R106): Element-wise integer addition modulo 2^w. -/
def execVadd (d a b : V) (wc : Width) (k : K) (s : State) : Result :=
  s.vint3 (encV 0x6A (0 + wc.code) k d a b) d a b wc k fun w x y => wrapN w (x + y)

/-- vsub (R106): Element-wise integer subtraction modulo 2^w. -/
def execVsub (d a b : V) (wc : Width) (k : K) (s : State) : Result :=
  s.vint3 (encV 0x6A (4 + wc.code) k d a b) d a b wc k fun w x y => wrapN w ((x : Int) - y)

/-- vadds (R106): Element-wise signed saturating addition. -/
def execVadds (d a b : V) (wc : Width) (k : K) (s : State) : Result :=
  s.vint3 (encV 0x6A (8 + wc.code) k d a b) d a b wc k fun w x y => clampS w (signedN w x + signedN w y)

/-- vaddus (R106): Element-wise unsigned saturating addition. -/
def execVaddus (d a b : V) (wc : Width) (k : K) (s : State) : Result :=
  s.vint3 (encV 0x6A (12 + wc.code) k d a b) d a b wc k fun w x y => clampU w (x + y)

/-- vsubs (R106): Element-wise signed saturating subtraction. -/
def execVsubs (d a b : V) (wc : Width) (k : K) (s : State) : Result :=
  s.vint3 (encV 0x6A (16 + wc.code) k d a b) d a b wc k fun w x y => clampS w (signedN w x - signedN w y)

/-- vsubus (R106): Element-wise unsigned saturating subtraction. -/
def execVsubus (d a b : V) (wc : Width) (k : K) (s : State) : Result :=
  s.vint3 (encV 0x6A (20 + wc.code) k d a b) d a b wc k fun w x y => clampU w ((x : Int) - y)

/-- vmul (R106): Element-wise low product. -/
def execVmul (d a b : V) (wc : Width) (k : K) (s : State) : Result :=
  s.vint3 (encV 0x6A (24 + wc.code) k d a b) d a b wc k fun w x y => wrapN w (x * y)

/-- vmulh (R106): Element-wise signed high product. -/
def execVmulh (d a b : V) (wc : Width) (k : K) (s : State) : Result :=
  s.vint3 (encV 0x6A (28 + wc.code) k d a b) d a b wc k fun w x y => wrapN w (signedN w x * signedN w y / 2 ^ w)

/-- vmulhu (R106): Element-wise unsigned high product. -/
def execVmulhu (d a b : V) (wc : Width) (k : K) (s : State) : Result :=
  s.vint3 (encV 0x6A (32 + wc.code) k d a b) d a b wc k fun w x y => x * y / 2 ^ w

/-- vand (R106): Element-wise AND. -/
def execVand (d a b : V) (wc : Width) (k : K) (s : State) : Result :=
  s.vint3 (encV 0x6A (36 + wc.code) k d a b) d a b wc k fun _ x y => x &&& y

/-- vor (R106): Element-wise OR. -/
def execVor (d a b : V) (wc : Width) (k : K) (s : State) : Result :=
  s.vint3 (encV 0x6A (40 + wc.code) k d a b) d a b wc k fun _ x y => x ||| y

/-- vxor (R106): Element-wise XOR. -/
def execVxor (d a b : V) (wc : Width) (k : K) (s : State) : Result :=
  s.vint3 (encV 0x6A (44 + wc.code) k d a b) d a b wc k fun _ x y => x ^^^ y

/-- vsll (R106): Element-wise left shift. -/
def execVsll (d a b : V) (wc : Width) (k : K) (s : State) : Result :=
  s.vint3 (encV 0x6A (48 + wc.code) k d a b) d a b wc k fun w x y => x * 2 ^ (y % w) % 2 ^ w

/-- vsrl (R106): Element-wise logical right shift. -/
def execVsrl (d a b : V) (wc : Width) (k : K) (s : State) : Result :=
  s.vint3 (encV 0x6A (52 + wc.code) k d a b) d a b wc k fun w x y => x / 2 ^ (y % w)

/-- vsra (R106): Element-wise arithmetic right shift. -/
def execVsra (d a b : V) (wc : Width) (k : K) (s : State) : Result :=
  s.vint3 (encV 0x6A (56 + wc.code) k d a b) d a b wc k fun w x y => wrapN w (signedN w x / 2 ^ (y % w))

/-- vmin (R106): Element-wise signed minimum. -/
def execVmin (d a b : V) (wc : Width) (k : K) (s : State) : Result :=
  s.vint3 (encV 0x6A (60 + wc.code) k d a b) d a b wc k fun w x y => if signedN w x < signedN w y then x else y

/-- vmax (R106): Element-wise signed maximum. -/
def execVmax (d a b : V) (wc : Width) (k : K) (s : State) : Result :=
  s.vint3 (encV 0x6A (64 + wc.code) k d a b) d a b wc k fun w x y => if signedN w x < signedN w y then y else x

/-- vminu (R106): Element-wise unsigned minimum. -/
def execVminu (d a b : V) (wc : Width) (k : K) (s : State) : Result :=
  s.vint3 (encV 0x6A (68 + wc.code) k d a b) d a b wc k fun _ x y => min x y

/-- vmaxu (R106): Element-wise unsigned maximum. -/
def execVmaxu (d a b : V) (wc : Width) (k : K) (s : State) : Result :=
  s.vint3 (encV 0x6A (72 + wc.code) k d a b) d a b wc k fun _ x y => max x y

/-- vabs (R106): Element-wise saturating absolute value. -/
def execVabs (d a : V) (wc : Width) (k : K) (s : State) : Result :=
  s.vop2 (encV 0x6A (76 + wc.code) k d a 0) d a k (Width.bitsOf wc) fun _ x => quietF (min (signedN (Width.bitsOf wc) x).natAbs (2 ^ (Width.bitsOf wc - 1) - 1))

/-- Element width of a vcmp type (R107). -/
def CmpTy.bitsOf : CmpTy → Nat
  | .f64 | .i64 => 64 | .f32 | .i32 => 32 | .i16 => 16 | .i8 => 8

/-- A float condition of R107 with its flags. -/
def cmpFloat (f : Fmt) (cond x y : Nat) : Bool × Nat :=
  let a := f.decode x; let b := f.decode y
  if cond = 0 then feq f x y
  else if cond = 1 then (!(feq f x y).1, (feq f x y).2)
  else if cond = 2 then flt f x y
  else if cond = 3 then fle f x y
  else (a.isNan || b.isNan, nvOf [a, b])

/-- An integer condition of R107. -/
def cmpInt (w cond x y : Nat) : Bool :=
  if cond = 0 then x == y
  else if cond = 1 then x != y
  else if cond = 2 then decide (signedN w x < signedN w y)
  else if cond = 3 then decide (signedN w x ≤ signedN w y)
  else if cond = 4 then decide (x < y)
  else decide (x ≤ y)

/-- A condition of R107 on a type. -/
def cmpElem (ty : CmpTy) (cond x y : Nat) : Bool × Nat :=
  match ty with
  | .f64 => cmpFloat fmt64 cond x y
  | .f32 => cmpFloat fmt32 cond x y
  | .i8 => (cmpInt 8 cond x y, 0)
  | .i16 => (cmpInt 16 cond x y, 0)
  | .i32 => (cmpInt 32 cond x y, 0)
  | .i64 => (cmpInt 64 cond x y, 0)

/-- The bits of a mask from a predicate on lanes. -/
def maskOf (f : Nat → Bool) : BitVec 8 :=
  BitVec.ofNat 8 ((List.range 8).foldl (fun v l => if f l then v + 2 ^ l else v) 0)

/-- Bit L of a compare (R107): 0 without an active element of the lane, else the AND or the OR over them. -/
def cmpLane (w : Nat) (any : Bool) (act : List Nat) (f : Nat → Bool) (l : Nat) : Bool :=
  let es := act.filter fun i => decide (i * w / 64 = l)
  if es.isEmpty then false else if any then es.any f else es.all f

/-- vcmp (R107): Compares elements and writes a lane mask register. A destination k0 is ILLEGAL (DESIGN CHOICE log 100). -/
def execVcmp (kd : K) (a b : V) (cond : Fin 6) (ty : CmpTy) (any : Bool) (k : K) (s : State) : Result :=
  let bad := decide (kd.val = 0) || (ty.isFloat && decide (cond.val = 5))
  s.issue ((useV (encV 0x6B (ty.code + 8 * cond.val + 64 * any.toNat) k kd a b) [a, b] k).addK [kd, k] |>.ill bad) fun s =>
    let w := CmpTy.bitsOf ty
    let act := s.actives k w
    let f := fun i => cmpElem ty cond (elem (s.rv a) w i) (elem (s.rv b) w i)
    let fl := act.foldl (fun x i => x ||| (f i).2) 0
    let s := s.wk kd (maskOf (cmpLane w any act fun i => (f i).1))
    .next (s.setMe (s.me.setFlags fl)).retire

/-- vsel (R108): Selects each 64-bit lane from one of two registers by a mask. -/
def execVsel (d a b : V) (k : K) (s : State) : Result :=
  s.issue (useV (encV 0x6C 0 k d a b) [d, a, b] k) fun s =>
    s.putV d (fillElems 64 (fun l => quietF (elem (if (s.rk k).getLsbD l then s.rv a else s.rv b) 64 l)) (List.range 8) (s.rv d) 0)

/-- A reduction (R109): the tree over the active elements goes to element 0; without one, the value `none`. A single
element passes up by `one`. -/
def State.reduce (s : State) (word : Nat) (d a : V) (k : K) (w : Nat) (bad : Bool) (empty : Nat)
    (op : Nat → Nat → Nat → Nat × Nat) (one : Nat → Nat × Nat) : Result :=
  s.issue ((useV word [d, a] k).ill bad) fun s =>
    let l := (s.actives k w).map fun i => elem (s.rv a) w i
    let t := tree (op s.me.rm) 6 l 0
    let r : Nat × Nat :=
      match t.1 with
      | [] => (empty, 0)
      | x :: _ => if l.length = 1 then one x else (x, t.2)
    s.putV d (setElem (s.rv d) w 0 r.1, r.2)

/-- A single NaN becomes the canonical quiet NaN, and a signalling one sets NV (R109). -/
def oneF (f : Fmt) (x : Nat) : Nat × Nat :=
  if (f.decode x).isNan then (f.qnan, nvOf [f.decode x]) else (x, 0)

/-- The float format of a width; a floating reduction has no other (R109). -/
def floatOf : Width → Fmt
  | .w => fmt32
  | .b | .h | .d => fmt64

/-- A floating reduction. -/
def State.reduceF (s : State) (word : Nat) (d a : V) (wc : Width) (k : K) (empty : Fmt → Nat)
    (op : Fmt → Nat → Nat → Nat → Nat × Nat) : Result :=
  s.reduce word d a k (Width.bitsOf wc) (!floatWidth wc) (empty (floatOf wc)) (op (floatOf wc)) (oneF (floatOf wc))

/-- An integer reduction. -/
def State.reduceI (s : State) (word : Nat) (d a : V) (wc : Width) (k : K) (empty : Nat → Nat) (op : Nat → Nat → Nat → Nat) : Result :=
  s.reduce word d a k (Width.bitsOf wc) false (empty (Width.bitsOf wc)) (fun _ x y => quietF (op (Width.bitsOf wc) x y)) quietF

/-- vred.fadd (R109): Reduces active elements by floating addition in the pairwise tree. -/
def execVredFadd (d a : V) (wc : Width) (k : K) (s : State) : Result :=
  s.reduceF (encV 0x6D (0 + wc.code) k d a 0) d a wc k (fun _ => 0) fadd

/-- vred.fmin (R109): Reduces active elements by floating minimum. -/
def execVredFmin (d a : V) (wc : Width) (k : K) (s : State) : Result :=
  s.reduceF (encV 0x6D (4 + wc.code) k d a 0) d a wc k Fmt.infBits fun f _ x y => fminmax f false x y

/-- vred.fmax (R109): Reduces active elements by floating maximum. -/
def execVredFmax (d a : V) (wc : Width) (k : K) (s : State) : Result :=
  s.reduceF (encV 0x6D (8 + wc.code) k d a 0) d a wc k (fun f => f.signBit true + f.infBits) fun f _ x y => fminmax f true x y

/-- vred.add (R109): Reduces active elements by integer addition. -/
def execVredAdd (d a : V) (wc : Width) (k : K) (s : State) : Result :=
  s.reduceI (encV 0x6D (16 + wc.code) k d a 0) d a wc k (fun _ => 0) fun w x y => (x + y) % 2 ^ w

/-- vred.and (R109): Reduces active elements by AND. -/
def execVredAnd (d a : V) (wc : Width) (k : K) (s : State) : Result :=
  s.reduceI (encV 0x6D (20 + wc.code) k d a 0) d a wc k (fun w => 2 ^ w - 1) fun _ x y => x &&& y

/-- vred.or (R109): Reduces active elements by OR. -/
def execVredOr (d a : V) (wc : Width) (k : K) (s : State) : Result :=
  s.reduceI (encV 0x6D (24 + wc.code) k d a 0) d a wc k (fun _ => 0) fun _ x y => x ||| y

/-- vred.xor (R109): Reduces active elements by XOR. -/
def execVredXor (d a : V) (wc : Width) (k : K) (s : State) : Result :=
  s.reduceI (encV 0x6D (28 + wc.code) k d a 0) d a wc k (fun _ => 0) fun _ x y => x ^^^ y

/-- vred.min (R109): Reduces active elements by signed minimum. -/
def execVredMin (d a : V) (wc : Width) (k : K) (s : State) : Result :=
  s.reduceI (encV 0x6D (32 + wc.code) k d a 0) d a wc k (fun w => 2 ^ (w - 1) - 1) fun w x y => if signedN w x < signedN w y then x else y

/-- vred.max (R109): Reduces active elements by signed maximum. -/
def execVredMax (d a : V) (wc : Width) (k : K) (s : State) : Result :=
  s.reduceI (encV 0x6D (36 + wc.code) k d a 0) d a wc k (fun w => 2 ^ (w - 1)) fun w x y => if signedN w x < signedN w y then y else x

/-- vred.minu (R109): Reduces active elements by unsigned minimum. -/
def execVredMinu (d a : V) (wc : Width) (k : K) (s : State) : Result :=
  s.reduceI (encV 0x6D (40 + wc.code) k d a 0) d a wc k (fun w => 2 ^ w - 1) fun _ x y => min x y

/-- vred.maxu (R109): Reduces active elements by unsigned maximum. -/
def execVredMaxu (d a : V) (wc : Width) (k : K) (s : State) : Result :=
  s.reduceI (encV 0x6D (44 + wc.code) k d a 0) d a wc k (fun _ => 0) fun _ x y => max x y

/-- splat (R110): Copies a scalar register into every active vector element. -/
def execSplat (d : V) (g : G) (wc : Width) (k : K) (s : State) : Result :=
  s.vmap ((useV (encVX 0x6E wc.code k g 0 d) [d] k) |> fun u => { u with gs := [g.val] }) d k (Width.bitsOf wc) fun s _ =>
    quietF ((s.rg g).toNat % 2 ^ Width.bitsOf wc)

/-- extr (R110): Extracts one vector element into a scalar register. -/
def execExtr (g : G) (v : V) (idx : Fin 16) (wc : Width) (s : State) : Result :=
  s.issue (((useG (encVX 0x6E (4 + wc.code) 0 g idx v) [g]).addV [v]).ill (!idxOk idx wc)) fun s =>
    .next (s.wg g (BitVec.ofNat 64 (elem (s.rv v) (Width.bitsOf wc) idx))).retire

/-- ins (R110): Inserts a scalar into one vector element. -/
def execIns (v : V) (g : G) (idx : Fin 16) (wc : Width) (s : State) : Result :=
  s.issue (((useG (encVX 0x6E (8 + wc.code) 0 g idx v) [g]).addV [v]).ill (!idxOk idx wc)) fun s =>
    .next (s.wv v (setElem (s.rv v) (Width.bitsOf wc) idx (s.rg g).toNat)).retire

/-- extr.k (R110): Copies a mask register into a scalar register. -/
def execExtrK (g : G) (kd : K) (s : State) : Result :=
  s.issue ((useG (encVX 0x6E 12 0 g 0 kd) [g]).addK [kd]) fun s => .next (s.wg g ((s.rk kd).setWidth 64)).retire

/-- ins.k (R110): Copies the low byte of a scalar register into a mask register. A destination k0 is ILLEGAL (DESIGN CHOICE log 100). -/
def execInsK (kd : K) (g : G) (s : State) : Result :=
  s.issue (((useG (encVX 0x6E 13 0 g 0 kd) [g]).addK [kd]).ill (decide (kd.val = 0))) fun s => .next (s.wk kd ((s.rg g).setWidth 8)).retire

/-- vperm (R111): Permutes elements of a register by indices in another. -/
def execVperm (d a b : V) (wc : Width) (k : K) (s : State) : Result :=
  s.vmap (useV (encV 0x6F wc.code k d a b) [d, a, b] k) d k (Width.bitsOf wc) fun s i =>
    let w := Width.bitsOf wc
    quietF (elem (s.rv a) w (elem (s.rv b) w i % (512 / w)))

/-- vcvt (R112): Converts active elements between types as fcvt does. -/
def execVcvt (d a : V) (rtz : Bool) (dst src : NumTy) (k : K) (s : State) : Result :=
  s.issue ((useV (encV 0x70 (src.code + 8 * dst.code + 64 * rtz.toNat) k d a 0) [d, a] k).ill (!cvtOk dst src)) fun s =>
    let wm := max (numWidth dst) (numWidth src)
    let f := fun i => convert s.me.rm rtz dst src (elem (s.rv a) (numWidth src) i)
    s.putV d (fillElems (numWidth dst) f (s.actives k wm) (s.rv d) 0)

/-- A mask operation: kD, which is not k0, receives a value (R113). -/
def State.kop (s : State) (word : Nat) (kd : K) (ks : List Nat) (f : State → BitVec 8) : Result :=
  s.issue ((useV word [] kd).addK (kd.val :: ks) |>.ill (decide (kd.val = 0))) fun s => .next (s.wk kd (f s)).retire

/-- kand (R113): ANDs two mask registers. -/
def execKand (kd ka kb : K) (s : State) : Result :=
  s.kop (encV 0x71 0 0 kd ka kb) kd [ka, kb] fun s => s.rk ka &&& s.rk kb

/-- kor (R113): ORs two mask registers. -/
def execKor (kd ka kb : K) (s : State) : Result :=
  s.kop (encV 0x71 1 0 kd ka kb) kd [ka, kb] fun s => s.rk ka ||| s.rk kb

/-- kxor (R113): XORs two mask registers. -/
def execKxor (kd ka kb : K) (s : State) : Result :=
  s.kop (encV 0x71 2 0 kd ka kb) kd [ka, kb] fun s => s.rk ka ^^^ s.rk kb

/-- kandn (R113): ANDs a mask with the complement of another. -/
def execKandn (kd ka kb : K) (s : State) : Result :=
  s.kop (encV 0x71 3 0 kd ka kb) kd [ka, kb] fun s => s.rk ka &&& ~~~s.rk kb

/-- knot (R113): Complements a mask register. -/
def execKnot (kd ka : K) (s : State) : Result :=
  s.kop (encV 0x71 4 0 kd ka 0) kd [ka] fun s => ~~~s.rk ka

/-- kli (R113): Loads an 8-bit immediate into a mask register. -/
def execKli (kd : K) (imm : BitVec 8) (s : State) : Result :=
  s.kop (encV 0x71 5 0 kd (imm.toNat % 32) (imm.toNat / 32)) kd [] fun _ => imm

end Sys2Proof.Machine
end

