-- ==== Sys2Proof/Machine/Dispatch.lean ====
section
/-! DEFINITION. The dispatch: one arm for each instruction, each a direct call of its meaning. -/

namespace Sys2Proof.Machine

/-- What one instruction, operation or event does to the state. -/
def exec (i : Instr) (s : State) : Host.Outcome State Fault Refusal :=
  match i with
  | .add d a b => Sys2Proof.Machine.execAdd d a b s
  | .sub d a b => Sys2Proof.Machine.execSub d a b s
  | .and d a b => Sys2Proof.Machine.execAnd d a b s
  | .or d a b => Sys2Proof.Machine.execOr d a b s
  | .xor d a b => Sys2Proof.Machine.execXor d a b s
  | .andn d a b => Sys2Proof.Machine.execAndn d a b s
  | .orn d a b => Sys2Proof.Machine.execOrn d a b s
  | .sll d a b => Sys2Proof.Machine.execSll d a b s
  | .srl d a b => Sys2Proof.Machine.execSrl d a b s
  | .sra d a b => Sys2Proof.Machine.execSra d a b s
  | .rol d a b => Sys2Proof.Machine.execRol d a b s
  | .ror d a b => Sys2Proof.Machine.execRor d a b s
  | .slt d a b => Sys2Proof.Machine.execSlt d a b s
  | .sltu d a b => Sys2Proof.Machine.execSltu d a b s
  | .seq d a b => Sys2Proof.Machine.execSeq d a b s
  | .sne d a b => Sys2Proof.Machine.execSne d a b s
  | .min d a b => Sys2Proof.Machine.execMin d a b s
  | .max d a b => Sys2Proof.Machine.execMax d a b s
  | .minu d a b => Sys2Proof.Machine.execMinu d a b s
  | .maxu d a b => Sys2Proof.Machine.execMaxu d a b s
  | .mul d a b => Sys2Proof.Machine.execMul d a b s
  | .mulh d a b => Sys2Proof.Machine.execMulh d a b s
  | .mulhu d a b => Sys2Proof.Machine.execMulhu d a b s
  | .mulhsu d a b => Sys2Proof.Machine.execMulhsu d a b s
  | .div d a b => Sys2Proof.Machine.execDiv d a b s
  | .divu d a b => Sys2Proof.Machine.execDivu d a b s
  | .rem d a b => Sys2Proof.Machine.execRem d a b s
  | .remu d a b => Sys2Proof.Machine.execRemu d a b s
  | .clz d a => Sys2Proof.Machine.execClz d a s
  | .ctz d a => Sys2Proof.Machine.execCtz d a s
  | .popc d a => Sys2Proof.Machine.execPopc d a s
  | .brev d a => Sys2Proof.Machine.execBrev d a s
  | .bswap d a => Sys2Proof.Machine.execBswap d a s
  | .sextB d a => Sys2Proof.Machine.execSextB d a s
  | .sextH d a => Sys2Proof.Machine.execSextH d a s
  | .sextW d a => Sys2Proof.Machine.execSextW d a s
  | .zextW d a => Sys2Proof.Machine.execZextW d a s
  | .addi d a imm => Sys2Proof.Machine.execAddi d a imm s
  | .andi d a imm => Sys2Proof.Machine.execAndi d a imm s
  | .ori d a imm => Sys2Proof.Machine.execOri d a imm s
  | .xori d a imm => Sys2Proof.Machine.execXori d a imm s
  | .slti d a imm => Sys2Proof.Machine.execSlti d a imm s
  | .sltiu d a imm => Sys2Proof.Machine.execSltiu d a imm s
  | .slli d a amount => Sys2Proof.Machine.execSlli d a amount s
  | .srli d a amount => Sys2Proof.Machine.execSrli d a amount s
  | .srai d a amount => Sys2Proof.Machine.execSrai d a amount s
  | .rori d a amount => Sys2Proof.Machine.execRori d a amount s
  | .lui d imm => Sys2Proof.Machine.execLui d imm s
  | .adpc d imm => Sys2Proof.Machine.execAdpc d imm s
  | .bfx d a lsb wm1 sx => Sys2Proof.Machine.execBfx d a lsb wm1 sx s
  | .bfi d a lsb wm1 => Sys2Proof.Machine.execBfi d a lsb wm1 s
  | .madr d a b => Sys2Proof.Machine.execMadr d a b s
  | .mrel d a b => Sys2Proof.Machine.execMrel d a b s
  | .mabs d a => Sys2Proof.Machine.execMabs d a s
  | .mcrd d a => Sys2Proof.Machine.execMcrd d a s
  | .beq a b imm => Sys2Proof.Machine.execBeq a b imm s
  | .bne a b imm => Sys2Proof.Machine.execBne a b imm s
  | .blt a b imm => Sys2Proof.Machine.execBlt a b imm s
  | .bge a b imm => Sys2Proof.Machine.execBge a b imm s
  | .bltu a b imm => Sys2Proof.Machine.execBltu a b imm s
  | .bgeu a b imm => Sys2Proof.Machine.execBgeu a b imm s
  | .jal d imm => Sys2Proof.Machine.execJal d imm s
  | .jalr d a imm => Sys2Proof.Machine.execJalr d a imm s
  | .loop a imm => Sys2Proof.Machine.execLoop a imm s
  | .loopi count len => Sys2Proof.Machine.execLoopi count len s
  | .iterClaim d a => Sys2Proof.Machine.execIterClaim d a s
  | .iterNext d a b => Sys2Proof.Machine.execIterNext d a b s
  | .ldB d a imm la => Sys2Proof.Machine.execLdB d a imm la s
  | .ldH d a imm la => Sys2Proof.Machine.execLdH d a imm la s
  | .ldW d a imm la => Sys2Proof.Machine.execLdW d a imm la s
  | .ldD d a imm la => Sys2Proof.Machine.execLdD d a imm la s
  | .ldBu d a imm la => Sys2Proof.Machine.execLdBu d a imm la s
  | .ldHu d a imm la => Sys2Proof.Machine.execLdHu d a imm la s
  | .ldWu d a imm la => Sys2Proof.Machine.execLdWu d a imm la s
  | .lda d a sz sc la => Sys2Proof.Machine.execLda d a sz sc la s
  | .stB a v imm la => Sys2Proof.Machine.execStB a v imm la s
  | .stH a v imm la => Sys2Proof.Machine.execStH a v imm la s
  | .stW a v imm la => Sys2Proof.Machine.execStW a v imm la s
  | .stD a v imm la => Sys2Proof.Machine.execStD a v imm la s
  | .stl a v sz sc la => Sys2Proof.Machine.execStl a v sz sc la s
  | .storeAcknowledgement n => Sys2Proof.Machine.execStoreAcknowledgement n s
  | .lateResult n => Sys2Proof.Machine.execLateResult n s
  | .ldfE d a => Sys2Proof.Machine.execLdfE d a s
  | .ldfF d a => Sys2Proof.Machine.execLdfF d a s
  | .ste a b => Sys2Proof.Machine.execSte a b s
  | .fill a b => Sys2Proof.Machine.execFill a b s
  | .purge a b la => Sys2Proof.Machine.execPurge a b la s
  | .probe d a la => Sys2Proof.Machine.execProbe d a la s
  | .amoAdd d a b la => Sys2Proof.Machine.execAmoAdd d a b la s
  | .amoAnd d a b la => Sys2Proof.Machine.execAmoAnd d a b la s
  | .amoOr d a b la => Sys2Proof.Machine.execAmoOr d a b la s
  | .amoXor d a b la => Sys2Proof.Machine.execAmoXor d a b la s
  | .amoMin d a b la => Sys2Proof.Machine.execAmoMin d a b la s
  | .amoMax d a b la => Sys2Proof.Machine.execAmoMax d a b la s
  | .amoSwap d a b la => Sys2Proof.Machine.execAmoSwap d a b la s
  | .amoFaddd d a b la => Sys2Proof.Machine.execAmoFaddd d a b la s
  | .amopAdd a b la => Sys2Proof.Machine.execAmopAdd a b la s
  | .amopAnd a b la => Sys2Proof.Machine.execAmopAnd a b la s
  | .amopOr a b la => Sys2Proof.Machine.execAmopOr a b la s
  | .amopXor a b la => Sys2Proof.Machine.execAmopXor a b la s
  | .amopMin a b la => Sys2Proof.Machine.execAmopMin a b la s
  | .amopMax a b la => Sys2Proof.Machine.execAmopMax a b la s
  | .amopSwap a b la => Sys2Proof.Machine.execAmopSwap a b la s
  | .amopFaddd a b la => Sys2Proof.Machine.execAmopFaddd a b la s
  | .casD d a b la => Sys2Proof.Machine.execCasD d a b la s
  | .casW d a b la => Sys2Proof.Machine.execCasW d a b la s
  | .dec a b lane la => Sys2Proof.Machine.execDec a b lane la s
  | .msg a b la => Sys2Proof.Machine.execMsg a b la s
  | .msgReply b la => Sys2Proof.Machine.execMsgReply b la s
  | .spawn d a b la => Sys2Proof.Machine.execSpawn d a b la s
  | .dlg d a b la => Sys2Proof.Machine.execDlg d a b la s
  | .dlgP a b la => Sys2Proof.Machine.execDlgP a b la s
  | .mcst d a la => Sys2Proof.Machine.execMcst d a la s
  | .done => Sys2Proof.Machine.execDone s
  | .shrink a => Sys2Proof.Machine.execShrink a s
  | .arm a b => Sys2Proof.Machine.execArm a b s
  | .ready a => Sys2Proof.Machine.execReady a s
  | .migr a => Sys2Proof.Machine.execMigr a s
  | .fenceAcq sc => Sys2Proof.Machine.execFenceAcq sc s
  | .fenceRel sc => Sys2Proof.Machine.execFenceRel sc s
  | .fenceFull sc => Sys2Proof.Machine.execFenceFull sc s
  | .fenceEng sc => Sys2Proof.Machine.execFenceEng sc s
  | .barArrive sc id a => Sys2Proof.Machine.execBarArrive sc id a s
  | .barWait sc id => Sys2Proof.Machine.execBarWait sc id s
  | .barSync sc id a => Sys2Proof.Machine.execBarSync sc id a s
  | .waitt ch a => Sys2Proof.Machine.execWaitt ch a s
  | .srr d index => Sys2Proof.Machine.execSrr d index s
  | .srw index a => Sys2Proof.Machine.execSrw index a s
  | .trap a => Sys2Proof.Machine.execTrap a s
  | .eret => Sys2Proof.Machine.execEret s
  | .bkpt a => Sys2Proof.Machine.execBkpt a s
  | .report a b => Sys2Proof.Machine.execReport a b s
  | .reportRecordWrite n => Sys2Proof.Machine.execReportRecordWrite n s
  | .submit d a b => Sys2Proof.Machine.execSubmit d a b s
  | .cpsSrc a la => Sys2Proof.Machine.execCpsSrc a la s
  | .cpsDst a la => Sys2Proof.Machine.execCpsDst a la s
  | .cpsSstr a la => Sys2Proof.Machine.execCpsSstr a la s
  | .cpsDstr a la => Sys2Proof.Machine.execCpsDstr a la s
  | .cpsShape a la => Sys2Proof.Machine.execCpsShape a la s
  | .cpsFmt a la => Sys2Proof.Machine.execCpsFmt a la s
  | .cpsChan a la => Sys2Proof.Machine.execCpsChan a la s
  | .cpgo d la => Sys2Proof.Machine.execCpgo d la s
  | .btx d a la => Sys2Proof.Machine.execBtx d a la s
  | .qpush a la => Sys2Proof.Machine.execQpush a la s
  | .qstat d => Sys2Proof.Machine.execQstat d s
  | .qstatClr d => Sys2Proof.Machine.execQstatClr d s
  | .setOpen d a la => Sys2Proof.Machine.execSetOpen d a la s
  | .setPut d a b la => Sys2Proof.Machine.execSetPut d a b la s
  | .setTake d a la => Sys2Proof.Machine.execSetTake d a la s
  | .setClose d a la => Sys2Proof.Machine.execSetClose d a la s
  | .setStat d la => Sys2Proof.Machine.execSetStat d la s
  | .faddD d a b => Sys2Proof.Machine.execFaddD d a b s
  | .fsubD d a b => Sys2Proof.Machine.execFsubD d a b s
  | .fmulD d a b => Sys2Proof.Machine.execFmulD d a b s
  | .fdivD d a b => Sys2Proof.Machine.execFdivD d a b s
  | .fsqrtD d a => Sys2Proof.Machine.execFsqrtD d a s
  | .fminD d a b => Sys2Proof.Machine.execFminD d a b s
  | .fmaxD d a b => Sys2Proof.Machine.execFmaxD d a b s
  | .fsgnjD d a b => Sys2Proof.Machine.execFsgnjD d a b s
  | .fsgnjnD d a b => Sys2Proof.Machine.execFsgnjnD d a b s
  | .fsgnjxD d a b => Sys2Proof.Machine.execFsgnjxD d a b s
  | .fclassD d a => Sys2Proof.Machine.execFclassD d a s
  | .feqD d a b => Sys2Proof.Machine.execFeqD d a b s
  | .fltD d a b => Sys2Proof.Machine.execFltD d a b s
  | .fleD d a b => Sys2Proof.Machine.execFleD d a b s
  | .faddS d a b => Sys2Proof.Machine.execFaddS d a b s
  | .fsubS d a b => Sys2Proof.Machine.execFsubS d a b s
  | .fmulS d a b => Sys2Proof.Machine.execFmulS d a b s
  | .fdivS d a b => Sys2Proof.Machine.execFdivS d a b s
  | .fsqrtS d a => Sys2Proof.Machine.execFsqrtS d a s
  | .fminS d a b => Sys2Proof.Machine.execFminS d a b s
  | .fmaxS d a b => Sys2Proof.Machine.execFmaxS d a b s
  | .fsgnjS d a b => Sys2Proof.Machine.execFsgnjS d a b s
  | .fsgnjnS d a b => Sys2Proof.Machine.execFsgnjnS d a b s
  | .fsgnjxS d a b => Sys2Proof.Machine.execFsgnjxS d a b s
  | .fclassS d a => Sys2Proof.Machine.execFclassS d a s
  | .feqS d a b => Sys2Proof.Machine.execFeqS d a b s
  | .fltS d a b => Sys2Proof.Machine.execFltS d a b s
  | .fleS d a b => Sys2Proof.Machine.execFleS d a b s
  | .fmaD d a b c => Sys2Proof.Machine.execFmaD d a b c s
  | .fmsD d a b c => Sys2Proof.Machine.execFmsD d a b c s
  | .fmaS d a b c => Sys2Proof.Machine.execFmaS d a b c s
  | .fmsS d a b c => Sys2Proof.Machine.execFmsS d a b c s
  | .fcvt d a rtz dst src => Sys2Proof.Machine.execFcvt d a rtz dst src s
  | .vld d a imm sz la => Sys2Proof.Machine.execVld d a imm sz la s
  | .vst d a imm sz la => Sys2Proof.Machine.execVst d a imm sz la s
  | .vlds d a b k la => Sys2Proof.Machine.execVlds d a b k la s
  | .vsts d a b k la => Sys2Proof.Machine.execVsts d a b k la s
  | .vgth d a b k la => Sys2Proof.Machine.execVgth d a b k la s
  | .vsct d a b k la => Sys2Proof.Machine.execVsct d a b k la s
  | .vfaddD d a b k => Sys2Proof.Machine.execVfaddD d a b k s
  | .vfsubD d a b k => Sys2Proof.Machine.execVfsubD d a b k s
  | .vfmulD d a b k => Sys2Proof.Machine.execVfmulD d a b k s
  | .vfdivD d a b k => Sys2Proof.Machine.execVfdivD d a b k s
  | .vfsqrtD d a k => Sys2Proof.Machine.execVfsqrtD d a k s
  | .vfminD d a b k => Sys2Proof.Machine.execVfminD d a b k s
  | .vfmaxD d a b k => Sys2Proof.Machine.execVfmaxD d a b k s
  | .vfsgnjD d a b k => Sys2Proof.Machine.execVfsgnjD d a b k s
  | .vfsgnjnD d a b k => Sys2Proof.Machine.execVfsgnjnD d a b k s
  | .vfsgnjxD d a b k => Sys2Proof.Machine.execVfsgnjxD d a b k s
  | .vfclassD d a k => Sys2Proof.Machine.execVfclassD d a k s
  | .vfaddS d a b k => Sys2Proof.Machine.execVfaddS d a b k s
  | .vfsubS d a b k => Sys2Proof.Machine.execVfsubS d a b k s
  | .vfmulS d a b k => Sys2Proof.Machine.execVfmulS d a b k s
  | .vfdivS d a b k => Sys2Proof.Machine.execVfdivS d a b k s
  | .vfsqrtS d a k => Sys2Proof.Machine.execVfsqrtS d a k s
  | .vfminS d a b k => Sys2Proof.Machine.execVfminS d a b k s
  | .vfmaxS d a b k => Sys2Proof.Machine.execVfmaxS d a b k s
  | .vfsgnjS d a b k => Sys2Proof.Machine.execVfsgnjS d a b k s
  | .vfsgnjnS d a b k => Sys2Proof.Machine.execVfsgnjnS d a b k s
  | .vfsgnjxS d a b k => Sys2Proof.Machine.execVfsgnjxS d a b k s
  | .vfclassS d a k => Sys2Proof.Machine.execVfclassS d a k s
  | .vfmaD d a b c k => Sys2Proof.Machine.execVfmaD d a b c k s
  | .vfmsD d a b c k => Sys2Proof.Machine.execVfmsD d a b c k s
  | .vfnmaD d a b c k => Sys2Proof.Machine.execVfnmaD d a b c k s
  | .vfnmsD d a b c k => Sys2Proof.Machine.execVfnmsD d a b c k s
  | .vfmaS d a b c k => Sys2Proof.Machine.execVfmaS d a b c k s
  | .vfmsS d a b c k => Sys2Proof.Machine.execVfmsS d a b c k s
  | .vfnmaS d a b c k => Sys2Proof.Machine.execVfnmaS d a b c k s
  | .vfnmsS d a b c k => Sys2Proof.Machine.execVfnmsS d a b c k s
  | .vadd d a b wc k => Sys2Proof.Machine.execVadd d a b wc k s
  | .vsub d a b wc k => Sys2Proof.Machine.execVsub d a b wc k s
  | .vadds d a b wc k => Sys2Proof.Machine.execVadds d a b wc k s
  | .vaddus d a b wc k => Sys2Proof.Machine.execVaddus d a b wc k s
  | .vsubs d a b wc k => Sys2Proof.Machine.execVsubs d a b wc k s
  | .vsubus d a b wc k => Sys2Proof.Machine.execVsubus d a b wc k s
  | .vmul d a b wc k => Sys2Proof.Machine.execVmul d a b wc k s
  | .vmulh d a b wc k => Sys2Proof.Machine.execVmulh d a b wc k s
  | .vmulhu d a b wc k => Sys2Proof.Machine.execVmulhu d a b wc k s
  | .vand d a b wc k => Sys2Proof.Machine.execVand d a b wc k s
  | .vor d a b wc k => Sys2Proof.Machine.execVor d a b wc k s
  | .vxor d a b wc k => Sys2Proof.Machine.execVxor d a b wc k s
  | .vsll d a b wc k => Sys2Proof.Machine.execVsll d a b wc k s
  | .vsrl d a b wc k => Sys2Proof.Machine.execVsrl d a b wc k s
  | .vsra d a b wc k => Sys2Proof.Machine.execVsra d a b wc k s
  | .vmin d a b wc k => Sys2Proof.Machine.execVmin d a b wc k s
  | .vmax d a b wc k => Sys2Proof.Machine.execVmax d a b wc k s
  | .vminu d a b wc k => Sys2Proof.Machine.execVminu d a b wc k s
  | .vmaxu d a b wc k => Sys2Proof.Machine.execVmaxu d a b wc k s
  | .vabs d a wc k => Sys2Proof.Machine.execVabs d a wc k s
  | .vcmp kd a b cond ty any k => Sys2Proof.Machine.execVcmp kd a b cond ty any k s
  | .vsel d a b k => Sys2Proof.Machine.execVsel d a b k s
  | .vredFadd d a wc k => Sys2Proof.Machine.execVredFadd d a wc k s
  | .vredFmin d a wc k => Sys2Proof.Machine.execVredFmin d a wc k s
  | .vredFmax d a wc k => Sys2Proof.Machine.execVredFmax d a wc k s
  | .vredAdd d a wc k => Sys2Proof.Machine.execVredAdd d a wc k s
  | .vredAnd d a wc k => Sys2Proof.Machine.execVredAnd d a wc k s
  | .vredOr d a wc k => Sys2Proof.Machine.execVredOr d a wc k s
  | .vredXor d a wc k => Sys2Proof.Machine.execVredXor d a wc k s
  | .vredMin d a wc k => Sys2Proof.Machine.execVredMin d a wc k s
  | .vredMax d a wc k => Sys2Proof.Machine.execVredMax d a wc k s
  | .vredMinu d a wc k => Sys2Proof.Machine.execVredMinu d a wc k s
  | .vredMaxu d a wc k => Sys2Proof.Machine.execVredMaxu d a wc k s
  | .splat d g wc k => Sys2Proof.Machine.execSplat d g wc k s
  | .extr g v idx wc => Sys2Proof.Machine.execExtr g v idx wc s
  | .ins v g idx wc => Sys2Proof.Machine.execIns v g idx wc s
  | .extrK g kd => Sys2Proof.Machine.execExtrK g kd s
  | .insK kd g => Sys2Proof.Machine.execInsK kd g s
  | .vperm d a b wc k => Sys2Proof.Machine.execVperm d a b wc k s
  | .vcvt d a rtz dst src k => Sys2Proof.Machine.execVcvt d a rtz dst src k s
  | .kand kd ka kb => Sys2Proof.Machine.execKand kd ka kb s
  | .kor kd ka kb => Sys2Proof.Machine.execKor kd ka kb s
  | .kxor kd ka kb => Sys2Proof.Machine.execKxor kd ka kb s
  | .kandn kd ka kb => Sys2Proof.Machine.execKandn kd ka kb s
  | .knot kd ka => Sys2Proof.Machine.execKnot kd ka s
  | .kli kd imm => Sys2Proof.Machine.execKli kd imm s
  | .gzAdd d a b => Sys2Proof.Machine.execGzAdd d a b s
  | .gzSub d a b => Sys2Proof.Machine.execGzSub d a b s
  | .gzMul d a b => Sys2Proof.Machine.execGzMul d a b s
  | .gzFma d a b c => Sys2Proof.Machine.execGzFma d a b c s
  | .gzMin d a b => Sys2Proof.Machine.execGzMin d a b s
  | .gzMax d a b => Sys2Proof.Machine.execGzMax d a b s
  | .gzRelu d a => Sys2Proof.Machine.execGzRelu d a s
  | .gzClamp d a b c => Sys2Proof.Machine.execGzClamp d a b c s
  | .gzAbs d a => Sys2Proof.Machine.execGzAbs d a s
  | .gzNeg d a => Sys2Proof.Machine.execGzNeg d a s
  | .gzExp2 d a => Sys2Proof.Machine.execGzExp2 d a s
  | .gzRcp d a => Sys2Proof.Machine.execGzRcp d a s
  | .gzRsq d a => Sys2Proof.Machine.execGzRsq d a s
  | .gzSel cc d a b c => Sys2Proof.Machine.execGzSel cc d a b c s
  | .gzLdr n d => Sys2Proof.Machine.execGzLdr n d s
  | .gzLdc n d => Sys2Proof.Machine.execGzLdc n d s
  | .gzCvt fmt d a => Sys2Proof.Machine.execGzCvt fmt d a s
  | .gzBscl a => Sys2Proof.Machine.execGzBscl a s
  | .gzSt a => Sys2Proof.Machine.execGzSt a s
  | .gzStt a => Sys2Proof.Machine.execGzStt a s
  | .gzRedr n op a => Sys2Proof.Machine.execGzRedr n op a s
  | .gzEnd => Sys2Proof.Machine.execGzEnd s
  | .mma cluster => Sys2Proof.Machine.execMma cluster s
  | .mmas cluster => Sys2Proof.Machine.execMmas cluster s
  | .mzero cluster => Sys2Proof.Machine.execMzero cluster s
  | .maccld cluster => Sys2Proof.Machine.execMaccld cluster s
  | .mdrain cluster => Sys2Proof.Machine.execMdrain cluster s
  | .mdpl cluster => Sys2Proof.Machine.execMdpl cluster s
  | .msig cluster => Sys2Proof.Machine.execMsig cluster s
  | .tcwCompletion core => Sys2Proof.Machine.execTcwCompletion core s
  | .copy cluster n => Sys2Proof.Machine.execCopy cluster n s
  | .copyCompletion cluster n => Sys2Proof.Machine.execCopyCompletion cluster n s
  | .blockTransferArrival n => Sys2Proof.Machine.execBlockTransferArrival n s
  | .blockTransferRetry n => Sys2Proof.Machine.execBlockTransferRetry n s
  | .blockTransferCompletion engine n => Sys2Proof.Machine.execBlockTransferCompletion engine n s
  | .transientCondition engine unit n => Sys2Proof.Machine.execTransientCondition engine unit n s
  | .setterPut cluster => Sys2Proof.Machine.execSetterPut cluster s
  | .place cluster => Sys2Proof.Machine.execPlace cluster s
  | .sessionClose cluster => Sys2Proof.Machine.execSessionClose cluster s
  | .handle core => Sys2Proof.Machine.execHandle core s
  | .amoHandler core => Sys2Proof.Machine.execAmoHandler core s
  | .amopHandler core => Sys2Proof.Machine.execAmopHandler core s
  | .casHandler core => Sys2Proof.Machine.execCasHandler core s
  | .claimHandler core => Sys2Proof.Machine.execClaimHandler core s
  | .decHandler core => Sys2Proof.Machine.execDecHandler core s
  | .armHandler core => Sys2Proof.Machine.execArmHandler core s
  | .readyHandler core => Sys2Proof.Machine.execReadyHandler core s
  | .readyEntryAppend core => Sys2Proof.Machine.execReadyEntryAppend core s
  | .task n => Sys2Proof.Machine.execTask n s
  | .bounceRefusal n => Sys2Proof.Machine.execBounceRefusal n s
  | .registerContext n => Sys2Proof.Machine.execRegisterContext n s
  | .departure thread => Sys2Proof.Machine.execDeparture thread s
  | .forwardingEntryExpiry core => Sys2Proof.Machine.execForwardingEntryExpiry core s
  | .delegate core => Sys2Proof.Machine.execDelegate core s
  | .reply n => Sys2Proof.Machine.execReply n s
  | .mcstLine n => Sys2Proof.Machine.execMcstLine n s
  | .mcstAcknowledgement n => Sys2Proof.Machine.execMcstAcknowledgement n s
  | .firingStart thread => Sys2Proof.Machine.execFiringStart thread s
  | .capsuleCompletion capsule => Sys2Proof.Machine.execCapsuleCompletion capsule s
  | .completionWave capsule => Sys2Proof.Machine.execCompletionWave capsule s
  | .crossPackageAcknowledgement capsule package => Sys2Proof.Machine.execCrossPackageAcknowledgement capsule package s
  | .scannerVisit queue => Sys2Proof.Machine.execScannerVisit queue s
  | .admission n => Sys2Proof.Machine.execAdmission n s
  | .placement capsule => Sys2Proof.Machine.execPlacement capsule s
  | .missedDeadline capsule => Sys2Proof.Machine.execMissedDeadline capsule s
  | .deadlineWatchdog capsule => Sys2Proof.Machine.execDeadlineWatchdog capsule s
  | .runLimit capsule => Sys2Proof.Machine.execRunLimit capsule s
  | .readyNotice capsule package => Sys2Proof.Machine.execReadyNotice capsule package s
  | .go capsule => Sys2Proof.Machine.execGo capsule s
  | .gangStart capsule => Sys2Proof.Machine.execGangStart capsule s
  | .preemptInterrupt core => Sys2Proof.Machine.execPreemptInterrupt core s
  | .resumeRecordWrite capsule => Sys2Proof.Machine.execResumeRecordWrite capsule s
  | .continuationPublish capsule => Sys2Proof.Machine.execContinuationPublish capsule s
  | .publishRetry capsule => Sys2Proof.Machine.execPublishRetry capsule s
  | .killMessage core => Sys2Proof.Machine.execKillMessage core s
  | .routerDiscardExpiry capsule cluster => Sys2Proof.Machine.execRouterDiscardExpiry capsule cluster s
  | .purgeConfirmed capsule => Sys2Proof.Machine.execPurgeConfirmed capsule s
  | .halt group => Sys2Proof.Machine.execHalt group s
  | .resume group => Sys2Proof.Machine.execResume group s
  | .firewallDrop n => Sys2Proof.Machine.execFirewallDrop n s
  | .rmaRead host window offset length => Sys2Proof.Machine.execRmaRead host window offset length s
  | .rmaWrite host window offset data => Sys2Proof.Machine.execRmaWrite host window offset data s
  | .fetchAdd port host window offset value => Sys2Proof.Machine.execFetchAdd port host window offset value s
  | .swap port host window offset value => Sys2Proof.Machine.execSwap port host window offset value s
  | .compareSwap port host window offset compare value => Sys2Proof.Machine.execCompareSwap port host window offset compare value s
  | .claim h priority key share signature => Sys2Proof.Machine.execClaim h priority key share signature s
  | .claimWindowClose => Sys2Proof.Machine.execClaimWindowClose s
  | .handover h successor => Sys2Proof.Machine.execHandover h successor s
  | .accept h => Sys2Proof.Machine.execAccept h s
  | .handoverLapse => Sys2Proof.Machine.execHandoverLapse s
  | .keepalive h => Sys2Proof.Machine.execKeepalive h s
  | .keepaliveTimeout => Sys2Proof.Machine.execKeepaliveTimeout s
  | .readCapability h offset length => Sys2Proof.Machine.execReadCapability h offset length s
  | .measure h nonce => Sys2Proof.Machine.execMeasure h nonce s
  | .readLog h => Sys2Proof.Machine.execReadLog h s
  | .status h => Sys2Proof.Machine.execStatus h s
  | .addKey h key => Sys2Proof.Machine.execAddKey h key s
  | .revokeKey h key => Sys2Proof.Machine.execRevokeKey h key s
  | .setGuiltAndLimit h key guilt limit => Sys2Proof.Machine.execSetGuiltAndLimit h key guilt limit s
  | .setRunLimit h key limit => Sys2Proof.Machine.execSetRunLimit h key limit s
  | .mapQueue h queue => Sys2Proof.Machine.execMapQueue h queue s
  | .unmapQueue h queue => Sys2Proof.Machine.execUnmapQueue h queue s
  | .stopQueue h queue => Sys2Proof.Machine.execStopQueue h queue s
  | .restartQueue h queue => Sys2Proof.Machine.execRestartQueue h queue s
  | .registerOwnerReportRing h key base slots => Sys2Proof.Machine.execRegisterOwnerReportRing h key base slots s
  | .registerEventAddress h key address => Sys2Proof.Machine.execRegisterEventAddress h key address s
  | .mapWindow h window => Sys2Proof.Machine.execMapWindow h window s
  | .unmapWindow h window => Sys2Proof.Machine.execUnmapWindow h window s
  | .killCapsule h id => Sys2Proof.Machine.execKillCapsule h id s
  | .podTable h own peers => Sys2Proof.Machine.execPodTable h own peers s
  | .stageFirmware h image => Sys2Proof.Machine.execStageFirmware h image s
  | .activateFirmware h => Sys2Proof.Machine.execActivateFirmware h s
  | .openDebugSession h tier die key signatures => Sys2Proof.Machine.execOpenDebugSession h tier die key signatures s
  | .debugSessionStart session => Sys2Proof.Machine.execDebugSessionStart session s
  | .closeDebugSession h session => Sys2Proof.Machine.execCloseDebugSession h session s
  | .setHaltGroup h group => Sys2Proof.Machine.execSetHaltGroup h group s
  | .powerLimit h watts => Sys2Proof.Machine.execPowerLimit h watts s
  | .powerOn => Sys2Proof.Machine.execPowerOn s
  | .dieLinkTraining usable => Sys2Proof.Machine.execDieLinkTraining usable s
  | .portTraining ports => Sys2Proof.Machine.execPortTraining ports s
  | .cxlEnumeration ports => Sys2Proof.Machine.execCxlEnumeration ports s
  | .ptpLock podTime => Sys2Proof.Machine.execPtpLock podTime s
  | .lockLoss => Sys2Proof.Machine.execLockLoss s
  | .cxlPortFailure port => Sys2Proof.Machine.execCxlPortFailure port s
  | .thermalThrottle => Sys2Proof.Machine.execThermalThrottle s
  | .thermalShutdown => Sys2Proof.Machine.execThermalShutdown s
  | .powerOff => Sys2Proof.Machine.execPowerOff s
  | .reset => Sys2Proof.Machine.execReset s
  | .fetchFault => Sys2Proof.Machine.execFetchFault s
  | .illegalInstructionWord word => Sys2Proof.Machine.execIllegalInstructionWord word s
  | .unsupportedUetRequest host => Sys2Proof.Machine.execUnsupportedUetRequest host s
  | .unknownManagementCommand h code => Sys2Proof.Machine.execUnknownManagementCommand h code s
  | .ptpLockTimeout => Sys2Proof.Machine.execPtpLockTimeout s
  | .powerLimitThrottle => Sys2Proof.Machine.execPowerLimitThrottle s

end Sys2Proof.Machine
end

