-- ==== Sys2Proof/Machine/Peers.lean ====
section
/-! DEFINITION. What the peer packages of a gang bring to this package as words over the fabric (R131, R133, R146, R192, R214, R229): messages,
accesses, multicast lines, barrier arrivals, ready notices, kills and the end of the gang. Which come, and when, the agenda says (DESIGN CHOICE log 8). -/

namespace Sys2Proof.Machine

/-- Whether a capsule is a gang placed here that a footprint package is another member of. -/
def State.gangWith (s : State) (n package : Nat) : Bool :=
  let c := s.cap n
  decide (1 < c.image.packages ∧ package < c.image.packages ∧ package ≠ s.packageOf c) && !c.placed.isEmpty

/-- The core through which this package's part of a footprint resolves a peer's address. -/
def Capsule.door (c : Capsule) : Nat := c.cores.headD 0

/-- The acknowledgement of what a peer sent (R131, R146). -/
def State.ackPeer (s : State) (n package : Nat) : State :=
  s.toPod ((s.cap n).podOf package) 10 (toBytes 8 (s.cap n).id.toNat)

/-- A unit has come from a peer: it is counted here and among those received since the last wave, and acknowledged (R131). -/
def State.takeUnit (s : State) (n package units : Nat) : State :=
  let s := s.addCount n units
  (s.setCap n { s.cap n with received := (s.cap n).received + 1 }).ackPeer n package

/-- A message as this package carries it: its issuer is a core of the peer; a firing that awaits a REPLY in its reply window has an identity here
(R137), and so has one that migrates here; the request keeps the peer's identity, which its REPLY brings back (R39). A record about it names the
location that travels with it (DESIGN CHOICE log 93). -/
def State.foreignMsg (s : State) (package : Nat) (m : Msg) : Msg :=
  let awaited := decide (m.kind ≠ 4 ∧ m.reply ≠ 0 ∧ bits m.reply.toNat 37 35 = 4)
  let id := if awaited then s.nextId else 0
  let request := if awaited ∧ m.request ≠ 0 then m.request else id
  { m with firing := if m.isContext then s.nextId else id, request, bounce := false, wrote := m.located, held := false
           sender := if m.kind = 4 then (s.cap m.capsule).door else coreCount + package }

/-- The key of the location that an operation payload from a peer names, as this package resolves it (R135, R229). -/
def State.foreignKey (s : State) (m : Msg) : Option Nat :=
  (s.resolve m.target m.located 1).bind fun x =>
    match s.placeOf m.target x with
    | .here k _ => some k
    | .peer _ _ => none

/-- The load replies that a firing which migrates here is still owed: one for each register that its context marks, which the peer forwards with its
own identity of the firing (R126, R127). -/
def State.expectLoads (s : State) (package theirs : Nat) (m : Msg) : State :=
  if m.isContext then
    let l := (contextPending m.body).zipIdx.map fun e => (⟨m.capsule, package, theirs, m.firing, e.1, s.nextId + e.2⟩ : PeerLoad)
    { s with peerLoads := s.peerLoads ++ l, nextId := s.nextId + l.length }
  else s

/-- The message that left for a peer and whose request a message of the peer answers: a REPLY to the reply window that the request named (R137), or
the refusal of a TASK (R124). The identity of the request is that which came with it (R39). -/
def State.asked (s : State) (package : Nat) (x : Msg) : Option Msg :=
  s.net.find? fun q =>
    decide (q.capsule = x.capsule ∧ q.target = coreCount + package ∧ q.request = x.request ∧ q.request ≠ 0 ∧ q.reply = x.reply) && !q.held &&
    (if x.bounce then decide (q.kind = 1 ∧ x.kind = 1) else decide (q.kind ≠ 4 ∧ x.kind = 4))

/-- A peer's answer to a request of this package: the unit of the request's message is the peer's no longer, and the REPLY is on its way to its
register with the value that came; a refusal is on its way to the spawn (R124, R131, R137). -/
def State.hearAnswer (s : State) (package : Nat) (q x : Msg) : State :=
  if x.bounce then { s with net := s.net.map fun m => if m = q then { q with bounce := true, target := q.sender } else m }
  else
    let s := { (s.takeUnit q.capsule package 1).subCount q.capsule 1 with net := s.net.erase q }
    s.send { replyMsg q.capsule q.sender x.origin q.reply q.firing q.request 0 with body := x.body }

/-- A message of a peer's core reaches a core of the footprint here (R131). One whose bytes on the wire break R46 is discarded by the interface
(R47). An operation whose location this package does not hold is reported and has no effect. -/
def State.hearMessage (s : State) (package : Nat) (x : Msg) (wire : List Byte) : State :=
  let m := s.foreignMsg package x
  if !s.gangWith m.capsule package then s
  else
    let good := decide (wire = x.bytes) && x.ok
    match if good then s.asked package x else none with
    | some q => s.hearAnswer package q x
    | none =>
      if x.bounce || !(decide (m.kind = 4) || (s.cap m.capsule).cores.contains m.target) then s
      else
        let s := s.fresh.takeUnit m.capsule package 1
        if !good then s.discard { m with number := 0 }
        else if m.kind ≠ 0 ∨ !m.words.isEmpty then (s.expectLoads package x.firing m).send m
        else
          match s.foreignKey m with
          | some k => s.send { m with key := k }
          | none => (s.lateFault m causeMeshbound m.located).subCount m.capsule 1

/-- A peer's access is refused by this package's own checks (R229): it is reported. -/
def State.refuseAccess (s : State) (n cause : Nat) (address : Word) : State :=
  s.report n (s.recordOf n 1 cause 0 address (extentIndex (s.cap n) cause address) 0 0)

/-- A peer's store is performed here, if the capsule's own extent table and units allow it (R229), and acknowledged. -/
def State.hearStore (s : State) (package n : Nat) (address : Word) (data : List Byte) : State :=
  if !s.gangWith n package then s
  else
    match s.reach (s.cap n).door address data.length accStore with
    | .error cause => s.refuseAccess n cause address
    | .ok (.peer _ _) => s
    | .ok (.here k e) =>
      if s.writeFails (.here k e) then s.refuseAccess n causeMemerr address
      else (((s.setByteList k data).touched k data.length).spoilTile k).ackPeer n package

/-- A peer's load is served here: its answer leaves, or word that it failed. -/
def State.hearLoad (s : State) (package n : Nat) (address : Word) (bytes : Nat) : State :=
  if !s.gangWith n package then s
  else
    let fails := s.toPod ((s.cap n).podOf package) 13 (toBytes 8 address.toNat)
    match s.reach (s.cap n).door address bytes accLoad with
    | .ok (.here k e) =>
      if s.poisoned k bytes then State.toPod (s.logForgery k bytes) ((s.cap n).podOf package) 13 (toBytes 8 address.toNat)
      else s.toPod ((s.cap n).podOf package) 12 (toBytes 8 address.toNat ++ toBytes bytes (s.readPlace (.here k e) bytes))
    | .ok (.peer _ _) | .error _ => fails

/-- A forwarded load reply reaches the firing that migrated here and that the peer names, as a late result for that register (R39, R127). -/
def State.hearLate (s : State) (package n firing reg : Nat) (v : Word) : State :=
  match s.peerLoads.find? fun l => decide (l.capsule = n ∧ l.package = package ∧ l.theirs = firing ∧ l.reg = reg) with
  | none => s
  | some l =>
    let r : LoadReply := ⟨l.firing, (s.cap n).door, l.request, .g reg, lateG v, true⟩
    { s with peerLoads := s.peerLoads.erase l, loads := s.loads ++ [r] }

/-! ### Tags (R148 to R152) -/

/-- The kind of a tagged request that may wait. -/
def TagOp.kind : TagOp → Nat
  | .ldfE => 0
  | .ldfF => 1
  | .ste => 2
  | .fill | .purge | .probe | .withdraw => 3

/-- A tagged operation of a peer's core at a word here. -/
def State.tagHere (s : State) (op : TagOp) (k limit : Nat) (value : Word) (p : PeerIssuer) : State :=
  let pod := (s.cap p.capsule).podOf p.package
  let tells := fun (s : State) (v : Nat) => s.toPod pod 26 (toBytes 8 p.address.toNat ++ toBytes 4 p.origin.toNat ++ toBytes 8 v)
  let r : TagReq := ⟨k, op.kind, 4 * (coreCount + p.package) + bits p.origin.toNat 25 24, 0, value, some p, p.address⟩
  match op with
  | .ldfE | .ldfF | .ste =>
    if s.tagReady r then (s.performTag r).tagChanged k
    else { s with tagQueue := s.tagQueue ++ [r] }
  | .fill => (s.fillWord k value).ackPeer p.capsule p.package
  | .purge => if value = 0 ∨ limit < value.toNat then s else (State.purgeWords k value.toNat s).ackPeer p.capsule p.package
  | .probe => tells s ((if s.full k then 1 else 0) + (if (s.tagHead k).isSome then 2 else 0))
  | .withdraw => { s with tagQueue := s.tagQueue.filter fun q => decide (q.addr ≠ k ∨ q.thread ≠ r.thread ∨ (q.peer.map PeerIssuer.origin) ≠ some p.origin) }

/-- A tagged operation of a peer's core reaches a word here (R148 to R152), if this package's own checks allow it (R229). -/
def State.hearTag (s : State) (package n : Nat) (op : TagOp) (address value origin : Word) : State :=
  let core := (s.cap n).door
  if !s.gangWith n package then s
  else
    match s.meshOnly core address 8 tagUnit with
    | .error cause => s.refuseAccess n cause address
    | .ok m =>
      match s.placeOf core m with
      | .peer _ _ => s
      | .here k _ => s.tagHere op k ((0x400000 - m.offset) / 8) value ⟨n, package, address, origin⟩

/-- A multicast line reaches this package as a member, is written or reported, and is acknowledged (R146); its unit stays with its sender. -/
def State.hearLine (s : State) (package n : Nat) (destination : Word) (line : List Byte) (code origin : Word) (number : Nat) : State :=
  if !s.gangWith n package || decide (line.length ≠ 256) then s
  else (s.takeUnit n package 0).acceptLine n (s.cap n).door destination line code origin number

/-- A peer's arrival at a barrier of the pod level is counted here as well (R133); one with another count than E has trapped at its issuer. -/
def State.hearArrival (s : State) (n id expected : Nat) : State :=
  let c := s.cap n
  let coord := s.packageOf c * 2 ^ 12
  let count := if id = 0 then c.coresIn (BitVec.ofNat 64 coord) .pod else expected
  let key := barrierKey coord .pod id
  let b := sget Barrier.reset c.barriers key
  let refused := decide (8 ≤ id ∨ count < 1 ∨ 65535 < count) || (decide (id ≠ 0) && b.expected.any fun e => decide (e ≠ count))
  if c.placed.isEmpty || decide (c.image.packages ≤ 1) || refused then s
  else s.setCap n { c with barriers := sset Barrier.reset c.barriers key (b.arrive id count) }

/-- The gang members here with a capsule ID that f allows. -/
def State.members (s : State) (id : Word) (f : Capsule → Bool) : List Nat :=
  (s.capsules.filter fun e => decide (e.2.id = id ∧ 1 < e.2.image.packages) && f e.2).map Prod.fst

/-- The kill of a gang reaches this member with its cause (R131, R192, R214): one that is admitted and has not ended is killed for it. -/
def State.hearKill (s : State) (id : Word) (cause : Nat) : State :=
  (s.members id fun c => decide (c.stage ≠ .ended ∧ c.stage ≠ .offered)).foldl (fun acc n => State.killFor acc n cause) s

/-- A peer's ready notice reaches package 0 (R192): it is noted for the gang's member here, or held, by its digest, until that is admitted. -/
def State.hearNotice (s : State) (package digest : Nat) : State :=
  let known := s.capsules.find? fun e => decide (e.2.digest = digest ∧ 1 < e.2.image.packages ∧ (e.2.stage = .placing ∨ e.2.stage = .loaded))
  match known with
  | some (n, c) =>
    if package < c.image.packages ∧ s.packageOf c = 0 ∧ package ≠ 0 ∧ !c.notices.contains package then
      s.setCap n { c with notices := package :: c.notices }
    else s
  | none => if s.mgmt.notices.contains (digest, package) then s else { s with mgmt := { s.mgmt with notices := (digest, package) :: s.mgmt.notices } }

/-- Package 0 tells this member that the gang has completed (R131). -/
def State.hearCompletion (s : State) (id : Word) : State :=
  (s.members id fun c => decide (c.stage = .running ∧ s.packageOf c ≠ 0)).foldl
    (fun acc n => State.complete acc n (acc.cap n).faultFirings) s

/-- A word of a peer reaches this package, once a port has trained. -/
def State.hear (s : State) (p : PeerInput) : Result :=
  if !s.mgmt.powered || !s.reachable then .next s
  else
    match p with
    | .message package m wire => .next (s.hearMessage package m wire)
    | .store package capsule address data => .next (s.hearStore package capsule address data)
    | .load package capsule address n => .next (s.hearLoad package capsule address n)
    | .tag package capsule op address value origin => .next (s.hearTag package capsule op address value origin)
    | .tagDone pod address value => .next (s.tagDone pod address value)
    | .lateResult package capsule firing reg value => .next (s.hearLate package capsule firing reg value)
    | .line package capsule destination data code origin number => .next (s.hearLine package capsule destination data code origin number)
    | .arrival capsule id expected => .next (s.hearArrival capsule id expected)
    | .notice package digest => .next (s.hearNotice package digest)
    | .kill id cause => .next (s.hearKill id cause)
    | .completed id => .next (s.hearCompletion id)

end Sys2Proof.Machine
end

