-- ==== Sys2Proof/Machine/Schedule.lean ====
section
/-! DEFINITION. The turns of threads, cores, drains, engines and events, and the default schedule of a machine whose agenda is empty (R14,
DESIGN CHOICE log 4). -/

namespace Sys2Proof.Machine

noncomputable section

/-- Time passes: one step, one cycle or more, and some pod time (DESIGN CHOICE log 5); the ports' atomic units may write (R171), and messages
that waited for atomics leave for peers (R140). (DESIGN CHOICE log 18) -/
def State.tick (s : State) : State :=
  if s.mgmt.powered then
    let t := { s with steps := s.steps + 1, cycle := s.cycle + 1 + Config.freeCycles s.steps }
    (t.slew (Config.freeNs s.steps)).portWrites.sendHeld
  else { s with steps := s.steps + 1 }

/-! ### What a network interface holds -/

/-- The bytes of undelivered messages that the network interface of a cluster holds (R188, R301): those of its cores that have not been delivered,
and its block transfers that no engine has accepted. -/
def State.interfaceBytes (s : State) (cl : Nat) : Nat :=
  ((s.net.filter fun m => decide (m.sender < coreCount ∧ clusterOf m.sender = cl)).map fun m => m.bytes.length).sum +
  ((s.transfers.filter fun x => decide (clusterOf (coreOf x.thread) = cl ∧ x.stage ≠ 2)).map fun x => 16 + x.bytes.length).sum

/-- Whether a step would give some interface more than it holds already, and more than the 4 KiB that it may hold (R188). -/
def State.overfull (s t : State) : Bool :=
  (t.net.map (fun m => clusterOf m.sender) ++ t.transfers.map fun x => clusterOf (coreOf x.thread)).any fun cl =>
    decide (4096 < t.interfaceBytes cl ∧ s.interfaceBytes cl < t.interfaceBytes cl)

/-- A turn that finds no room in its cluster's interface for what it sends does not take place yet (R188, DESIGN CHOICE log 68). -/
def State.fits (s : State) : Result → Result
  | .next t => if s.overfull t then .next s else .next t
  | .fault f => .fault f
  | .refused r => .refused r

/-! ### Turns -/

/-- The word that a thread fetched, run: its instruction, or the trap of a word that is none (R37). -/
def State.runWord (s : State) (w : Nat) : Result :=
  match decodeWord w with
  | some i => exec i s
  | none => exec (.illegalInstructionWord (BitVec.ofNat 32 w)) s

/-- Whether a halt holds a thread: a halted core's threads stop at the first boundary with no window open, and at the entry of a
trap's handler (R216). (DESIGN CHOICE log 48) -/
def State.haltHolds (s : State) : Bool := s.myCore.halted && (decide (s.me.window = 0) || decide (s.me.mode = .firmware))

/-- The issuing thread's instruction at its PC. -/
def State.instruction (s : State) : Result :=
  match s.fetch with
  | .error _ => exec .fetchFault s
  | .ok w => s.runWord w

/-- What the issuing thread does next: in capsule mode the instruction at its PC, in firmware mode the resident handler, once the posted
atomics of its firing are performed (R177, R204, DESIGN CHOICE log 16); none where it holds no work, is halted, or has taken PREEMPT (R175). -/
def State.nextAct (s : State) : Option Result :=
  if !s.me.live || s.haltHolds || s.preempted s.who || decide (roleOf s.who = 2) then none
  else
    match s.me.mode with
    | .firmware => if s.atomicBefore s.me.firing s.nextId then none else some (.next s.residentHandler)
    | .capsule => some s.instruction

/-- A thread's next act, where its interface has room for what it sends. -/
def State.issueTurn (s : State) (t : Nat) : Result :=
  let s := { s with who := t }
  match s.nextAct with
  | none => .next s
  | some r => s.fits r

/-- A cluster's drain runs the word that its segment has reached (R271), or faults on it (R278). -/
def State.drainTurn (s : State) (cl : Nat) : Result :=
  match s.glazeStop cl with
  | some t => .next t
  | none =>
    match (s.cluster cl).drain, (s.glazeWord cl).bind decodeGlaze with
    | some d, some i => exec i { s with who := d.core * 4 }
    | _, _ => .next s

/-- Whether a turn changes the machine: who issued is no change. -/
def State.moves (s : State) : Result → Bool
  | .next t => decide ({ t with who := s.who } ≠ s)
  | .fault _ | .refused _ => true

/-- The handlers of operation payloads that H of a core may run (R13). -/
def handlersOf (c : Nat) : List Instr :=
  [.amoHandler c, .amopHandler c, .casHandler c, .claimHandler c, .decHandler c, .armHandler c, .readyHandler c]

/-- Whether H of a core may hold work: a message that it handles, or one that has arrived or is on its way. -/
def State.handlerWork (s : State) (c : Nat) : Bool :=
  (s.thr (hThread c)).live || !(s.core c).inbox.isEmpty || s.net.any fun m => decide (m.target = c)

/-- The issue of H in this cycle, if it is ready: one inline word (R48), or one handler of an operation payload. -/
def State.readyH (s : State) (c : Nat) : Option Result :=
  if s.handlerWork c then ((s.inlineCycle c :: (handlersOf c).map fun i => exec i s).map s.fits).find? s.moves else none

/-- Whether a thread waits after a turn: an instruction that issues leaves no wait, and one that is held leaves what it waits for. -/
def waits (t : Nat) : Result → Bool
  | .next u => decide ((u.thr t).wait ≠ .nothing)
  | .fault _ | .refused _ => false

/-- Whether a turn of a thread only finds that its next instruction is held: the thread is not ready (R14). -/
def State.onlyHolds (s : State) (t : Nat) (r : Result) : Bool :=
  waits t r &&
  (match r with
   | .next u => decide ({ u.setThr t { u.thr t with wait := (s.thr t).wait } with who := s.who } = s)
   | .fault _ | .refused _ => false)

/-- Whether a turn finds no room in its cluster's interface (R188). -/
def State.noRoom (s : State) : Result → Bool
  | .next u => s.overfull u
  | .fault _ | .refused _ => false

/-- The issue of another thread in this cycle, if it is ready: it holds work, and its next instruction is not held. One that jumps to itself is
ready too, though it leaves the machine as it is (R14). -/
def State.readyT (s : State) (t : Nat) : Option Result :=
  let s := { s with who := t }
  match s.nextAct with
  | none => none
  | some r => if s.noRoom r || s.onlyHolds t r then none else some r

/-- A thread whose next instruction is held notes what holds it; that takes no slot (R14). -/
def State.noteHold (s : State) (t : Nat) : State :=
  let r := s.issueTurn t
  match r with
  | .next u => if s.onlyHolds t r then { u with who := s.who } else s
  | .fault _ | .refused _ => s

/-- The issue of a task thread: T0 and T1 alternate when both are ready (R14). -/
def State.taskIssue (s : State) (c : Nat) : Option (Nat × Result) :=
  match s.readyT (c * 4), s.readyT (c * 4 + 1) with
  | some a, some b => if (s.core c).lastTask = 0 then some (c * 4 + 1, b) else some (c * 4, a)
  | some a, none => some (c * 4, a)
  | none, some b => some (c * 4 + 1, b)
  | none, none => none

/-- The issue of H, or of S where H is not ready (R14). -/
def State.sharedIssue (s : State) (c : Nat) : Option (Nat × Result) :=
  match s.readyH c with
  | some r => some (hThread c, r)
  | none => (s.readyT (sThread c)).map fun r => (sThread c, r)

/-- The thread that issues in a cycle of a core (R14): H, then S, then a task thread; a ready task thread goes first once H and S have issued for
16 cycles. -/
def State.picked (s : State) (c : Nat) : Option (Nat × Result) :=
  let task := s.taskIssue c
  if 16 ≤ (s.core c).shared ∧ task.isSome then task else (s.sharedIssue c).orElse fun _ => task

/-- A core after a cycle in which a thread issued: the shared count, and the task thread that issued last (R14). -/
def State.issuedBy (s : State) (t shared : Nat) : State :=
  let k := s.core (coreOf t)
  s.setCore (coreOf t) (if 2 ≤ roleOf t then { k with shared := shared + 1 } else { k with shared := 0, lastTask := roleOf t })

/-- The outcome of a cycle in which a thread issued. -/
def noteIssue (t shared : Nat) : Result → Result
  | .next u => .next (u.issuedBy t shared)
  | r => r

/-- What comes first in a cycle of a core: messages arrive and threads that are held note it, which takes no issue slot (R14). -/
def State.cycleStart (s : State) (c : Nat) : State := [c * 4, c * 4 + 1, c * 4 + 3].foldl State.noteHold (s.arriveAt c)

/-- A cycle of a core (R14). -/
def State.coreCycle (s : State) (c : Nat) : Result :=
  let s := s.cycleStart c
  let shared := (s.core c).shared
  match s.picked c with
  | some (t, r) => noteIssue t shared r
  | none => if shared = 0 then .next s else .next (s.setCore c { s.core c with shared := 0 })

/-- A thread of a core that PREEMPT has reached and whose instruction at its boundary raises a synchronous trap: the trap is taken first (R175). -/
def State.trapFirst (s : State) (c : Nat) : Option Result :=
  let s := s.interrupt c
  ([c * 4, c * 4 + 1, c * 4 + 3].filter fun t => (s.thr t).live && s.atBoundary (s.capOf c) (s.thr t)).findSome? fun t =>
    match State.instruction { s with who := t } with
    | .next u => if (u.thr t).mode = .firmware then some (.next u) else none
    | .fault _ | .refused _ => none

/-- PREEMPT reaches a core (R175). -/
def State.preemptTurn (s : State) (c : Nat) : Result :=
  if (s.cap (s.capOf c)).stage ≠ .preempting ∨ (s.cap (s.capOf c)).answered.contains c then .next s
  else (s.trapFirst c).getD (exec (.preemptInterrupt c) s)

/-- The scanner visits a queue, and goes on from there (R200). -/
def State.visitTurn (s : State) (q : Nat) : Result :=
  match exec (.scannerVisit q) s with
  | .next t => .next { t with scanned := q }
  | .fault f => .fault f
  | .refused r => .refused r

/-- A part of an engine's work: one K-step, the columns of a store word below one, one row of a copy, one line of a transfer,
one shelf of a close (R256, R263, R264, R279, R295). -/
def State.workTurn (s : State) : Work → Result
  | .kStep cl => .next (s.kStep cl)
  | .columns cl n => .next (((s.segmentOf cl).map fun g => s.storeColumns g n).getD s)
  | .row cl n => .next (s.copyRows 1 cl n)
  | .line n => .next (s.moveLine n)
  | .shelf cl => .next (s.closeShelf cl)

/-- The core whose H does the work of a row, which takes an issue slot of its core (R13, R14). -/
def handlerCore : Instr → Option Nat
  | .handle c | .amoHandler c | .amopHandler c | .casHandler c | .claimHandler c | .decHandler c | .armHandler c | .readyHandler c => some c
  | _ => none

/-- Whether a row comes about only as a thread's or a drain's next word: a core instruction, a Glaze word, a fetch that faults, and a word that is no
instruction. -/
def ofThread : Instr → Bool
  | .fetchFault | .illegalInstructionWord _ => true
  | i => decide (i.kind ≠ .event)

/-- An event takes place. What H does of it waits for the core's next cycle, in which the order of R14 says who issues; a row that is a thread's next
word is no event (DESIGN CHOICE log 4). -/
def State.eventTurn (s : State) (i : Instr) : Result :=
  match handlerCore i with
  | some c => s.coreCycle c
  | none => if ofThread i then .next s else s.fits (exec i s)

/-- A turn. -/
def State.turn (s : State) : Turn → Result
  | .issue t => s.coreCycle (coreOf t)
  | .cycle c => s.coreCycle c
  | .drain cl => s.drainTurn cl
  | .event (.preemptInterrupt c) => s.preemptTurn c
  | .event (.scannerVisit q) => s.visitTurn q
  | .event i => s.eventTurn i
  | .work w => s.workTurn w
  | .memory m => s.memoryEvent m
  | .peer p => s.fits (s.hear p)
  | .board r => s.readBoard r

/-! ### The default schedule -/

/-- Events about what is on its way, by its place in its list. (DESIGN CHOICE log 56) -/
def State.netTurns (s : State) : List Instr :=
  ((List.range s.net.length).flatMap fun n => [.task n, .bounceRefusal n, .registerContext n, .reply n, .firewallDrop n]) ++
  ((List.range s.loads.length).map fun n => .lateResult n) ++
  ((List.range s.stores.length).map fun n => .storeAcknowledgement n) ++
  ((List.range s.reports.length).map fun n => .reportRecordWrite n) ++
  ((List.range s.mcsts.length).flatMap fun n => [.mcstLine n, .mcstAcknowledgement n]) ++
  (s.transfers.zipIdx.flatMap fun x => [.blockTransferArrival x.2, .blockTransferRetry x.2, .blockTransferCompletion x.1.engine x.2])

/-- Events of a core. -/
def coreTurns (c : Nat) : List Instr :=
  [.tcwCompletion c, .readyEntryAppend c, .forwardingEntryExpiry c, .delegate c, .firingStart (c * 4), .firingStart (c * 4 + 1),
   .departure (c * 4), .departure (c * 4 + 1), .departure (c * 4 + 3), .preemptInterrupt c, .killMessage c]

/-- Events of a cluster's engines. -/
def State.clusterTurns (s : State) (cl : Nat) : List Instr :=
  [.mma cl, .mmas cl, .mzero cl, .maccld cl, .mdrain cl, .mdpl cl, .msig cl, .setterPut cl, .place cl, .sessionClose cl] ++
  (List.range (s.cluster cl).copies.length).flatMap fun n => [.copy cl n, .copyCompletion cl n]

/-- Events of a capsule. -/
def State.capsuleTurns (s : State) (n : Nat) : List Instr :=
  [.capsuleCompletion n, .completionWave n, .admission n, .placement n, .missedDeadline n, .deadlineWatchdog n, .runLimit n,
   .readyNotice n (s.packageOf (s.cap n)), .gangStart n, .resumeRecordWrite n, .continuationPublish n, .publishRetry n,
   .purgeConfirmed n] ++ (if s.packageOf (s.cap n) = 0 then [.go n] else [])

/-- The queue that the scanner visits next with an effect (R200): in ascending number from the last one on, over and over. -/
def State.nextVisit (s : State) : Option Nat :=
  let l := (s.queues.map fun q => q.desc.number).mergeSort fun a b => decide (a ≤ b)
  ((l.filter fun q => decide (s.scanned < q)) ++ l.filter fun q => decide (q ≤ s.scanned)).find? fun q =>
    s.moves (exec (.scannerVisit q) s)

/-- The parts of the engines' work that may be next. -/
def State.workTurns (s : State) (clusters : List Nat) : List Work :=
  (clusters.flatMap fun cl => .kStep cl :: .shelf cl :: (List.range (s.cluster cl).copies.length).map fun n => .row cl n) ++
  (List.range s.transfers.length).map fun n => .line n

/-- Everything that may move next by itself: what hosts, peers, the board and the memories' errors bring comes from the agenda alone. A core
that only a message is on its way to has its turns too. -/
def State.candidates (s : State) : List Turn :=
  let cores := (s.cores.map Prod.fst ++ (s.net.map Msg.target).filter fun c => decide (c < coreCount)).eraseDups
  let clusters := (cores.map clusterOf).eraseDups
  let visits : List Instr := s.nextVisit.toList.map fun (q : Nat) => .scannerVisit q
  let expiries : List Instr := s.routers.map fun (r : Nat × Nat × Nat) => .routerDiscardExpiry r.1 r.2.1
  let starts : List Instr := s.mgmt.debugSessions.map fun (d : DebugSession) => .debugSessionStart d.number
  let timers : List Instr := [.claimWindowClose, .handoverLapse, .keepaliveTimeout]
  let events := s.netTurns ++ cores.flatMap coreTurns ++ clusters.flatMap s.clusterTurns ++
    (s.capsules.map Prod.fst).flatMap s.capsuleTurns ++ visits ++ expiries ++ starts ++ timers
  (cores.map Turn.cycle) ++ (clusters.map Turn.drain) ++ (s.workTurns clusters).map Turn.work ++ events.map Turn.event

/-- The turn of a machine whose agenda is empty: the first candidate that moves it, counted from one that goes round with the steps. -/
def State.defaultTurn (s : State) : Option Turn :=
  let l := s.candidates
  let k := s.steps % (l.length + 1)
  (l.drop k ++ l.take k).find? fun t => s.moves (s.turn t)

end

end Sys2Proof.Machine
end

