-- ==== Sys2Proof/Machine/Step.lean ====
section
/-! DEFINITION. One step: time passes, then the next turn of the agenda, or the turn that the default schedule picks (DESIGN CHOICE log 4). -/

namespace Sys2Proof.Machine

noncomputable section

/-- One step of the machine (R14, R228, DESIGN CHOICE log 4, DESIGN CHOICE log 5). -/
def step (s : State) : Host.Outcome State Fault Refusal :=
  let s := s.tick
  match s.agenda with
  | t :: rest => State.turn { s with agenda := rest } t
  | [] =>
    if s.mgmt.powered then
      match s.defaultTurn with
      | some t => s.turn t
      | none => .next s
    else .fault .poweredOff

/-- The state with a core word placed where the next step fetches it (DESIGN CHOICE log 9): a core word has 32 bits. -/
def State.withFetchWord (s : State) (_nbits w : Nat) : State := s.placeWord (w % 2 ^ 32)

end

end Sys2Proof.Machine
end

