-- ==== Sys2Proof/Laws/Encode.lean ====
section
/-! SUPPORT. What the decoder reads from an encoded word: every field of every format of R35, and one lemma for each opcode. -/

set_option linter.unusedVariables false

namespace Sys2Proof.Laws

open Sys2Proof

/-! ### Readers -/

theorem gAt_eq {w lo : Nat} {x : G} (h : w / 2 ^ lo % 64 = x.val) : gAt w lo = x := Fin.ext h
theorem vAt_eq {w lo : Nat} {x : V} (h : w / 2 ^ lo % 32 = x.val) : vAt w lo = x := Fin.ext h
theorem kAt_eq {w lo : Nat} {x : K} (h : w / 2 ^ lo % 8 = x.val) : kAt w lo = x := Fin.ext h
theorem laAt_eq {w lo : Nat} {x : La} (h : w / 2 ^ lo % 16 = x.val) : laAt w lo = x := Fin.ext h
theorem immAt_eq {n w lo : Nat} {x : BitVec n} (h : w / 2 ^ lo % 2 ^ n = x.toNat) : immAt n w lo = x :=
  BitVec.eq_of_toNat_eq (by simpa [immAt] using h)

theorem scopeOf_code (sc : Scope) : scopeOf sc.code = some sc := by cases sc <;> rfl
theorem widthOf_code (x : Width) : widthOf x.code = x := by cases x <;> rfl
theorem numTyOf_code (x : NumTy) : numTyOf x.code = x := by cases x <;> rfl
theorem cmpTyOf_code (x : CmpTy) : cmpTyOf x.code = some x := by cases x <;> rfl
theorem scope_lt (sc : Scope) : sc.code < 8 := by cases sc <;> decide
theorem width_lt (x : Width) : x.code < 4 := by cases x <;> decide
theorem numTy_lt (x : NumTy) : x.code < 8 := by cases x <;> decide
theorem cmpTy_lt (x : CmpTy) : x.code < 8 := by cases x <;> decide

theorem widthOf_add (m : Nat) (x : Width) : widthOf (4 * m + x.code) = x := by
  cases x <;> simp [widthOf, Width.code, Nat.add_mod]
theorem numTyOf_add (m : Nat) (x : NumTy) : numTyOf (8 * m + x.code) = x := by
  cases x <;> simp [numTyOf, NumTy.code, Nat.add_mod]

theorem checked_of {i : Instr} (h : i.wf = true) : checked i = some i := if_pos h
theorem zeroed_of {f : Nat} {x : Option Instr} (h : f = 0) : zeroed f x = x := if_pos h

theorem ofNat_fin {n : Nat} [NeZero n] (x : Fin n) : Fin.ofNat n x.val = x := Fin.ext (Nat.mod_eq_of_lt x.isLt)
theorem ofNat_low (k : K) (m : Nat) : Fin.ofNat 4 (4 * m + k.val % 4) = Fin.ofNat 4 k.val := by
  apply Fin.ext; show (4 * m + k.val % 4) % 4 = k.val % 4; omega

/-! ### Opcodes -/

theorem decodeWord_low {w op : Nat} (h : w % 128 = op) (h2 : op < 0x20) : decodeWord w = decodeLow op w := by
  subst h; unfold decodeWord; exact if_pos h2
theorem decodeWord_mem {w op : Nat} (h : w % 128 = op) (h1 : 0x20 ≤ op) (h2 : op < 0x38) : decodeWord w = decodeMem op w := by
  subst h; unfold decodeWord; rw [if_neg (by omega), if_pos h2]
theorem decodeWord_sync {w op : Nat} (h : w % 128 = op) (h1 : 0x38 ≤ op) (h2 : op < 0x50) : decodeWord w = decodeSync op w := by
  subst h; unfold decodeWord; rw [if_neg (by omega), if_neg (by omega), if_pos h2]
theorem decodeWord_float {w op : Nat} (h : w % 128 = op) (h1 : 0x50 ≤ op) : decodeWord w = decodeFloat op w := by
  subst h; unfold decodeWord; rw [if_neg (by omega), if_neg (by omega), if_neg (by omega)]

/-! ### Fields -/

theorem encR_op {op : Nat} {fn : Nat} (d : G) (a : G) (b : G) (h : op < 128) (hf : fn < 128) : encR op fn d a b % 128 = op := by have := d.isLt; have := a.isLt; have := b.isLt; unfold encR; omega
theorem encR_d {op : Nat} {fn : Nat} (d : G) (a : G) (b : G) (h : op < 128) (hf : fn < 128) :
    gAt (encR op fn d a b) 7 = d := gAt_eq (by have := d.isLt; have := a.isLt; have := b.isLt; unfold encR; omega)
theorem encR_a {op : Nat} {fn : Nat} (d : G) (a : G) (b : G) (h : op < 128) (hf : fn < 128) :
    gAt (encR op fn d a b) 13 = a := gAt_eq (by have := d.isLt; have := a.isLt; have := b.isLt; unfold encR; omega)
theorem encR_b {op : Nat} {fn : Nat} (d : G) (a : G) (b : G) (h : op < 128) (hf : fn < 128) :
    gAt (encR op fn d a b) 19 = b := gAt_eq (by have := d.isLt; have := a.isLt; have := b.isLt; unfold encR; omega)
theorem encR_fn {op : Nat} {fn : Nat} (d : G) (a : G) (b : G) (h : op < 128) (hf : fn < 128) :
    fieldAt (encR op fn d a b) 25 7 = fn := by have := d.isLt; have := a.isLt; have := b.isLt; unfold encR fieldAt; omega
theorem encR_b6 {op : Nat} {fn : Nat} (d : G) (a : G) (b : G) (h : op < 128) (hf : fn < 128) :
    fieldAt (encR op fn d a b) 19 6 = b.val := by have := d.isLt; have := a.isLt; have := b.isLt; unfold encR fieldAt; omega
theorem encR_fn3 {op : Nat} {fn : Nat} (d : G) (a : G) (b : G) (h : op < 128) (hf : fn < 128) :
    fieldAt (encR op fn d a b) 29 3 = fn / 16 := by have := d.isLt; have := a.isLt; have := b.isLt; unfold encR fieldAt; omega
theorem encR_fn1 {op : Nat} {fn : Nat} (d : G) (a : G) (b : G) (h : op < 128) (hf : fn < 128) :
    fieldAt (encR op fn d a b) 31 1 = fn / 64 := by have := d.isLt; have := a.isLt; have := b.isLt; unfold encR fieldAt; omega

theorem encRc_op {op : Nat} {m : Nat} (c : G) (d : G) (a : G) (b : G) (h : op < 128) (hm : m < 2) : encR op (c.val + 64 * m) d a b % 128 = op := by have := c.isLt; have := d.isLt; have := a.isLt; have := b.isLt; unfold encR; omega
theorem encRc_c {op : Nat} {m : Nat} (c : G) (d : G) (a : G) (b : G) (h : op < 128) (hm : m < 2) :
    gAt (encR op (c.val + 64 * m) d a b) 25 = c := gAt_eq (by have := c.isLt; have := d.isLt; have := a.isLt; have := b.isLt; unfold encR; omega)
theorem encRc_n {op : Nat} {m : Nat} (c : G) (d : G) (a : G) (b : G) (h : op < 128) (hm : m < 2) :
    fieldAt (encR op (c.val + 64 * m) d a b) 31 1 = m := by have := c.isLt; have := d.isLt; have := a.isLt; have := b.isLt; unfold encR fieldAt; omega
theorem encRc_d {op : Nat} {m : Nat} (c : G) (d : G) (a : G) (b : G) (h : op < 128) (hm : m < 2) :
    gAt (encR op (c.val + 64 * m) d a b) 7 = d := gAt_eq (by have := c.isLt; have := d.isLt; have := a.isLt; have := b.isLt; unfold encR; omega)
theorem encRc_a {op : Nat} {m : Nat} (c : G) (d : G) (a : G) (b : G) (h : op < 128) (hm : m < 2) :
    gAt (encR op (c.val + 64 * m) d a b) 13 = a := gAt_eq (by have := c.isLt; have := d.isLt; have := a.isLt; have := b.isLt; unfold encR; omega)
theorem encRc_b {op : Nat} {m : Nat} (c : G) (d : G) (a : G) (b : G) (h : op < 128) (hm : m < 2) :
    gAt (encR op (c.val + 64 * m) d a b) 19 = b := gAt_eq (by have := c.isLt; have := d.isLt; have := a.isLt; have := b.isLt; unfold encR; omega)

theorem encI_op {op : Nat} (imm : BitVec 13) (d : G) (a : G) (h : op < 128) : encI op imm.toNat d a % 128 = op := by have := imm.isLt; have := d.isLt; have := a.isLt; unfold encI; omega
theorem encI_d {op : Nat} (imm : BitVec 13) (d : G) (a : G) (h : op < 128) :
    gAt (encI op imm.toNat d a) 7 = d := gAt_eq (by have := imm.isLt; have := d.isLt; have := a.isLt; unfold encI; omega)
theorem encI_a {op : Nat} (imm : BitVec 13) (d : G) (a : G) (h : op < 128) :
    gAt (encI op imm.toNat d a) 13 = a := gAt_eq (by have := imm.isLt; have := d.isLt; have := a.isLt; unfold encI; omega)
theorem encI_imm {op : Nat} (imm : BitVec 13) (d : G) (a : G) (h : op < 128) :
    immAt 13 (encI op imm.toNat d a) 19 = imm := immAt_eq (by have := imm.isLt; have := d.isLt; have := a.isLt; unfold encI; omega)

theorem encIx_op {op : Nat} (imm : BitVec 12) (d : G) (a : G) (h : op < 128) : encI op imm.toNat d a % 128 = op := by have := imm.isLt; have := d.isLt; have := a.isLt; unfold encI; omega
theorem encIx_d {op : Nat} (imm : BitVec 12) (d : G) (a : G) (h : op < 128) :
    gAt (encI op imm.toNat d a) 7 = d := gAt_eq (by have := imm.isLt; have := d.isLt; have := a.isLt; unfold encI; omega)
theorem encIx_a {op : Nat} (imm : BitVec 12) (d : G) (a : G) (h : op < 128) :
    gAt (encI op imm.toNat d a) 13 = a := gAt_eq (by have := imm.isLt; have := d.isLt; have := a.isLt; unfold encI; omega)
theorem encIx_imm {op : Nat} (imm : BitVec 12) (d : G) (a : G) (h : op < 128) :
    immAt 12 (encI op imm.toNat d a) 19 = imm := immAt_eq (by have := imm.isLt; have := d.isLt; have := a.isLt; unfold encI; omega)
theorem encIx_top {op : Nat} (imm : BitVec 12) (d : G) (a : G) (h : op < 128) :
    fieldAt (encI op imm.toNat d a) 31 1 = 0 := by have := imm.isLt; have := d.isLt; have := a.isLt; unfold encI fieldAt; omega

theorem encIc_op {op : Nat} (ch : Fin 8) (d : G) (a : G) (h : op < 128) : encI op ch d a % 128 = op := by have := ch.isLt; have := d.isLt; have := a.isLt; unfold encI; omega
theorem encIc_d {op : Nat} (ch : Fin 8) (d : G) (a : G) (h : op < 128) :
    gAt (encI op ch d a) 7 = d := gAt_eq (by have := ch.isLt; have := d.isLt; have := a.isLt; unfold encI; omega)
theorem encIc_a {op : Nat} (ch : Fin 8) (d : G) (a : G) (h : op < 128) :
    gAt (encI op ch d a) 13 = a := gAt_eq (by have := ch.isLt; have := d.isLt; have := a.isLt; unfold encI; omega)
theorem encIc_ch {op : Nat} (ch : Fin 8) (d : G) (a : G) (h : op < 128) :
    fieldAt (encI op ch d a) 19 3 = ch.val := by have := ch.isLt; have := d.isLt; have := a.isLt; unfold encI fieldAt; omega
theorem encIc_top {op : Nat} (ch : Fin 8) (d : G) (a : G) (h : op < 128) :
    fieldAt (encI op ch d a) 22 10 = 0 := by have := ch.isLt; have := d.isLt; have := a.isLt; unfold encI fieldAt; omega

theorem encB_op {op : Nat} (imm : BitVec 13) (a : G) (b : G) (h : op < 128) : encB op imm.toNat a b % 128 = op := by have := imm.isLt; have := a.isLt; have := b.isLt; have : imm.toNat / 64 < 128 := (by omega); unfold encB; omega
theorem encB_a {op : Nat} (imm : BitVec 13) (a : G) (b : G) (h : op < 128) :
    gAt (encB op imm.toNat a b) 13 = a := gAt_eq (by have := imm.isLt; have := a.isLt; have := b.isLt; have : imm.toNat / 64 < 128 := (by omega); unfold encB; omega)
theorem encB_b {op : Nat} (imm : BitVec 13) (a : G) (b : G) (h : op < 128) :
    gAt (encB op imm.toNat a b) 19 = b := gAt_eq (by have := imm.isLt; have := a.isLt; have := b.isLt; have : imm.toNat / 64 < 128 := (by omega); unfold encB; omega)
theorem encB_lo {op : Nat} (imm : BitVec 13) (a : G) (b : G) (h : op < 128) :
    fieldAt (encB op imm.toNat a b) 7 6 = imm.toNat % 64 := by have := imm.isLt; have := a.isLt; have := b.isLt; have : imm.toNat / 64 < 128 := (by omega); unfold encB fieldAt; omega
theorem encB_hi {op : Nat} (imm : BitVec 13) (a : G) (b : G) (h : op < 128) :
    fieldAt (encB op imm.toNat a b) 25 7 = imm.toNat / 64 := by have := imm.isLt; have := a.isLt; have := b.isLt; have : imm.toNat / 64 < 128 := (by omega); have : imm.toNat % 64 < 64 := (by omega); unfold encB fieldAt; generalize imm.toNat % 64 = x at *; generalize imm.toNat / 64 = y at *; omega

theorem encU_op {op : Nat} (imm : BitVec 19) (d : G) (h : op < 128) : encU op imm.toNat d % 128 = op := by have := imm.isLt; have := d.isLt; unfold encU; omega
theorem encU_d {op : Nat} (imm : BitVec 19) (d : G) (h : op < 128) :
    gAt (encU op imm.toNat d) 7 = d := gAt_eq (by have := imm.isLt; have := d.isLt; unfold encU; omega)
theorem encU_imm {op : Nat} (imm : BitVec 19) (d : G) (h : op < 128) :
    immAt 19 (encU op imm.toNat d) 13 = imm := immAt_eq (by have := imm.isLt; have := d.isLt; unfold encU; omega)

theorem encUl_op {op : Nat} (count : BitVec 10) (len : BitVec 9) (d : G) (h : op < 128) : encU op (len.toNat + 2 ^ 9 * count.toNat) d % 128 = op := by have := count.isLt; have := len.isLt; have := d.isLt; unfold encU; omega
theorem encUl_d {op : Nat} (count : BitVec 10) (len : BitVec 9) (d : G) (h : op < 128) :
    gAt (encU op (len.toNat + 2 ^ 9 * count.toNat) d) 7 = d := gAt_eq (by have := count.isLt; have := len.isLt; have := d.isLt; unfold encU; omega)
theorem encUl_count {op : Nat} (count : BitVec 10) (len : BitVec 9) (d : G) (h : op < 128) :
    immAt 10 (encU op (len.toNat + 2 ^ 9 * count.toNat) d) 22 = count := immAt_eq (by have := count.isLt; have := len.isLt; have := d.isLt; unfold encU; omega)
theorem encUl_len {op : Nat} (count : BitVec 10) (len : BitVec 9) (d : G) (h : op < 128) :
    immAt 9 (encU op (len.toNat + 2 ^ 9 * count.toNat) d) 13 = len := immAt_eq (by have := count.isLt; have := len.isLt; have := d.isLt; unfold encU; omega)

theorem encL_op {op : Nat} (la : La) (imm : BitVec 9) (a : G) (d : G) (h : op < 128) : encL op la imm.toNat a d % 128 = op := by have := la.isLt; have := imm.isLt; have := a.isLt; have := d.isLt; unfold encL; omega
theorem encL_d {op : Nat} (la : La) (imm : BitVec 9) (a : G) (d : G) (h : op < 128) :
    gAt (encL op la imm.toNat a d) 7 = d := gAt_eq (by have := la.isLt; have := imm.isLt; have := a.isLt; have := d.isLt; unfold encL; omega)
theorem encL_a {op : Nat} (la : La) (imm : BitVec 9) (a : G) (d : G) (h : op < 128) :
    gAt (encL op la imm.toNat a d) 13 = a := gAt_eq (by have := la.isLt; have := imm.isLt; have := a.isLt; have := d.isLt; unfold encL; omega)
theorem encL_imm {op : Nat} (la : La) (imm : BitVec 9) (a : G) (d : G) (h : op < 128) :
    immAt 9 (encL op la imm.toNat a d) 19 = imm := immAt_eq (by have := la.isLt; have := imm.isLt; have := a.isLt; have := d.isLt; unfold encL; omega)
theorem encL_la {op : Nat} (la : La) (imm : BitVec 9) (a : G) (d : G) (h : op < 128) :
    laAt (encL op la imm.toNat a d) 28 = la := laAt_eq (by have := la.isLt; have := imm.isLt; have := a.isLt; have := d.isLt; unfold encL; omega)

theorem encQ_op {op : Nat} (la : La) {sz : Nat} {sc : Nat} (a : G) (d : G) (h : op < 128) (hz : sz < 4) (hc : sc < 8) : encQ op la sz sc a d % 128 = op := by have := la.isLt; have := a.isLt; have := d.isLt; unfold encQ; omega
theorem encQ_d {op : Nat} (la : La) {sz : Nat} {sc : Nat} (a : G) (d : G) (h : op < 128) (hz : sz < 4) (hc : sc < 8) :
    gAt (encQ op la sz sc a d) 7 = d := gAt_eq (by have := la.isLt; have := a.isLt; have := d.isLt; unfold encQ; omega)
theorem encQ_a {op : Nat} (la : La) {sz : Nat} {sc : Nat} (a : G) (d : G) (h : op < 128) (hz : sz < 4) (hc : sc < 8) :
    gAt (encQ op la sz sc a d) 13 = a := gAt_eq (by have := la.isLt; have := a.isLt; have := d.isLt; unfold encQ; omega)
theorem encQ_sc {op : Nat} (la : La) {sz : Nat} {sc : Nat} (a : G) (d : G) (h : op < 128) (hz : sz < 4) (hc : sc < 8) :
    fieldAt (encQ op la sz sc a d) 19 3 = sc := by have := la.isLt; have := a.isLt; have := d.isLt; unfold encQ fieldAt; omega
theorem encQ_sz {op : Nat} (la : La) {sz : Nat} {sc : Nat} (a : G) (d : G) (h : op < 128) (hz : sz < 4) (hc : sc < 8) :
    fieldAt (encQ op la sz sc a d) 22 2 = sz := by have := la.isLt; have := a.isLt; have := d.isLt; unfold encQ fieldAt; omega
theorem encQ_mid {op : Nat} (la : La) {sz : Nat} {sc : Nat} (a : G) (d : G) (h : op < 128) (hz : sz < 4) (hc : sc < 8) :
    fieldAt (encQ op la sz sc a d) 24 4 = 0 := by have := la.isLt; have := a.isLt; have := d.isLt; unfold encQ fieldAt; omega
theorem encQ_la {op : Nat} (la : La) {sz : Nat} {sc : Nat} (a : G) (d : G) (h : op < 128) (hz : sz < 4) (hc : sc < 8) :
    laAt (encQ op la sz sc a d) 28 = la := laAt_eq (by have := la.isLt; have := a.isLt; have := d.isLt; unfold encQ; omega)

theorem encM_op {op : Nat} {fn3 : Nat} (la : La) (d : G) (a : G) (b : G) (h : op < 128) (hf : fn3 < 8) : encM op fn3 la d a b % 128 = op := by have := la.isLt; have := d.isLt; have := a.isLt; have := b.isLt; unfold encM; omega
theorem encM_d {op : Nat} {fn3 : Nat} (la : La) (d : G) (a : G) (b : G) (h : op < 128) (hf : fn3 < 8) :
    gAt (encM op fn3 la d a b) 7 = d := gAt_eq (by have := la.isLt; have := d.isLt; have := a.isLt; have := b.isLt; unfold encM; omega)
theorem encM_a {op : Nat} {fn3 : Nat} (la : La) (d : G) (a : G) (b : G) (h : op < 128) (hf : fn3 < 8) :
    gAt (encM op fn3 la d a b) 13 = a := gAt_eq (by have := la.isLt; have := d.isLt; have := a.isLt; have := b.isLt; unfold encM; omega)
theorem encM_b {op : Nat} {fn3 : Nat} (la : La) (d : G) (a : G) (b : G) (h : op < 128) (hf : fn3 < 8) :
    gAt (encM op fn3 la d a b) 19 = b := gAt_eq (by have := la.isLt; have := d.isLt; have := a.isLt; have := b.isLt; unfold encM; omega)
theorem encM_la {op : Nat} {fn3 : Nat} (la : La) (d : G) (a : G) (b : G) (h : op < 128) (hf : fn3 < 8) :
    laAt (encM op fn3 la d a b) 25 = la := laAt_eq (by have := la.isLt; have := d.isLt; have := a.isLt; have := b.isLt; unfold encM; omega)
theorem encM_fn3 {op : Nat} {fn3 : Nat} (la : La) (d : G) (a : G) (b : G) (h : op < 128) (hf : fn3 < 8) :
    fieldAt (encM op fn3 la d a b) 29 3 = fn3 := by have := la.isLt; have := d.isLt; have := a.isLt; have := b.isLt; unfold encM fieldAt; omega

theorem encF4_op {op : Nat} {n : Nat} (d : G) (a : G) (b : G) (c : G) (h : op < 128) (hn : n < 2) : encF4 op n d a b c % 128 = op := by have := d.isLt; have := a.isLt; have := b.isLt; have := c.isLt; unfold encF4; omega
theorem encF4_d {op : Nat} {n : Nat} (d : G) (a : G) (b : G) (c : G) (h : op < 128) (hn : n < 2) :
    gAt (encF4 op n d a b c) 7 = d := gAt_eq (by have := d.isLt; have := a.isLt; have := b.isLt; have := c.isLt; unfold encF4; omega)
theorem encF4_a {op : Nat} {n : Nat} (d : G) (a : G) (b : G) (c : G) (h : op < 128) (hn : n < 2) :
    gAt (encF4 op n d a b c) 13 = a := gAt_eq (by have := d.isLt; have := a.isLt; have := b.isLt; have := c.isLt; unfold encF4; omega)
theorem encF4_b {op : Nat} {n : Nat} (d : G) (a : G) (b : G) (c : G) (h : op < 128) (hn : n < 2) :
    gAt (encF4 op n d a b c) 19 = b := gAt_eq (by have := d.isLt; have := a.isLt; have := b.isLt; have := c.isLt; unfold encF4; omega)
theorem encF4_c {op : Nat} {n : Nat} (d : G) (a : G) (b : G) (c : G) (h : op < 128) (hn : n < 2) :
    gAt (encF4 op n d a b c) 25 = c := gAt_eq (by have := d.isLt; have := a.isLt; have := b.isLt; have := c.isLt; unfold encF4; omega)
theorem encF4_n {op : Nat} {n : Nat} (d : G) (a : G) (b : G) (c : G) (h : op < 128) (hn : n < 2) :
    fieldAt (encF4 op n d a b c) 31 1 = n := by have := d.isLt; have := a.isLt; have := b.isLt; have := c.isLt; unfold encF4 fieldAt; omega

theorem encV_op {op : Nat} {fn : Nat} (k : K) (d : V) (a : V) (b : V) (h : op < 128) (hf : fn < 128) : encV op fn k d a b % 128 = op := by have := k.isLt; have := d.isLt; have := a.isLt; have := b.isLt; unfold encV; omega
theorem encV_d {op : Nat} {fn : Nat} (k : K) (d : V) (a : V) (b : V) (h : op < 128) (hf : fn < 128) :
    vAt (encV op fn k d a b) 7 = d := vAt_eq (by have := k.isLt; have := d.isLt; have := a.isLt; have := b.isLt; unfold encV; omega)
theorem encV_a {op : Nat} {fn : Nat} (k : K) (d : V) (a : V) (b : V) (h : op < 128) (hf : fn < 128) :
    vAt (encV op fn k d a b) 12 = a := vAt_eq (by have := k.isLt; have := d.isLt; have := a.isLt; have := b.isLt; unfold encV; omega)
theorem encV_b {op : Nat} {fn : Nat} (k : K) (d : V) (a : V) (b : V) (h : op < 128) (hf : fn < 128) :
    vAt (encV op fn k d a b) 17 = b := vAt_eq (by have := k.isLt; have := d.isLt; have := a.isLt; have := b.isLt; unfold encV; omega)
theorem encV_k {op : Nat} {fn : Nat} (k : K) (d : V) (a : V) (b : V) (h : op < 128) (hf : fn < 128) :
    kAt (encV op fn k d a b) 22 = k := kAt_eq (by have := k.isLt; have := d.isLt; have := a.isLt; have := b.isLt; unfold encV; omega)
theorem encV_fn {op : Nat} {fn : Nat} (k : K) (d : V) (a : V) (b : V) (h : op < 128) (hf : fn < 128) :
    fieldAt (encV op fn k d a b) 25 7 = fn := by have := k.isLt; have := d.isLt; have := a.isLt; have := b.isLt; unfold encV fieldAt; omega

theorem encVX_op {op : Nat} {fn : Nat} (k : K) (g : G) (idx : Fin 16) (d : V) (h : op < 128) (hf : fn < 128) : encVX op fn k g idx d % 128 = op := by have := k.isLt; have := g.isLt; have := idx.isLt; have := d.isLt; unfold encVX; omega
theorem encVX_d {op : Nat} {fn : Nat} (k : K) (g : G) (idx : Fin 16) (d : V) (h : op < 128) (hf : fn < 128) :
    vAt (encVX op fn k g idx d) 7 = d := vAt_eq (by have := k.isLt; have := g.isLt; have := idx.isLt; have := d.isLt; unfold encVX; omega)
theorem encVX_idx {op : Nat} {fn : Nat} (k : K) (g : G) (idx : Fin 16) (d : V) (h : op < 128) (hf : fn < 128) :
    fieldAt (encVX op fn k g idx d) 12 4 = idx.val := by have := k.isLt; have := g.isLt; have := idx.isLt; have := d.isLt; unfold encVX fieldAt; omega
theorem encVX_g {op : Nat} {fn : Nat} (k : K) (g : G) (idx : Fin 16) (d : V) (h : op < 128) (hf : fn < 128) :
    gAt (encVX op fn k g idx d) 16 = g := gAt_eq (by have := k.isLt; have := g.isLt; have := idx.isLt; have := d.isLt; unfold encVX; omega)
theorem encVX_k {op : Nat} {fn : Nat} (k : K) (g : G) (idx : Fin 16) (d : V) (h : op < 128) (hf : fn < 128) :
    kAt (encVX op fn k g idx d) 22 = k := kAt_eq (by have := k.isLt; have := g.isLt; have := idx.isLt; have := d.isLt; unfold encVX; omega)
theorem encVX_fn {op : Nat} {fn : Nat} (k : K) (g : G) (idx : Fin 16) (d : V) (h : op < 128) (hf : fn < 128) :
    fieldAt (encVX op fn k g idx d) 25 7 = fn := by have := k.isLt; have := g.isLt; have := idx.isLt; have := d.isLt; unfold encVX fieldAt; omega

theorem encVM_op {op : Nat} {sz : Nat} (la : La) (imm : BitVec 8) (a : G) (d : V) (h : op < 128) (hz : sz < 4) : encVM op sz la imm.toNat a d % 128 = op := by have := la.isLt; have := imm.isLt; have := a.isLt; have := d.isLt; unfold encVM; omega
theorem encVM_d {op : Nat} {sz : Nat} (la : La) (imm : BitVec 8) (a : G) (d : V) (h : op < 128) (hz : sz < 4) :
    vAt (encVM op sz la imm.toNat a d) 7 = d := vAt_eq (by have := la.isLt; have := imm.isLt; have := a.isLt; have := d.isLt; unfold encVM; omega)
theorem encVM_a {op : Nat} {sz : Nat} (la : La) (imm : BitVec 8) (a : G) (d : V) (h : op < 128) (hz : sz < 4) :
    gAt (encVM op sz la imm.toNat a d) 12 = a := gAt_eq (by have := la.isLt; have := imm.isLt; have := a.isLt; have := d.isLt; unfold encVM; omega)
theorem encVM_imm {op : Nat} {sz : Nat} (la : La) (imm : BitVec 8) (a : G) (d : V) (h : op < 128) (hz : sz < 4) :
    immAt 8 (encVM op sz la imm.toNat a d) 18 = imm := immAt_eq (by have := la.isLt; have := imm.isLt; have := a.isLt; have := d.isLt; unfold encVM; omega)
theorem encVM_la {op : Nat} {sz : Nat} (la : La) (imm : BitVec 8) (a : G) (d : V) (h : op < 128) (hz : sz < 4) :
    laAt (encVM op sz la imm.toNat a d) 26 = la := laAt_eq (by have := la.isLt; have := imm.isLt; have := a.isLt; have := d.isLt; unfold encVM; omega)
theorem encVM_sz {op : Nat} {sz : Nat} (la : La) (imm : BitVec 8) (a : G) (d : V) (h : op < 128) (hz : sz < 4) :
    fieldAt (encVM op sz la imm.toNat a d) 30 2 = sz := by have := la.isLt; have := imm.isLt; have := a.isLt; have := d.isLt; unfold encVM fieldAt; omega

theorem encVS_op {op : Nat} (k : K) (la : La) (b : G) (a : G) (d : V) (h : op < 128) : encVS op k la b a d % 128 = op := by have := k.isLt; have := la.isLt; have := b.isLt; have := a.isLt; have := d.isLt; unfold encVS; omega
theorem encVS_d {op : Nat} (k : K) (la : La) (b : G) (a : G) (d : V) (h : op < 128) :
    vAt (encVS op k la b a d) 7 = d := vAt_eq (by have := k.isLt; have := la.isLt; have := b.isLt; have := a.isLt; have := d.isLt; unfold encVS; omega)
theorem encVS_a {op : Nat} (k : K) (la : La) (b : G) (a : G) (d : V) (h : op < 128) :
    gAt (encVS op k la b a d) 12 = a := gAt_eq (by have := k.isLt; have := la.isLt; have := b.isLt; have := a.isLt; have := d.isLt; unfold encVS; omega)
theorem encVS_b {op : Nat} (k : K) (la : La) (b : G) (a : G) (d : V) (h : op < 128) :
    gAt (encVS op k la b a d) 18 = b := gAt_eq (by have := k.isLt; have := la.isLt; have := b.isLt; have := a.isLt; have := d.isLt; unfold encVS; omega)
theorem encVS_la {op : Nat} (k : K) (la : La) (b : G) (a : G) (d : V) (h : op < 128) :
    laAt (encVS op k la b a d) 24 = la := laAt_eq (by have := k.isLt; have := la.isLt; have := b.isLt; have := a.isLt; have := d.isLt; unfold encVS; omega)
theorem encVS_k {op : Nat} (k : K) (la : La) (b : G) (a : G) (d : V) (h : op < 128) :
    kAt (encVS op k la b a d) 28 = k := kAt_eq (by have := k.isLt; have := la.isLt; have := b.isLt; have := a.isLt; have := d.isLt; unfold encVS; omega)
theorem encVS_top {op : Nat} (k : K) (la : La) (b : G) (a : G) (d : V) (h : op < 128) :
    fieldAt (encVS op k la b a d) 31 1 = 0 := by have := k.isLt; have := la.isLt; have := b.isLt; have := a.isLt; have := d.isLt; unfold encVS fieldAt; omega

theorem encVSv_op {op : Nat} (k : K) (la : La) (b : V) (a : G) (d : V) (h : op < 128) : encVS op k la b a d % 128 = op := by have := k.isLt; have := la.isLt; have := b.isLt; have := a.isLt; have := d.isLt; unfold encVS; omega
theorem encVSv_d {op : Nat} (k : K) (la : La) (b : V) (a : G) (d : V) (h : op < 128) :
    vAt (encVS op k la b a d) 7 = d := vAt_eq (by have := k.isLt; have := la.isLt; have := b.isLt; have := a.isLt; have := d.isLt; unfold encVS; omega)
theorem encVSv_a {op : Nat} (k : K) (la : La) (b : V) (a : G) (d : V) (h : op < 128) :
    gAt (encVS op k la b a d) 12 = a := gAt_eq (by have := k.isLt; have := la.isLt; have := b.isLt; have := a.isLt; have := d.isLt; unfold encVS; omega)
theorem encVSv_b {op : Nat} (k : K) (la : La) (b : V) (a : G) (d : V) (h : op < 128) :
    vAt (encVS op k la b a d) 18 = b := vAt_eq (by have := k.isLt; have := la.isLt; have := b.isLt; have := a.isLt; have := d.isLt; unfold encVS; omega)
theorem encVSv_mid {op : Nat} (k : K) (la : La) (b : V) (a : G) (d : V) (h : op < 128) :
    fieldAt (encVS op k la b a d) 23 1 = 0 := by have := k.isLt; have := la.isLt; have := b.isLt; have := a.isLt; have := d.isLt; unfold encVS fieldAt; omega
theorem encVSv_la {op : Nat} (k : K) (la : La) (b : V) (a : G) (d : V) (h : op < 128) :
    laAt (encVS op k la b a d) 24 = la := laAt_eq (by have := k.isLt; have := la.isLt; have := b.isLt; have := a.isLt; have := d.isLt; unfold encVS; omega)
theorem encVSv_k {op : Nat} (k : K) (la : La) (b : V) (a : G) (d : V) (h : op < 128) :
    kAt (encVS op k la b a d) 28 = k := kAt_eq (by have := k.isLt; have := la.isLt; have := b.isLt; have := a.isLt; have := d.isLt; unfold encVS; omega)
theorem encVSv_top {op : Nat} (k : K) (la : La) (b : V) (a : G) (d : V) (h : op < 128) :
    fieldAt (encVS op k la b a d) 31 1 = 0 := by have := k.isLt; have := la.isLt; have := b.isLt; have := a.isLt; have := d.isLt; unfold encVS fieldAt; omega

theorem encVF4_op {op : Nat} {n : Nat} (k : K) (d : V) (a : V) (b : V) (c : V) (h : op < 128) (hn : n < 4) : encVF4 op n k d a b c % 128 = op := by have := k.isLt; have := d.isLt; have := a.isLt; have := b.isLt; have := c.isLt; unfold encVF4; omega
theorem encVF4_d {op : Nat} {n : Nat} (k : K) (d : V) (a : V) (b : V) (c : V) (h : op < 128) (hn : n < 4) :
    vAt (encVF4 op n k d a b c) 7 = d := vAt_eq (by have := k.isLt; have := d.isLt; have := a.isLt; have := b.isLt; have := c.isLt; unfold encVF4; omega)
theorem encVF4_a {op : Nat} {n : Nat} (k : K) (d : V) (a : V) (b : V) (c : V) (h : op < 128) (hn : n < 4) :
    vAt (encVF4 op n k d a b c) 12 = a := vAt_eq (by have := k.isLt; have := d.isLt; have := a.isLt; have := b.isLt; have := c.isLt; unfold encVF4; omega)
theorem encVF4_b {op : Nat} {n : Nat} (k : K) (d : V) (a : V) (b : V) (c : V) (h : op < 128) (hn : n < 4) :
    vAt (encVF4 op n k d a b c) 17 = b := vAt_eq (by have := k.isLt; have := d.isLt; have := a.isLt; have := b.isLt; have := c.isLt; unfold encVF4; omega)
theorem encVF4_c {op : Nat} {n : Nat} (k : K) (d : V) (a : V) (b : V) (c : V) (h : op < 128) (hn : n < 4) :
    vAt (encVF4 op n k d a b c) 22 = c := vAt_eq (by have := k.isLt; have := d.isLt; have := a.isLt; have := b.isLt; have := c.isLt; unfold encVF4; omega)
theorem encVF4_k {op : Nat} {n : Nat} (k : K) (d : V) (a : V) (b : V) (c : V) (h : op < 128) (hn : n < 4) :
    kAt (encVF4 op n k d a b c) 27 = k := kAt_eq (by have := k.isLt; have := d.isLt; have := a.isLt; have := b.isLt; have := c.isLt; unfold encVF4; omega)
theorem encVF4_n {op : Nat} {n : Nat} (k : K) (d : V) (a : V) (b : V) (c : V) (h : op < 128) (hn : n < 4) :
    fieldAt (encVF4 op n k d a b c) 30 2 = n := by have := k.isLt; have := d.isLt; have := a.isLt; have := b.isLt; have := c.isLt; unfold encVF4 fieldAt; omega

/-! ### One lemma for each opcode -/

theorem dec01 {fn : Nat} (d : G) (a : G) (b : G) (hf : fn < 128) :
    decodeWord (encR 0x01 fn d a b) = decodeAlu fn d a b := by
  rw [decodeWord_low (encR_op d a b (by decide) hf) (by decide)]
  show decodeAlu (fieldAt (encR 0x01 fn d a b) 25 7) (gAt (encR 0x01 fn d a b) 7) (gAt (encR 0x01 fn d a b) 13) (gAt (encR 0x01 fn d a b) 19) = _
  rw [encR_fn d a b (by decide) hf, encR_d d a b (by decide) hf, encR_a d a b (by decide) hf, encR_b d a b (by decide) hf]

theorem dec02 (imm : BitVec 13) (d : G) (a : G)  :
    decodeWord (encI 0x02 imm.toNat d a) = some (.addi d a imm) := by
  rw [decodeWord_low (encI_op imm d a (by decide)) (by decide)]
  show some (Instr.addi (gAt (encI 0x02 imm.toNat d a) 7) (gAt (encI 0x02 imm.toNat d a) 13) (immAt 13 (encI 0x02 imm.toNat d a) 19)) = _
  rw [encI_d imm d a (by decide), encI_a imm d a (by decide), encI_imm imm d a (by decide)]

theorem dec03 (imm : BitVec 13) (d : G) (a : G)  :
    decodeWord (encI 0x03 imm.toNat d a) = some (.andi d a imm) := by
  rw [decodeWord_low (encI_op imm d a (by decide)) (by decide)]
  show some (Instr.andi (gAt (encI 0x03 imm.toNat d a) 7) (gAt (encI 0x03 imm.toNat d a) 13) (immAt 13 (encI 0x03 imm.toNat d a) 19)) = _
  rw [encI_d imm d a (by decide), encI_a imm d a (by decide), encI_imm imm d a (by decide)]

theorem dec04 (imm : BitVec 13) (d : G) (a : G)  :
    decodeWord (encI 0x04 imm.toNat d a) = some (.ori d a imm) := by
  rw [decodeWord_low (encI_op imm d a (by decide)) (by decide)]
  show some (Instr.ori (gAt (encI 0x04 imm.toNat d a) 7) (gAt (encI 0x04 imm.toNat d a) 13) (immAt 13 (encI 0x04 imm.toNat d a) 19)) = _
  rw [encI_d imm d a (by decide), encI_a imm d a (by decide), encI_imm imm d a (by decide)]

theorem dec05 (imm : BitVec 13) (d : G) (a : G)  :
    decodeWord (encI 0x05 imm.toNat d a) = some (.xori d a imm) := by
  rw [decodeWord_low (encI_op imm d a (by decide)) (by decide)]
  show some (Instr.xori (gAt (encI 0x05 imm.toNat d a) 7) (gAt (encI 0x05 imm.toNat d a) 13) (immAt 13 (encI 0x05 imm.toNat d a) 19)) = _
  rw [encI_d imm d a (by decide), encI_a imm d a (by decide), encI_imm imm d a (by decide)]

theorem dec06 (imm : BitVec 13) (d : G) (a : G)  :
    decodeWord (encI 0x06 imm.toNat d a) = some (.slti d a imm) := by
  rw [decodeWord_low (encI_op imm d a (by decide)) (by decide)]
  show some (Instr.slti (gAt (encI 0x06 imm.toNat d a) 7) (gAt (encI 0x06 imm.toNat d a) 13) (immAt 13 (encI 0x06 imm.toNat d a) 19)) = _
  rw [encI_d imm d a (by decide), encI_a imm d a (by decide), encI_imm imm d a (by decide)]

theorem dec07 (imm : BitVec 13) (d : G) (a : G)  :
    decodeWord (encI 0x07 imm.toNat d a) = some (.sltiu d a imm) := by
  rw [decodeWord_low (encI_op imm d a (by decide)) (by decide)]
  show some (Instr.sltiu (gAt (encI 0x07 imm.toNat d a) 7) (gAt (encI 0x07 imm.toNat d a) 13) (immAt 13 (encI 0x07 imm.toNat d a) 19)) = _
  rw [encI_d imm d a (by decide), encI_a imm d a (by decide), encI_imm imm d a (by decide)]

theorem dec08 {fn : Nat} (d : G) (a : G) (b : G) (hf : fn < 128) :
    decodeWord (encR 0x08 fn d a b) = decodeShift fn d a b := by
  rw [decodeWord_low (encR_op d a b (by decide) hf) (by decide)]
  show decodeShift (fieldAt (encR 0x08 fn d a b) 25 7) (gAt (encR 0x08 fn d a b) 7) (gAt (encR 0x08 fn d a b) 13) (Fin.ofNat 64 (fieldAt (encR 0x08 fn d a b) 19 6)) = _
  rw [encR_fn d a b (by decide) hf, encR_d d a b (by decide) hf, encR_a d a b (by decide) hf, encR_b6 d a b (by decide) hf]
  rw [ofNat_fin b]

theorem dec09 (imm : BitVec 19) (d : G)  :
    decodeWord (encU 0x09 imm.toNat d) = some (.lui d imm) := by
  rw [decodeWord_low (encU_op imm d (by decide)) (by decide)]
  show some (Instr.lui (gAt (encU 0x09 imm.toNat d) 7) (immAt 19 (encU 0x09 imm.toNat d) 13)) = _
  rw [encU_d imm d (by decide), encU_imm imm d (by decide)]

theorem dec0A (imm : BitVec 19) (d : G)  :
    decodeWord (encU 0x0A imm.toNat d) = some (.adpc d imm) := by
  rw [decodeWord_low (encU_op imm d (by decide)) (by decide)]
  show some (Instr.adpc (gAt (encU 0x0A imm.toNat d) 7) (immAt 19 (encU 0x0A imm.toNat d) 13)) = _
  rw [encU_d imm d (by decide), encU_imm imm d (by decide)]

theorem dec16 (imm : BitVec 19) (d : G)  :
    decodeWord (encU 0x16 imm.toNat d) = some (.jal d imm) := by
  rw [decodeWord_low (encU_op imm d (by decide)) (by decide)]
  show some (Instr.jal (gAt (encU 0x16 imm.toNat d) 7) (immAt 19 (encU 0x16 imm.toNat d) 13)) = _
  rw [encU_d imm d (by decide), encU_imm imm d (by decide)]

theorem dec0B {m : Nat} (c : G) (d : G) (a : G) (b : G) (hm : m < 2) :
    decodeWord (encR 0x0B (c.val + 64 * m) d a b) = checked (.bfx d a b c (m == 1)) := by
  rw [decodeWord_low (encRc_op c d a b (by decide) hm) (by decide)]
  show checked (Instr.bfx (gAt (encR 0x0B (c.val + 64 * m) d a b) 7) (gAt (encR 0x0B (c.val + 64 * m) d a b) 13) (gAt (encR 0x0B (c.val + 64 * m) d a b) 19) (gAt (encR 0x0B (c.val + 64 * m) d a b) 25) (fieldAt (encR 0x0B (c.val + 64 * m) d a b) 31 1 == 1)) = _
  rw [encRc_d c d a b (by decide) hm, encRc_a c d a b (by decide) hm, encRc_b c d a b (by decide) hm, encRc_c c d a b (by decide) hm, encRc_n c d a b (by decide) hm]

theorem dec0C {m : Nat} (c : G) (d : G) (a : G) (b : G) (hm : m < 2) :
    decodeWord (encR 0x0C (c.val + 64 * m) d a b) = zeroed m (checked (.bfi d a b c)) := by
  rw [decodeWord_low (encRc_op c d a b (by decide) hm) (by decide)]
  show zeroed (fieldAt (encR 0x0C (c.val + 64 * m) d a b) 31 1) (checked (Instr.bfi (gAt (encR 0x0C (c.val + 64 * m) d a b) 7) (gAt (encR 0x0C (c.val + 64 * m) d a b) 13) (gAt (encR 0x0C (c.val + 64 * m) d a b) 19) (gAt (encR 0x0C (c.val + 64 * m) d a b) 25))) = _
  rw [encRc_n c d a b (by decide) hm, encRc_d c d a b (by decide) hm, encRc_a c d a b (by decide) hm, encRc_b c d a b (by decide) hm, encRc_c c d a b (by decide) hm]

theorem dec0D {fn : Nat} (d : G) (a : G) (b : G) (hf : fn < 128) :
    decodeWord (encR 0x0D fn d a b) = decodeMesh fn d a b := by
  rw [decodeWord_low (encR_op d a b (by decide) hf) (by decide)]
  show decodeMesh (fieldAt (encR 0x0D fn d a b) 25 7) (gAt (encR 0x0D fn d a b) 7) (gAt (encR 0x0D fn d a b) 13) (gAt (encR 0x0D fn d a b) 19) = _
  rw [encR_fn d a b (by decide) hf, encR_d d a b (by decide) hf, encR_a d a b (by decide) hf, encR_b d a b (by decide) hf]

theorem dec10 (imm : BitVec 13) (a : G) (b : G)  :
    decodeWord (encB 0x10 imm.toNat a b) = some (.beq a b imm) := by
  rw [decodeWord_low (encB_op imm a b (by decide)) (by decide)]
  show some (Instr.beq (gAt (encB 0x10 imm.toNat a b) 13) (gAt (encB 0x10 imm.toNat a b) 19) (BitVec.ofNat 13 (fieldAt (encB 0x10 imm.toNat a b) 7 6 + 64 * fieldAt (encB 0x10 imm.toNat a b) 25 7))) = _
  rw [encB_a imm a b (by decide), encB_b imm a b (by decide), encB_lo imm a b (by decide), encB_hi imm a b (by decide)]
  rw [Nat.mod_add_div, BitVec.ofNat_toNat, BitVec.setWidth_eq]

theorem dec11 (imm : BitVec 13) (a : G) (b : G)  :
    decodeWord (encB 0x11 imm.toNat a b) = some (.bne a b imm) := by
  rw [decodeWord_low (encB_op imm a b (by decide)) (by decide)]
  show some (Instr.bne (gAt (encB 0x11 imm.toNat a b) 13) (gAt (encB 0x11 imm.toNat a b) 19) (BitVec.ofNat 13 (fieldAt (encB 0x11 imm.toNat a b) 7 6 + 64 * fieldAt (encB 0x11 imm.toNat a b) 25 7))) = _
  rw [encB_a imm a b (by decide), encB_b imm a b (by decide), encB_lo imm a b (by decide), encB_hi imm a b (by decide)]
  rw [Nat.mod_add_div, BitVec.ofNat_toNat, BitVec.setWidth_eq]

theorem dec12 (imm : BitVec 13) (a : G) (b : G)  :
    decodeWord (encB 0x12 imm.toNat a b) = some (.blt a b imm) := by
  rw [decodeWord_low (encB_op imm a b (by decide)) (by decide)]
  show some (Instr.blt (gAt (encB 0x12 imm.toNat a b) 13) (gAt (encB 0x12 imm.toNat a b) 19) (BitVec.ofNat 13 (fieldAt (encB 0x12 imm.toNat a b) 7 6 + 64 * fieldAt (encB 0x12 imm.toNat a b) 25 7))) = _
  rw [encB_a imm a b (by decide), encB_b imm a b (by decide), encB_lo imm a b (by decide), encB_hi imm a b (by decide)]
  rw [Nat.mod_add_div, BitVec.ofNat_toNat, BitVec.setWidth_eq]

theorem dec13 (imm : BitVec 13) (a : G) (b : G)  :
    decodeWord (encB 0x13 imm.toNat a b) = some (.bge a b imm) := by
  rw [decodeWord_low (encB_op imm a b (by decide)) (by decide)]
  show some (Instr.bge (gAt (encB 0x13 imm.toNat a b) 13) (gAt (encB 0x13 imm.toNat a b) 19) (BitVec.ofNat 13 (fieldAt (encB 0x13 imm.toNat a b) 7 6 + 64 * fieldAt (encB 0x13 imm.toNat a b) 25 7))) = _
  rw [encB_a imm a b (by decide), encB_b imm a b (by decide), encB_lo imm a b (by decide), encB_hi imm a b (by decide)]
  rw [Nat.mod_add_div, BitVec.ofNat_toNat, BitVec.setWidth_eq]

theorem dec14 (imm : BitVec 13) (a : G) (b : G)  :
    decodeWord (encB 0x14 imm.toNat a b) = some (.bltu a b imm) := by
  rw [decodeWord_low (encB_op imm a b (by decide)) (by decide)]
  show some (Instr.bltu (gAt (encB 0x14 imm.toNat a b) 13) (gAt (encB 0x14 imm.toNat a b) 19) (BitVec.ofNat 13 (fieldAt (encB 0x14 imm.toNat a b) 7 6 + 64 * fieldAt (encB 0x14 imm.toNat a b) 25 7))) = _
  rw [encB_a imm a b (by decide), encB_b imm a b (by decide), encB_lo imm a b (by decide), encB_hi imm a b (by decide)]
  rw [Nat.mod_add_div, BitVec.ofNat_toNat, BitVec.setWidth_eq]

theorem dec15 (imm : BitVec 13) (a : G) (b : G)  :
    decodeWord (encB 0x15 imm.toNat a b) = some (.bgeu a b imm) := by
  rw [decodeWord_low (encB_op imm a b (by decide)) (by decide)]
  show some (Instr.bgeu (gAt (encB 0x15 imm.toNat a b) 13) (gAt (encB 0x15 imm.toNat a b) 19) (BitVec.ofNat 13 (fieldAt (encB 0x15 imm.toNat a b) 7 6 + 64 * fieldAt (encB 0x15 imm.toNat a b) 25 7))) = _
  rw [encB_a imm a b (by decide), encB_b imm a b (by decide), encB_lo imm a b (by decide), encB_hi imm a b (by decide)]
  rw [Nat.mod_add_div, BitVec.ofNat_toNat, BitVec.setWidth_eq]

theorem dec17 (imm : BitVec 13) (d : G) (a : G)  :
    decodeWord (encI 0x17 imm.toNat d a) = some (.jalr d a imm) := by
  rw [decodeWord_low (encI_op imm d a (by decide)) (by decide)]
  show some (Instr.jalr (gAt (encI 0x17 imm.toNat d a) 7) (gAt (encI 0x17 imm.toNat d a) 13) (immAt 13 (encI 0x17 imm.toNat d a) 19)) = _
  rw [encI_d imm d a (by decide), encI_a imm d a (by decide), encI_imm imm d a (by decide)]

theorem dec18 (imm : BitVec 13) (d : G) (a : G)  :
    decodeWord (encI 0x18 imm.toNat d a) = zeroed d.val (some (.loop a imm)) := by
  rw [decodeWord_low (encI_op imm d a (by decide)) (by decide)]
  show zeroed (gAt (encI 0x18 imm.toNat d a) 7).val (some (Instr.loop (gAt (encI 0x18 imm.toNat d a) 13) (immAt 13 (encI 0x18 imm.toNat d a) 19))) = _
  rw [encI_d imm d a (by decide), encI_a imm d a (by decide), encI_imm imm d a (by decide)]

theorem dec19 (count : BitVec 10) (len : BitVec 9) (d : G)  :
    decodeWord (encU 0x19 (len.toNat + 2 ^ 9 * count.toNat) d) = zeroed d.val (some (.loopi count len)) := by
  rw [decodeWord_low (encUl_op count len d (by decide)) (by decide)]
  show zeroed (gAt (encU 0x19 (len.toNat + 2 ^ 9 * count.toNat) d) 7).val (some (Instr.loopi (immAt 10 (encU 0x19 (len.toNat + 2 ^ 9 * count.toNat) d) 22) (immAt 9 (encU 0x19 (len.toNat + 2 ^ 9 * count.toNat) d) 13))) = _
  rw [encUl_d count len d (by decide), encUl_count count len d (by decide), encUl_len count len d (by decide)]

theorem dec1A {fn : Nat} (d : G) (a : G) (b : G) (hf : fn < 128) :
    decodeWord (encR 0x1A fn d a b) = decodeIter fn d a b := by
  rw [decodeWord_low (encR_op d a b (by decide) hf) (by decide)]
  show decodeIter (fieldAt (encR 0x1A fn d a b) 25 7) (gAt (encR 0x1A fn d a b) 7) (gAt (encR 0x1A fn d a b) 13) (gAt (encR 0x1A fn d a b) 19) = _
  rw [encR_fn d a b (by decide) hf, encR_d d a b (by decide) hf, encR_a d a b (by decide) hf, encR_b d a b (by decide) hf]

theorem dec20 (la : La) (imm : BitVec 9) (a : G) (d : G)  :
    decodeWord (encL 0x20 la imm.toNat a d) = some (.ldB d a imm la) := by
  rw [decodeWord_mem (encL_op la imm a d (by decide)) (by decide) (by decide)]
  show some (Instr.ldB (gAt (encL 0x20 la imm.toNat a d) 7) (gAt (encL 0x20 la imm.toNat a d) 13) (immAt 9 (encL 0x20 la imm.toNat a d) 19) (laAt (encL 0x20 la imm.toNat a d) 28)) = _
  rw [encL_d la imm a d (by decide), encL_a la imm a d (by decide), encL_imm la imm a d (by decide), encL_la la imm a d (by decide)]

theorem dec21 (la : La) (imm : BitVec 9) (a : G) (d : G)  :
    decodeWord (encL 0x21 la imm.toNat a d) = some (.ldH d a imm la) := by
  rw [decodeWord_mem (encL_op la imm a d (by decide)) (by decide) (by decide)]
  show some (Instr.ldH (gAt (encL 0x21 la imm.toNat a d) 7) (gAt (encL 0x21 la imm.toNat a d) 13) (immAt 9 (encL 0x21 la imm.toNat a d) 19) (laAt (encL 0x21 la imm.toNat a d) 28)) = _
  rw [encL_d la imm a d (by decide), encL_a la imm a d (by decide), encL_imm la imm a d (by decide), encL_la la imm a d (by decide)]

theorem dec22 (la : La) (imm : BitVec 9) (a : G) (d : G)  :
    decodeWord (encL 0x22 la imm.toNat a d) = some (.ldW d a imm la) := by
  rw [decodeWord_mem (encL_op la imm a d (by decide)) (by decide) (by decide)]
  show some (Instr.ldW (gAt (encL 0x22 la imm.toNat a d) 7) (gAt (encL 0x22 la imm.toNat a d) 13) (immAt 9 (encL 0x22 la imm.toNat a d) 19) (laAt (encL 0x22 la imm.toNat a d) 28)) = _
  rw [encL_d la imm a d (by decide), encL_a la imm a d (by decide), encL_imm la imm a d (by decide), encL_la la imm a d (by decide)]

theorem dec23 (la : La) (imm : BitVec 9) (a : G) (d : G)  :
    decodeWord (encL 0x23 la imm.toNat a d) = some (.ldD d a imm la) := by
  rw [decodeWord_mem (encL_op la imm a d (by decide)) (by decide) (by decide)]
  show some (Instr.ldD (gAt (encL 0x23 la imm.toNat a d) 7) (gAt (encL 0x23 la imm.toNat a d) 13) (immAt 9 (encL 0x23 la imm.toNat a d) 19) (laAt (encL 0x23 la imm.toNat a d) 28)) = _
  rw [encL_d la imm a d (by decide), encL_a la imm a d (by decide), encL_imm la imm a d (by decide), encL_la la imm a d (by decide)]

theorem dec24 (la : La) (imm : BitVec 9) (a : G) (d : G)  :
    decodeWord (encL 0x24 la imm.toNat a d) = some (.ldBu d a imm la) := by
  rw [decodeWord_mem (encL_op la imm a d (by decide)) (by decide) (by decide)]
  show some (Instr.ldBu (gAt (encL 0x24 la imm.toNat a d) 7) (gAt (encL 0x24 la imm.toNat a d) 13) (immAt 9 (encL 0x24 la imm.toNat a d) 19) (laAt (encL 0x24 la imm.toNat a d) 28)) = _
  rw [encL_d la imm a d (by decide), encL_a la imm a d (by decide), encL_imm la imm a d (by decide), encL_la la imm a d (by decide)]

theorem dec25 (la : La) (imm : BitVec 9) (a : G) (d : G)  :
    decodeWord (encL 0x25 la imm.toNat a d) = some (.ldHu d a imm la) := by
  rw [decodeWord_mem (encL_op la imm a d (by decide)) (by decide) (by decide)]
  show some (Instr.ldHu (gAt (encL 0x25 la imm.toNat a d) 7) (gAt (encL 0x25 la imm.toNat a d) 13) (immAt 9 (encL 0x25 la imm.toNat a d) 19) (laAt (encL 0x25 la imm.toNat a d) 28)) = _
  rw [encL_d la imm a d (by decide), encL_a la imm a d (by decide), encL_imm la imm a d (by decide), encL_la la imm a d (by decide)]

theorem dec26 (la : La) (imm : BitVec 9) (a : G) (d : G)  :
    decodeWord (encL 0x26 la imm.toNat a d) = some (.ldWu d a imm la) := by
  rw [decodeWord_mem (encL_op la imm a d (by decide)) (by decide) (by decide)]
  show some (Instr.ldWu (gAt (encL 0x26 la imm.toNat a d) 7) (gAt (encL 0x26 la imm.toNat a d) 13) (immAt 9 (encL 0x26 la imm.toNat a d) 19) (laAt (encL 0x26 la imm.toNat a d) 28)) = _
  rw [encL_d la imm a d (by decide), encL_a la imm a d (by decide), encL_imm la imm a d (by decide), encL_la la imm a d (by decide)]

theorem dec28 (la : La) (imm : BitVec 9) (a : G) (d : G)  :
    decodeWord (encL 0x28 la imm.toNat a d) = some (.stB a d imm la) := by
  rw [decodeWord_mem (encL_op la imm a d (by decide)) (by decide) (by decide)]
  show some (Instr.stB (gAt (encL 0x28 la imm.toNat a d) 13) (gAt (encL 0x28 la imm.toNat a d) 7) (immAt 9 (encL 0x28 la imm.toNat a d) 19) (laAt (encL 0x28 la imm.toNat a d) 28)) = _
  rw [encL_d la imm a d (by decide), encL_a la imm a d (by decide), encL_imm la imm a d (by decide), encL_la la imm a d (by decide)]

theorem dec29 (la : La) (imm : BitVec 9) (a : G) (d : G)  :
    decodeWord (encL 0x29 la imm.toNat a d) = some (.stH a d imm la) := by
  rw [decodeWord_mem (encL_op la imm a d (by decide)) (by decide) (by decide)]
  show some (Instr.stH (gAt (encL 0x29 la imm.toNat a d) 13) (gAt (encL 0x29 la imm.toNat a d) 7) (immAt 9 (encL 0x29 la imm.toNat a d) 19) (laAt (encL 0x29 la imm.toNat a d) 28)) = _
  rw [encL_d la imm a d (by decide), encL_a la imm a d (by decide), encL_imm la imm a d (by decide), encL_la la imm a d (by decide)]

theorem dec2A (la : La) (imm : BitVec 9) (a : G) (d : G)  :
    decodeWord (encL 0x2A la imm.toNat a d) = some (.stW a d imm la) := by
  rw [decodeWord_mem (encL_op la imm a d (by decide)) (by decide) (by decide)]
  show some (Instr.stW (gAt (encL 0x2A la imm.toNat a d) 13) (gAt (encL 0x2A la imm.toNat a d) 7) (immAt 9 (encL 0x2A la imm.toNat a d) 19) (laAt (encL 0x2A la imm.toNat a d) 28)) = _
  rw [encL_d la imm a d (by decide), encL_a la imm a d (by decide), encL_imm la imm a d (by decide), encL_la la imm a d (by decide)]

theorem dec2B (la : La) (imm : BitVec 9) (a : G) (d : G)  :
    decodeWord (encL 0x2B la imm.toNat a d) = some (.stD a d imm la) := by
  rw [decodeWord_mem (encL_op la imm a d (by decide)) (by decide) (by decide)]
  show some (Instr.stD (gAt (encL 0x2B la imm.toNat a d) 13) (gAt (encL 0x2B la imm.toNat a d) 7) (immAt 9 (encL 0x2B la imm.toNat a d) 19) (laAt (encL 0x2B la imm.toNat a d) 28)) = _
  rw [encL_d la imm a d (by decide), encL_a la imm a d (by decide), encL_imm la imm a d (by decide), encL_la la imm a d (by decide)]

theorem dec27 (la : La) {sz : Nat} {sc : Nat} (a : G) (d : G) (hz : sz < 4) (hc : sc < 8) :
    decodeWord (encQ 0x27 la sz sc a d) = (match scopeOf sc with | some s => some (.lda d a (widthOf sz) s la) | none => none) := by
  rw [decodeWord_mem (encQ_op la a d (by decide) hz hc) (by decide) (by decide)]
  show zeroed (fieldAt (encQ 0x27 la sz sc a d) 24 4) (match scopeOf (fieldAt (encQ 0x27 la sz sc a d) 19 3) with | some s => some (Instr.lda (gAt (encQ 0x27 la sz sc a d) 7) (gAt (encQ 0x27 la sz sc a d) 13) (widthOf (fieldAt (encQ 0x27 la sz sc a d) 22 2)) s (laAt (encQ 0x27 la sz sc a d) 28)) | none => none) = _
  rw [encQ_mid la a d (by decide) hz hc, encQ_sc la a d (by decide) hz hc, encQ_d la a d (by decide) hz hc, encQ_a la a d (by decide) hz hc, encQ_sz la a d (by decide) hz hc, encQ_la la a d (by decide) hz hc]
  rfl

theorem dec2C (la : La) {sz : Nat} {sc : Nat} (a : G) (d : G) (hz : sz < 4) (hc : sc < 8) :
    decodeWord (encQ 0x2C la sz sc a d) = (match scopeOf sc with | some s => some (.stl a d (widthOf sz) s la) | none => none) := by
  rw [decodeWord_mem (encQ_op la a d (by decide) hz hc) (by decide) (by decide)]
  show zeroed (fieldAt (encQ 0x2C la sz sc a d) 24 4) (match scopeOf (fieldAt (encQ 0x2C la sz sc a d) 19 3) with | some s => some (Instr.stl (gAt (encQ 0x2C la sz sc a d) 13) (gAt (encQ 0x2C la sz sc a d) 7) (widthOf (fieldAt (encQ 0x2C la sz sc a d) 22 2)) s (laAt (encQ 0x2C la sz sc a d) 28)) | none => none) = _
  rw [encQ_mid la a d (by decide) hz hc, encQ_sc la a d (by decide) hz hc, encQ_d la a d (by decide) hz hc, encQ_a la a d (by decide) hz hc, encQ_sz la a d (by decide) hz hc, encQ_la la a d (by decide) hz hc]
  rfl

theorem dec2D {fn3 : Nat} (la : La) (d : G) (a : G) (b : G) (hf : fn3 < 8) :
    decodeWord (encM 0x2D fn3 la d a b) = zeroed (b.val + la.val) (if fn3 = 0 then some (.ldfE d a) else if fn3 = 1 then some (.ldfF d a) else none) := by
  rw [decodeWord_mem (encM_op la d a b (by decide) hf) (by decide) (by decide)]
  show zeroed ((gAt (encM 0x2D fn3 la d a b) 19).val + (laAt (encM 0x2D fn3 la d a b) 25).val) (if fieldAt (encM 0x2D fn3 la d a b) 29 3 = 0 then some (Instr.ldfE (gAt (encM 0x2D fn3 la d a b) 7) (gAt (encM 0x2D fn3 la d a b) 13)) else if fieldAt (encM 0x2D fn3 la d a b) 29 3 = 1 then some (Instr.ldfF (gAt (encM 0x2D fn3 la d a b) 7) (gAt (encM 0x2D fn3 la d a b) 13)) else none) = _
  rw [encM_b la d a b (by decide) hf, encM_la la d a b (by decide) hf, encM_fn3 la d a b (by decide) hf, encM_d la d a b (by decide) hf, encM_a la d a b (by decide) hf]

theorem dec2E {fn3 : Nat} (la : La) (d : G) (a : G) (b : G) (hf : fn3 < 8) :
    decodeWord (encM 0x2E fn3 la d a b) = zeroed (d.val + la.val) (if fn3 = 0 then some (.ste a b) else if fn3 = 1 then some (.fill a b) else none) := by
  rw [decodeWord_mem (encM_op la d a b (by decide) hf) (by decide) (by decide)]
  show zeroed ((gAt (encM 0x2E fn3 la d a b) 7).val + (laAt (encM 0x2E fn3 la d a b) 25).val) (if fieldAt (encM 0x2E fn3 la d a b) 29 3 = 0 then some (Instr.ste (gAt (encM 0x2E fn3 la d a b) 13) (gAt (encM 0x2E fn3 la d a b) 19)) else if fieldAt (encM 0x2E fn3 la d a b) 29 3 = 1 then some (Instr.fill (gAt (encM 0x2E fn3 la d a b) 13) (gAt (encM 0x2E fn3 la d a b) 19)) else none) = _
  rw [encM_d la d a b (by decide) hf, encM_la la d a b (by decide) hf, encM_fn3 la d a b (by decide) hf, encM_a la d a b (by decide) hf, encM_b la d a b (by decide) hf]

theorem dec2F {fn3 : Nat} (la : La) (d : G) (a : G) (b : G) (hf : fn3 < 8) :
    decodeWord (encM 0x2F fn3 la d a b) = (if fn3 = 0 then zeroed d.val (some (.purge a b la)) else if fn3 = 1 then zeroed b.val (some (.probe d a la)) else none) := by
  rw [decodeWord_mem (encM_op la d a b (by decide) hf) (by decide) (by decide)]
  show (if fieldAt (encM 0x2F fn3 la d a b) 29 3 = 0 then zeroed (gAt (encM 0x2F fn3 la d a b) 7).val (some (Instr.purge (gAt (encM 0x2F fn3 la d a b) 13) (gAt (encM 0x2F fn3 la d a b) 19) (laAt (encM 0x2F fn3 la d a b) 25))) else if fieldAt (encM 0x2F fn3 la d a b) 29 3 = 1 then zeroed (gAt (encM 0x2F fn3 la d a b) 19).val (some (Instr.probe (gAt (encM 0x2F fn3 la d a b) 7) (gAt (encM 0x2F fn3 la d a b) 13) (laAt (encM 0x2F fn3 la d a b) 25))) else none) = _
  rw [encM_fn3 la d a b (by decide) hf, encM_d la d a b (by decide) hf, encM_a la d a b (by decide) hf, encM_b la d a b (by decide) hf, encM_la la d a b (by decide) hf]

theorem dec30 {fn3 : Nat} (la : La) (d : G) (a : G) (b : G) (hf : fn3 < 8) :
    decodeWord (encM 0x30 fn3 la d a b) = decodeAmo fn3 d a b la := by
  rw [decodeWord_mem (encM_op la d a b (by decide) hf) (by decide) (by decide)]
  show decodeAmo (fieldAt (encM 0x30 fn3 la d a b) 29 3) (gAt (encM 0x30 fn3 la d a b) 7) (gAt (encM 0x30 fn3 la d a b) 13) (gAt (encM 0x30 fn3 la d a b) 19) (laAt (encM 0x30 fn3 la d a b) 25) = _
  rw [encM_fn3 la d a b (by decide) hf, encM_d la d a b (by decide) hf, encM_a la d a b (by decide) hf, encM_b la d a b (by decide) hf, encM_la la d a b (by decide) hf]

theorem dec31 {fn3 : Nat} (la : La) (d : G) (a : G) (b : G) (hf : fn3 < 8) :
    decodeWord (encM 0x31 fn3 la d a b) = zeroed d.val (decodeAmop fn3 a b la) := by
  rw [decodeWord_mem (encM_op la d a b (by decide) hf) (by decide) (by decide)]
  show zeroed (gAt (encM 0x31 fn3 la d a b) 7).val (decodeAmop (fieldAt (encM 0x31 fn3 la d a b) 29 3) (gAt (encM 0x31 fn3 la d a b) 13) (gAt (encM 0x31 fn3 la d a b) 19) (laAt (encM 0x31 fn3 la d a b) 25)) = _
  rw [encM_d la d a b (by decide) hf, encM_fn3 la d a b (by decide) hf, encM_a la d a b (by decide) hf, encM_b la d a b (by decide) hf, encM_la la d a b (by decide) hf]

theorem dec32 {fn3 : Nat} (la : La) (d : G) (a : G) (b : G) (hf : fn3 < 8) :
    decodeWord (encM 0x32 fn3 la d a b) = (if fn3 = 0 then checked (.casD d a b la) else if fn3 = 1 then checked (.casW d a b la) else none) := by
  rw [decodeWord_mem (encM_op la d a b (by decide) hf) (by decide) (by decide)]
  show (if fieldAt (encM 0x32 fn3 la d a b) 29 3 = 0 then checked (Instr.casD (gAt (encM 0x32 fn3 la d a b) 7) (gAt (encM 0x32 fn3 la d a b) 13) (gAt (encM 0x32 fn3 la d a b) 19) (laAt (encM 0x32 fn3 la d a b) 25)) else if fieldAt (encM 0x32 fn3 la d a b) 29 3 = 1 then checked (Instr.casW (gAt (encM 0x32 fn3 la d a b) 7) (gAt (encM 0x32 fn3 la d a b) 13) (gAt (encM 0x32 fn3 la d a b) 19) (laAt (encM 0x32 fn3 la d a b) 25)) else none) = _
  rw [encM_fn3 la d a b (by decide) hf, encM_d la d a b (by decide) hf, encM_a la d a b (by decide) hf, encM_b la d a b (by decide) hf, encM_la la d a b (by decide) hf]

theorem dec34 {fn3 : Nat} (la : La) (d : G) (a : G) (b : G) (hf : fn3 < 8) :
    decodeWord (encM 0x34 fn3 la d a b) = (if fn3 = 0 then zeroed d.val (some (.msg a b la)) else if fn3 = 1 then zeroed (d.val + a.val) (some (.msgReply b la)) else none) := by
  rw [decodeWord_mem (encM_op la d a b (by decide) hf) (by decide) (by decide)]
  show (if fieldAt (encM 0x34 fn3 la d a b) 29 3 = 0 then zeroed (gAt (encM 0x34 fn3 la d a b) 7).val (some (Instr.msg (gAt (encM 0x34 fn3 la d a b) 13) (gAt (encM 0x34 fn3 la d a b) 19) (laAt (encM 0x34 fn3 la d a b) 25))) else if fieldAt (encM 0x34 fn3 la d a b) 29 3 = 1 then zeroed ((gAt (encM 0x34 fn3 la d a b) 7).val + (gAt (encM 0x34 fn3 la d a b) 13).val) (some (Instr.msgReply (gAt (encM 0x34 fn3 la d a b) 19) (laAt (encM 0x34 fn3 la d a b) 25))) else none) = _
  rw [encM_fn3 la d a b (by decide) hf, encM_d la d a b (by decide) hf, encM_a la d a b (by decide) hf, encM_b la d a b (by decide) hf, encM_la la d a b (by decide) hf]

theorem dec35 {fn3 : Nat} (la : La) (d : G) (a : G) (b : G) (hf : fn3 < 8) :
    decodeWord (encM 0x35 fn3 la d a b) = (if fn3 = 0 then some (.spawn d a b la) else none) := by
  rw [decodeWord_mem (encM_op la d a b (by decide) hf) (by decide) (by decide)]
  show (if fieldAt (encM 0x35 fn3 la d a b) 29 3 = 0 then some (Instr.spawn (gAt (encM 0x35 fn3 la d a b) 7) (gAt (encM 0x35 fn3 la d a b) 13) (gAt (encM 0x35 fn3 la d a b) 19) (laAt (encM 0x35 fn3 la d a b) 25)) else none) = _
  rw [encM_fn3 la d a b (by decide) hf, encM_d la d a b (by decide) hf, encM_a la d a b (by decide) hf, encM_b la d a b (by decide) hf, encM_la la d a b (by decide) hf]

theorem dec36 {fn3 : Nat} (la : La) (d : G) (a : G) (b : G) (hf : fn3 < 8) :
    decodeWord (encM 0x36 fn3 la d a b) = (if fn3 = 0 then some (.dlg d a b la) else if fn3 = 1 then zeroed d.val (some (.dlgP a b la)) else none) := by
  rw [decodeWord_mem (encM_op la d a b (by decide) hf) (by decide) (by decide)]
  show (if fieldAt (encM 0x36 fn3 la d a b) 29 3 = 0 then some (Instr.dlg (gAt (encM 0x36 fn3 la d a b) 7) (gAt (encM 0x36 fn3 la d a b) 13) (gAt (encM 0x36 fn3 la d a b) 19) (laAt (encM 0x36 fn3 la d a b) 25)) else if fieldAt (encM 0x36 fn3 la d a b) 29 3 = 1 then zeroed (gAt (encM 0x36 fn3 la d a b) 7).val (some (Instr.dlgP (gAt (encM 0x36 fn3 la d a b) 13) (gAt (encM 0x36 fn3 la d a b) 19) (laAt (encM 0x36 fn3 la d a b) 25))) else none) = _
  rw [encM_fn3 la d a b (by decide) hf, encM_d la d a b (by decide) hf, encM_a la d a b (by decide) hf, encM_b la d a b (by decide) hf, encM_la la d a b (by decide) hf]

theorem dec37 {fn3 : Nat} (la : La) (d : G) (a : G) (b : G) (hf : fn3 < 8) :
    decodeWord (encM 0x37 fn3 la d a b) = (if fn3 = 0 then zeroed b.val (some (.mcst d a la)) else none) := by
  rw [decodeWord_mem (encM_op la d a b (by decide) hf) (by decide) (by decide)]
  show (if fieldAt (encM 0x37 fn3 la d a b) 29 3 = 0 then zeroed (gAt (encM 0x37 fn3 la d a b) 19).val (some (Instr.mcst (gAt (encM 0x37 fn3 la d a b) 7) (gAt (encM 0x37 fn3 la d a b) 13) (laAt (encM 0x37 fn3 la d a b) 25))) else none) = _
  rw [encM_fn3 la d a b (by decide) hf, encM_b la d a b (by decide) hf, encM_d la d a b (by decide) hf, encM_a la d a b (by decide) hf, encM_la la d a b (by decide) hf]

theorem dec38 {fn : Nat} (d : G) (a : G) (b : G) (hf : fn < 128) :
    decodeWord (encR 0x38 fn d a b) = decodeFire fn d a b := by
  rw [decodeWord_sync (encR_op d a b (by decide) hf) (by decide) (by decide)]
  show decodeFire (fieldAt (encR 0x38 fn d a b) 25 7) (gAt (encR 0x38 fn d a b) 7) (gAt (encR 0x38 fn d a b) 13) (gAt (encR 0x38 fn d a b) 19) = _
  rw [encR_fn d a b (by decide) hf, encR_d d a b (by decide) hf, encR_a d a b (by decide) hf, encR_b d a b (by decide) hf]

theorem dec39 {fn : Nat} (d : G) (a : G) (b : G) (hf : fn < 128) :
    decodeWord (encR 0x39 fn d a b) = zeroed (d.val + a.val + b.val) (match scopeOf (fn % 8) with | some s => decodeFence (fn / 8) s | none => none) := by
  rw [decodeWord_sync (encR_op d a b (by decide) hf) (by decide) (by decide)]
  show zeroed ((gAt (encR 0x39 fn d a b) 7).val + (gAt (encR 0x39 fn d a b) 13).val + (gAt (encR 0x39 fn d a b) 19).val) (match scopeOf ((fieldAt (encR 0x39 fn d a b) 25 7) % 8) with | some s => decodeFence ((fieldAt (encR 0x39 fn d a b) 25 7) / 8) s | none => none) = _
  rw [encR_d d a b (by decide) hf, encR_a d a b (by decide) hf, encR_b d a b (by decide) hf, encR_fn d a b (by decide) hf]

theorem dec3A {fn : Nat} (d : G) (a : G) (b : G) (hf : fn < 128) :
    decodeWord (encR 0x3A fn d a b) = zeroed (d.val + b.val / 8) (match scopeOf (fn % 8) with | some s => decodeBar (fn / 8) s (Fin.ofNat 8 b.val) a | none => none) := by
  rw [decodeWord_sync (encR_op d a b (by decide) hf) (by decide) (by decide)]
  show zeroed ((gAt (encR 0x3A fn d a b) 7).val + (gAt (encR 0x3A fn d a b) 19).val / 8) (match scopeOf ((fieldAt (encR 0x3A fn d a b) 25 7) % 8) with | some s => decodeBar ((fieldAt (encR 0x3A fn d a b) 25 7) / 8) s (Fin.ofNat 8 (gAt (encR 0x3A fn d a b) 19).val) (gAt (encR 0x3A fn d a b) 13) | none => none) = _
  rw [encR_d d a b (by decide) hf, encR_b d a b (by decide) hf, encR_fn d a b (by decide) hf, encR_a d a b (by decide) hf]

theorem dec3B (ch : Fin 8) (d : G) (a : G)  :
    decodeWord (encI 0x3B ch d a) = zeroed d.val (some (.waitt ch a)) := by
  rw [decodeWord_sync (encIc_op ch d a (by decide)) (by decide) (by decide)]
  show zeroed ((gAt (encI 0x3B ch d a) 7).val + fieldAt (encI 0x3B ch d a) 22 10) (some (Instr.waitt (Fin.ofNat 8 (fieldAt (encI 0x3B ch d a) 19 3)) (gAt (encI 0x3B ch d a) 13))) = _
  rw [encIc_d ch d a (by decide), encIc_top ch d a (by decide), encIc_ch ch d a (by decide), encIc_a ch d a (by decide)]
  rw [ofNat_fin ch, Nat.add_zero]

theorem dec3C (imm : BitVec 12) (d : G) (a : G)  :
    decodeWord (encI 0x3C imm.toNat d a) = zeroed a.val (some (.srr d imm)) := by
  rw [decodeWord_sync (encIx_op imm d a (by decide)) (by decide) (by decide)]
  show zeroed ((gAt (encI 0x3C imm.toNat d a) 13).val + fieldAt (encI 0x3C imm.toNat d a) 31 1) (some (Instr.srr (gAt (encI 0x3C imm.toNat d a) 7) (immAt 12 (encI 0x3C imm.toNat d a) 19))) = _
  rw [encIx_a imm d a (by decide), encIx_top imm d a (by decide), encIx_d imm d a (by decide), encIx_imm imm d a (by decide)]
  rw [Nat.add_zero]

theorem dec3D (imm : BitVec 12) (d : G) (a : G)  :
    decodeWord (encI 0x3D imm.toNat d a) = zeroed d.val (some (.srw imm a)) := by
  rw [decodeWord_sync (encIx_op imm d a (by decide)) (by decide) (by decide)]
  show zeroed ((gAt (encI 0x3D imm.toNat d a) 7).val + fieldAt (encI 0x3D imm.toNat d a) 31 1) (some (Instr.srw (immAt 12 (encI 0x3D imm.toNat d a) 19) (gAt (encI 0x3D imm.toNat d a) 13))) = _
  rw [encIx_d imm d a (by decide), encIx_top imm d a (by decide), encIx_imm imm d a (by decide), encIx_a imm d a (by decide)]
  rw [Nat.add_zero]

theorem dec3E {fn : Nat} (d : G) (a : G) (b : G) (hf : fn < 128) :
    decodeWord (encR 0x3E fn d a b) = decodeSys fn d a b := by
  rw [decodeWord_sync (encR_op d a b (by decide) hf) (by decide) (by decide)]
  show decodeSys (fieldAt (encR 0x3E fn d a b) 25 7) (gAt (encR 0x3E fn d a b) 7) (gAt (encR 0x3E fn d a b) 13) (gAt (encR 0x3E fn d a b) 19) = _
  rw [encR_fn d a b (by decide) hf, encR_d d a b (by decide) hf, encR_a d a b (by decide) hf, encR_b d a b (by decide) hf]

theorem dec40 {fn3 : Nat} (la : La) (d : G) (a : G) (b : G) (hf : fn3 < 8) :
    decodeWord (encM 0x40 fn3 la d a b) = zeroed (d.val + b.val) (decodeCps fn3 a la) := by
  rw [decodeWord_sync (encM_op la d a b (by decide) hf) (by decide) (by decide)]
  show zeroed ((gAt (encM 0x40 fn3 la d a b) 7).val + (gAt (encM 0x40 fn3 la d a b) 19).val) (decodeCps (fieldAt (encM 0x40 fn3 la d a b) 29 3) (gAt (encM 0x40 fn3 la d a b) 13) (laAt (encM 0x40 fn3 la d a b) 25)) = _
  rw [encM_d la d a b (by decide) hf, encM_b la d a b (by decide) hf, encM_fn3 la d a b (by decide) hf, encM_a la d a b (by decide) hf, encM_la la d a b (by decide) hf]

theorem dec41 {fn3 : Nat} (la : La) (d : G) (a : G) (b : G) (hf : fn3 < 8) :
    decodeWord (encM 0x41 fn3 la d a b) = zeroed (fn3 + a.val + b.val) (some (.cpgo d la)) := by
  rw [decodeWord_sync (encM_op la d a b (by decide) hf) (by decide) (by decide)]
  show zeroed (fieldAt (encM 0x41 fn3 la d a b) 29 3 + (gAt (encM 0x41 fn3 la d a b) 13).val + (gAt (encM 0x41 fn3 la d a b) 19).val) (some (Instr.cpgo (gAt (encM 0x41 fn3 la d a b) 7) (laAt (encM 0x41 fn3 la d a b) 25))) = _
  rw [encM_fn3 la d a b (by decide) hf, encM_a la d a b (by decide) hf, encM_b la d a b (by decide) hf, encM_d la d a b (by decide) hf, encM_la la d a b (by decide) hf]

theorem dec42 {fn3 : Nat} (la : La) (d : G) (a : G) (b : G) (hf : fn3 < 8) :
    decodeWord (encM 0x42 fn3 la d a b) = zeroed (fn3 + b.val) (some (.btx d a la)) := by
  rw [decodeWord_sync (encM_op la d a b (by decide) hf) (by decide) (by decide)]
  show zeroed (fieldAt (encM 0x42 fn3 la d a b) 29 3 + (gAt (encM 0x42 fn3 la d a b) 19).val) (some (Instr.btx (gAt (encM 0x42 fn3 la d a b) 7) (gAt (encM 0x42 fn3 la d a b) 13) (laAt (encM 0x42 fn3 la d a b) 25))) = _
  rw [encM_fn3 la d a b (by decide) hf, encM_b la d a b (by decide) hf, encM_d la d a b (by decide) hf, encM_a la d a b (by decide) hf, encM_la la d a b (by decide) hf]

theorem dec44 {fn3 : Nat} (la : La) (d : G) (a : G) (b : G) (hf : fn3 < 8) :
    decodeWord (encM 0x44 fn3 la d a b) = zeroed (fn3 + d.val + b.val) (some (.qpush a la)) := by
  rw [decodeWord_sync (encM_op la d a b (by decide) hf) (by decide) (by decide)]
  show zeroed (fieldAt (encM 0x44 fn3 la d a b) 29 3 + (gAt (encM 0x44 fn3 la d a b) 7).val + (gAt (encM 0x44 fn3 la d a b) 19).val) (some (Instr.qpush (gAt (encM 0x44 fn3 la d a b) 13) (laAt (encM 0x44 fn3 la d a b) 25))) = _
  rw [encM_fn3 la d a b (by decide) hf, encM_d la d a b (by decide) hf, encM_b la d a b (by decide) hf, encM_a la d a b (by decide) hf, encM_la la d a b (by decide) hf]

theorem dec45 {fn : Nat} (d : G) (a : G) (b : G) (hf : fn < 128) :
    decodeWord (encR 0x45 fn d a b) = zeroed (a.val + b.val) (if fn = 0 then some (.qstat d) else if fn = 1 then some (.qstatClr d) else none) := by
  rw [decodeWord_sync (encR_op d a b (by decide) hf) (by decide) (by decide)]
  show zeroed ((gAt (encR 0x45 fn d a b) 13).val + (gAt (encR 0x45 fn d a b) 19).val) (if (fieldAt (encR 0x45 fn d a b) 25 7) = 0 then some (Instr.qstat (gAt (encR 0x45 fn d a b) 7)) else if (fieldAt (encR 0x45 fn d a b) 25 7) = 1 then some (Instr.qstatClr (gAt (encR 0x45 fn d a b) 7)) else none) = _
  rw [encR_a d a b (by decide) hf, encR_b d a b (by decide) hf, encR_fn d a b (by decide) hf, encR_d d a b (by decide) hf]

theorem dec46 {fn3 : Nat} (la : La) (d : G) (a : G) (b : G) (hf : fn3 < 8) :
    decodeWord (encM 0x46 fn3 la d a b) = decodeSetr fn3 d a b la := by
  rw [decodeWord_sync (encM_op la d a b (by decide) hf) (by decide) (by decide)]
  show decodeSetr (fieldAt (encM 0x46 fn3 la d a b) 29 3) (gAt (encM 0x46 fn3 la d a b) 7) (gAt (encM 0x46 fn3 la d a b) 13) (gAt (encM 0x46 fn3 la d a b) 19) (laAt (encM 0x46 fn3 la d a b) 25) = _
  rw [encM_fn3 la d a b (by decide) hf, encM_d la d a b (by decide) hf, encM_a la d a b (by decide) hf, encM_b la d a b (by decide) hf, encM_la la d a b (by decide) hf]

theorem dec50 {fn : Nat} (d : G) (a : G) (b : G) (hf : fn < 128) :
    decodeWord (encR 0x50 fn d a b) = decodeFpD fn d a b := by
  rw [decodeWord_float (encR_op d a b (by decide) hf) (by decide)]
  show decodeFpD (fieldAt (encR 0x50 fn d a b) 25 7) (gAt (encR 0x50 fn d a b) 7) (gAt (encR 0x50 fn d a b) 13) (gAt (encR 0x50 fn d a b) 19) = _
  rw [encR_fn d a b (by decide) hf, encR_d d a b (by decide) hf, encR_a d a b (by decide) hf, encR_b d a b (by decide) hf]

theorem dec51 {fn : Nat} (d : G) (a : G) (b : G) (hf : fn < 128) :
    decodeWord (encR 0x51 fn d a b) = decodeFpS fn d a b := by
  rw [decodeWord_float (encR_op d a b (by decide) hf) (by decide)]
  show decodeFpS (fieldAt (encR 0x51 fn d a b) 25 7) (gAt (encR 0x51 fn d a b) 7) (gAt (encR 0x51 fn d a b) 13) (gAt (encR 0x51 fn d a b) 19) = _
  rw [encR_fn d a b (by decide) hf, encR_d d a b (by decide) hf, encR_a d a b (by decide) hf, encR_b d a b (by decide) hf]

theorem dec53 {n : Nat} (d : G) (a : G) (b : G) (c : G) (hn : n < 2) :
    decodeWord (encF4 0x53 n d a b c) = (if n = 0 then some (.fmaD d a b c) else some (.fmsD d a b c)) := by
  rw [decodeWord_float (encF4_op d a b c (by decide) hn) (by decide)]
  show (if fieldAt (encF4 0x53 n d a b c) 31 1 = 0 then some (Instr.fmaD (gAt (encF4 0x53 n d a b c) 7) (gAt (encF4 0x53 n d a b c) 13) (gAt (encF4 0x53 n d a b c) 19) (gAt (encF4 0x53 n d a b c) 25)) else some (Instr.fmsD (gAt (encF4 0x53 n d a b c) 7) (gAt (encF4 0x53 n d a b c) 13) (gAt (encF4 0x53 n d a b c) 19) (gAt (encF4 0x53 n d a b c) 25))) = _
  rw [encF4_n d a b c (by decide) hn, encF4_d d a b c (by decide) hn, encF4_a d a b c (by decide) hn, encF4_b d a b c (by decide) hn, encF4_c d a b c (by decide) hn]

theorem dec54 {n : Nat} (d : G) (a : G) (b : G) (c : G) (hn : n < 2) :
    decodeWord (encF4 0x54 n d a b c) = (if n = 0 then some (.fmaS d a b c) else some (.fmsS d a b c)) := by
  rw [decodeWord_float (encF4_op d a b c (by decide) hn) (by decide)]
  show (if fieldAt (encF4 0x54 n d a b c) 31 1 = 0 then some (Instr.fmaS (gAt (encF4 0x54 n d a b c) 7) (gAt (encF4 0x54 n d a b c) 13) (gAt (encF4 0x54 n d a b c) 19) (gAt (encF4 0x54 n d a b c) 25)) else some (Instr.fmsS (gAt (encF4 0x54 n d a b c) 7) (gAt (encF4 0x54 n d a b c) 13) (gAt (encF4 0x54 n d a b c) 19) (gAt (encF4 0x54 n d a b c) 25))) = _
  rw [encF4_n d a b c (by decide) hn, encF4_d d a b c (by decide) hn, encF4_a d a b c (by decide) hn, encF4_b d a b c (by decide) hn, encF4_c d a b c (by decide) hn]

theorem dec55 {fn : Nat} (d : G) (a : G) (b : G) (hf : fn < 128) :
    decodeWord (encR 0x55 fn d a b) = zeroed b.val (checked (.fcvt d a (fn / 64 % 2 == 1) (numTyOf (fn / 8)) (numTyOf fn))) := by
  rw [decodeWord_float (encR_op d a b (by decide) hf) (by decide)]
  show zeroed (gAt (encR 0x55 fn d a b) 19).val (checked (Instr.fcvt (gAt (encR 0x55 fn d a b) 7) (gAt (encR 0x55 fn d a b) 13) ((fieldAt (encR 0x55 fn d a b) 25 7) / 64 % 2 == 1) (numTyOf ((fieldAt (encR 0x55 fn d a b) 25 7) / 8)) (numTyOf (fieldAt (encR 0x55 fn d a b) 25 7)))) = _
  rw [encR_fn d a b (by decide) hf, encR_b d a b (by decide) hf, encR_d d a b (by decide) hf, encR_a d a b (by decide) hf]

theorem dec60 {sz : Nat} (la : La) (imm : BitVec 8) (a : G) (d : V) (hz : sz < 4) :
    decodeWord (encVM 0x60 sz la imm.toNat a d) = some (.vld d a imm (widthOf sz) la) := by
  rw [decodeWord_float (encVM_op la imm a d (by decide) hz) (by decide)]
  show some (Instr.vld (vAt (encVM 0x60 sz la imm.toNat a d) 7) (gAt (encVM 0x60 sz la imm.toNat a d) 12) (immAt 8 (encVM 0x60 sz la imm.toNat a d) 18) (widthOf (fieldAt (encVM 0x60 sz la imm.toNat a d) 30 2)) (laAt (encVM 0x60 sz la imm.toNat a d) 26)) = _
  rw [encVM_d la imm a d (by decide) hz, encVM_a la imm a d (by decide) hz, encVM_imm la imm a d (by decide) hz, encVM_sz la imm a d (by decide) hz, encVM_la la imm a d (by decide) hz]

theorem dec61 {sz : Nat} (la : La) (imm : BitVec 8) (a : G) (d : V) (hz : sz < 4) :
    decodeWord (encVM 0x61 sz la imm.toNat a d) = some (.vst d a imm (widthOf sz) la) := by
  rw [decodeWord_float (encVM_op la imm a d (by decide) hz) (by decide)]
  show some (Instr.vst (vAt (encVM 0x61 sz la imm.toNat a d) 7) (gAt (encVM 0x61 sz la imm.toNat a d) 12) (immAt 8 (encVM 0x61 sz la imm.toNat a d) 18) (widthOf (fieldAt (encVM 0x61 sz la imm.toNat a d) 30 2)) (laAt (encVM 0x61 sz la imm.toNat a d) 26)) = _
  rw [encVM_d la imm a d (by decide) hz, encVM_a la imm a d (by decide) hz, encVM_imm la imm a d (by decide) hz, encVM_sz la imm a d (by decide) hz, encVM_la la imm a d (by decide) hz]

theorem dec62 (k : K) (la : La) (b : G) (a : G) (d : V)  :
    decodeWord (encVS 0x62 k la b a d) = some (.vlds d a b k la) := by
  rw [decodeWord_float (encVS_op k la b a d (by decide)) (by decide)]
  show zeroed (fieldAt (encVS 0x62 k la b a d) 31 1) (some (Instr.vlds (vAt (encVS 0x62 k la b a d) 7) (gAt (encVS 0x62 k la b a d) 12) (gAt (encVS 0x62 k la b a d) 18) (kAt (encVS 0x62 k la b a d) 28) (laAt (encVS 0x62 k la b a d) 24))) = _
  rw [encVS_top k la b a d (by decide), encVS_d k la b a d (by decide), encVS_a k la b a d (by decide), encVS_b k la b a d (by decide), encVS_k k la b a d (by decide), encVS_la k la b a d (by decide)]
  rfl

theorem dec63 (k : K) (la : La) (b : G) (a : G) (d : V)  :
    decodeWord (encVS 0x63 k la b a d) = some (.vsts d a b k la) := by
  rw [decodeWord_float (encVS_op k la b a d (by decide)) (by decide)]
  show zeroed (fieldAt (encVS 0x63 k la b a d) 31 1) (some (Instr.vsts (vAt (encVS 0x63 k la b a d) 7) (gAt (encVS 0x63 k la b a d) 12) (gAt (encVS 0x63 k la b a d) 18) (kAt (encVS 0x63 k la b a d) 28) (laAt (encVS 0x63 k la b a d) 24))) = _
  rw [encVS_top k la b a d (by decide), encVS_d k la b a d (by decide), encVS_a k la b a d (by decide), encVS_b k la b a d (by decide), encVS_k k la b a d (by decide), encVS_la k la b a d (by decide)]
  rfl

theorem dec64 (k : K) (la : La) (b : V) (a : G) (d : V)  :
    decodeWord (encVS 0x64 k la b a d) = some (.vgth d a b k la) := by
  rw [decodeWord_float (encVSv_op k la b a d (by decide)) (by decide)]
  show zeroed (fieldAt (encVS 0x64 k la b a d) 31 1 + fieldAt (encVS 0x64 k la b a d) 23 1) (some (Instr.vgth (vAt (encVS 0x64 k la b a d) 7) (gAt (encVS 0x64 k la b a d) 12) (vAt (encVS 0x64 k la b a d) 18) (kAt (encVS 0x64 k la b a d) 28) (laAt (encVS 0x64 k la b a d) 24))) = _
  rw [encVSv_top k la b a d (by decide), encVSv_mid k la b a d (by decide), encVSv_d k la b a d (by decide), encVSv_a k la b a d (by decide), encVSv_b k la b a d (by decide), encVSv_k k la b a d (by decide), encVSv_la k la b a d (by decide)]
  rfl

theorem dec65 (k : K) (la : La) (b : V) (a : G) (d : V)  :
    decodeWord (encVS 0x65 k la b a d) = some (.vsct d a b k la) := by
  rw [decodeWord_float (encVSv_op k la b a d (by decide)) (by decide)]
  show zeroed (fieldAt (encVS 0x65 k la b a d) 31 1 + fieldAt (encVS 0x65 k la b a d) 23 1) (some (Instr.vsct (vAt (encVS 0x65 k la b a d) 7) (gAt (encVS 0x65 k la b a d) 12) (vAt (encVS 0x65 k la b a d) 18) (kAt (encVS 0x65 k la b a d) 28) (laAt (encVS 0x65 k la b a d) 24))) = _
  rw [encVSv_top k la b a d (by decide), encVSv_mid k la b a d (by decide), encVSv_d k la b a d (by decide), encVSv_a k la b a d (by decide), encVSv_b k la b a d (by decide), encVSv_k k la b a d (by decide), encVSv_la k la b a d (by decide)]
  rfl

theorem dec66 {fn : Nat} (k : K) (d : V) (a : V) (b : V) (hf : fn < 128) :
    decodeWord (encV 0x66 fn k d a b) = decodeVfD fn d a b k := by
  rw [decodeWord_float (encV_op k d a b (by decide) hf) (by decide)]
  show decodeVfD (fieldAt (encV 0x66 fn k d a b) 25 7) (vAt (encV 0x66 fn k d a b) 7) (vAt (encV 0x66 fn k d a b) 12) (vAt (encV 0x66 fn k d a b) 17) (kAt (encV 0x66 fn k d a b) 22) = _
  rw [encV_fn k d a b (by decide) hf, encV_d k d a b (by decide) hf, encV_a k d a b (by decide) hf, encV_b k d a b (by decide) hf, encV_k k d a b (by decide) hf]

theorem dec67 {fn : Nat} (k : K) (d : V) (a : V) (b : V) (hf : fn < 128) :
    decodeWord (encV 0x67 fn k d a b) = decodeVfS fn d a b k := by
  rw [decodeWord_float (encV_op k d a b (by decide) hf) (by decide)]
  show decodeVfS (fieldAt (encV 0x67 fn k d a b) 25 7) (vAt (encV 0x67 fn k d a b) 7) (vAt (encV 0x67 fn k d a b) 12) (vAt (encV 0x67 fn k d a b) 17) (kAt (encV 0x67 fn k d a b) 22) = _
  rw [encV_fn k d a b (by decide) hf, encV_d k d a b (by decide) hf, encV_a k d a b (by decide) hf, encV_b k d a b (by decide) hf, encV_k k d a b (by decide) hf]

theorem dec68 {n : Nat} (k : K) (d : V) (a : V) (b : V) (c : V) (hn : n < 4) :
    decodeWord (encVF4 0x68 n k d a b c) = decodeVfmaD n d a b c k := by
  rw [decodeWord_float (encVF4_op k d a b c (by decide) hn) (by decide)]
  show decodeVfmaD (fieldAt (encVF4 0x68 n k d a b c) 30 2) (vAt (encVF4 0x68 n k d a b c) 7) (vAt (encVF4 0x68 n k d a b c) 12) (vAt (encVF4 0x68 n k d a b c) 17) (vAt (encVF4 0x68 n k d a b c) 22) (kAt (encVF4 0x68 n k d a b c) 27) = _
  rw [encVF4_n k d a b c (by decide) hn, encVF4_d k d a b c (by decide) hn, encVF4_a k d a b c (by decide) hn, encVF4_b k d a b c (by decide) hn, encVF4_c k d a b c (by decide) hn, encVF4_k k d a b c (by decide) hn]

theorem dec69 {n : Nat} (k : K) (d : V) (a : V) (b : V) (c : V) (hn : n < 4) :
    decodeWord (encVF4 0x69 n k d a b c) = decodeVfmaS n d a b c k := by
  rw [decodeWord_float (encVF4_op k d a b c (by decide) hn) (by decide)]
  show decodeVfmaS (fieldAt (encVF4 0x69 n k d a b c) 30 2) (vAt (encVF4 0x69 n k d a b c) 7) (vAt (encVF4 0x69 n k d a b c) 12) (vAt (encVF4 0x69 n k d a b c) 17) (vAt (encVF4 0x69 n k d a b c) 22) (kAt (encVF4 0x69 n k d a b c) 27) = _
  rw [encVF4_n k d a b c (by decide) hn, encVF4_d k d a b c (by decide) hn, encVF4_a k d a b c (by decide) hn, encVF4_b k d a b c (by decide) hn, encVF4_c k d a b c (by decide) hn, encVF4_k k d a b c (by decide) hn]

theorem dec6A {fn : Nat} (k : K) (d : V) (a : V) (b : V) (hf : fn < 128) :
    decodeWord (encV 0x6A fn k d a b) = decodeVint (fn / 4) d a b (widthOf fn) k := by
  rw [decodeWord_float (encV_op k d a b (by decide) hf) (by decide)]
  show decodeVint ((fieldAt (encV 0x6A fn k d a b) 25 7) / 4) (vAt (encV 0x6A fn k d a b) 7) (vAt (encV 0x6A fn k d a b) 12) (vAt (encV 0x6A fn k d a b) 17) (widthOf (fieldAt (encV 0x6A fn k d a b) 25 7)) (kAt (encV 0x6A fn k d a b) 22) = _
  rw [encV_fn k d a b (by decide) hf, encV_d k d a b (by decide) hf, encV_a k d a b (by decide) hf, encV_b k d a b (by decide) hf, encV_k k d a b (by decide) hf]

theorem dec6B {fn : Nat} (k : K) (d : V) (a : V) (b : V) (hf : fn < 128) :
    decodeWord (encV 0x6B fn k d a b) = decodeVcmp fn k d a b := by
  rw [decodeWord_float (encV_op k d a b (by decide) hf) (by decide)]
  show decodeVcmp (fieldAt (encV 0x6B fn k d a b) 25 7) (kAt (encV 0x6B fn k d a b) 22) (vAt (encV 0x6B fn k d a b) 7) (vAt (encV 0x6B fn k d a b) 12) (vAt (encV 0x6B fn k d a b) 17) = _
  rw [encV_fn k d a b (by decide) hf, encV_k k d a b (by decide) hf, encV_d k d a b (by decide) hf, encV_a k d a b (by decide) hf, encV_b k d a b (by decide) hf]

theorem dec6C {fn : Nat} (k : K) (d : V) (a : V) (b : V) (hf : fn < 128) :
    decodeWord (encV 0x6C fn k d a b) = (if fn = 0 then some (.vsel d a b k) else none) := by
  rw [decodeWord_float (encV_op k d a b (by decide) hf) (by decide)]
  show (if (fieldAt (encV 0x6C fn k d a b) 25 7) = 0 then some (Instr.vsel (vAt (encV 0x6C fn k d a b) 7) (vAt (encV 0x6C fn k d a b) 12) (vAt (encV 0x6C fn k d a b) 17) (kAt (encV 0x6C fn k d a b) 22)) else none) = _
  rw [encV_fn k d a b (by decide) hf, encV_d k d a b (by decide) hf, encV_a k d a b (by decide) hf, encV_b k d a b (by decide) hf, encV_k k d a b (by decide) hf]

theorem dec6D {fn : Nat} (k : K) (d : V) (a : V) (b : V) (hf : fn < 128) :
    decodeWord (encV 0x6D fn k d a b) = zeroed b.val (decodeVred (fn / 4) d a (widthOf fn) k) := by
  rw [decodeWord_float (encV_op k d a b (by decide) hf) (by decide)]
  show zeroed (vAt (encV 0x6D fn k d a b) 17).val (decodeVred ((fieldAt (encV 0x6D fn k d a b) 25 7) / 4) (vAt (encV 0x6D fn k d a b) 7) (vAt (encV 0x6D fn k d a b) 12) (widthOf (fieldAt (encV 0x6D fn k d a b) 25 7)) (kAt (encV 0x6D fn k d a b) 22)) = _
  rw [encV_b k d a b (by decide) hf, encV_fn k d a b (by decide) hf, encV_d k d a b (by decide) hf, encV_a k d a b (by decide) hf, encV_k k d a b (by decide) hf]

theorem dec6E {fn : Nat} (k : K) (g : G) (idx : Fin 16) (d : V) (hf : fn < 128) :
    decodeWord (encVX 0x6E fn k g idx d) = decodeVmov fn k g idx d := by
  rw [decodeWord_float (encVX_op k g idx d (by decide) hf) (by decide)]
  show decodeVmov (fieldAt (encVX 0x6E fn k g idx d) 25 7) (kAt (encVX 0x6E fn k g idx d) 22) (gAt (encVX 0x6E fn k g idx d) 16) (Fin.ofNat 16 (fieldAt (encVX 0x6E fn k g idx d) 12 4)) (vAt (encVX 0x6E fn k g idx d) 7) = _
  rw [encVX_fn k g idx d (by decide) hf, encVX_k k g idx d (by decide) hf, encVX_g k g idx d (by decide) hf, encVX_idx k g idx d (by decide) hf, encVX_d k g idx d (by decide) hf]
  rw [ofNat_fin idx]

theorem dec6F {fn : Nat} (k : K) (d : V) (a : V) (b : V) (hf : fn < 128) :
    decodeWord (encV 0x6F fn k d a b) = (if fn < 4 then some (.vperm d a b (widthOf fn) k) else none) := by
  rw [decodeWord_float (encV_op k d a b (by decide) hf) (by decide)]
  show (if (fieldAt (encV 0x6F fn k d a b) 25 7) < 4 then some (Instr.vperm (vAt (encV 0x6F fn k d a b) 7) (vAt (encV 0x6F fn k d a b) 12) (vAt (encV 0x6F fn k d a b) 17) (widthOf (fieldAt (encV 0x6F fn k d a b) 25 7)) (kAt (encV 0x6F fn k d a b) 22)) else none) = _
  rw [encV_fn k d a b (by decide) hf, encV_d k d a b (by decide) hf, encV_a k d a b (by decide) hf, encV_b k d a b (by decide) hf, encV_k k d a b (by decide) hf]

theorem dec70 {fn : Nat} (k : K) (d : V) (a : V) (b : V) (hf : fn < 128) :
    decodeWord (encV 0x70 fn k d a b) = zeroed b.val (checked (.vcvt d a (fn / 64 % 2 == 1) (numTyOf (fn / 8)) (numTyOf fn) k)) := by
  rw [decodeWord_float (encV_op k d a b (by decide) hf) (by decide)]
  show zeroed (vAt (encV 0x70 fn k d a b) 17).val (checked (Instr.vcvt (vAt (encV 0x70 fn k d a b) 7) (vAt (encV 0x70 fn k d a b) 12) ((fieldAt (encV 0x70 fn k d a b) 25 7) / 64 % 2 == 1) (numTyOf ((fieldAt (encV 0x70 fn k d a b) 25 7) / 8)) (numTyOf (fieldAt (encV 0x70 fn k d a b) 25 7)) (kAt (encV 0x70 fn k d a b) 22))) = _
  rw [encV_fn k d a b (by decide) hf, encV_b k d a b (by decide) hf, encV_d k d a b (by decide) hf, encV_a k d a b (by decide) hf, encV_k k d a b (by decide) hf]

theorem dec71 {fn : Nat} (k : K) (d : V) (a : V) (b : V) (hf : fn < 128) :
    decodeWord (encV 0x71 fn k d a b) = decodeKop fn k d a b := by
  rw [decodeWord_float (encV_op k d a b (by decide) hf) (by decide)]
  show decodeKop (fieldAt (encV 0x71 fn k d a b) 25 7) (kAt (encV 0x71 fn k d a b) 22) (vAt (encV 0x71 fn k d a b) 7) (vAt (encV 0x71 fn k d a b) 12) (vAt (encV 0x71 fn k d a b) 17) = _
  rw [encV_fn k d a b (by decide) hf, encV_k k d a b (by decide) hf, encV_d k d a b (by decide) hf, encV_a k d a b (by decide) hf, encV_b k d a b (by decide) hf]

end Sys2Proof.Laws
end

