-- ==== Sys2Proof/Laws/PerInstr.lean ====
section
/-! SUPPORT. The family Encode: the decoder reads back the word of every well-formed instruction, which has 32 bits. -/

namespace Sys2Proof.Laws

open Sys2Proof

/-- Instruction i, if well formed, is what its own word decodes to, and the word has 32 bits. -/
def Encode.Statement (i : Instr) : Prop :=
  i.wf = true → encode i < 2 ^ 32 ∧ (i.kind = .core → decodeWord (encode i) = some i) ∧
    (i.kind = .glaze → decodeGlaze (encode i) = some i)

theorem Encode.ofCore {i : Instr} (k : i.kind = .core) (hb : encode i < 2 ^ 32)
    (hd : i.wf = true → decodeWord (encode i) = some i) : Encode.Statement i :=
  fun h => ⟨hb, fun _ => hd h, fun g => absurd (k.symm.trans g) (by decide)⟩
theorem Encode.ofGlaze {i : Instr} (k : i.kind = .glaze) (hb : encode i < 2 ^ 32)
    (hd : i.wf = true → decodeGlaze (encode i) = some i) : Encode.Statement i :=
  fun h => ⟨hb, fun g => absurd (k.symm.trans g) (by decide), fun _ => hd h⟩
theorem Encode.ofEvent {i : Instr} (k : i.kind = .event) (hb : encode i = 0) : Encode.Statement i :=
  fun _ => ⟨by rw [hb]; decide, fun g => absurd (k.symm.trans g) (by decide), fun g => absurd (k.symm.trans g) (by decide)⟩

/-! ### Bounds of the formats -/

theorem encR_lt {op fn d a b : Nat} (h : op < 128) (hf : fn < 128) (hd : d < 64) (ha : a < 64) (hb : b < 64) : encR op fn d a b < 2 ^ 32 := by unfold encR; omega
theorem encI_lt {op imm d a : Nat} (h : op < 128) (hi : imm < 2 ^ 13) (hd : d < 64) (ha : a < 64) : encI op imm d a < 2 ^ 32 := by unfold encI; omega
theorem encB_lt {op imm a b : Nat} (h : op < 128) (hi : imm < 2 ^ 13) (ha : a < 64) (hb : b < 64) : encB op imm a b < 2 ^ 32 := by unfold encB; omega
theorem encU_lt {op imm d : Nat} (h : op < 128) (hi : imm < 2 ^ 19) (hd : d < 64) : encU op imm d < 2 ^ 32 := by unfold encU; omega
theorem encL_lt {op la imm a d : Nat} (h : op < 128) (hl : la < 16) (hi : imm < 2 ^ 9) (ha : a < 64) (hd : d < 64) : encL op la imm a d < 2 ^ 32 := by unfold encL; omega
theorem encQ_lt {op la sz sc a d : Nat} (h : op < 128) (hl : la < 16) (hz : sz < 4) (hc : sc < 8) (ha : a < 64) (hd : d < 64) : encQ op la sz sc a d < 2 ^ 32 := by unfold encQ; omega
theorem encM_lt {op fn3 la d a b : Nat} (h : op < 128) (hf : fn3 < 8) (hl : la < 16) (hd : d < 64) (ha : a < 64) (hb : b < 64) : encM op fn3 la d a b < 2 ^ 32 := by unfold encM; omega
theorem encF4_lt {op n d a b c : Nat} (h : op < 128) (hn : n < 2) (hd : d < 64) (ha : a < 64) (hb : b < 64) (hc : c < 64) : encF4 op n d a b c < 2 ^ 32 := by unfold encF4; omega
theorem encV_lt {op fn k d a b : Nat} (h : op < 128) (hf : fn < 128) (hk : k < 8) (hd : d < 32) (ha : a < 32) (hb : b < 32) : encV op fn k d a b < 2 ^ 32 := by unfold encV; omega
theorem encVX_lt {op fn k g idx d : Nat} (h : op < 128) (hf : fn < 128) (hk : k < 8) (hg : g < 64) (hi : idx < 16) (hd : d < 32) : encVX op fn k g idx d < 2 ^ 32 := by unfold encVX; omega
theorem encVM_lt {op sz la imm a d : Nat} (h : op < 128) (hz : sz < 4) (hl : la < 16) (hi : imm < 2 ^ 8) (ha : a < 64) (hd : d < 32) : encVM op sz la imm a d < 2 ^ 32 := by unfold encVM; omega
theorem encVS_lt {op k la b a d : Nat} (h : op < 128) (hk : k < 8) (hl : la < 16) (hb : b < 64) (ha : a < 64) (hd : d < 32) : encVS op k la b a d < 2 ^ 32 := by unfold encVS; omega
theorem encVF4_lt {op n k d a b c : Nat} (h : op < 128) (hn : n < 4) (hk : k < 8) (hd : d < 32) (ha : a < 32) (hb : b < 32) (hc : c < 32) : encVF4 op n k d a b c < 2 ^ 32 := by unfold encVF4; omega
theorem encG_lt {gop d a b c m : Nat} (h : gop < 256) (hd : d < 16) (ha : a < 32) (hb : b < 32) (hc : c < 32) (hm : m < 32) : encG gop d a b c m < 2 ^ 32 := by unfold encG; omega

/-! ### Glaze words -/

section
variable {gop : Nat} (d : GDst) (a b c m : GSrc) (h : gop < 256)
include h
theorem encG_op : encG gop d a b c m % 256 = gop := by unfold encG; omega
theorem encG_d : (Fin.ofNat 16 (encG gop d a b c m / 2 ^ 8) : GDst) = d := by
  apply Fin.ext; show encG gop d a b c m / 2 ^ 8 % 16 = d.val
  have := d.isLt; have := a.isLt; have := b.isLt; have := c.isLt; have := m.isLt; unfold encG; omega
theorem encG_a : vAt (encG gop d a b c m) 12 = a :=
  vAt_eq (by have := d.isLt; have := a.isLt; have := b.isLt; have := c.isLt; have := m.isLt; unfold encG; omega)
theorem encG_b : vAt (encG gop d a b c m) 17 = b :=
  vAt_eq (by have := d.isLt; have := a.isLt; have := b.isLt; have := c.isLt; have := m.isLt; unfold encG; omega)
theorem encG_c : vAt (encG gop d a b c m) 22 = c :=
  vAt_eq (by have := d.isLt; have := a.isLt; have := b.isLt; have := c.isLt; have := m.isLt; unfold encG; omega)
theorem encG_m : vAt (encG gop d a b c m) 27 = m :=
  vAt_eq (by have := d.isLt; have := a.isLt; have := b.isLt; have := c.isLt; have := m.isLt; unfold encG; omega)
end

theorem decG01 (d : GDst) (a b c m : GSrc) : decodeGlaze (encG 0x01 d a b c m) = zeroed (c.val + m.val) (checked (.gzAdd d a b)) := by
  unfold decodeGlaze; rw [encG_op d a b c m (by decide), encG_d d a b c m (by decide), encG_a d a b c m (by decide), encG_b d a b c m (by decide),
    encG_c d a b c m (by decide), encG_m d a b c m (by decide)]; rfl
theorem decG02 (d : GDst) (a b c m : GSrc) : decodeGlaze (encG 0x02 d a b c m) = zeroed (c.val + m.val) (checked (.gzSub d a b)) := by
  unfold decodeGlaze; rw [encG_op d a b c m (by decide), encG_d d a b c m (by decide), encG_a d a b c m (by decide), encG_b d a b c m (by decide),
    encG_c d a b c m (by decide), encG_m d a b c m (by decide)]; rfl
theorem decG03 (d : GDst) (a b c m : GSrc) : decodeGlaze (encG 0x03 d a b c m) = zeroed (c.val + m.val) (checked (.gzMul d a b)) := by
  unfold decodeGlaze; rw [encG_op d a b c m (by decide), encG_d d a b c m (by decide), encG_a d a b c m (by decide), encG_b d a b c m (by decide),
    encG_c d a b c m (by decide), encG_m d a b c m (by decide)]; rfl
theorem decG04 (d : GDst) (a b c m : GSrc) : decodeGlaze (encG 0x04 d a b c m) = zeroed m.val (checked (.gzFma d a b c)) := by
  unfold decodeGlaze; rw [encG_op d a b c m (by decide), encG_d d a b c m (by decide), encG_a d a b c m (by decide), encG_b d a b c m (by decide),
    encG_c d a b c m (by decide), encG_m d a b c m (by decide)]; rfl
theorem decG05 (d : GDst) (a b c m : GSrc) : decodeGlaze (encG 0x05 d a b c m) = zeroed (c.val + m.val) (checked (.gzMin d a b)) := by
  unfold decodeGlaze; rw [encG_op d a b c m (by decide), encG_d d a b c m (by decide), encG_a d a b c m (by decide), encG_b d a b c m (by decide),
    encG_c d a b c m (by decide), encG_m d a b c m (by decide)]; rfl
theorem decG06 (d : GDst) (a b c m : GSrc) : decodeGlaze (encG 0x06 d a b c m) = zeroed (c.val + m.val) (checked (.gzMax d a b)) := by
  unfold decodeGlaze; rw [encG_op d a b c m (by decide), encG_d d a b c m (by decide), encG_a d a b c m (by decide), encG_b d a b c m (by decide),
    encG_c d a b c m (by decide), encG_m d a b c m (by decide)]; rfl
theorem decG07 (d : GDst) (a b c m : GSrc) : decodeGlaze (encG 0x07 d a b c m) = zeroed (b.val + c.val + m.val) (checked (.gzRelu d a)) := by
  unfold decodeGlaze; rw [encG_op d a b c m (by decide), encG_d d a b c m (by decide), encG_a d a b c m (by decide), encG_b d a b c m (by decide),
    encG_c d a b c m (by decide), encG_m d a b c m (by decide)]; rfl
theorem decG08 (d : GDst) (a b c m : GSrc) : decodeGlaze (encG 0x08 d a b c m) = zeroed m.val (checked (.gzClamp d a b c)) := by
  unfold decodeGlaze; rw [encG_op d a b c m (by decide), encG_d d a b c m (by decide), encG_a d a b c m (by decide), encG_b d a b c m (by decide),
    encG_c d a b c m (by decide), encG_m d a b c m (by decide)]; rfl
theorem decG09 (d : GDst) (a b c m : GSrc) : decodeGlaze (encG 0x09 d a b c m) = zeroed (b.val + c.val + m.val) (checked (.gzAbs d a)) := by
  unfold decodeGlaze; rw [encG_op d a b c m (by decide), encG_d d a b c m (by decide), encG_a d a b c m (by decide), encG_b d a b c m (by decide),
    encG_c d a b c m (by decide), encG_m d a b c m (by decide)]; rfl
theorem decG0A (d : GDst) (a b c m : GSrc) : decodeGlaze (encG 0x0A d a b c m) = zeroed (b.val + c.val + m.val) (checked (.gzNeg d a)) := by
  unfold decodeGlaze; rw [encG_op d a b c m (by decide), encG_d d a b c m (by decide), encG_a d a b c m (by decide), encG_b d a b c m (by decide),
    encG_c d a b c m (by decide), encG_m d a b c m (by decide)]; rfl
theorem decG0B (d : GDst) (a b c m : GSrc) : decodeGlaze (encG 0x0B d a b c m) = zeroed (b.val + c.val + m.val) (checked (.gzExp2 d a)) := by
  unfold decodeGlaze; rw [encG_op d a b c m (by decide), encG_d d a b c m (by decide), encG_a d a b c m (by decide), encG_b d a b c m (by decide),
    encG_c d a b c m (by decide), encG_m d a b c m (by decide)]; rfl
theorem decG0C (d : GDst) (a b c m : GSrc) : decodeGlaze (encG 0x0C d a b c m) = zeroed (b.val + c.val + m.val) (checked (.gzRcp d a)) := by
  unfold decodeGlaze; rw [encG_op d a b c m (by decide), encG_d d a b c m (by decide), encG_a d a b c m (by decide), encG_b d a b c m (by decide),
    encG_c d a b c m (by decide), encG_m d a b c m (by decide)]; rfl
theorem decG0D (d : GDst) (a b c m : GSrc) : decodeGlaze (encG 0x0D d a b c m) = zeroed (b.val + c.val + m.val) (checked (.gzRsq d a)) := by
  unfold decodeGlaze; rw [encG_op d a b c m (by decide), encG_d d a b c m (by decide), encG_a d a b c m (by decide), encG_b d a b c m (by decide),
    encG_c d a b c m (by decide), encG_m d a b c m (by decide)]; rfl
theorem decG0E (d : GDst) (a b c m : GSrc) : decodeGlaze (encG 0x0E d a b c m) = checked (.gzSel m d a b c) := by
  unfold decodeGlaze; rw [encG_op d a b c m (by decide), encG_d d a b c m (by decide), encG_a d a b c m (by decide), encG_b d a b c m (by decide),
    encG_c d a b c m (by decide), encG_m d a b c m (by decide)]; rfl
theorem decG0F (d : GDst) (a b c m : GSrc) : decodeGlaze (encG 0x0F d a b c m) = zeroed (a.val + b.val + c.val) (checked (.gzLdr m d)) := by
  unfold decodeGlaze; rw [encG_op d a b c m (by decide), encG_d d a b c m (by decide), encG_a d a b c m (by decide), encG_b d a b c m (by decide),
    encG_c d a b c m (by decide), encG_m d a b c m (by decide)]; rfl
theorem decG10 (d : GDst) (a b c m : GSrc) : decodeGlaze (encG 0x10 d a b c m) = zeroed (a.val + b.val + c.val) (checked (.gzLdc m d)) := by
  unfold decodeGlaze; rw [encG_op d a b c m (by decide), encG_d d a b c m (by decide), encG_a d a b c m (by decide), encG_b d a b c m (by decide),
    encG_c d a b c m (by decide), encG_m d a b c m (by decide)]; rfl
theorem decG11 (d : GDst) (a b c m : GSrc) : decodeGlaze (encG 0x11 d a b c m) = zeroed (b.val + c.val) (checked (.gzCvt m d a)) := by
  unfold decodeGlaze; rw [encG_op d a b c m (by decide), encG_d d a b c m (by decide), encG_a d a b c m (by decide), encG_b d a b c m (by decide),
    encG_c d a b c m (by decide), encG_m d a b c m (by decide)]; rfl
theorem decG12 (d : GDst) (a b c m : GSrc) : decodeGlaze (encG 0x12 d a b c m) = zeroed ((b.val + c.val + m.val) + d.val) (checked (.gzBscl a)) := by
  unfold decodeGlaze; rw [encG_op d a b c m (by decide), encG_d d a b c m (by decide), encG_a d a b c m (by decide), encG_b d a b c m (by decide),
    encG_c d a b c m (by decide), encG_m d a b c m (by decide)]; rfl
theorem decG13 (d : GDst) (a b c m : GSrc) : decodeGlaze (encG 0x13 d a b c m) = zeroed ((b.val + c.val + m.val) + d.val) (checked (.gzSt a)) := by
  unfold decodeGlaze; rw [encG_op d a b c m (by decide), encG_d d a b c m (by decide), encG_a d a b c m (by decide), encG_b d a b c m (by decide),
    encG_c d a b c m (by decide), encG_m d a b c m (by decide)]; rfl
theorem decG14 (d : GDst) (a b c m : GSrc) : decodeGlaze (encG 0x14 d a b c m) = zeroed ((b.val + c.val + m.val) + d.val) (checked (.gzStt a)) := by
  unfold decodeGlaze; rw [encG_op d a b c m (by decide), encG_d d a b c m (by decide), encG_a d a b c m (by decide), encG_b d a b c m (by decide),
    encG_c d a b c m (by decide), encG_m d a b c m (by decide)]; rfl
theorem decG15 (d : GDst) (a b c m : GSrc) : decodeGlaze (encG 0x15 d a b c m) = zeroed (b.val + c.val + d.val) (checked (.gzRedr (Fin.ofNat 8 (m.val / 4)) (Fin.ofNat 4 m.val) a)) := by
  unfold decodeGlaze; rw [encG_op d a b c m (by decide), encG_d d a b c m (by decide), encG_a d a b c m (by decide), encG_b d a b c m (by decide),
    encG_c d a b c m (by decide), encG_m d a b c m (by decide)]; rfl
theorem decG16 (d : GDst) (a b c m : GSrc) : decodeGlaze (encG 0x16 d a b c m) = zeroed ((b.val + c.val + m.val) + a.val + d.val) (some .gzEnd) := by
  unfold decodeGlaze; rw [encG_op d a b c m (by decide), encG_d d a b c m (by decide), encG_a d a b c m (by decide), encG_b d a b c m (by decide),
    encG_c d a b c m (by decide), encG_m d a b c m (by decide)]; rfl

/-! ### Opcodes with a dependent field -/

theorem dec33 (l : Fin 4) (la : La) (a b : G) : decodeWord (encM 0x33 l la (0 : G) a b) = some (.dec a b l la) := by
  have hl := l.isLt
  rw [decodeWord_mem (encM_op (fn3 := l.val) la 0 a b (by decide) (by omega)) (by decide) (by decide)]
  unfold decodeMem
  simp only [encM_fn3 (op := 0x33) (fn3 := l.val) la 0 a b (by decide) (by omega), encM_d (op := 0x33) (fn3 := l.val) la 0 a b (by decide) (by omega),
    encM_a (op := 0x33) (fn3 := l.val) la 0 a b (by decide) (by omega), encM_b (op := 0x33) (fn3 := l.val) la 0 a b (by decide) (by omega),
    encM_la (op := 0x33) (fn3 := l.val) la 0 a b (by decide) (by omega), hl, dite_true]
  rfl

theorem vcmp_fields (kd : K) (a b : V) (cond : Fin 6) (ty : CmpTy) (any : Bool) (k : K)
    (h : (Instr.vcmp kd a b cond ty any k).wf = true) :
    decodeVcmp (ty.code + 8 * cond.val + 64 * any.toNat) k ⟨kd.val, by have := kd.isLt; omega⟩ a b = some (.vcmp kd a b cond ty any k) := by
  have h1 := kd.isLt; have h2 := cond.isLt; have h3 := cmpTy_lt ty
  have h4 : any.toNat < 2 := by cases any <;> decide
  have e1 : (ty.code + 8 * cond.val + 64 * any.toNat) % 8 = ty.code := by omega
  have e2 : (ty.code + 8 * cond.val + 64 * any.toNat) / 8 % 8 = cond.val := by omega
  have e3 : (ty.code + 8 * cond.val + 64 * any.toNat) / 64 % 2 = any.toNat := by omega
  unfold decodeVcmp
  rw [zeroed_of (by show kd.val / 8 = 0; omega)]
  simp only [e1, e2, e3, cmpTyOf_code]
  rw [dif_pos h2]
  have e4 : (any.toNat == 1) = any := by cases any <;> rfl
  have e5 : (⟨cond.val, h2⟩ : Fin 6) = cond := rfl
  have e6 : Fin.ofNat 8 kd.val = kd := ofNat_fin kd
  simp only [e4, e6]
  exact checked_of h

/-- A mask register's number as a v field. -/
def kv (k : K) : V := ⟨k.val, Nat.lt_of_lt_of_le k.isLt (by decide)⟩

theorem kop_fields (kd ka kb : K) (op : Nat) (i : K → K → K → Instr) (h : (i kd ka kb).wf = true) (hop : op < 4)
    (e : ∀ d a b : V, decodeKop op 0 d a b = zeroed (0 + d.val / 8) (zeroed (a.val / 8 + b.val / 8)
      (checked (i (Fin.ofNat 8 d.val) (Fin.ofNat 8 a.val) (Fin.ofNat 8 b.val))))) :
    decodeKop op 0 (kv kd) (kv ka) (kv kb) = some (i kd ka kb) := by
  have h1 := kd.isLt; have h2 := ka.isLt; have h3 := kb.isLt
  rw [e, zeroed_of (by show 0 + kd.val / 8 = 0; omega), zeroed_of (by show ka.val / 8 + kb.val / 8 = 0; omega)]
  show checked (i (Fin.ofNat 8 kd.val) (Fin.ofNat 8 ka.val) (Fin.ofNat 8 kb.val)) = _
  rw [ofNat_fin kd, ofNat_fin ka, ofNat_fin kb]; exact checked_of h

/-! ### One lemma for each constructor -/

theorem Encode.add (d : G) (a : G) (b : G) : Statement (.add d a b) :=
  ofCore rfl (encR_lt (by decide) (by decide) d.isLt a.isLt b.isLt)
    (fun _ => dec01 d a b (by decide))
theorem Encode.sub (d : G) (a : G) (b : G) : Statement (.sub d a b) :=
  ofCore rfl (encR_lt (by decide) (by decide) d.isLt a.isLt b.isLt)
    (fun _ => dec01 d a b (by decide))
theorem Encode.and (d : G) (a : G) (b : G) : Statement (.and d a b) :=
  ofCore rfl (encR_lt (by decide) (by decide) d.isLt a.isLt b.isLt)
    (fun _ => dec01 d a b (by decide))
theorem Encode.or (d : G) (a : G) (b : G) : Statement (.or d a b) :=
  ofCore rfl (encR_lt (by decide) (by decide) d.isLt a.isLt b.isLt)
    (fun _ => dec01 d a b (by decide))
theorem Encode.xor (d : G) (a : G) (b : G) : Statement (.xor d a b) :=
  ofCore rfl (encR_lt (by decide) (by decide) d.isLt a.isLt b.isLt)
    (fun _ => dec01 d a b (by decide))
theorem Encode.andn (d : G) (a : G) (b : G) : Statement (.andn d a b) :=
  ofCore rfl (encR_lt (by decide) (by decide) d.isLt a.isLt b.isLt)
    (fun _ => dec01 d a b (by decide))
theorem Encode.orn (d : G) (a : G) (b : G) : Statement (.orn d a b) :=
  ofCore rfl (encR_lt (by decide) (by decide) d.isLt a.isLt b.isLt)
    (fun _ => dec01 d a b (by decide))
theorem Encode.sll (d : G) (a : G) (b : G) : Statement (.sll d a b) :=
  ofCore rfl (encR_lt (by decide) (by decide) d.isLt a.isLt b.isLt)
    (fun _ => dec01 d a b (by decide))
theorem Encode.srl (d : G) (a : G) (b : G) : Statement (.srl d a b) :=
  ofCore rfl (encR_lt (by decide) (by decide) d.isLt a.isLt b.isLt)
    (fun _ => dec01 d a b (by decide))
theorem Encode.sra (d : G) (a : G) (b : G) : Statement (.sra d a b) :=
  ofCore rfl (encR_lt (by decide) (by decide) d.isLt a.isLt b.isLt)
    (fun _ => dec01 d a b (by decide))
theorem Encode.rol (d : G) (a : G) (b : G) : Statement (.rol d a b) :=
  ofCore rfl (encR_lt (by decide) (by decide) d.isLt a.isLt b.isLt)
    (fun _ => dec01 d a b (by decide))
theorem Encode.ror (d : G) (a : G) (b : G) : Statement (.ror d a b) :=
  ofCore rfl (encR_lt (by decide) (by decide) d.isLt a.isLt b.isLt)
    (fun _ => dec01 d a b (by decide))
theorem Encode.slt (d : G) (a : G) (b : G) : Statement (.slt d a b) :=
  ofCore rfl (encR_lt (by decide) (by decide) d.isLt a.isLt b.isLt)
    (fun _ => dec01 d a b (by decide))
theorem Encode.sltu (d : G) (a : G) (b : G) : Statement (.sltu d a b) :=
  ofCore rfl (encR_lt (by decide) (by decide) d.isLt a.isLt b.isLt)
    (fun _ => dec01 d a b (by decide))
theorem Encode.seq (d : G) (a : G) (b : G) : Statement (.seq d a b) :=
  ofCore rfl (encR_lt (by decide) (by decide) d.isLt a.isLt b.isLt)
    (fun _ => dec01 d a b (by decide))
theorem Encode.sne (d : G) (a : G) (b : G) : Statement (.sne d a b) :=
  ofCore rfl (encR_lt (by decide) (by decide) d.isLt a.isLt b.isLt)
    (fun _ => dec01 d a b (by decide))
theorem Encode.min (d : G) (a : G) (b : G) : Statement (.min d a b) :=
  ofCore rfl (encR_lt (by decide) (by decide) d.isLt a.isLt b.isLt)
    (fun _ => dec01 d a b (by decide))
theorem Encode.max (d : G) (a : G) (b : G) : Statement (.max d a b) :=
  ofCore rfl (encR_lt (by decide) (by decide) d.isLt a.isLt b.isLt)
    (fun _ => dec01 d a b (by decide))
theorem Encode.minu (d : G) (a : G) (b : G) : Statement (.minu d a b) :=
  ofCore rfl (encR_lt (by decide) (by decide) d.isLt a.isLt b.isLt)
    (fun _ => dec01 d a b (by decide))
theorem Encode.maxu (d : G) (a : G) (b : G) : Statement (.maxu d a b) :=
  ofCore rfl (encR_lt (by decide) (by decide) d.isLt a.isLt b.isLt)
    (fun _ => dec01 d a b (by decide))
theorem Encode.mul (d : G) (a : G) (b : G) : Statement (.mul d a b) :=
  ofCore rfl (encR_lt (by decide) (by decide) d.isLt a.isLt b.isLt)
    (fun _ => dec01 d a b (by decide))
theorem Encode.mulh (d : G) (a : G) (b : G) : Statement (.mulh d a b) :=
  ofCore rfl (encR_lt (by decide) (by decide) d.isLt a.isLt b.isLt)
    (fun _ => dec01 d a b (by decide))
theorem Encode.mulhu (d : G) (a : G) (b : G) : Statement (.mulhu d a b) :=
  ofCore rfl (encR_lt (by decide) (by decide) d.isLt a.isLt b.isLt)
    (fun _ => dec01 d a b (by decide))
theorem Encode.mulhsu (d : G) (a : G) (b : G) : Statement (.mulhsu d a b) :=
  ofCore rfl (encR_lt (by decide) (by decide) d.isLt a.isLt b.isLt)
    (fun _ => dec01 d a b (by decide))
theorem Encode.div (d : G) (a : G) (b : G) : Statement (.div d a b) :=
  ofCore rfl (encR_lt (by decide) (by decide) d.isLt a.isLt b.isLt)
    (fun _ => dec01 d a b (by decide))
theorem Encode.divu (d : G) (a : G) (b : G) : Statement (.divu d a b) :=
  ofCore rfl (encR_lt (by decide) (by decide) d.isLt a.isLt b.isLt)
    (fun _ => dec01 d a b (by decide))
theorem Encode.rem (d : G) (a : G) (b : G) : Statement (.rem d a b) :=
  ofCore rfl (encR_lt (by decide) (by decide) d.isLt a.isLt b.isLt)
    (fun _ => dec01 d a b (by decide))
theorem Encode.remu (d : G) (a : G) (b : G) : Statement (.remu d a b) :=
  ofCore rfl (encR_lt (by decide) (by decide) d.isLt a.isLt b.isLt)
    (fun _ => dec01 d a b (by decide))
theorem Encode.clz (d : G) (a : G) : Statement (.clz d a) :=
  ofCore rfl (encR_lt (by decide) (by decide) d.isLt a.isLt (by decide))
    (fun _ => dec01 d a (0 : G) (by decide))
theorem Encode.ctz (d : G) (a : G) : Statement (.ctz d a) :=
  ofCore rfl (encR_lt (by decide) (by decide) d.isLt a.isLt (by decide))
    (fun _ => dec01 d a (0 : G) (by decide))
theorem Encode.popc (d : G) (a : G) : Statement (.popc d a) :=
  ofCore rfl (encR_lt (by decide) (by decide) d.isLt a.isLt (by decide))
    (fun _ => dec01 d a (0 : G) (by decide))
theorem Encode.brev (d : G) (a : G) : Statement (.brev d a) :=
  ofCore rfl (encR_lt (by decide) (by decide) d.isLt a.isLt (by decide))
    (fun _ => dec01 d a (0 : G) (by decide))
theorem Encode.bswap (d : G) (a : G) : Statement (.bswap d a) :=
  ofCore rfl (encR_lt (by decide) (by decide) d.isLt a.isLt (by decide))
    (fun _ => dec01 d a (0 : G) (by decide))
theorem Encode.sextB (d : G) (a : G) : Statement (.sextB d a) :=
  ofCore rfl (encR_lt (by decide) (by decide) d.isLt a.isLt (by decide))
    (fun _ => dec01 d a (0 : G) (by decide))
theorem Encode.sextH (d : G) (a : G) : Statement (.sextH d a) :=
  ofCore rfl (encR_lt (by decide) (by decide) d.isLt a.isLt (by decide))
    (fun _ => dec01 d a (0 : G) (by decide))
theorem Encode.sextW (d : G) (a : G) : Statement (.sextW d a) :=
  ofCore rfl (encR_lt (by decide) (by decide) d.isLt a.isLt (by decide))
    (fun _ => dec01 d a (0 : G) (by decide))
theorem Encode.zextW (d : G) (a : G) : Statement (.zextW d a) :=
  ofCore rfl (encR_lt (by decide) (by decide) d.isLt a.isLt (by decide))
    (fun _ => dec01 d a (0 : G) (by decide))
theorem Encode.addi (d : G) (a : G) (imm : BitVec 13) : Statement (.addi d a imm) :=
  ofCore rfl (encI_lt (by decide) imm.isLt d.isLt a.isLt)
    (fun _ => dec02 imm d a)
theorem Encode.andi (d : G) (a : G) (imm : BitVec 13) : Statement (.andi d a imm) :=
  ofCore rfl (encI_lt (by decide) imm.isLt d.isLt a.isLt)
    (fun _ => dec03 imm d a)
theorem Encode.ori (d : G) (a : G) (imm : BitVec 13) : Statement (.ori d a imm) :=
  ofCore rfl (encI_lt (by decide) imm.isLt d.isLt a.isLt)
    (fun _ => dec04 imm d a)
theorem Encode.xori (d : G) (a : G) (imm : BitVec 13) : Statement (.xori d a imm) :=
  ofCore rfl (encI_lt (by decide) imm.isLt d.isLt a.isLt)
    (fun _ => dec05 imm d a)
theorem Encode.slti (d : G) (a : G) (imm : BitVec 13) : Statement (.slti d a imm) :=
  ofCore rfl (encI_lt (by decide) imm.isLt d.isLt a.isLt)
    (fun _ => dec06 imm d a)
theorem Encode.sltiu (d : G) (a : G) (imm : BitVec 13) : Statement (.sltiu d a imm) :=
  ofCore rfl (encI_lt (by decide) imm.isLt d.isLt a.isLt)
    (fun _ => dec07 imm d a)
theorem Encode.slli (d : G) (a : G) (amount : Fin 64) : Statement (.slli d a amount) :=
  ofCore rfl (encR_lt (by decide) (by decide) d.isLt a.isLt amount.isLt)
    (fun _ => dec08 d a amount (by decide))
theorem Encode.srli (d : G) (a : G) (amount : Fin 64) : Statement (.srli d a amount) :=
  ofCore rfl (encR_lt (by decide) (by decide) d.isLt a.isLt amount.isLt)
    (fun _ => dec08 d a amount (by decide))
theorem Encode.srai (d : G) (a : G) (amount : Fin 64) : Statement (.srai d a amount) :=
  ofCore rfl (encR_lt (by decide) (by decide) d.isLt a.isLt amount.isLt)
    (fun _ => dec08 d a amount (by decide))
theorem Encode.rori (d : G) (a : G) (amount : Fin 64) : Statement (.rori d a amount) :=
  ofCore rfl (encR_lt (by decide) (by decide) d.isLt a.isLt amount.isLt)
    (fun _ => dec08 d a amount (by decide))
theorem Encode.lui (d : G) (imm : BitVec 19) : Statement (.lui d imm) :=
  ofCore rfl (encU_lt (by decide) imm.isLt d.isLt)
    (fun _ => dec09 imm d)
theorem Encode.adpc (d : G) (imm : BitVec 19) : Statement (.adpc d imm) :=
  ofCore rfl (encU_lt (by decide) imm.isLt d.isLt)
    (fun _ => dec0A imm d)
theorem Encode.bfx (d : G) (a : G) (lsb : Fin 64) (wm1 : Fin 64) (sx : Bool) : Statement (.bfx d a lsb wm1 sx) :=
  ofCore rfl (encR_lt (by decide) (by have := d.isLt; have := a.isLt; have := lsb.isLt; have := wm1.isLt; have : sx.toNat < 2 := (by cases sx <;> decide); omega) d.isLt a.isLt lsb.isLt)
    (by intro h; cases sx <;> exact (dec0B wm1 d a lsb (by decide)).trans (checked_of h))
theorem Encode.bfi (d : G) (a : G) (lsb : Fin 64) (wm1 : Fin 64) : Statement (.bfi d a lsb wm1) :=
  ofCore rfl (encR_lt (by decide) (by have := wm1.isLt; omega) d.isLt a.isLt lsb.isLt)
    (fun h => (dec0C (m := 0) wm1 d a lsb (by decide)).trans (checked_of h))
theorem Encode.madr (d : G) (a : G) (b : G) : Statement (.madr d a b) :=
  ofCore rfl (encR_lt (by decide) (by decide) d.isLt a.isLt b.isLt)
    (fun _ => dec0D d a b (by decide))
theorem Encode.mrel (d : G) (a : G) (b : G) : Statement (.mrel d a b) :=
  ofCore rfl (encR_lt (by decide) (by decide) d.isLt a.isLt b.isLt)
    (fun _ => dec0D d a b (by decide))
theorem Encode.mabs (d : G) (a : G) : Statement (.mabs d a) :=
  ofCore rfl (encR_lt (by decide) (by decide) d.isLt a.isLt (by decide))
    (fun _ => dec0D d a (0 : G) (by decide))
theorem Encode.mcrd (d : G) (a : G) : Statement (.mcrd d a) :=
  ofCore rfl (encR_lt (by decide) (by decide) d.isLt a.isLt (by decide))
    (fun _ => dec0D d a (0 : G) (by decide))
theorem Encode.beq (a : G) (b : G) (imm : BitVec 13) : Statement (.beq a b imm) :=
  ofCore rfl (encB_lt (by decide) imm.isLt a.isLt b.isLt)
    (fun _ => dec10 imm a b)
theorem Encode.bne (a : G) (b : G) (imm : BitVec 13) : Statement (.bne a b imm) :=
  ofCore rfl (encB_lt (by decide) imm.isLt a.isLt b.isLt)
    (fun _ => dec11 imm a b)
theorem Encode.blt (a : G) (b : G) (imm : BitVec 13) : Statement (.blt a b imm) :=
  ofCore rfl (encB_lt (by decide) imm.isLt a.isLt b.isLt)
    (fun _ => dec12 imm a b)
theorem Encode.bge (a : G) (b : G) (imm : BitVec 13) : Statement (.bge a b imm) :=
  ofCore rfl (encB_lt (by decide) imm.isLt a.isLt b.isLt)
    (fun _ => dec13 imm a b)
theorem Encode.bltu (a : G) (b : G) (imm : BitVec 13) : Statement (.bltu a b imm) :=
  ofCore rfl (encB_lt (by decide) imm.isLt a.isLt b.isLt)
    (fun _ => dec14 imm a b)
theorem Encode.bgeu (a : G) (b : G) (imm : BitVec 13) : Statement (.bgeu a b imm) :=
  ofCore rfl (encB_lt (by decide) imm.isLt a.isLt b.isLt)
    (fun _ => dec15 imm a b)
theorem Encode.jal (d : G) (imm : BitVec 19) : Statement (.jal d imm) :=
  ofCore rfl (encU_lt (by decide) imm.isLt d.isLt)
    (fun _ => dec16 imm d)
theorem Encode.jalr (d : G) (a : G) (imm : BitVec 13) : Statement (.jalr d a imm) :=
  ofCore rfl (encI_lt (by decide) imm.isLt d.isLt a.isLt)
    (fun _ => dec17 imm d a)
theorem Encode.loop (a : G) (imm : BitVec 13) : Statement (.loop a imm) :=
  ofCore rfl (encI_lt (by decide) imm.isLt (by decide) a.isLt)
    (fun _ => dec18 imm (0 : G) a)
theorem Encode.loopi (count : BitVec 10) (len : BitVec 9) : Statement (.loopi count len) :=
  ofCore rfl (encU_lt (by decide) (by have := count.isLt; have := len.isLt; omega) (by decide))
    (fun _ => dec19 count len (0 : G))
theorem Encode.iterClaim (d : G) (a : G) : Statement (.iterClaim d a) :=
  ofCore rfl (encR_lt (by decide) (by decide) d.isLt a.isLt (by decide))
    (fun _ => dec1A d a (0 : G) (by decide))
theorem Encode.iterNext (d : G) (a : G) (b : G) : Statement (.iterNext d a b) :=
  ofCore rfl (encR_lt (by decide) (by decide) d.isLt a.isLt b.isLt)
    (fun _ => dec1A d a b (by decide))
theorem Encode.ldB (d : G) (a : G) (imm : BitVec 9) (la : La) : Statement (.ldB d a imm la) :=
  ofCore rfl (encL_lt (by decide) la.isLt imm.isLt a.isLt d.isLt)
    (fun _ => dec20 la imm a d)
theorem Encode.ldH (d : G) (a : G) (imm : BitVec 9) (la : La) : Statement (.ldH d a imm la) :=
  ofCore rfl (encL_lt (by decide) la.isLt imm.isLt a.isLt d.isLt)
    (fun _ => dec21 la imm a d)
theorem Encode.ldW (d : G) (a : G) (imm : BitVec 9) (la : La) : Statement (.ldW d a imm la) :=
  ofCore rfl (encL_lt (by decide) la.isLt imm.isLt a.isLt d.isLt)
    (fun _ => dec22 la imm a d)
theorem Encode.ldD (d : G) (a : G) (imm : BitVec 9) (la : La) : Statement (.ldD d a imm la) :=
  ofCore rfl (encL_lt (by decide) la.isLt imm.isLt a.isLt d.isLt)
    (fun _ => dec23 la imm a d)
theorem Encode.ldBu (d : G) (a : G) (imm : BitVec 9) (la : La) : Statement (.ldBu d a imm la) :=
  ofCore rfl (encL_lt (by decide) la.isLt imm.isLt a.isLt d.isLt)
    (fun _ => dec24 la imm a d)
theorem Encode.ldHu (d : G) (a : G) (imm : BitVec 9) (la : La) : Statement (.ldHu d a imm la) :=
  ofCore rfl (encL_lt (by decide) la.isLt imm.isLt a.isLt d.isLt)
    (fun _ => dec25 la imm a d)
theorem Encode.ldWu (d : G) (a : G) (imm : BitVec 9) (la : La) : Statement (.ldWu d a imm la) :=
  ofCore rfl (encL_lt (by decide) la.isLt imm.isLt a.isLt d.isLt)
    (fun _ => dec26 la imm a d)
theorem Encode.lda (d : G) (a : G) (sz : Width) (sc : Scope) (la : La) : Statement (.lda d a sz sc la) :=
  ofCore rfl (encQ_lt (by decide) la.isLt (by have := d.isLt; have := a.isLt; have := la.isLt; have := width_lt sz; have := scope_lt sc; omega) (by have := d.isLt; have := a.isLt; have := la.isLt; have := width_lt sz; have := scope_lt sc; omega) a.isLt d.isLt)
    (by intro h; cases sz <;> cases sc <;> exact dec27 la a d (by decide) (by decide))
theorem Encode.stB (a : G) (s : G) (imm : BitVec 9) (la : La) : Statement (.stB a s imm la) :=
  ofCore rfl (encL_lt (by decide) la.isLt imm.isLt a.isLt s.isLt)
    (fun _ => dec28 la imm a s)
theorem Encode.stH (a : G) (s : G) (imm : BitVec 9) (la : La) : Statement (.stH a s imm la) :=
  ofCore rfl (encL_lt (by decide) la.isLt imm.isLt a.isLt s.isLt)
    (fun _ => dec29 la imm a s)
theorem Encode.stW (a : G) (s : G) (imm : BitVec 9) (la : La) : Statement (.stW a s imm la) :=
  ofCore rfl (encL_lt (by decide) la.isLt imm.isLt a.isLt s.isLt)
    (fun _ => dec2A la imm a s)
theorem Encode.stD (a : G) (s : G) (imm : BitVec 9) (la : La) : Statement (.stD a s imm la) :=
  ofCore rfl (encL_lt (by decide) la.isLt imm.isLt a.isLt s.isLt)
    (fun _ => dec2B la imm a s)
theorem Encode.stl (a : G) (s : G) (sz : Width) (sc : Scope) (la : La) : Statement (.stl a s sz sc la) :=
  ofCore rfl (encQ_lt (by decide) la.isLt (by have := a.isLt; have := s.isLt; have := la.isLt; have := width_lt sz; have := scope_lt sc; omega) (by have := a.isLt; have := s.isLt; have := la.isLt; have := width_lt sz; have := scope_lt sc; omega) a.isLt s.isLt)
    (by intro h; cases sz <;> cases sc <;> exact dec2C la a s (by decide) (by decide))
theorem Encode.storeAcknowledgement (n : Nat) : Statement (.storeAcknowledgement n) := ofEvent rfl rfl
theorem Encode.lateResult (n : Nat) : Statement (.lateResult n) := ofEvent rfl rfl
theorem Encode.ldfE (d : G) (a : G) : Statement (.ldfE d a) :=
  ofCore rfl (encM_lt (by decide) (by decide) (by decide) d.isLt a.isLt (by decide))
    (fun _ => dec2D (0 : La) d a (0 : G) (by decide))
theorem Encode.ldfF (d : G) (a : G) : Statement (.ldfF d a) :=
  ofCore rfl (encM_lt (by decide) (by decide) (by decide) d.isLt a.isLt (by decide))
    (fun _ => dec2D (0 : La) d a (0 : G) (by decide))
theorem Encode.ste (a : G) (b : G) : Statement (.ste a b) :=
  ofCore rfl (encM_lt (by decide) (by decide) (by decide) (by decide) a.isLt b.isLt)
    (fun _ => dec2E (0 : La) (0 : G) a b (by decide))
theorem Encode.fill (a : G) (b : G) : Statement (.fill a b) :=
  ofCore rfl (encM_lt (by decide) (by decide) (by decide) (by decide) a.isLt b.isLt)
    (fun _ => dec2E (0 : La) (0 : G) a b (by decide))
theorem Encode.purge (a : G) (b : G) (la : La) : Statement (.purge a b la) :=
  ofCore rfl (encM_lt (by decide) (by decide) la.isLt (by decide) a.isLt b.isLt)
    (fun _ => dec2F la (0 : G) a b (by decide))
theorem Encode.probe (d : G) (a : G) (la : La) : Statement (.probe d a la) :=
  ofCore rfl (encM_lt (by decide) (by decide) la.isLt d.isLt a.isLt (by decide))
    (fun _ => dec2F la d a (0 : G) (by decide))
theorem Encode.amoAdd (d : G) (a : G) (b : G) (la : La) : Statement (.amoAdd d a b la) :=
  ofCore rfl (encM_lt (by decide) (by decide) la.isLt d.isLt a.isLt b.isLt)
    (fun _ => dec30 la d a b (by decide))
theorem Encode.amoAnd (d : G) (a : G) (b : G) (la : La) : Statement (.amoAnd d a b la) :=
  ofCore rfl (encM_lt (by decide) (by decide) la.isLt d.isLt a.isLt b.isLt)
    (fun _ => dec30 la d a b (by decide))
theorem Encode.amoOr (d : G) (a : G) (b : G) (la : La) : Statement (.amoOr d a b la) :=
  ofCore rfl (encM_lt (by decide) (by decide) la.isLt d.isLt a.isLt b.isLt)
    (fun _ => dec30 la d a b (by decide))
theorem Encode.amoXor (d : G) (a : G) (b : G) (la : La) : Statement (.amoXor d a b la) :=
  ofCore rfl (encM_lt (by decide) (by decide) la.isLt d.isLt a.isLt b.isLt)
    (fun _ => dec30 la d a b (by decide))
theorem Encode.amoMin (d : G) (a : G) (b : G) (la : La) : Statement (.amoMin d a b la) :=
  ofCore rfl (encM_lt (by decide) (by decide) la.isLt d.isLt a.isLt b.isLt)
    (fun _ => dec30 la d a b (by decide))
theorem Encode.amoMax (d : G) (a : G) (b : G) (la : La) : Statement (.amoMax d a b la) :=
  ofCore rfl (encM_lt (by decide) (by decide) la.isLt d.isLt a.isLt b.isLt)
    (fun _ => dec30 la d a b (by decide))
theorem Encode.amoSwap (d : G) (a : G) (b : G) (la : La) : Statement (.amoSwap d a b la) :=
  ofCore rfl (encM_lt (by decide) (by decide) la.isLt d.isLt a.isLt b.isLt)
    (fun _ => dec30 la d a b (by decide))
theorem Encode.amoFaddd (d : G) (a : G) (b : G) (la : La) : Statement (.amoFaddd d a b la) :=
  ofCore rfl (encM_lt (by decide) (by decide) la.isLt d.isLt a.isLt b.isLt)
    (fun _ => dec30 la d a b (by decide))
theorem Encode.amopAdd (a : G) (b : G) (la : La) : Statement (.amopAdd a b la) :=
  ofCore rfl (encM_lt (by decide) (by decide) la.isLt (by decide) a.isLt b.isLt)
    (fun _ => dec31 la (0 : G) a b (by decide))
theorem Encode.amopAnd (a : G) (b : G) (la : La) : Statement (.amopAnd a b la) :=
  ofCore rfl (encM_lt (by decide) (by decide) la.isLt (by decide) a.isLt b.isLt)
    (fun _ => dec31 la (0 : G) a b (by decide))
theorem Encode.amopOr (a : G) (b : G) (la : La) : Statement (.amopOr a b la) :=
  ofCore rfl (encM_lt (by decide) (by decide) la.isLt (by decide) a.isLt b.isLt)
    (fun _ => dec31 la (0 : G) a b (by decide))
theorem Encode.amopXor (a : G) (b : G) (la : La) : Statement (.amopXor a b la) :=
  ofCore rfl (encM_lt (by decide) (by decide) la.isLt (by decide) a.isLt b.isLt)
    (fun _ => dec31 la (0 : G) a b (by decide))
theorem Encode.amopMin (a : G) (b : G) (la : La) : Statement (.amopMin a b la) :=
  ofCore rfl (encM_lt (by decide) (by decide) la.isLt (by decide) a.isLt b.isLt)
    (fun _ => dec31 la (0 : G) a b (by decide))
theorem Encode.amopMax (a : G) (b : G) (la : La) : Statement (.amopMax a b la) :=
  ofCore rfl (encM_lt (by decide) (by decide) la.isLt (by decide) a.isLt b.isLt)
    (fun _ => dec31 la (0 : G) a b (by decide))
theorem Encode.amopSwap (a : G) (b : G) (la : La) : Statement (.amopSwap a b la) :=
  ofCore rfl (encM_lt (by decide) (by decide) la.isLt (by decide) a.isLt b.isLt)
    (fun _ => dec31 la (0 : G) a b (by decide))
theorem Encode.amopFaddd (a : G) (b : G) (la : La) : Statement (.amopFaddd a b la) :=
  ofCore rfl (encM_lt (by decide) (by decide) la.isLt (by decide) a.isLt b.isLt)
    (fun _ => dec31 la (0 : G) a b (by decide))
theorem Encode.casD (d : G) (a : G) (b : G) (la : La) : Statement (.casD d a b la) :=
  ofCore rfl (encM_lt (by decide) (by decide) la.isLt d.isLt a.isLt b.isLt)
    (fun h => (dec32 la d a b (by decide)).trans (checked_of h))
theorem Encode.casW (d : G) (a : G) (b : G) (la : La) : Statement (.casW d a b la) :=
  ofCore rfl (encM_lt (by decide) (by decide) la.isLt d.isLt a.isLt b.isLt)
    (fun h => (dec32 la d a b (by decide)).trans (checked_of h))
theorem Encode.dec (a : G) (b : G) (lane : Fin 4) (la : La) : Statement (.dec a b lane la) :=
  ofCore rfl (encM_lt (by decide) (by have := lane.isLt; omega) la.isLt (by decide) a.isLt b.isLt)
    (fun _ => dec33 lane la a b)
theorem Encode.msg (a : G) (b : G) (la : La) : Statement (.msg a b la) :=
  ofCore rfl (encM_lt (by decide) (by decide) la.isLt (by decide) a.isLt b.isLt)
    (fun _ => dec34 la (0 : G) a b (by decide))
theorem Encode.msgReply (b : G) (la : La) : Statement (.msgReply b la) :=
  ofCore rfl (encM_lt (by decide) (by decide) la.isLt (by decide) (by decide) b.isLt)
    (fun _ => dec34 la (0 : G) (0 : G) b (by decide))
theorem Encode.spawn (d : G) (a : G) (b : G) (la : La) : Statement (.spawn d a b la) :=
  ofCore rfl (encM_lt (by decide) (by decide) la.isLt d.isLt a.isLt b.isLt)
    (fun _ => dec35 la d a b (by decide))
theorem Encode.dlg (d : G) (a : G) (b : G) (la : La) : Statement (.dlg d a b la) :=
  ofCore rfl (encM_lt (by decide) (by decide) la.isLt d.isLt a.isLt b.isLt)
    (fun _ => dec36 la d a b (by decide))
theorem Encode.dlgP (a : G) (b : G) (la : La) : Statement (.dlgP a b la) :=
  ofCore rfl (encM_lt (by decide) (by decide) la.isLt (by decide) a.isLt b.isLt)
    (fun _ => dec36 la (0 : G) a b (by decide))
theorem Encode.mcst (d : G) (a : G) (la : La) : Statement (.mcst d a la) :=
  ofCore rfl (encM_lt (by decide) (by decide) la.isLt d.isLt a.isLt (by decide))
    (fun _ => dec37 la d a (0 : G) (by decide))
theorem Encode.done : Statement .done :=
  ofCore rfl (encR_lt (by decide) (by decide) (by decide) (by decide) (by decide))
    (fun _ => dec38 (0 : G) (0 : G) (0 : G) (by decide))
theorem Encode.shrink (a : G) : Statement (.shrink a) :=
  ofCore rfl (encR_lt (by decide) (by decide) (by decide) a.isLt (by decide))
    (fun _ => dec38 (0 : G) a (0 : G) (by decide))
theorem Encode.arm (a : G) (b : G) : Statement (.arm a b) :=
  ofCore rfl (encR_lt (by decide) (by decide) (by decide) a.isLt b.isLt)
    (fun _ => dec38 (0 : G) a b (by decide))
theorem Encode.ready (a : G) : Statement (.ready a) :=
  ofCore rfl (encR_lt (by decide) (by decide) (by decide) a.isLt (by decide))
    (fun _ => dec38 (0 : G) a (0 : G) (by decide))
theorem Encode.migr (a : G) : Statement (.migr a) :=
  ofCore rfl (encR_lt (by decide) (by decide) (by decide) a.isLt (by decide))
    (fun _ => dec38 (0 : G) a (0 : G) (by decide))
theorem Encode.fenceAcq (sc : Scope) : Statement (.fenceAcq sc) :=
  ofCore rfl (encR_lt (by decide) (by have := scope_lt sc; omega) (by decide) (by decide) (by decide))
    (by intro h; cases sc <;> exact dec39 (0 : G) (0 : G) (0 : G) (by decide))
theorem Encode.fenceRel (sc : Scope) : Statement (.fenceRel sc) :=
  ofCore rfl (encR_lt (by decide) (by have := scope_lt sc; omega) (by decide) (by decide) (by decide))
    (by intro h; cases sc <;> exact dec39 (0 : G) (0 : G) (0 : G) (by decide))
theorem Encode.fenceFull (sc : Scope) : Statement (.fenceFull sc) :=
  ofCore rfl (encR_lt (by decide) (by have := scope_lt sc; omega) (by decide) (by decide) (by decide))
    (by intro h; cases sc <;> exact dec39 (0 : G) (0 : G) (0 : G) (by decide))
theorem Encode.fenceEng (sc : Scope) : Statement (.fenceEng sc) :=
  ofCore rfl (encR_lt (by decide) (by have := scope_lt sc; omega) (by decide) (by decide) (by decide))
    (by intro h; cases sc <;> exact dec39 (0 : G) (0 : G) (0 : G) (by decide))
theorem Encode.barArrive (sc : Scope) (id : Fin 8) (a : G) : Statement (.barArrive sc id a) :=
  ofCore rfl (encR_lt (by decide) (by have := id.isLt; have := a.isLt; have := scope_lt sc; omega) (by decide) a.isLt (by have := id.isLt; omega))
    (by
    intro h
    have hi := id.isLt
    have e : Fin.ofNat 8 (⟨id.val, by omega⟩ : G).val = id := ofNat_fin id
    cases sc <;> (
      refine (dec3A 0 a ⟨id.val, by omega⟩ (by decide)).trans ?_
      rw [zeroed_of (by show 0 + id.val / 8 = 0; omega), e]
      first | exact checked_of h | exact absurd h (by simp [Instr.wf, barOk])))
theorem Encode.barWait (sc : Scope) (id : Fin 8) : Statement (.barWait sc id) :=
  ofCore rfl (encR_lt (by decide) (by have := id.isLt; have := scope_lt sc; omega) (by decide) (by decide) (by have := id.isLt; omega))
    (by
    intro h
    have hi := id.isLt
    have e : Fin.ofNat 8 (⟨id.val, by omega⟩ : G).val = id := ofNat_fin id
    cases sc <;> (
      refine (dec3A 0 0 ⟨id.val, by omega⟩ (by decide)).trans ?_
      rw [zeroed_of (by show 0 + id.val / 8 = 0; omega), e]
      first | exact checked_of h | exact absurd h (by simp [Instr.wf, barOk])))
theorem Encode.barSync (sc : Scope) (id : Fin 8) (a : G) : Statement (.barSync sc id a) :=
  ofCore rfl (encR_lt (by decide) (by have := id.isLt; have := a.isLt; have := scope_lt sc; omega) (by decide) a.isLt (by have := id.isLt; omega))
    (by
    intro h
    have hi := id.isLt
    have e : Fin.ofNat 8 (⟨id.val, by omega⟩ : G).val = id := ofNat_fin id
    cases sc <;> (
      refine (dec3A 0 a ⟨id.val, by omega⟩ (by decide)).trans ?_
      rw [zeroed_of (by show 0 + id.val / 8 = 0; omega), e]
      first | exact checked_of h | exact absurd h (by simp [Instr.wf, barOk])))
theorem Encode.waitt (ch : Fin 8) (a : G) : Statement (.waitt ch a) :=
  ofCore rfl (encI_lt (by decide) (by have := ch.isLt; omega) (by decide) a.isLt)
    (fun _ => dec3B ch 0 a)
theorem Encode.srr (d : G) (index : BitVec 12) : Statement (.srr d index) :=
  ofCore rfl (encI_lt (by decide) (by have := index.isLt; omega) d.isLt (by decide))
    (fun _ => dec3C index d (0 : G))
theorem Encode.srw (index : BitVec 12) (a : G) : Statement (.srw index a) :=
  ofCore rfl (encI_lt (by decide) (by have := index.isLt; omega) (by decide) a.isLt)
    (fun _ => dec3D index (0 : G) a)
theorem Encode.trap (a : G) : Statement (.trap a) :=
  ofCore rfl (encR_lt (by decide) (by decide) (by decide) a.isLt (by decide))
    (fun _ => dec3E (0 : G) a (0 : G) (by decide))
theorem Encode.eret : Statement .eret :=
  ofCore rfl (encR_lt (by decide) (by decide) (by decide) (by decide) (by decide))
    (fun _ => dec3E (0 : G) (0 : G) (0 : G) (by decide))
theorem Encode.bkpt (a : G) : Statement (.bkpt a) :=
  ofCore rfl (encR_lt (by decide) (by decide) (by decide) a.isLt (by decide))
    (fun _ => dec3E (0 : G) a (0 : G) (by decide))
theorem Encode.report (a : G) (b : G) : Statement (.report a b) :=
  ofCore rfl (encR_lt (by decide) (by decide) (by decide) a.isLt b.isLt)
    (fun _ => dec3E (0 : G) a b (by decide))
theorem Encode.reportRecordWrite (n : Nat) : Statement (.reportRecordWrite n) := ofEvent rfl rfl
theorem Encode.submit (d : G) (a : G) (b : G) : Statement (.submit d a b) :=
  ofCore rfl (encR_lt (by decide) (by decide) d.isLt a.isLt b.isLt)
    (fun _ => dec3E d a b (by decide))
theorem Encode.cpsSrc (a : G) (la : La) : Statement (.cpsSrc a la) :=
  ofCore rfl (encM_lt (by decide) (by decide) la.isLt (by decide) a.isLt (by decide))
    (fun _ => dec40 la (0 : G) a (0 : G) (by decide))
theorem Encode.cpsDst (a : G) (la : La) : Statement (.cpsDst a la) :=
  ofCore rfl (encM_lt (by decide) (by decide) la.isLt (by decide) a.isLt (by decide))
    (fun _ => dec40 la (0 : G) a (0 : G) (by decide))
theorem Encode.cpsSstr (a : G) (la : La) : Statement (.cpsSstr a la) :=
  ofCore rfl (encM_lt (by decide) (by decide) la.isLt (by decide) a.isLt (by decide))
    (fun _ => dec40 la (0 : G) a (0 : G) (by decide))
theorem Encode.cpsDstr (a : G) (la : La) : Statement (.cpsDstr a la) :=
  ofCore rfl (encM_lt (by decide) (by decide) la.isLt (by decide) a.isLt (by decide))
    (fun _ => dec40 la (0 : G) a (0 : G) (by decide))
theorem Encode.cpsShape (a : G) (la : La) : Statement (.cpsShape a la) :=
  ofCore rfl (encM_lt (by decide) (by decide) la.isLt (by decide) a.isLt (by decide))
    (fun _ => dec40 la (0 : G) a (0 : G) (by decide))
theorem Encode.cpsFmt (a : G) (la : La) : Statement (.cpsFmt a la) :=
  ofCore rfl (encM_lt (by decide) (by decide) la.isLt (by decide) a.isLt (by decide))
    (fun _ => dec40 la (0 : G) a (0 : G) (by decide))
theorem Encode.cpsChan (a : G) (la : La) : Statement (.cpsChan a la) :=
  ofCore rfl (encM_lt (by decide) (by decide) la.isLt (by decide) a.isLt (by decide))
    (fun _ => dec40 la (0 : G) a (0 : G) (by decide))
theorem Encode.cpgo (d : G) (la : La) : Statement (.cpgo d la) :=
  ofCore rfl (encM_lt (by decide) (by decide) la.isLt d.isLt (by decide) (by decide))
    (fun _ => dec41 la d (0 : G) (0 : G) (by decide))
theorem Encode.btx (d : G) (a : G) (la : La) : Statement (.btx d a la) :=
  ofCore rfl (encM_lt (by decide) (by decide) la.isLt d.isLt a.isLt (by decide))
    (fun _ => dec42 la d a (0 : G) (by decide))
theorem Encode.qpush (a : G) (la : La) : Statement (.qpush a la) :=
  ofCore rfl (encM_lt (by decide) (by decide) la.isLt (by decide) a.isLt (by decide))
    (fun _ => dec44 la (0 : G) a (0 : G) (by decide))
theorem Encode.qstat (d : G) : Statement (.qstat d) :=
  ofCore rfl (encR_lt (by decide) (by decide) d.isLt (by decide) (by decide))
    (fun _ => dec45 d (0 : G) (0 : G) (by decide))
theorem Encode.qstatClr (d : G) : Statement (.qstatClr d) :=
  ofCore rfl (encR_lt (by decide) (by decide) d.isLt (by decide) (by decide))
    (fun _ => dec45 d (0 : G) (0 : G) (by decide))
theorem Encode.setOpen (d : G) (a : G) (la : La) : Statement (.setOpen d a la) :=
  ofCore rfl (encM_lt (by decide) (by decide) la.isLt d.isLt a.isLt (by decide))
    (fun _ => dec46 la d a (0 : G) (by decide))
theorem Encode.setPut (d : G) (a : G) (b : G) (la : La) : Statement (.setPut d a b la) :=
  ofCore rfl (encM_lt (by decide) (by decide) la.isLt d.isLt a.isLt b.isLt)
    (fun _ => dec46 la d a b (by decide))
theorem Encode.setTake (d : G) (a : G) (la : La) : Statement (.setTake d a la) :=
  ofCore rfl (encM_lt (by decide) (by decide) la.isLt d.isLt a.isLt (by decide))
    (fun _ => dec46 la d a (0 : G) (by decide))
theorem Encode.setClose (d : G) (a : G) (la : La) : Statement (.setClose d a la) :=
  ofCore rfl (encM_lt (by decide) (by decide) la.isLt d.isLt a.isLt (by decide))
    (fun _ => dec46 la d a (0 : G) (by decide))
theorem Encode.setStat (d : G) (la : La) : Statement (.setStat d la) :=
  ofCore rfl (encM_lt (by decide) (by decide) la.isLt d.isLt (by decide) (by decide))
    (fun _ => dec46 la d (0 : G) (0 : G) (by decide))
theorem Encode.faddD (d : G) (a : G) (b : G) : Statement (.faddD d a b) :=
  ofCore rfl (encR_lt (by decide) (by decide) d.isLt a.isLt b.isLt)
    (fun _ => dec50 d a b (by decide))
theorem Encode.fsubD (d : G) (a : G) (b : G) : Statement (.fsubD d a b) :=
  ofCore rfl (encR_lt (by decide) (by decide) d.isLt a.isLt b.isLt)
    (fun _ => dec50 d a b (by decide))
theorem Encode.fmulD (d : G) (a : G) (b : G) : Statement (.fmulD d a b) :=
  ofCore rfl (encR_lt (by decide) (by decide) d.isLt a.isLt b.isLt)
    (fun _ => dec50 d a b (by decide))
theorem Encode.fdivD (d : G) (a : G) (b : G) : Statement (.fdivD d a b) :=
  ofCore rfl (encR_lt (by decide) (by decide) d.isLt a.isLt b.isLt)
    (fun _ => dec50 d a b (by decide))
theorem Encode.fsqrtD (d : G) (a : G) : Statement (.fsqrtD d a) :=
  ofCore rfl (encR_lt (by decide) (by decide) d.isLt a.isLt (by decide))
    (fun _ => dec50 d a (0 : G) (by decide))
theorem Encode.fminD (d : G) (a : G) (b : G) : Statement (.fminD d a b) :=
  ofCore rfl (encR_lt (by decide) (by decide) d.isLt a.isLt b.isLt)
    (fun _ => dec50 d a b (by decide))
theorem Encode.fmaxD (d : G) (a : G) (b : G) : Statement (.fmaxD d a b) :=
  ofCore rfl (encR_lt (by decide) (by decide) d.isLt a.isLt b.isLt)
    (fun _ => dec50 d a b (by decide))
theorem Encode.fsgnjD (d : G) (a : G) (b : G) : Statement (.fsgnjD d a b) :=
  ofCore rfl (encR_lt (by decide) (by decide) d.isLt a.isLt b.isLt)
    (fun _ => dec50 d a b (by decide))
theorem Encode.fsgnjnD (d : G) (a : G) (b : G) : Statement (.fsgnjnD d a b) :=
  ofCore rfl (encR_lt (by decide) (by decide) d.isLt a.isLt b.isLt)
    (fun _ => dec50 d a b (by decide))
theorem Encode.fsgnjxD (d : G) (a : G) (b : G) : Statement (.fsgnjxD d a b) :=
  ofCore rfl (encR_lt (by decide) (by decide) d.isLt a.isLt b.isLt)
    (fun _ => dec50 d a b (by decide))
theorem Encode.fclassD (d : G) (a : G) : Statement (.fclassD d a) :=
  ofCore rfl (encR_lt (by decide) (by decide) d.isLt a.isLt (by decide))
    (fun _ => dec50 d a (0 : G) (by decide))
theorem Encode.feqD (d : G) (a : G) (b : G) : Statement (.feqD d a b) :=
  ofCore rfl (encR_lt (by decide) (by decide) d.isLt a.isLt b.isLt)
    (fun _ => dec50 d a b (by decide))
theorem Encode.fltD (d : G) (a : G) (b : G) : Statement (.fltD d a b) :=
  ofCore rfl (encR_lt (by decide) (by decide) d.isLt a.isLt b.isLt)
    (fun _ => dec50 d a b (by decide))
theorem Encode.fleD (d : G) (a : G) (b : G) : Statement (.fleD d a b) :=
  ofCore rfl (encR_lt (by decide) (by decide) d.isLt a.isLt b.isLt)
    (fun _ => dec50 d a b (by decide))
theorem Encode.faddS (d : G) (a : G) (b : G) : Statement (.faddS d a b) :=
  ofCore rfl (encR_lt (by decide) (by decide) d.isLt a.isLt b.isLt)
    (fun _ => dec51 d a b (by decide))
theorem Encode.fsubS (d : G) (a : G) (b : G) : Statement (.fsubS d a b) :=
  ofCore rfl (encR_lt (by decide) (by decide) d.isLt a.isLt b.isLt)
    (fun _ => dec51 d a b (by decide))
theorem Encode.fmulS (d : G) (a : G) (b : G) : Statement (.fmulS d a b) :=
  ofCore rfl (encR_lt (by decide) (by decide) d.isLt a.isLt b.isLt)
    (fun _ => dec51 d a b (by decide))
theorem Encode.fdivS (d : G) (a : G) (b : G) : Statement (.fdivS d a b) :=
  ofCore rfl (encR_lt (by decide) (by decide) d.isLt a.isLt b.isLt)
    (fun _ => dec51 d a b (by decide))
theorem Encode.fsqrtS (d : G) (a : G) : Statement (.fsqrtS d a) :=
  ofCore rfl (encR_lt (by decide) (by decide) d.isLt a.isLt (by decide))
    (fun _ => dec51 d a (0 : G) (by decide))
theorem Encode.fminS (d : G) (a : G) (b : G) : Statement (.fminS d a b) :=
  ofCore rfl (encR_lt (by decide) (by decide) d.isLt a.isLt b.isLt)
    (fun _ => dec51 d a b (by decide))
theorem Encode.fmaxS (d : G) (a : G) (b : G) : Statement (.fmaxS d a b) :=
  ofCore rfl (encR_lt (by decide) (by decide) d.isLt a.isLt b.isLt)
    (fun _ => dec51 d a b (by decide))
theorem Encode.fsgnjS (d : G) (a : G) (b : G) : Statement (.fsgnjS d a b) :=
  ofCore rfl (encR_lt (by decide) (by decide) d.isLt a.isLt b.isLt)
    (fun _ => dec51 d a b (by decide))
theorem Encode.fsgnjnS (d : G) (a : G) (b : G) : Statement (.fsgnjnS d a b) :=
  ofCore rfl (encR_lt (by decide) (by decide) d.isLt a.isLt b.isLt)
    (fun _ => dec51 d a b (by decide))
theorem Encode.fsgnjxS (d : G) (a : G) (b : G) : Statement (.fsgnjxS d a b) :=
  ofCore rfl (encR_lt (by decide) (by decide) d.isLt a.isLt b.isLt)
    (fun _ => dec51 d a b (by decide))
theorem Encode.fclassS (d : G) (a : G) : Statement (.fclassS d a) :=
  ofCore rfl (encR_lt (by decide) (by decide) d.isLt a.isLt (by decide))
    (fun _ => dec51 d a (0 : G) (by decide))
theorem Encode.feqS (d : G) (a : G) (b : G) : Statement (.feqS d a b) :=
  ofCore rfl (encR_lt (by decide) (by decide) d.isLt a.isLt b.isLt)
    (fun _ => dec51 d a b (by decide))
theorem Encode.fltS (d : G) (a : G) (b : G) : Statement (.fltS d a b) :=
  ofCore rfl (encR_lt (by decide) (by decide) d.isLt a.isLt b.isLt)
    (fun _ => dec51 d a b (by decide))
theorem Encode.fleS (d : G) (a : G) (b : G) : Statement (.fleS d a b) :=
  ofCore rfl (encR_lt (by decide) (by decide) d.isLt a.isLt b.isLt)
    (fun _ => dec51 d a b (by decide))
theorem Encode.fmaD (d : G) (a : G) (b : G) (c : G) : Statement (.fmaD d a b c) :=
  ofCore rfl (encF4_lt (by decide) (by decide) d.isLt a.isLt b.isLt c.isLt)
    (fun _ => dec53 d a b c (by decide))
theorem Encode.fmsD (d : G) (a : G) (b : G) (c : G) : Statement (.fmsD d a b c) :=
  ofCore rfl (encF4_lt (by decide) (by decide) d.isLt a.isLt b.isLt c.isLt)
    (fun _ => dec53 d a b c (by decide))
theorem Encode.fmaS (d : G) (a : G) (b : G) (c : G) : Statement (.fmaS d a b c) :=
  ofCore rfl (encF4_lt (by decide) (by decide) d.isLt a.isLt b.isLt c.isLt)
    (fun _ => dec54 d a b c (by decide))
theorem Encode.fmsS (d : G) (a : G) (b : G) (c : G) : Statement (.fmsS d a b c) :=
  ofCore rfl (encF4_lt (by decide) (by decide) d.isLt a.isLt b.isLt c.isLt)
    (fun _ => dec54 d a b c (by decide))
theorem Encode.fcvt (d : G) (a : G) (rtz : Bool) (dst : NumTy) (src : NumTy) : Statement (.fcvt d a rtz dst src) :=
  ofCore rfl (encR_lt (by decide) (by have := d.isLt; have := a.isLt; have : rtz.toNat < 2 := (by cases rtz <;> decide); have := numTy_lt dst; have := numTy_lt src; omega) d.isLt a.isLt (by decide))
    (by intro h; cases dst <;> cases src <;> cases rtz <;> exact (dec55 d a (0 : G) (by decide)).trans (checked_of h))
theorem Encode.vld (d : V) (a : G) (imm : BitVec 8) (sz : Width) (la : La) : Statement (.vld d a imm sz la) :=
  ofCore rfl (encVM_lt (by decide) (by have := d.isLt; have := a.isLt; have := imm.isLt; have := la.isLt; have := width_lt sz; omega) la.isLt imm.isLt a.isLt d.isLt)
    (by intro h; cases sz <;> exact dec60 la imm a d (by decide))
theorem Encode.vst (d : V) (a : G) (imm : BitVec 8) (sz : Width) (la : La) : Statement (.vst d a imm sz la) :=
  ofCore rfl (encVM_lt (by decide) (by have := d.isLt; have := a.isLt; have := imm.isLt; have := la.isLt; have := width_lt sz; omega) la.isLt imm.isLt a.isLt d.isLt)
    (by intro h; cases sz <;> exact dec61 la imm a d (by decide))
theorem Encode.vlds (d : V) (a : G) (b : G) (k : K) (la : La) : Statement (.vlds d a b k la) :=
  ofCore rfl (encVS_lt (by decide) k.isLt la.isLt b.isLt a.isLt d.isLt)
    (fun _ => dec62 k la b a d)
theorem Encode.vsts (d : V) (a : G) (b : G) (k : K) (la : La) : Statement (.vsts d a b k la) :=
  ofCore rfl (encVS_lt (by decide) k.isLt la.isLt b.isLt a.isLt d.isLt)
    (fun _ => dec63 k la b a d)
theorem Encode.vgth (d : V) (a : G) (b : V) (k : K) (la : La) : Statement (.vgth d a b k la) :=
  ofCore rfl (encVS_lt (by decide) k.isLt la.isLt (by have := b.isLt; omega) a.isLt d.isLt)
    (fun _ => dec64 k la b a d)
theorem Encode.vsct (d : V) (a : G) (b : V) (k : K) (la : La) : Statement (.vsct d a b k la) :=
  ofCore rfl (encVS_lt (by decide) k.isLt la.isLt (by have := b.isLt; omega) a.isLt d.isLt)
    (fun _ => dec65 k la b a d)
theorem Encode.vfaddD (d : V) (a : V) (b : V) (k : K) : Statement (.vfaddD d a b k) :=
  ofCore rfl (encV_lt (by decide) (by decide) k.isLt d.isLt a.isLt b.isLt)
    (fun _ => dec66 k d a b (by decide))
theorem Encode.vfsubD (d : V) (a : V) (b : V) (k : K) : Statement (.vfsubD d a b k) :=
  ofCore rfl (encV_lt (by decide) (by decide) k.isLt d.isLt a.isLt b.isLt)
    (fun _ => dec66 k d a b (by decide))
theorem Encode.vfmulD (d : V) (a : V) (b : V) (k : K) : Statement (.vfmulD d a b k) :=
  ofCore rfl (encV_lt (by decide) (by decide) k.isLt d.isLt a.isLt b.isLt)
    (fun _ => dec66 k d a b (by decide))
theorem Encode.vfdivD (d : V) (a : V) (b : V) (k : K) : Statement (.vfdivD d a b k) :=
  ofCore rfl (encV_lt (by decide) (by decide) k.isLt d.isLt a.isLt b.isLt)
    (fun _ => dec66 k d a b (by decide))
theorem Encode.vfsqrtD (d : V) (a : V) (k : K) : Statement (.vfsqrtD d a k) :=
  ofCore rfl (encV_lt (by decide) (by decide) k.isLt d.isLt a.isLt (by decide))
    (fun _ => dec66 k d a (0 : V) (by decide))
theorem Encode.vfminD (d : V) (a : V) (b : V) (k : K) : Statement (.vfminD d a b k) :=
  ofCore rfl (encV_lt (by decide) (by decide) k.isLt d.isLt a.isLt b.isLt)
    (fun _ => dec66 k d a b (by decide))
theorem Encode.vfmaxD (d : V) (a : V) (b : V) (k : K) : Statement (.vfmaxD d a b k) :=
  ofCore rfl (encV_lt (by decide) (by decide) k.isLt d.isLt a.isLt b.isLt)
    (fun _ => dec66 k d a b (by decide))
theorem Encode.vfsgnjD (d : V) (a : V) (b : V) (k : K) : Statement (.vfsgnjD d a b k) :=
  ofCore rfl (encV_lt (by decide) (by decide) k.isLt d.isLt a.isLt b.isLt)
    (fun _ => dec66 k d a b (by decide))
theorem Encode.vfsgnjnD (d : V) (a : V) (b : V) (k : K) : Statement (.vfsgnjnD d a b k) :=
  ofCore rfl (encV_lt (by decide) (by decide) k.isLt d.isLt a.isLt b.isLt)
    (fun _ => dec66 k d a b (by decide))
theorem Encode.vfsgnjxD (d : V) (a : V) (b : V) (k : K) : Statement (.vfsgnjxD d a b k) :=
  ofCore rfl (encV_lt (by decide) (by decide) k.isLt d.isLt a.isLt b.isLt)
    (fun _ => dec66 k d a b (by decide))
theorem Encode.vfclassD (d : V) (a : V) (k : K) : Statement (.vfclassD d a k) :=
  ofCore rfl (encV_lt (by decide) (by decide) k.isLt d.isLt a.isLt (by decide))
    (fun _ => dec66 k d a (0 : V) (by decide))
theorem Encode.vfaddS (d : V) (a : V) (b : V) (k : K) : Statement (.vfaddS d a b k) :=
  ofCore rfl (encV_lt (by decide) (by decide) k.isLt d.isLt a.isLt b.isLt)
    (fun _ => dec67 k d a b (by decide))
theorem Encode.vfsubS (d : V) (a : V) (b : V) (k : K) : Statement (.vfsubS d a b k) :=
  ofCore rfl (encV_lt (by decide) (by decide) k.isLt d.isLt a.isLt b.isLt)
    (fun _ => dec67 k d a b (by decide))
theorem Encode.vfmulS (d : V) (a : V) (b : V) (k : K) : Statement (.vfmulS d a b k) :=
  ofCore rfl (encV_lt (by decide) (by decide) k.isLt d.isLt a.isLt b.isLt)
    (fun _ => dec67 k d a b (by decide))
theorem Encode.vfdivS (d : V) (a : V) (b : V) (k : K) : Statement (.vfdivS d a b k) :=
  ofCore rfl (encV_lt (by decide) (by decide) k.isLt d.isLt a.isLt b.isLt)
    (fun _ => dec67 k d a b (by decide))
theorem Encode.vfsqrtS (d : V) (a : V) (k : K) : Statement (.vfsqrtS d a k) :=
  ofCore rfl (encV_lt (by decide) (by decide) k.isLt d.isLt a.isLt (by decide))
    (fun _ => dec67 k d a (0 : V) (by decide))
theorem Encode.vfminS (d : V) (a : V) (b : V) (k : K) : Statement (.vfminS d a b k) :=
  ofCore rfl (encV_lt (by decide) (by decide) k.isLt d.isLt a.isLt b.isLt)
    (fun _ => dec67 k d a b (by decide))
theorem Encode.vfmaxS (d : V) (a : V) (b : V) (k : K) : Statement (.vfmaxS d a b k) :=
  ofCore rfl (encV_lt (by decide) (by decide) k.isLt d.isLt a.isLt b.isLt)
    (fun _ => dec67 k d a b (by decide))
theorem Encode.vfsgnjS (d : V) (a : V) (b : V) (k : K) : Statement (.vfsgnjS d a b k) :=
  ofCore rfl (encV_lt (by decide) (by decide) k.isLt d.isLt a.isLt b.isLt)
    (fun _ => dec67 k d a b (by decide))
theorem Encode.vfsgnjnS (d : V) (a : V) (b : V) (k : K) : Statement (.vfsgnjnS d a b k) :=
  ofCore rfl (encV_lt (by decide) (by decide) k.isLt d.isLt a.isLt b.isLt)
    (fun _ => dec67 k d a b (by decide))
theorem Encode.vfsgnjxS (d : V) (a : V) (b : V) (k : K) : Statement (.vfsgnjxS d a b k) :=
  ofCore rfl (encV_lt (by decide) (by decide) k.isLt d.isLt a.isLt b.isLt)
    (fun _ => dec67 k d a b (by decide))
theorem Encode.vfclassS (d : V) (a : V) (k : K) : Statement (.vfclassS d a k) :=
  ofCore rfl (encV_lt (by decide) (by decide) k.isLt d.isLt a.isLt (by decide))
    (fun _ => dec67 k d a (0 : V) (by decide))
theorem Encode.vfmaD (d : V) (a : V) (b : V) (c : V) (k : K) : Statement (.vfmaD d a b c k) :=
  ofCore rfl (encVF4_lt (by decide) (by decide) k.isLt d.isLt a.isLt b.isLt c.isLt)
    (fun _ => dec68 k d a b c (by decide))
theorem Encode.vfmsD (d : V) (a : V) (b : V) (c : V) (k : K) : Statement (.vfmsD d a b c k) :=
  ofCore rfl (encVF4_lt (by decide) (by decide) k.isLt d.isLt a.isLt b.isLt c.isLt)
    (fun _ => dec68 k d a b c (by decide))
theorem Encode.vfnmaD (d : V) (a : V) (b : V) (c : V) (k : K) : Statement (.vfnmaD d a b c k) :=
  ofCore rfl (encVF4_lt (by decide) (by decide) k.isLt d.isLt a.isLt b.isLt c.isLt)
    (fun _ => dec68 k d a b c (by decide))
theorem Encode.vfnmsD (d : V) (a : V) (b : V) (c : V) (k : K) : Statement (.vfnmsD d a b c k) :=
  ofCore rfl (encVF4_lt (by decide) (by decide) k.isLt d.isLt a.isLt b.isLt c.isLt)
    (fun _ => dec68 k d a b c (by decide))
theorem Encode.vfmaS (d : V) (a : V) (b : V) (c : V) (k : K) : Statement (.vfmaS d a b c k) :=
  ofCore rfl (encVF4_lt (by decide) (by decide) k.isLt d.isLt a.isLt b.isLt c.isLt)
    (fun _ => dec69 k d a b c (by decide))
theorem Encode.vfmsS (d : V) (a : V) (b : V) (c : V) (k : K) : Statement (.vfmsS d a b c k) :=
  ofCore rfl (encVF4_lt (by decide) (by decide) k.isLt d.isLt a.isLt b.isLt c.isLt)
    (fun _ => dec69 k d a b c (by decide))
theorem Encode.vfnmaS (d : V) (a : V) (b : V) (c : V) (k : K) : Statement (.vfnmaS d a b c k) :=
  ofCore rfl (encVF4_lt (by decide) (by decide) k.isLt d.isLt a.isLt b.isLt c.isLt)
    (fun _ => dec69 k d a b c (by decide))
theorem Encode.vfnmsS (d : V) (a : V) (b : V) (c : V) (k : K) : Statement (.vfnmsS d a b c k) :=
  ofCore rfl (encVF4_lt (by decide) (by decide) k.isLt d.isLt a.isLt b.isLt c.isLt)
    (fun _ => dec69 k d a b c (by decide))
theorem Encode.vadd (d : V) (a : V) (b : V) (wc : Width) (k : K) : Statement (.vadd d a b wc k) :=
  ofCore rfl (encV_lt (by decide) (by have := d.isLt; have := a.isLt; have := b.isLt; have := k.isLt; have := width_lt wc; omega) k.isLt d.isLt a.isLt b.isLt)
    (by intro h; cases wc <;> exact dec6A k d a b (by decide))
theorem Encode.vsub (d : V) (a : V) (b : V) (wc : Width) (k : K) : Statement (.vsub d a b wc k) :=
  ofCore rfl (encV_lt (by decide) (by have := d.isLt; have := a.isLt; have := b.isLt; have := k.isLt; have := width_lt wc; omega) k.isLt d.isLt a.isLt b.isLt)
    (by intro h; cases wc <;> exact dec6A k d a b (by decide))
theorem Encode.vadds (d : V) (a : V) (b : V) (wc : Width) (k : K) : Statement (.vadds d a b wc k) :=
  ofCore rfl (encV_lt (by decide) (by have := d.isLt; have := a.isLt; have := b.isLt; have := k.isLt; have := width_lt wc; omega) k.isLt d.isLt a.isLt b.isLt)
    (by intro h; cases wc <;> exact dec6A k d a b (by decide))
theorem Encode.vaddus (d : V) (a : V) (b : V) (wc : Width) (k : K) : Statement (.vaddus d a b wc k) :=
  ofCore rfl (encV_lt (by decide) (by have := d.isLt; have := a.isLt; have := b.isLt; have := k.isLt; have := width_lt wc; omega) k.isLt d.isLt a.isLt b.isLt)
    (by intro h; cases wc <;> exact dec6A k d a b (by decide))
theorem Encode.vsubs (d : V) (a : V) (b : V) (wc : Width) (k : K) : Statement (.vsubs d a b wc k) :=
  ofCore rfl (encV_lt (by decide) (by have := d.isLt; have := a.isLt; have := b.isLt; have := k.isLt; have := width_lt wc; omega) k.isLt d.isLt a.isLt b.isLt)
    (by intro h; cases wc <;> exact dec6A k d a b (by decide))
theorem Encode.vsubus (d : V) (a : V) (b : V) (wc : Width) (k : K) : Statement (.vsubus d a b wc k) :=
  ofCore rfl (encV_lt (by decide) (by have := d.isLt; have := a.isLt; have := b.isLt; have := k.isLt; have := width_lt wc; omega) k.isLt d.isLt a.isLt b.isLt)
    (by intro h; cases wc <;> exact dec6A k d a b (by decide))
theorem Encode.vmul (d : V) (a : V) (b : V) (wc : Width) (k : K) : Statement (.vmul d a b wc k) :=
  ofCore rfl (encV_lt (by decide) (by have := d.isLt; have := a.isLt; have := b.isLt; have := k.isLt; have := width_lt wc; omega) k.isLt d.isLt a.isLt b.isLt)
    (by intro h; cases wc <;> exact dec6A k d a b (by decide))
theorem Encode.vmulh (d : V) (a : V) (b : V) (wc : Width) (k : K) : Statement (.vmulh d a b wc k) :=
  ofCore rfl (encV_lt (by decide) (by have := d.isLt; have := a.isLt; have := b.isLt; have := k.isLt; have := width_lt wc; omega) k.isLt d.isLt a.isLt b.isLt)
    (by intro h; cases wc <;> exact dec6A k d a b (by decide))
theorem Encode.vmulhu (d : V) (a : V) (b : V) (wc : Width) (k : K) : Statement (.vmulhu d a b wc k) :=
  ofCore rfl (encV_lt (by decide) (by have := d.isLt; have := a.isLt; have := b.isLt; have := k.isLt; have := width_lt wc; omega) k.isLt d.isLt a.isLt b.isLt)
    (by intro h; cases wc <;> exact dec6A k d a b (by decide))
theorem Encode.vand (d : V) (a : V) (b : V) (wc : Width) (k : K) : Statement (.vand d a b wc k) :=
  ofCore rfl (encV_lt (by decide) (by have := d.isLt; have := a.isLt; have := b.isLt; have := k.isLt; have := width_lt wc; omega) k.isLt d.isLt a.isLt b.isLt)
    (by intro h; cases wc <;> exact dec6A k d a b (by decide))
theorem Encode.vor (d : V) (a : V) (b : V) (wc : Width) (k : K) : Statement (.vor d a b wc k) :=
  ofCore rfl (encV_lt (by decide) (by have := d.isLt; have := a.isLt; have := b.isLt; have := k.isLt; have := width_lt wc; omega) k.isLt d.isLt a.isLt b.isLt)
    (by intro h; cases wc <;> exact dec6A k d a b (by decide))
theorem Encode.vxor (d : V) (a : V) (b : V) (wc : Width) (k : K) : Statement (.vxor d a b wc k) :=
  ofCore rfl (encV_lt (by decide) (by have := d.isLt; have := a.isLt; have := b.isLt; have := k.isLt; have := width_lt wc; omega) k.isLt d.isLt a.isLt b.isLt)
    (by intro h; cases wc <;> exact dec6A k d a b (by decide))
theorem Encode.vsll (d : V) (a : V) (b : V) (wc : Width) (k : K) : Statement (.vsll d a b wc k) :=
  ofCore rfl (encV_lt (by decide) (by have := d.isLt; have := a.isLt; have := b.isLt; have := k.isLt; have := width_lt wc; omega) k.isLt d.isLt a.isLt b.isLt)
    (by intro h; cases wc <;> exact dec6A k d a b (by decide))
theorem Encode.vsrl (d : V) (a : V) (b : V) (wc : Width) (k : K) : Statement (.vsrl d a b wc k) :=
  ofCore rfl (encV_lt (by decide) (by have := d.isLt; have := a.isLt; have := b.isLt; have := k.isLt; have := width_lt wc; omega) k.isLt d.isLt a.isLt b.isLt)
    (by intro h; cases wc <;> exact dec6A k d a b (by decide))
theorem Encode.vsra (d : V) (a : V) (b : V) (wc : Width) (k : K) : Statement (.vsra d a b wc k) :=
  ofCore rfl (encV_lt (by decide) (by have := d.isLt; have := a.isLt; have := b.isLt; have := k.isLt; have := width_lt wc; omega) k.isLt d.isLt a.isLt b.isLt)
    (by intro h; cases wc <;> exact dec6A k d a b (by decide))
theorem Encode.vmin (d : V) (a : V) (b : V) (wc : Width) (k : K) : Statement (.vmin d a b wc k) :=
  ofCore rfl (encV_lt (by decide) (by have := d.isLt; have := a.isLt; have := b.isLt; have := k.isLt; have := width_lt wc; omega) k.isLt d.isLt a.isLt b.isLt)
    (by intro h; cases wc <;> exact dec6A k d a b (by decide))
theorem Encode.vmax (d : V) (a : V) (b : V) (wc : Width) (k : K) : Statement (.vmax d a b wc k) :=
  ofCore rfl (encV_lt (by decide) (by have := d.isLt; have := a.isLt; have := b.isLt; have := k.isLt; have := width_lt wc; omega) k.isLt d.isLt a.isLt b.isLt)
    (by intro h; cases wc <;> exact dec6A k d a b (by decide))
theorem Encode.vminu (d : V) (a : V) (b : V) (wc : Width) (k : K) : Statement (.vminu d a b wc k) :=
  ofCore rfl (encV_lt (by decide) (by have := d.isLt; have := a.isLt; have := b.isLt; have := k.isLt; have := width_lt wc; omega) k.isLt d.isLt a.isLt b.isLt)
    (by intro h; cases wc <;> exact dec6A k d a b (by decide))
theorem Encode.vmaxu (d : V) (a : V) (b : V) (wc : Width) (k : K) : Statement (.vmaxu d a b wc k) :=
  ofCore rfl (encV_lt (by decide) (by have := d.isLt; have := a.isLt; have := b.isLt; have := k.isLt; have := width_lt wc; omega) k.isLt d.isLt a.isLt b.isLt)
    (by intro h; cases wc <;> exact dec6A k d a b (by decide))
theorem Encode.vabs (d : V) (a : V) (wc : Width) (k : K) : Statement (.vabs d a wc k) :=
  ofCore rfl (encV_lt (by decide) (by have := d.isLt; have := a.isLt; have := k.isLt; have := width_lt wc; omega) k.isLt d.isLt a.isLt (by decide))
    (by intro h; cases wc <;> exact dec6A k d a (0 : V) (by decide))
theorem Encode.vcmp (kd : K) (a : V) (b : V) (cond : Fin 6) (ty : CmpTy) (any : Bool) (k : K) : Statement (.vcmp kd a b cond ty any k) :=
  ofCore rfl (encV_lt (by decide) (by have := kd.isLt; have := a.isLt; have := b.isLt; have := cond.isLt; have := k.isLt; have := cmpTy_lt ty; have : any.toNat < 2 := (by cases any <;> decide); omega) k.isLt (by have := kd.isLt; omega) a.isLt b.isLt)
    (by
    intro h
    have h1 := cmpTy_lt ty; have h2 := cond.isLt; have h3 : any.toNat < 2 := (by cases any <;> decide)
    exact (dec6B k (kv kd) a b (by omega)).trans (vcmp_fields kd a b cond ty any k h))
theorem Encode.vsel (d : V) (a : V) (b : V) (k : K) : Statement (.vsel d a b k) :=
  ofCore rfl (encV_lt (by decide) (by decide) k.isLt d.isLt a.isLt b.isLt)
    (fun _ => dec6C k d a b (by decide))
theorem Encode.vredFadd (d : V) (a : V) (wc : Width) (k : K) : Statement (.vredFadd d a wc k) :=
  ofCore rfl (encV_lt (by decide) (by have := d.isLt; have := a.isLt; have := k.isLt; have := width_lt wc; omega) k.isLt d.isLt a.isLt (by decide))
    (by intro h; cases wc <;> exact (dec6D k d a (0 : V) (by decide)).trans (checked_of h))
theorem Encode.vredFmin (d : V) (a : V) (wc : Width) (k : K) : Statement (.vredFmin d a wc k) :=
  ofCore rfl (encV_lt (by decide) (by have := d.isLt; have := a.isLt; have := k.isLt; have := width_lt wc; omega) k.isLt d.isLt a.isLt (by decide))
    (by intro h; cases wc <;> exact (dec6D k d a (0 : V) (by decide)).trans (checked_of h))
theorem Encode.vredFmax (d : V) (a : V) (wc : Width) (k : K) : Statement (.vredFmax d a wc k) :=
  ofCore rfl (encV_lt (by decide) (by have := d.isLt; have := a.isLt; have := k.isLt; have := width_lt wc; omega) k.isLt d.isLt a.isLt (by decide))
    (by intro h; cases wc <;> exact (dec6D k d a (0 : V) (by decide)).trans (checked_of h))
theorem Encode.vredAdd (d : V) (a : V) (wc : Width) (k : K) : Statement (.vredAdd d a wc k) :=
  ofCore rfl (encV_lt (by decide) (by have := d.isLt; have := a.isLt; have := k.isLt; have := width_lt wc; omega) k.isLt d.isLt a.isLt (by decide))
    (by intro h; cases wc <;> exact (dec6D k d a (0 : V) (by decide)).trans (checked_of h))
theorem Encode.vredAnd (d : V) (a : V) (wc : Width) (k : K) : Statement (.vredAnd d a wc k) :=
  ofCore rfl (encV_lt (by decide) (by have := d.isLt; have := a.isLt; have := k.isLt; have := width_lt wc; omega) k.isLt d.isLt a.isLt (by decide))
    (by intro h; cases wc <;> exact (dec6D k d a (0 : V) (by decide)).trans (checked_of h))
theorem Encode.vredOr (d : V) (a : V) (wc : Width) (k : K) : Statement (.vredOr d a wc k) :=
  ofCore rfl (encV_lt (by decide) (by have := d.isLt; have := a.isLt; have := k.isLt; have := width_lt wc; omega) k.isLt d.isLt a.isLt (by decide))
    (by intro h; cases wc <;> exact (dec6D k d a (0 : V) (by decide)).trans (checked_of h))
theorem Encode.vredXor (d : V) (a : V) (wc : Width) (k : K) : Statement (.vredXor d a wc k) :=
  ofCore rfl (encV_lt (by decide) (by have := d.isLt; have := a.isLt; have := k.isLt; have := width_lt wc; omega) k.isLt d.isLt a.isLt (by decide))
    (by intro h; cases wc <;> exact (dec6D k d a (0 : V) (by decide)).trans (checked_of h))
theorem Encode.vredMin (d : V) (a : V) (wc : Width) (k : K) : Statement (.vredMin d a wc k) :=
  ofCore rfl (encV_lt (by decide) (by have := d.isLt; have := a.isLt; have := k.isLt; have := width_lt wc; omega) k.isLt d.isLt a.isLt (by decide))
    (by intro h; cases wc <;> exact (dec6D k d a (0 : V) (by decide)).trans (checked_of h))
theorem Encode.vredMax (d : V) (a : V) (wc : Width) (k : K) : Statement (.vredMax d a wc k) :=
  ofCore rfl (encV_lt (by decide) (by have := d.isLt; have := a.isLt; have := k.isLt; have := width_lt wc; omega) k.isLt d.isLt a.isLt (by decide))
    (by intro h; cases wc <;> exact (dec6D k d a (0 : V) (by decide)).trans (checked_of h))
theorem Encode.vredMinu (d : V) (a : V) (wc : Width) (k : K) : Statement (.vredMinu d a wc k) :=
  ofCore rfl (encV_lt (by decide) (by have := d.isLt; have := a.isLt; have := k.isLt; have := width_lt wc; omega) k.isLt d.isLt a.isLt (by decide))
    (by intro h; cases wc <;> exact (dec6D k d a (0 : V) (by decide)).trans (checked_of h))
theorem Encode.vredMaxu (d : V) (a : V) (wc : Width) (k : K) : Statement (.vredMaxu d a wc k) :=
  ofCore rfl (encV_lt (by decide) (by have := d.isLt; have := a.isLt; have := k.isLt; have := width_lt wc; omega) k.isLt d.isLt a.isLt (by decide))
    (by intro h; cases wc <;> exact (dec6D k d a (0 : V) (by decide)).trans (checked_of h))
theorem Encode.splat (d : V) (g : G) (wc : Width) (k : K) : Statement (.splat d g wc k) :=
  ofCore rfl (encVX_lt (by decide) (by have := d.isLt; have := g.isLt; have := k.isLt; have := width_lt wc; omega) k.isLt g.isLt (by decide) d.isLt)
    (by intro h; cases wc <;> exact dec6E k g (0 : Fin 16) d (by decide))
theorem Encode.extr (g : G) (v : V) (idx : Fin 16) (wc : Width) : Statement (.extr g v idx wc) :=
  ofCore rfl (encVX_lt (by decide) (by have := g.isLt; have := v.isLt; have := idx.isLt; have := width_lt wc; omega) (by decide) g.isLt idx.isLt v.isLt)
    (by intro h; cases wc <;> exact (dec6E (0 : K) g idx v (by decide)).trans (checked_of h))
theorem Encode.ins (v : V) (g : G) (idx : Fin 16) (wc : Width) : Statement (.ins v g idx wc) :=
  ofCore rfl (encVX_lt (by decide) (by have := v.isLt; have := g.isLt; have := idx.isLt; have := width_lt wc; omega) (by decide) g.isLt idx.isLt v.isLt)
    (by intro h; cases wc <;> exact (dec6E (0 : K) g idx v (by decide)).trans (checked_of h))
theorem Encode.extrK (g : G) (kd : K) : Statement (.extrK g kd) :=
  ofCore rfl (encVX_lt (by decide) (by decide) (by decide) g.isLt (by decide) (by have := kd.isLt; omega))
    (by
    intro h
    have h1 := kd.isLt
    refine (dec6E (fn := 12) 0 g 0 (kv kd) (by decide)).trans ?_
    show zeroed (0 + 0 + kd.val / 8) (some (.extrK g (Fin.ofNat 8 kd.val))) = _
    rw [zeroed_of (by omega), ofNat_fin kd])
theorem Encode.insK (kd : K) (g : G) : Statement (.insK kd g) :=
  ofCore rfl (encVX_lt (by decide) (by decide) (by decide) g.isLt (by decide) (by have := kd.isLt; omega))
    (by
    intro h
    have h1 := kd.isLt
    refine (dec6E (fn := 13) 0 g 0 (kv kd) (by decide)).trans ?_
    show zeroed (0 + 0 + kd.val / 8) (checked (.insK (Fin.ofNat 8 kd.val) g)) = _
    rw [zeroed_of (by omega), ofNat_fin kd]; exact checked_of h)
theorem Encode.vperm (d : V) (a : V) (b : V) (wc : Width) (k : K) : Statement (.vperm d a b wc k) :=
  ofCore rfl (encV_lt (by decide) (by have := d.isLt; have := a.isLt; have := b.isLt; have := k.isLt; have := width_lt wc; omega) k.isLt d.isLt a.isLt b.isLt)
    (by intro h; cases wc <;> exact dec6F k d a b (by decide))
theorem Encode.vcvt (d : V) (a : V) (rtz : Bool) (dst : NumTy) (src : NumTy) (k : K) : Statement (.vcvt d a rtz dst src k) :=
  ofCore rfl (encV_lt (by decide) (by have := d.isLt; have := a.isLt; have := k.isLt; have : rtz.toNat < 2 := (by cases rtz <;> decide); have := numTy_lt dst; have := numTy_lt src; omega) k.isLt d.isLt a.isLt (by decide))
    (by intro h; cases dst <;> cases src <;> cases rtz <;> exact (dec70 k d a (0 : V) (by decide)).trans (checked_of h))
theorem Encode.kand (kd : K) (ka : K) (kb : K) : Statement (.kand kd ka kb) :=
  ofCore rfl (encV_lt (by decide) (by decide) (by decide) (by have := kd.isLt; omega) (by have := ka.isLt; omega) (by have := kb.isLt; omega))
    (fun h => (dec71 0 (kv kd) (kv ka) (kv kb) (by decide)).trans (kop_fields kd ka kb 0 .kand h (by decide) fun _ _ _ => rfl))
theorem Encode.kor (kd : K) (ka : K) (kb : K) : Statement (.kor kd ka kb) :=
  ofCore rfl (encV_lt (by decide) (by decide) (by decide) (by have := kd.isLt; omega) (by have := ka.isLt; omega) (by have := kb.isLt; omega))
    (fun h => (dec71 0 (kv kd) (kv ka) (kv kb) (by decide)).trans (kop_fields kd ka kb 1 .kor h (by decide) fun _ _ _ => rfl))
theorem Encode.kxor (kd : K) (ka : K) (kb : K) : Statement (.kxor kd ka kb) :=
  ofCore rfl (encV_lt (by decide) (by decide) (by decide) (by have := kd.isLt; omega) (by have := ka.isLt; omega) (by have := kb.isLt; omega))
    (fun h => (dec71 0 (kv kd) (kv ka) (kv kb) (by decide)).trans (kop_fields kd ka kb 2 .kxor h (by decide) fun _ _ _ => rfl))
theorem Encode.kandn (kd : K) (ka : K) (kb : K) : Statement (.kandn kd ka kb) :=
  ofCore rfl (encV_lt (by decide) (by decide) (by decide) (by have := kd.isLt; omega) (by have := ka.isLt; omega) (by have := kb.isLt; omega))
    (fun h => (dec71 0 (kv kd) (kv ka) (kv kb) (by decide)).trans (kop_fields kd ka kb 3 .kandn h (by decide) fun _ _ _ => rfl))
theorem Encode.knot (kd : K) (ka : K) : Statement (.knot kd ka) :=
  ofCore rfl (encV_lt (by decide) (by decide) (by decide) (by have := kd.isLt; omega) (by have := ka.isLt; omega) (by decide))
    (by
    intro h
    have h1 := kd.isLt; have h2 := ka.isLt
    refine (dec71 (fn := 4) 0 (kv kd) (kv ka) 0 (by decide)).trans ?_
    show zeroed (0 + kd.val / 8) (zeroed (ka.val / 8 + 0) (checked (.knot (Fin.ofNat 8 kd.val) (Fin.ofNat 8 ka.val)))) = _
    rw [zeroed_of (by omega), zeroed_of (by omega), ofNat_fin kd, ofNat_fin ka]; exact checked_of h)
theorem Encode.kli (kd : K) (imm : BitVec 8) : Statement (.kli kd imm) :=
  ofCore rfl (encV_lt (by decide) (by decide) (by decide) (by have := kd.isLt; omega) (by have := kd.isLt; have := imm.isLt; omega) (by have := kd.isLt; have := imm.isLt; omega))
    (by
    intro h
    have h1 := kd.isLt; have h2 := imm.isLt
    refine (dec71 (fn := 5) 0 (kv kd) ⟨imm.toNat % 32, by omega⟩ ⟨imm.toNat / 32, by omega⟩ (by decide)).trans ?_
    show zeroed (0 + kd.val / 8) (zeroed (imm.toNat / 32 / 8) (checked (.kli (Fin.ofNat 8 kd.val) (BitVec.ofNat 8 (imm.toNat % 32 + 32 * (imm.toNat / 32)))))) = _
    rw [zeroed_of (by omega), zeroed_of (by omega), ofNat_fin kd, Nat.mod_add_div, BitVec.ofNat_toNat, BitVec.setWidth_eq]; exact checked_of h)
theorem Encode.gzAdd (d : GDst) (a : GSrc) (b : GSrc) : Statement (.gzAdd d a b) :=
  ofGlaze rfl (encG_lt (by decide) d.isLt a.isLt b.isLt (by decide) (by decide))
    (fun h => (decG01 d a b (0 : GSrc) (0 : GSrc)).trans (checked_of h))
theorem Encode.gzSub (d : GDst) (a : GSrc) (b : GSrc) : Statement (.gzSub d a b) :=
  ofGlaze rfl (encG_lt (by decide) d.isLt a.isLt b.isLt (by decide) (by decide))
    (fun h => (decG02 d a b (0 : GSrc) (0 : GSrc)).trans (checked_of h))
theorem Encode.gzMul (d : GDst) (a : GSrc) (b : GSrc) : Statement (.gzMul d a b) :=
  ofGlaze rfl (encG_lt (by decide) d.isLt a.isLt b.isLt (by decide) (by decide))
    (fun h => (decG03 d a b (0 : GSrc) (0 : GSrc)).trans (checked_of h))
theorem Encode.gzFma (d : GDst) (a : GSrc) (b : GSrc) (c : GSrc) : Statement (.gzFma d a b c) :=
  ofGlaze rfl (encG_lt (by decide) d.isLt a.isLt b.isLt c.isLt (by decide))
    (fun h => (decG04 d a b c (0 : GSrc)).trans (checked_of h))
theorem Encode.gzMin (d : GDst) (a : GSrc) (b : GSrc) : Statement (.gzMin d a b) :=
  ofGlaze rfl (encG_lt (by decide) d.isLt a.isLt b.isLt (by decide) (by decide))
    (fun h => (decG05 d a b (0 : GSrc) (0 : GSrc)).trans (checked_of h))
theorem Encode.gzMax (d : GDst) (a : GSrc) (b : GSrc) : Statement (.gzMax d a b) :=
  ofGlaze rfl (encG_lt (by decide) d.isLt a.isLt b.isLt (by decide) (by decide))
    (fun h => (decG06 d a b (0 : GSrc) (0 : GSrc)).trans (checked_of h))
theorem Encode.gzRelu (d : GDst) (a : GSrc) : Statement (.gzRelu d a) :=
  ofGlaze rfl (encG_lt (by decide) d.isLt a.isLt (by decide) (by decide) (by decide))
    (fun h => (decG07 d a (0 : GSrc) (0 : GSrc) (0 : GSrc)).trans (checked_of h))
theorem Encode.gzClamp (d : GDst) (a : GSrc) (b : GSrc) (c : GSrc) : Statement (.gzClamp d a b c) :=
  ofGlaze rfl (encG_lt (by decide) d.isLt a.isLt b.isLt c.isLt (by decide))
    (fun h => (decG08 d a b c (0 : GSrc)).trans (checked_of h))
theorem Encode.gzAbs (d : GDst) (a : GSrc) : Statement (.gzAbs d a) :=
  ofGlaze rfl (encG_lt (by decide) d.isLt a.isLt (by decide) (by decide) (by decide))
    (fun h => (decG09 d a (0 : GSrc) (0 : GSrc) (0 : GSrc)).trans (checked_of h))
theorem Encode.gzNeg (d : GDst) (a : GSrc) : Statement (.gzNeg d a) :=
  ofGlaze rfl (encG_lt (by decide) d.isLt a.isLt (by decide) (by decide) (by decide))
    (fun h => (decG0A d a (0 : GSrc) (0 : GSrc) (0 : GSrc)).trans (checked_of h))
theorem Encode.gzExp2 (d : GDst) (a : GSrc) : Statement (.gzExp2 d a) :=
  ofGlaze rfl (encG_lt (by decide) d.isLt a.isLt (by decide) (by decide) (by decide))
    (fun h => (decG0B d a (0 : GSrc) (0 : GSrc) (0 : GSrc)).trans (checked_of h))
theorem Encode.gzRcp (d : GDst) (a : GSrc) : Statement (.gzRcp d a) :=
  ofGlaze rfl (encG_lt (by decide) d.isLt a.isLt (by decide) (by decide) (by decide))
    (fun h => (decG0C d a (0 : GSrc) (0 : GSrc) (0 : GSrc)).trans (checked_of h))
theorem Encode.gzRsq (d : GDst) (a : GSrc) : Statement (.gzRsq d a) :=
  ofGlaze rfl (encG_lt (by decide) d.isLt a.isLt (by decide) (by decide) (by decide))
    (fun h => (decG0D d a (0 : GSrc) (0 : GSrc) (0 : GSrc)).trans (checked_of h))
theorem Encode.gzSel (cc : Fin 32) (d : GDst) (a : GSrc) (b : GSrc) (c : GSrc) : Statement (.gzSel cc d a b c) :=
  ofGlaze rfl (encG_lt (by decide) d.isLt a.isLt b.isLt c.isLt cc.isLt)
    (fun h => (decG0E d a b c cc).trans (checked_of h))
theorem Encode.gzLdr (n : Fin 32) (d : GDst) : Statement (.gzLdr n d) :=
  ofGlaze rfl (encG_lt (by decide) d.isLt (by decide) (by decide) (by decide) n.isLt)
    (fun h => (decG0F d (0 : GSrc) (0 : GSrc) (0 : GSrc) n).trans (checked_of h))
theorem Encode.gzLdc (n : Fin 32) (d : GDst) : Statement (.gzLdc n d) :=
  ofGlaze rfl (encG_lt (by decide) d.isLt (by decide) (by decide) (by decide) n.isLt)
    (fun h => (decG10 d (0 : GSrc) (0 : GSrc) (0 : GSrc) n).trans (checked_of h))
theorem Encode.gzCvt (fmt : Fin 32) (d : GDst) (a : GSrc) : Statement (.gzCvt fmt d a) :=
  ofGlaze rfl (encG_lt (by decide) d.isLt a.isLt (by decide) (by decide) fmt.isLt)
    (fun h => (decG11 d a (0 : GSrc) (0 : GSrc) fmt).trans (checked_of h))
theorem Encode.gzBscl (a : GSrc) : Statement (.gzBscl a) :=
  ofGlaze rfl (encG_lt (by decide) (by decide) a.isLt (by decide) (by decide) (by decide))
    (fun h => (decG12 (0 : GDst) a (0 : GSrc) (0 : GSrc) (0 : GSrc)).trans (checked_of h))
theorem Encode.gzSt (a : GSrc) : Statement (.gzSt a) :=
  ofGlaze rfl (encG_lt (by decide) (by decide) a.isLt (by decide) (by decide) (by decide))
    (fun h => (decG13 (0 : GDst) a (0 : GSrc) (0 : GSrc) (0 : GSrc)).trans (checked_of h))
theorem Encode.gzStt (a : GSrc) : Statement (.gzStt a) :=
  ofGlaze rfl (encG_lt (by decide) (by decide) a.isLt (by decide) (by decide) (by decide))
    (fun h => (decG14 (0 : GDst) a (0 : GSrc) (0 : GSrc) (0 : GSrc)).trans (checked_of h))
theorem Encode.gzRedr (n : Fin 8) (op : Fin 4) (a : GSrc) : Statement (.gzRedr n op a) :=
  ofGlaze rfl (encG_lt (by decide) (by decide) a.isLt (by decide) (by decide) (by have := n.isLt; have := op.isLt; have := a.isLt; omega))
    (by
    intro h
    have h1 := n.isLt; have h2 := op.isLt
    refine (decG15 0 a 0 0 ⟨op.val + 4 * n.val, by omega⟩).trans ?_
    refine (zeroed_of rfl).trans ?_
    have e1 : (Fin.ofNat 8 ((op.val + 4 * n.val) / 4) : Fin 8) = n := Fin.ext (by show (op.val + 4 * n.val) / 4 % 8 = n.val; omega)
    have e2 : (Fin.ofNat 4 (op.val + 4 * n.val) : Fin 4) = op := Fin.ext (by show (op.val + 4 * n.val) % 4 = op.val; omega)
    simp only [e1, e2]
    exact checked_of h)
theorem Encode.gzEnd : Statement .gzEnd :=
  ofGlaze rfl (encG_lt (by decide) (by decide) (by decide) (by decide) (by decide) (by decide))
    (fun _ => decG16 (0 : GDst) (0 : GSrc) (0 : GSrc) (0 : GSrc) (0 : GSrc))
theorem Encode.mma (cluster : Nat) : Statement (.mma cluster) := ofEvent rfl rfl
theorem Encode.mmas (cluster : Nat) : Statement (.mmas cluster) := ofEvent rfl rfl
theorem Encode.mzero (cluster : Nat) : Statement (.mzero cluster) := ofEvent rfl rfl
theorem Encode.maccld (cluster : Nat) : Statement (.maccld cluster) := ofEvent rfl rfl
theorem Encode.mdrain (cluster : Nat) : Statement (.mdrain cluster) := ofEvent rfl rfl
theorem Encode.mdpl (cluster : Nat) : Statement (.mdpl cluster) := ofEvent rfl rfl
theorem Encode.msig (cluster : Nat) : Statement (.msig cluster) := ofEvent rfl rfl
theorem Encode.tcwCompletion (core : Nat) : Statement (.tcwCompletion core) := ofEvent rfl rfl
theorem Encode.copy (cluster : Nat) (n : Nat) : Statement (.copy cluster n) := ofEvent rfl rfl
theorem Encode.copyCompletion (cluster : Nat) (n : Nat) : Statement (.copyCompletion cluster n) := ofEvent rfl rfl
theorem Encode.blockTransferArrival (n : Nat) : Statement (.blockTransferArrival n) := ofEvent rfl rfl
theorem Encode.blockTransferRetry (n : Nat) : Statement (.blockTransferRetry n) := ofEvent rfl rfl
theorem Encode.blockTransferCompletion (engine : Nat) (n : Nat) : Statement (.blockTransferCompletion engine n) := ofEvent rfl rfl
theorem Encode.transientCondition (engine : EngineKind) (unit : Nat) (n : Nat) : Statement (.transientCondition engine unit n) := ofEvent rfl rfl
theorem Encode.setterPut (cluster : Nat) : Statement (.setterPut cluster) := ofEvent rfl rfl
theorem Encode.place (cluster : Nat) : Statement (.place cluster) := ofEvent rfl rfl
theorem Encode.sessionClose (cluster : Nat) : Statement (.sessionClose cluster) := ofEvent rfl rfl
theorem Encode.handle (core : Nat) : Statement (.handle core) := ofEvent rfl rfl
theorem Encode.amoHandler (core : Nat) : Statement (.amoHandler core) := ofEvent rfl rfl
theorem Encode.amopHandler (core : Nat) : Statement (.amopHandler core) := ofEvent rfl rfl
theorem Encode.casHandler (core : Nat) : Statement (.casHandler core) := ofEvent rfl rfl
theorem Encode.claimHandler (core : Nat) : Statement (.claimHandler core) := ofEvent rfl rfl
theorem Encode.decHandler (core : Nat) : Statement (.decHandler core) := ofEvent rfl rfl
theorem Encode.armHandler (core : Nat) : Statement (.armHandler core) := ofEvent rfl rfl
theorem Encode.readyHandler (core : Nat) : Statement (.readyHandler core) := ofEvent rfl rfl
theorem Encode.readyEntryAppend (core : Nat) : Statement (.readyEntryAppend core) := ofEvent rfl rfl
theorem Encode.task (n : Nat) : Statement (.task n) := ofEvent rfl rfl
theorem Encode.bounceRefusal (n : Nat) : Statement (.bounceRefusal n) := ofEvent rfl rfl
theorem Encode.registerContext (n : Nat) : Statement (.registerContext n) := ofEvent rfl rfl
theorem Encode.departure (thread : Nat) : Statement (.departure thread) := ofEvent rfl rfl
theorem Encode.forwardingEntryExpiry (core : Nat) : Statement (.forwardingEntryExpiry core) := ofEvent rfl rfl
theorem Encode.delegate (core : Nat) : Statement (.delegate core) := ofEvent rfl rfl
theorem Encode.reply (n : Nat) : Statement (.reply n) := ofEvent rfl rfl
theorem Encode.mcstLine (n : Nat) : Statement (.mcstLine n) := ofEvent rfl rfl
theorem Encode.mcstAcknowledgement (n : Nat) : Statement (.mcstAcknowledgement n) := ofEvent rfl rfl
theorem Encode.firingStart (thread : Nat) : Statement (.firingStart thread) := ofEvent rfl rfl
theorem Encode.capsuleCompletion (capsule : Nat) : Statement (.capsuleCompletion capsule) := ofEvent rfl rfl
theorem Encode.completionWave (capsule : Nat) : Statement (.completionWave capsule) := ofEvent rfl rfl
theorem Encode.crossPackageAcknowledgement (capsule : Nat) (package : Nat) : Statement (.crossPackageAcknowledgement capsule package) := ofEvent rfl rfl
theorem Encode.scannerVisit (queue : Nat) : Statement (.scannerVisit queue) := ofEvent rfl rfl
theorem Encode.admission (n : Nat) : Statement (.admission n) := ofEvent rfl rfl
theorem Encode.placement (capsule : Nat) : Statement (.placement capsule) := ofEvent rfl rfl
theorem Encode.missedDeadline (capsule : Nat) : Statement (.missedDeadline capsule) := ofEvent rfl rfl
theorem Encode.deadlineWatchdog (capsule : Nat) : Statement (.deadlineWatchdog capsule) := ofEvent rfl rfl
theorem Encode.runLimit (capsule : Nat) : Statement (.runLimit capsule) := ofEvent rfl rfl
theorem Encode.readyNotice (capsule : Nat) (package : Nat) : Statement (.readyNotice capsule package) := ofEvent rfl rfl
theorem Encode.go (capsule : Nat) : Statement (.go capsule) := ofEvent rfl rfl
theorem Encode.gangStart (capsule : Nat) : Statement (.gangStart capsule) := ofEvent rfl rfl
theorem Encode.preemptInterrupt (core : Nat) : Statement (.preemptInterrupt core) := ofEvent rfl rfl
theorem Encode.resumeRecordWrite (capsule : Nat) : Statement (.resumeRecordWrite capsule) := ofEvent rfl rfl
theorem Encode.continuationPublish (capsule : Nat) : Statement (.continuationPublish capsule) := ofEvent rfl rfl
theorem Encode.publishRetry (capsule : Nat) : Statement (.publishRetry capsule) := ofEvent rfl rfl
theorem Encode.killMessage (core : Nat) : Statement (.killMessage core) := ofEvent rfl rfl
theorem Encode.routerDiscardExpiry (capsule : Nat) (cluster : Nat) : Statement (.routerDiscardExpiry capsule cluster) := ofEvent rfl rfl
theorem Encode.purgeConfirmed (capsule : Nat) : Statement (.purgeConfirmed capsule) := ofEvent rfl rfl
theorem Encode.halt (group : Nat) : Statement (.halt group) := ofEvent rfl rfl
theorem Encode.resume (group : Nat) : Statement (.resume group) := ofEvent rfl rfl
theorem Encode.firewallDrop (n : Nat) : Statement (.firewallDrop n) := ofEvent rfl rfl
theorem Encode.rmaRead (host : Nat) (window : Nat) (offset : Nat) (length : Nat) : Statement (.rmaRead host window offset length) := ofEvent rfl rfl
theorem Encode.rmaWrite (host : Nat) (window : Nat) (offset : Nat) (data : List Byte) : Statement (.rmaWrite host window offset data) := ofEvent rfl rfl
theorem Encode.fetchAdd (port : Nat) (host : Nat) (window : Nat) (offset : Nat) (value : Word) : Statement (.fetchAdd port host window offset value) := ofEvent rfl rfl
theorem Encode.swap (port : Nat) (host : Nat) (window : Nat) (offset : Nat) (value : Word) : Statement (.swap port host window offset value) := ofEvent rfl rfl
theorem Encode.compareSwap (port : Nat) (host : Nat) (window : Nat) (offset : Nat) (compare : Word) (value : Word) : Statement (.compareSwap port host window offset compare value) := ofEvent rfl rfl
theorem Encode.claim (h : MgmtHeader) (priority : Nat) (key : List Byte) (share : List Byte) (signature : List Byte) : Statement (.claim h priority key share signature) := ofEvent rfl rfl
theorem Encode.claimWindowClose : Statement .claimWindowClose := ofEvent rfl rfl
theorem Encode.handover (h : MgmtHeader) (successor : Word) : Statement (.handover h successor) := ofEvent rfl rfl
theorem Encode.accept (h : MgmtHeader) : Statement (.accept h) := ofEvent rfl rfl
theorem Encode.handoverLapse : Statement .handoverLapse := ofEvent rfl rfl
theorem Encode.keepalive (h : MgmtHeader) : Statement (.keepalive h) := ofEvent rfl rfl
theorem Encode.keepaliveTimeout : Statement .keepaliveTimeout := ofEvent rfl rfl
theorem Encode.readCapability (h : MgmtHeader) (offset : Nat) (length : Nat) : Statement (.readCapability h offset length) := ofEvent rfl rfl
theorem Encode.measure (h : MgmtHeader) (nonce : List Byte) : Statement (.measure h nonce) := ofEvent rfl rfl
theorem Encode.readLog (h : MgmtHeader) : Statement (.readLog h) := ofEvent rfl rfl
theorem Encode.status (h : MgmtHeader) : Statement (.status h) := ofEvent rfl rfl
theorem Encode.addKey (h : MgmtHeader) (key : KeyDesc) : Statement (.addKey h key) := ofEvent rfl rfl
theorem Encode.revokeKey (h : MgmtHeader) (key : Nat) : Statement (.revokeKey h key) := ofEvent rfl rfl
theorem Encode.setGuiltAndLimit (h : MgmtHeader) (key : Nat) (guilt : Nat) (limit : Nat) : Statement (.setGuiltAndLimit h key guilt limit) := ofEvent rfl rfl
theorem Encode.setRunLimit (h : MgmtHeader) (key : Nat) (limit : Nat) : Statement (.setRunLimit h key limit) := ofEvent rfl rfl
theorem Encode.mapQueue (h : MgmtHeader) (queue : QueueDesc) : Statement (.mapQueue h queue) := ofEvent rfl rfl
theorem Encode.unmapQueue (h : MgmtHeader) (queue : Nat) : Statement (.unmapQueue h queue) := ofEvent rfl rfl
theorem Encode.stopQueue (h : MgmtHeader) (queue : Nat) : Statement (.stopQueue h queue) := ofEvent rfl rfl
theorem Encode.restartQueue (h : MgmtHeader) (queue : Nat) : Statement (.restartQueue h queue) := ofEvent rfl rfl
theorem Encode.registerOwnerReportRing (h : MgmtHeader) (key : Nat) (base : Word) (slots : Nat) : Statement (.registerOwnerReportRing h key base slots) := ofEvent rfl rfl
theorem Encode.registerEventAddress (h : MgmtHeader) (key : Nat) (address : Nat) : Statement (.registerEventAddress h key address) := ofEvent rfl rfl
theorem Encode.mapWindow (h : MgmtHeader) (window : WindowDesc) : Statement (.mapWindow h window) := ofEvent rfl rfl
theorem Encode.unmapWindow (h : MgmtHeader) (window : Nat) : Statement (.unmapWindow h window) := ofEvent rfl rfl
theorem Encode.killCapsule (h : MgmtHeader) (id : Word) : Statement (.killCapsule h id) := ofEvent rfl rfl
theorem Encode.stageFirmware (h : MgmtHeader) (image : List Byte) : Statement (.stageFirmware h image) := ofEvent rfl rfl
theorem Encode.activateFirmware (h : MgmtHeader) : Statement (.activateFirmware h) := ofEvent rfl rfl
theorem Encode.openDebugSession (h : MgmtHeader) (tier : Nat) (die : Nat) (key : Nat) (signatures : List Byte) : Statement (.openDebugSession h tier die key signatures) := ofEvent rfl rfl
theorem Encode.debugSessionStart (session : Nat) : Statement (.debugSessionStart session) := ofEvent rfl rfl
theorem Encode.closeDebugSession (h : MgmtHeader) (session : Nat) : Statement (.closeDebugSession h session) := ofEvent rfl rfl
theorem Encode.setHaltGroup (h : MgmtHeader) (group : HaltDesc) : Statement (.setHaltGroup h group) := ofEvent rfl rfl
theorem Encode.powerLimit (h : MgmtHeader) (watts : Nat) : Statement (.powerLimit h watts) := ofEvent rfl rfl
theorem Encode.powerOn : Statement .powerOn := ofEvent rfl rfl
theorem Encode.dieLinkTraining (usable : List Nat) : Statement (.dieLinkTraining usable) := ofEvent rfl rfl
theorem Encode.portTraining (ports : List Nat) : Statement (.portTraining ports) := ofEvent rfl rfl
theorem Encode.ptpLock (podTime : Nat) : Statement (.ptpLock podTime) := ofEvent rfl rfl
theorem Encode.lockLoss : Statement .lockLoss := ofEvent rfl rfl
theorem Encode.cxlPortFailure (port : Nat) : Statement (.cxlPortFailure port) := ofEvent rfl rfl
theorem Encode.thermalThrottle : Statement .thermalThrottle := ofEvent rfl rfl
theorem Encode.thermalShutdown : Statement .thermalShutdown := ofEvent rfl rfl
theorem Encode.powerOff : Statement .powerOff := ofEvent rfl rfl
theorem Encode.reset : Statement .reset := ofEvent rfl rfl
theorem Encode.fetchFault : Statement .fetchFault := ofEvent rfl rfl
theorem Encode.illegalInstructionWord (word : BitVec 32) : Statement (.illegalInstructionWord word) := ofEvent rfl rfl
theorem Encode.unsupportedUetRequest (host : Nat) : Statement (.unsupportedUetRequest host) := ofEvent rfl rfl
theorem Encode.unknownManagementCommand (h : MgmtHeader) (code : Nat) : Statement (.unknownManagementCommand h code) := ofEvent rfl rfl
theorem Encode.ptpLockTimeout : Statement .ptpLockTimeout := ofEvent rfl rfl
theorem Encode.powerLimitThrottle : Statement .powerLimitThrottle := ofEvent rfl rfl

end Sys2Proof.Laws
end

