-- ==== Sys2Proof/Safety.lean ====
section
/-! DEFINITION. The terms in which claims speak: when a thread can issue an instruction, what an instruction leaves unchanged, and
the invariant of the whole machine. -/

namespace Sys2Proof.Machine

/-! ### Ready threads -/

/-- The issuing thread can issue an instruction with these g, v and k operands: no operand waits for a late result that is due (R39),
and every operand lies within the thread's allotment (R17). -/
def State.ready (s : State) (gs vs ks : List Nat) : Bool :=
  (s.held ⟨0, gs, vs, ks, false, false⟩).isNone && s.inRange ⟨0, gs, vs, ks, false, false⟩

/-- The same for an instruction that accesses memory or commands an engine: no amo, cas or claim of the thread waits for its
REPLY (R140, R141). -/
def State.readyMem (s : State) (gs vs ks : List Nat) : Bool := s.ready gs vs ks && !s.me.requests.any fun r => r.2

/-- The same for a release: every posted atomic of the firing has been performed (R140). -/
def State.readyRelease (s : State) (gs vs ks : List Nat) : Bool :=
  s.readyMem gs vs ks && !s.atomicBefore s.me.firing s.nextId

/-- No lookahead window is open on the issuing thread (R39). -/
def State.noWindow (s : State) : Bool := decide (s.me.window = 0)

/-! ### Frames -/

/-- From s to t only the issuing thread has changed, and of it at most the PC, the registers, FCR, the loop level and count that
the end test steps (R59), and what late results do when they fall due (R39). Of the registers at most those of the three lists
and those that a late result was due for; FCR at most when `flags` holds, and then not RM. -/
structure RegFrame (s t : State) (gs vs ks : List Nat) (flags : Bool) : Prop where
  rest : { t with threads := s.threads } = s
  others : ∀ n, n ≠ s.who → t.thr n = s.thr n
  me : { t.me with pc := s.me.pc, g := s.me.g, v := s.me.v, k := s.me.k, fcr := s.me.fcr, lcount := s.me.lcount,
                   ldepth := s.me.ldepth, pending := s.me.pending, window := s.me.window, wait := s.me.wait } = s.me
  g : ∀ n, n ∉ gs → (∀ p ∈ s.me.pending, p.reg ≠ .g n) → t.me.rg n = s.me.rg n
  v : ∀ n, n ∉ vs → (∀ p ∈ s.me.pending, p.reg ≠ .v n) → t.me.rv n = s.me.rv n
  k : ∀ n, n ∉ ks → t.me.rk n = s.me.rk n
  fcr : flags = false → t.me.fcr = s.me.fcr
  rounding : t.me.fcr.toNat % 4 = s.me.fcr.toNat % 4
  loops : s.me.ldepth = 0 → t.me.lcount = s.me.lcount ∧ t.me.ldepth = 0

/-- Every byte of this package reads in t as in s, but those whose keys satisfy `stored`. -/
def MemFrame (s t : State) (stored : Nat → Prop) : Prop := ∀ k, ¬ stored k → t.byte k = s.byte k

/-- The device's own writes of n bytes from key k are performed: they meet no write-locked code (R187) and no failed CXL set (R230). -/
def State.takes (s : State) (k n : Nat) : Prop :=
  s.codeLocked k n = false ∧ ∀ i, i < n → s.writeFails (.here (k + i) none) = false

/-- The keys of n bytes from key k. -/
def span (k n : Nat) (x : Nat) : Prop := k ≤ x ∧ x < k + n

/-! ### What completed instructions do -/

/-- From s to t the issuing thread has completed an instruction that writes v to g[d], nothing for d = 0 (R15): nothing else has
changed but what every completed instruction changes, and outside a loop the PC is at the next word (R59). -/
structure Writes (s t : State) (d : Nat) (v : Word) : Prop where
  value : t.rg d = if d = 0 then 0 else v
  next : s.me.ldepth = 0 → t.me.pc = s.me.pc + 4
  frame : RegFrame s t [d] [] [] false

/-- The same with the flags fl set in FCR (R21, R97). -/
structure WritesF (s t : State) (d : Nat) (v : Word) (fl : Nat) : Prop where
  value : t.rg d = if d = 0 then 0 else v
  flags : t.me.fcr = s.me.fcr ||| BitVec.ofNat 64 fl
  next : s.me.ldepth = 0 → t.me.pc = s.me.pc + 4
  frame : RegFrame s t [d] [] [] true

/-- The same for v[d] as a whole. -/
structure WritesV (s t : State) (d : Nat) (v : Vec) (fl : Nat) : Prop where
  value : t.rv d = v
  flags : t.me.fcr = s.me.fcr ||| BitVec.ofNat 64 fl
  next : s.me.ldepth = 0 → t.me.pc = s.me.pc + 4
  frame : RegFrame s t [] [d] [] true

/-- The same for k[d], which is not k0. -/
structure WritesK (s t : State) (d : Nat) (v : BitVec 8) (fl : Nat) : Prop where
  value : t.rk d = v
  flags : t.me.fcr = s.me.fcr ||| BitVec.ofNat 64 fl
  next : s.me.ldepth = 0 → t.me.pc = s.me.pc + 4
  frame : RegFrame s t [] [] [d] true

/-- From s to t an element-wise instruction has completed (R100): every active element i of v[d] holds (f i).1, every other one
is unchanged, and the flags of the active elements are set. -/
structure WritesLanes (s t : State) (d k w : Nat) (f : Nat → Nat × Nat) : Prop where
  active : ∀ i ∈ s.actives k w, elem (t.rv d) w i = (f i).1 % 2 ^ w
  idle : ∀ i, i < 512 / w → i ∉ s.actives k w → elem (t.rv d) w i = elem (s.rv d) w i
  flags : t.me.fcr = s.me.fcr ||| BitVec.ofNat 64 ((s.actives k w).foldl (fun fl i => fl ||| (f i).2) 0)
  next : s.me.ldepth = 0 → t.me.pc = s.me.pc + 4
  frame : RegFrame s t [] [d] [] true

/-- From s to t an instruction without a destination has completed. -/
structure Passes (s t : State) : Prop where
  next : s.me.ldepth = 0 → t.me.pc = s.me.pc + 4
  frame : RegFrame s t [] [] [] false

/-- From s to t a taken transfer to an address has been made (R59). -/
structure Jumps (s t : State) (target : Word) : Prop where
  pc : t.me.pc = target
  frame : RegFrame s t [] [] [] false

/-- From s to t a taken transfer to an address has been made that leaves v in g[d] (R57). -/
structure Links (s t : State) (d : Nat) (v target : Word) : Prop where
  value : t.rg d = if d = 0 then 0 else v
  pc : t.me.pc = target
  frame : RegFrame s t [d] [] [] false

/-- The body of loop level l of a thread contains an address (R59). -/
def Thread.within (t : Thread) (l : Nat) (a : Word) : Prop :=
  (sget 0 t.lstart l).toNat ≤ a.toNat ∧ a.toNat ≤ (sget 0 t.lend l).toNat

/-- A taken transfer to a target has popped the innermost loop levels that do not contain it, and nothing else of the loop
registers has changed (R59). -/
structure Unwound (x y : Thread) (target : Word) : Prop where
  less : y.ldepth.toNat ≤ x.ldepth.toNat
  popped : ∀ l, y.ldepth.toNat ≤ l → l < x.ldepth.toNat → ¬ x.within l target
  kept : 0 < y.ldepth.toNat → x.within (y.ldepth.toNat - 1) target
  start : y.lstart = x.lstart
  last : y.lend = x.lend
  count : ∀ l, sget 0 y.lcount l = sget 0 x.lcount l

/-- An instruction has completed without a taken transfer: from the innermost level outward, each level that ends here and has no
iteration left has ended with the count 0; the first other level, if it ends here, starts its next iteration (R59). -/
structure EndTested (x y : Thread) : Prop where
  less : y.ldepth.toNat ≤ x.ldepth.toNat
  finished : ∀ l, y.ldepth.toNat ≤ l → l < x.ldepth.toNat →
    sget 0 x.lend l = x.pc ∧ (sget 0 x.lcount l).toNat ≤ 1 ∧ sget 0 y.lcount l = 0
  again : 0 < y.ldepth.toNat → sget 0 x.lend (y.ldepth.toNat - 1) = x.pc →
    1 < (sget 0 x.lcount (y.ldepth.toNat - 1)).toNat ∧ y.pc = sget 0 x.lstart (y.ldepth.toNat - 1) ∧
    sget 0 y.lcount (y.ldepth.toNat - 1) = sget 0 x.lcount (y.ldepth.toNat - 1) - 1
  onward : (y.ldepth = 0 ∨ sget 0 x.lend (y.ldepth.toNat - 1) ≠ x.pc) → y.pc = x.pc + 4
  start : y.lstart = x.lstart
  last : y.lend = x.lend
  inner : ∀ l, x.ldepth.toNat ≤ l → sget 0 y.lcount l = sget 0 x.lcount l
  outer : ∀ l, l + 1 < y.ldepth.toNat → sget 0 y.lcount l = sget 0 x.lcount l

/-- From s to t the issuing thread has waited: it alone has changed, and of it only why it waits (R14, R39). -/
def Waits (s t : State) : Prop := ∃ w, t = s.setMe { s.me with wait := w }

/-- The next turn of s is a cycle of core c: one of the core, of one of its threads, or of what its H does (R13, R14). -/
def Cycles (s : State) (c : Nat) (rest : List Turn) : Prop :=
  s.agenda = .cycle c :: rest ∨ (∃ n, coreOf n = c ∧ s.agenda = .issue n :: rest) ∨ ∃ i, handlerCore i = some c ∧ s.agenda = .event i :: rest

/-- In the step of s thread n issues, and t is the state in which it does (R14): a cycle of its core is next; time has passed, and the cycle has begun;
the order of R14 picks the thread. -/
def IssuesIn (s t : State) (n : Nat) : Prop :=
  ∃ rest u, Cycles s (coreOf n) rest ∧
    u = State.cycleStart { s.tick with agenda := rest } (coreOf n) ∧ (u.picked (coreOf n)).map Prod.fst = some n ∧ t = { u with who := n }

/-- From s to t the issuing thread has taken a trap with one of these causes (R204). -/
def Traps (s t : State) (causes : List Nat) : Prop := ∃ c ∈ causes, ∃ v, s.takeTrap c v = .next t

/-- v is the TRAPVAL of an access of n bytes at an address that fails with a cause (R204): the address, where it is misaligned; else the lowest
byte that fails by itself. -/
structure State.FailsAt (s : State) (core : Nat) (address : Word) (n : Nat) (acc : Acc) (cause : Nat) (v : Word) : Prop where
  whole : cause = causeAlign → v = address
  lowest : cause ≠ causeAlign → ∃ i, v = address + BitVec.ofNat 64 i ∧
    (∀ j, j < i → ∃ p, s.reach core (address + BitVec.ofNat 64 j) 1 acc = .ok p) ∧
    ((i < n ∧ ∃ c, s.reach core (address + BitVec.ofNat 64 i) 1 acc = .error c) ∨
     (i = 0 ∧ ∀ j, j < n → ∃ p, s.reach core (address + BitVec.ofNat 64 j) 1 acc = .ok p))

/-- From s to t a long-latency instruction with destination g[d] and lookahead la has completed whose result is v (R39): with la = 0
the result is written; else the register waits for it behind a window of la instructions, in which it reads as before, no earlier late result
being written to it, and the result is on its way. -/
structure LoadsG (s t : State) (d la : Nat) (v : Word) (far : Bool) : Prop where
  now : la = 0 → Writes s t d v
  window : la ≠ 0 → la ≤ t.me.window
  waits : la ≠ 0 → d ≠ 0 → ⟨s.nextId, .g d, la, none⟩ ∈ t.me.pending
  reply : la ≠ 0 → t.loads = s.loads ++ [⟨s.me.firing, coreOf s.who, s.nextId, .g d, lateG v, far⟩]
  old : la ≠ 0 → t.rg d = s.rg d
  frame : la ≠ 0 → RegFrame s { t with loads := s.loads, nextId := s.nextId } [d] [] [] false

/-- What a late result makes of a register's old value. -/
def Late.onto (l : Late) (v : Vec) : Vec := (l.data &&& l.mask) ||| (v &&& ~~~l.mask)

/-- The same for v[d], whose new value stands to the old one as `p` says: with la = 0 the result is written; else the register waits for it,
and what is on its way makes such a value of any old one. -/
structure LoadsV (s t : State) (d la : Nat) (p : Vec → Vec → Prop) : Prop where
  now : la = 0 → p (s.rv d) (t.rv d) ∧ (s.me.ldepth = 0 → t.me.pc = s.me.pc + 4) ∧ RegFrame s t [] [d] [] false
  window : la ≠ 0 → la ≤ t.me.window
  waits : la ≠ 0 → ⟨s.nextId, .v d, la, none⟩ ∈ t.me.pending
  reply : la ≠ 0 → ∃ l far, t.loads = s.loads ++ [⟨s.me.firing, coreOf s.who, s.nextId, .v d, l, far⟩] ∧ ∀ old, p old (l.onto old)
  old : la ≠ 0 → t.rv d = s.rv d
  frame : la ≠ 0 → RegFrame s { t with loads := s.loads, nextId := s.nextId } [] [d] [] false

/-- From s to t a store of the low n bytes of v at a place has completed (R63): the bytes are written, nothing else of this
package's memory is; a place of another package leaves as a message to its fabric address, if the pod table gives one (R229). A core's store into an accumulator tile that a TCW writes leaves
the whole tile open, now and after the TCW, and changes nothing beyond it (R29). One more store of the firing is unacknowledged; no register changes. -/
structure Stores (s t : State) (p : Place) (n v la : Nat) : Prop where
  here : ∀ k e, p = .here k e → s.tileOpen k = false → t.bytes k n = v % 256 ^ n ∧ MemFrame s t (span k n)
  tile : ∀ k e, p = .here k e → s.tileOpen k = true →
    MemFrame s t (fun x => span k n x ∨ span (accKey (tileAt k).1 ((tileAt k).2 * 4096)) 4096 x) ∧
    (t.cluster (tileAt k).1).openTiles =
      (s.cluster (tileAt k).1).openTiles.map (fun o => if o.tile = (tileAt k).2 then { o with spoiled := true } else o) ∧
    ∀ c, c ≠ (tileAt k).1 → t.cluster c = s.cluster c
  shut : ∀ k e, p = .here k e → s.tileOpen k = false → ∀ c, t.cluster c = s.cluster c
  peer : ∀ pk a, p = .peer pk a → t.mem = s.mem ∧ t.outbox = (s.toPod pk 1 (toBytes 8 a ++ toBytes n v)).outbox
  stores : t.stores = s.stores ++ [(s.me.firing, coreOf s.who)]
  window : la ≤ t.me.window
  next : s.me.ldepth = 0 → t.me.pc = s.me.pc + 4
  g : ∀ m, (∀ q ∈ s.me.pending, q.reg ≠ .g m) → t.rg m = s.rg m
  v : ∀ m, (∀ q ∈ s.me.pending, q.reg ≠ .v m) → t.rv m = s.rv m
  thread : { t.me with pc := s.me.pc, g := s.me.g, v := s.me.v, lcount := s.me.lcount, ldepth := s.me.ldepth,
                       pending := s.me.pending, window := s.me.window, wait := s.me.wait, unacked := s.me.unacked } = s.me
  others : ∀ m, m ≠ s.who → t.thr m = s.thr m
  cores : ∀ c, { t.core c with unacked := (s.core c).unacked } = s.core c
  clusters : ∀ c, { t.cluster c with openTiles := (s.cluster c).openTiles } = s.cluster c
  rest : { t with threads := s.threads, cores := s.cores, clusters := s.clusters, mem := s.mem, poison := s.poison,
                  codeCache := s.codeCache, stores := s.stores, outbox := s.outbox } = s

/-! ### Messages -/

/-- What a message carries of an operation on a location: no inline words and the payload of R135. -/
structure Carries (m : Msg) (op fn size : Nat) (target op1 op2 : Word) : Prop where
  kind : m.kind = 0 ∧ m.words = [] ∧ m.body.length = 56 ∧ m.bounce = false
  what : m.op = op ∧ m.fn = fn ∧ m.size = size
  target : m.written = target
  operands : m.op1 = op1 ∧ m.op2 = op2

/-- A message names its issuer: capsule, core, firing, code offset and origin (R46, R139). -/
structure From (s : State) (m : Msg) : Prop where
  capsule : m.capsule = s.myCap
  issuer : m.sender = coreOf s.who ∧ m.firing = s.me.firing ∧ m.code = s.me.pc
  origin : m.origin = s.originOf s.who

/-- What sending leaves alone: memory, tags, queues of other units, the other threads, and every register that no late result was due for. -/
structure SendFrame (s t : State) (gs : List Nat) : Prop where
  mem : t.mem = s.mem
  rest : { t with threads := s.threads, cores := s.cores, capsules := s.capsules, net := s.net, outbox := s.outbox, nextId := s.nextId } = s
  others : ∀ n, n ≠ s.who → t.thr n = s.thr n
  g : ∀ n, n ∉ gs → (∀ p ∈ s.me.pending, p.reg ≠ .g n) → t.rg n = s.rg n
  v : ∀ n, (∀ p ∈ s.me.pending, p.reg ≠ .v n) → t.rv n = s.rv n
  k : ∀ n, t.rk n = s.rk n
  fcr : t.me.fcr = s.me.fcr
  cores : ∀ c, { t.core c with issued := (s.core c).issued } = s.core c
  caps : ∀ c, { t.cap c with outstanding := (s.cap c).outstanding } = s.cap c
  next : s.me.ldepth = 0 → t.me.pc = s.me.pc + 4

/-- From s to t a posted message has left its thread (R129, R147): it carries the next channel-7 number of its core, and one more unit is
outstanding. -/
structure Posts (s t : State) (la : Nat) (m : Msg) : Prop where
  sent : t.net = s.net ++ [m]
  number : m.number = s.myCore.lastIssued 7 + 1 ∧ (t.core (coreOf s.who)).lastIssued 7 = m.number
  serial : m.serial = s.nextId ∧ m.request = 0
  count : (t.cap m.capsule).outstanding = (s.cap m.capsule).outstanding + 1
  window : la ≤ t.me.window
  frame : SendFrame s t []

/-- From s to t a request has left its thread (R129, R137): g[d] waits for the REPLY behind a window of la instructions, in which it reads as before
(R39), and one more unit is outstanding. -/
structure Requests (s t : State) (d la : Nat) (atomic : Bool) (m : Msg) : Prop where
  sent : t.net = s.net ++ [m]
  request : m.request = s.nextId ∧ m.reply = s.replyWindow d
  waits : d ≠ 0 → ⟨s.nextId, .g d, la, none⟩ ∈ t.me.pending
  old : t.rg d = s.rg d
  owed : (s.nextId, atomic) ∈ t.me.requests
  count : (t.cap m.capsule).outstanding = (s.cap m.capsule).outstanding + 1
  window : la ≤ t.me.window
  frame : SendFrame s t [d]

/-- H of a core serves a message next: the message stands first in the inbox, no other is on its way, H is free, the core is not halted, and the
sender's earlier atomics are performed (R13, R132, R140, R216). -/
structure Serves (s : State) (core : Nat) (m : Msg) : Prop where
  first : (s.core core).inbox.head? = some m
  quiet : s.net = []
  handle : m.kind = 0
  free : (s.thr (hThread core)).live = false
  runs : (s.core core).halted = false
  after : s.atomicBefore m.firing m.serial = false

/-- What a served message leaves alone: every core but for its inbox and what the numbers of its sender say, and what hosts see. -/
structure ServedFrame (s t : State) (core : Nat) : Prop where
  inbox : (t.core core).inbox = (s.core core).inbox.tail
  others : ∀ c, c ≠ core → (t.core c).inbox = (s.core c).inbox
  threads : t.threads = s.threads
  tags : t.tags = s.tags
  outbox : t.outbox = s.outbox

/-- From s to t the issuing thread alone has changed, and it holds work no more: its allotment is free, and its unacknowledged stores count on
its core (R63, R153). -/
structure Freed (s t : State) : Prop where
  thread : t.me = s.me.ended
  stores : (t.core (coreOf s.who)).unacked = s.myCore.unacked + s.me.unacked
  others : ∀ n, n ≠ s.who → t.thr n = s.thr n
  mem : t.mem = s.mem ∧ t.tags = s.tags ∧ t.stores = s.stores ∧ t.loads = s.loads

/-- A trap entry on the issuing thread (R204): the cause, its PC and its value stand in the firmware registers, and it is in firmware mode at
TRAPVEC. -/
def State.trapped (s : State) (cause : Nat) (v : Word) : State :=
  s.setMe { s.me with trapCause := BitVec.ofNat 64 cause, trapPc := s.me.pc, trapVal := v, mode := .firmware,
                      pc := s.myCore.trapVec, wait := .nothing }

/-! ### Instructions that only write registers -/

/-- The g, v and k operands of an instruction, its destinations, and whether it sets flags. -/
structure Shape where
  gs : List Nat
  vs : List Nat
  ks : List Nat
  dg : List Nat
  dv : List Nat
  dk : List Nat
  flags : Bool
  deriving DecidableEq, Repr

/-- The shape of an instruction whose whole effect is on registers of its thread and on FCR; none for every other. -/
def shapeOf : Instr → Option Shape
  | .add d a b => some ⟨[d, a, b], [], [], [d], [], [], false⟩
  | .sub d a b => some ⟨[d, a, b], [], [], [d], [], [], false⟩
  | .and d a b => some ⟨[d, a, b], [], [], [d], [], [], false⟩
  | .or d a b => some ⟨[d, a, b], [], [], [d], [], [], false⟩
  | .xor d a b => some ⟨[d, a, b], [], [], [d], [], [], false⟩
  | .andn d a b => some ⟨[d, a, b], [], [], [d], [], [], false⟩
  | .orn d a b => some ⟨[d, a, b], [], [], [d], [], [], false⟩
  | .sll d a b => some ⟨[d, a, b], [], [], [d], [], [], false⟩
  | .srl d a b => some ⟨[d, a, b], [], [], [d], [], [], false⟩
  | .sra d a b => some ⟨[d, a, b], [], [], [d], [], [], false⟩
  | .rol d a b => some ⟨[d, a, b], [], [], [d], [], [], false⟩
  | .ror d a b => some ⟨[d, a, b], [], [], [d], [], [], false⟩
  | .slt d a b => some ⟨[d, a, b], [], [], [d], [], [], false⟩
  | .sltu d a b => some ⟨[d, a, b], [], [], [d], [], [], false⟩
  | .seq d a b => some ⟨[d, a, b], [], [], [d], [], [], false⟩
  | .sne d a b => some ⟨[d, a, b], [], [], [d], [], [], false⟩
  | .min d a b => some ⟨[d, a, b], [], [], [d], [], [], false⟩
  | .max d a b => some ⟨[d, a, b], [], [], [d], [], [], false⟩
  | .minu d a b => some ⟨[d, a, b], [], [], [d], [], [], false⟩
  | .maxu d a b => some ⟨[d, a, b], [], [], [d], [], [], false⟩
  | .mul d a b => some ⟨[d, a, b], [], [], [d], [], [], false⟩
  | .mulh d a b => some ⟨[d, a, b], [], [], [d], [], [], false⟩
  | .mulhu d a b => some ⟨[d, a, b], [], [], [d], [], [], false⟩
  | .mulhsu d a b => some ⟨[d, a, b], [], [], [d], [], [], false⟩
  | .div d a b => some ⟨[d, a, b], [], [], [d], [], [], false⟩
  | .divu d a b => some ⟨[d, a, b], [], [], [d], [], [], false⟩
  | .rem d a b => some ⟨[d, a, b], [], [], [d], [], [], false⟩
  | .remu d a b => some ⟨[d, a, b], [], [], [d], [], [], false⟩
  | .clz d a => some ⟨[d, a], [], [], [d], [], [], false⟩
  | .ctz d a => some ⟨[d, a], [], [], [d], [], [], false⟩
  | .popc d a => some ⟨[d, a], [], [], [d], [], [], false⟩
  | .brev d a => some ⟨[d, a], [], [], [d], [], [], false⟩
  | .bswap d a => some ⟨[d, a], [], [], [d], [], [], false⟩
  | .sextB d a => some ⟨[d, a], [], [], [d], [], [], false⟩
  | .sextH d a => some ⟨[d, a], [], [], [d], [], [], false⟩
  | .sextW d a => some ⟨[d, a], [], [], [d], [], [], false⟩
  | .zextW d a => some ⟨[d, a], [], [], [d], [], [], false⟩
  | .addi d a _ => some ⟨[d, a], [], [], [d], [], [], false⟩
  | .andi d a _ => some ⟨[d, a], [], [], [d], [], [], false⟩
  | .ori d a _ => some ⟨[d, a], [], [], [d], [], [], false⟩
  | .xori d a _ => some ⟨[d, a], [], [], [d], [], [], false⟩
  | .slti d a _ => some ⟨[d, a], [], [], [d], [], [], false⟩
  | .sltiu d a _ => some ⟨[d, a], [], [], [d], [], [], false⟩
  | .slli d a _ => some ⟨[d, a], [], [], [d], [], [], false⟩
  | .srli d a _ => some ⟨[d, a], [], [], [d], [], [], false⟩
  | .srai d a _ => some ⟨[d, a], [], [], [d], [], [], false⟩
  | .rori d a _ => some ⟨[d, a], [], [], [d], [], [], false⟩
  | .lui d _ => some ⟨[d], [], [], [d], [], [], false⟩
  | .adpc d _ => some ⟨[d], [], [], [d], [], [], false⟩
  | .bfx d a _ _ _ => some ⟨[d, a], [], [], [d], [], [], false⟩
  | .bfi d a _ _ => some ⟨[d, a], [], [], [d], [], [], false⟩
  | .madr d a b => some ⟨[d, a, b], [], [], [d], [], [], false⟩
  | .mrel d a b => some ⟨[d, a, b], [], [], [d], [], [], false⟩
  | .faddD d a b => some ⟨[d, a, b], [], [], [d], [], [], true⟩
  | .fsubD d a b => some ⟨[d, a, b], [], [], [d], [], [], true⟩
  | .fmulD d a b => some ⟨[d, a, b], [], [], [d], [], [], true⟩
  | .fdivD d a b => some ⟨[d, a, b], [], [], [d], [], [], true⟩
  | .fsqrtD d a => some ⟨[d, a], [], [], [d], [], [], true⟩
  | .fminD d a b => some ⟨[d, a, b], [], [], [d], [], [], true⟩
  | .fmaxD d a b => some ⟨[d, a, b], [], [], [d], [], [], true⟩
  | .fsgnjD d a b => some ⟨[d, a, b], [], [], [d], [], [], true⟩
  | .fsgnjnD d a b => some ⟨[d, a, b], [], [], [d], [], [], true⟩
  | .fsgnjxD d a b => some ⟨[d, a, b], [], [], [d], [], [], true⟩
  | .fclassD d a => some ⟨[d, a], [], [], [d], [], [], true⟩
  | .feqD d a b => some ⟨[d, a, b], [], [], [d], [], [], true⟩
  | .fltD d a b => some ⟨[d, a, b], [], [], [d], [], [], true⟩
  | .fleD d a b => some ⟨[d, a, b], [], [], [d], [], [], true⟩
  | .faddS d a b => some ⟨[d, a, b], [], [], [d], [], [], true⟩
  | .fsubS d a b => some ⟨[d, a, b], [], [], [d], [], [], true⟩
  | .fmulS d a b => some ⟨[d, a, b], [], [], [d], [], [], true⟩
  | .fdivS d a b => some ⟨[d, a, b], [], [], [d], [], [], true⟩
  | .fsqrtS d a => some ⟨[d, a], [], [], [d], [], [], true⟩
  | .fminS d a b => some ⟨[d, a, b], [], [], [d], [], [], true⟩
  | .fmaxS d a b => some ⟨[d, a, b], [], [], [d], [], [], true⟩
  | .fsgnjS d a b => some ⟨[d, a, b], [], [], [d], [], [], true⟩
  | .fsgnjnS d a b => some ⟨[d, a, b], [], [], [d], [], [], true⟩
  | .fsgnjxS d a b => some ⟨[d, a, b], [], [], [d], [], [], true⟩
  | .fclassS d a => some ⟨[d, a], [], [], [d], [], [], true⟩
  | .feqS d a b => some ⟨[d, a, b], [], [], [d], [], [], true⟩
  | .fltS d a b => some ⟨[d, a, b], [], [], [d], [], [], true⟩
  | .fleS d a b => some ⟨[d, a, b], [], [], [d], [], [], true⟩
  | .fmaD d a b c => some ⟨[d, a, b, c], [], [], [d], [], [], true⟩
  | .fmsD d a b c => some ⟨[d, a, b, c], [], [], [d], [], [], true⟩
  | .fmaS d a b c => some ⟨[d, a, b, c], [], [], [d], [], [], true⟩
  | .fmsS d a b c => some ⟨[d, a, b, c], [], [], [d], [], [], true⟩
  | .fcvt d a _ _ _ => some ⟨[d, a], [], [], [d], [], [], true⟩
  | .vfaddD d a b k => some ⟨[], [d, a, b], [k], [], [d], [], true⟩
  | .vfsubD d a b k => some ⟨[], [d, a, b], [k], [], [d], [], true⟩
  | .vfmulD d a b k => some ⟨[], [d, a, b], [k], [], [d], [], true⟩
  | .vfdivD d a b k => some ⟨[], [d, a, b], [k], [], [d], [], true⟩
  | .vfsqrtD d a k => some ⟨[], [d, a], [k], [], [d], [], true⟩
  | .vfminD d a b k => some ⟨[], [d, a, b], [k], [], [d], [], true⟩
  | .vfmaxD d a b k => some ⟨[], [d, a, b], [k], [], [d], [], true⟩
  | .vfsgnjD d a b k => some ⟨[], [d, a, b], [k], [], [d], [], true⟩
  | .vfsgnjnD d a b k => some ⟨[], [d, a, b], [k], [], [d], [], true⟩
  | .vfsgnjxD d a b k => some ⟨[], [d, a, b], [k], [], [d], [], true⟩
  | .vfclassD d a k => some ⟨[], [d, a], [k], [], [d], [], true⟩
  | .vfaddS d a b k => some ⟨[], [d, a, b], [k], [], [d], [], true⟩
  | .vfsubS d a b k => some ⟨[], [d, a, b], [k], [], [d], [], true⟩
  | .vfmulS d a b k => some ⟨[], [d, a, b], [k], [], [d], [], true⟩
  | .vfdivS d a b k => some ⟨[], [d, a, b], [k], [], [d], [], true⟩
  | .vfsqrtS d a k => some ⟨[], [d, a], [k], [], [d], [], true⟩
  | .vfminS d a b k => some ⟨[], [d, a, b], [k], [], [d], [], true⟩
  | .vfmaxS d a b k => some ⟨[], [d, a, b], [k], [], [d], [], true⟩
  | .vfsgnjS d a b k => some ⟨[], [d, a, b], [k], [], [d], [], true⟩
  | .vfsgnjnS d a b k => some ⟨[], [d, a, b], [k], [], [d], [], true⟩
  | .vfsgnjxS d a b k => some ⟨[], [d, a, b], [k], [], [d], [], true⟩
  | .vfclassS d a k => some ⟨[], [d, a], [k], [], [d], [], true⟩
  | .vfmaD d a b c k => some ⟨[], [d, a, b, c], [k], [], [d], [], true⟩
  | .vfmsD d a b c k => some ⟨[], [d, a, b, c], [k], [], [d], [], true⟩
  | .vfnmaD d a b c k => some ⟨[], [d, a, b, c], [k], [], [d], [], true⟩
  | .vfnmsD d a b c k => some ⟨[], [d, a, b, c], [k], [], [d], [], true⟩
  | .vfmaS d a b c k => some ⟨[], [d, a, b, c], [k], [], [d], [], true⟩
  | .vfmsS d a b c k => some ⟨[], [d, a, b, c], [k], [], [d], [], true⟩
  | .vfnmaS d a b c k => some ⟨[], [d, a, b, c], [k], [], [d], [], true⟩
  | .vfnmsS d a b c k => some ⟨[], [d, a, b, c], [k], [], [d], [], true⟩
  | .vadd d a b _ k => some ⟨[], [d, a, b], [k], [], [d], [], false⟩
  | .vsub d a b _ k => some ⟨[], [d, a, b], [k], [], [d], [], false⟩
  | .vadds d a b _ k => some ⟨[], [d, a, b], [k], [], [d], [], false⟩
  | .vaddus d a b _ k => some ⟨[], [d, a, b], [k], [], [d], [], false⟩
  | .vsubs d a b _ k => some ⟨[], [d, a, b], [k], [], [d], [], false⟩
  | .vsubus d a b _ k => some ⟨[], [d, a, b], [k], [], [d], [], false⟩
  | .vmul d a b _ k => some ⟨[], [d, a, b], [k], [], [d], [], false⟩
  | .vmulh d a b _ k => some ⟨[], [d, a, b], [k], [], [d], [], false⟩
  | .vmulhu d a b _ k => some ⟨[], [d, a, b], [k], [], [d], [], false⟩
  | .vand d a b _ k => some ⟨[], [d, a, b], [k], [], [d], [], false⟩
  | .vor d a b _ k => some ⟨[], [d, a, b], [k], [], [d], [], false⟩
  | .vxor d a b _ k => some ⟨[], [d, a, b], [k], [], [d], [], false⟩
  | .vsll d a b _ k => some ⟨[], [d, a, b], [k], [], [d], [], false⟩
  | .vsrl d a b _ k => some ⟨[], [d, a, b], [k], [], [d], [], false⟩
  | .vsra d a b _ k => some ⟨[], [d, a, b], [k], [], [d], [], false⟩
  | .vmin d a b _ k => some ⟨[], [d, a, b], [k], [], [d], [], false⟩
  | .vmax d a b _ k => some ⟨[], [d, a, b], [k], [], [d], [], false⟩
  | .vminu d a b _ k => some ⟨[], [d, a, b], [k], [], [d], [], false⟩
  | .vmaxu d a b _ k => some ⟨[], [d, a, b], [k], [], [d], [], false⟩
  | .vabs d a _ k => some ⟨[], [d, a], [k], [], [d], [], false⟩
  | .vcmp kd a b _ ty _ k => some ⟨[], [a, b], [kd, k], [], [], [kd], ty.isFloat⟩
  | .vsel d a b k => some ⟨[], [d, a, b], [k], [], [d], [], false⟩
  | .vredFadd d a _ k => some ⟨[], [d, a], [k], [], [d], [], true⟩
  | .vredFmin d a _ k => some ⟨[], [d, a], [k], [], [d], [], true⟩
  | .vredFmax d a _ k => some ⟨[], [d, a], [k], [], [d], [], true⟩
  | .vredAdd d a _ k => some ⟨[], [d, a], [k], [], [d], [], false⟩
  | .vredAnd d a _ k => some ⟨[], [d, a], [k], [], [d], [], false⟩
  | .vredOr d a _ k => some ⟨[], [d, a], [k], [], [d], [], false⟩
  | .vredXor d a _ k => some ⟨[], [d, a], [k], [], [d], [], false⟩
  | .vredMin d a _ k => some ⟨[], [d, a], [k], [], [d], [], false⟩
  | .vredMax d a _ k => some ⟨[], [d, a], [k], [], [d], [], false⟩
  | .vredMinu d a _ k => some ⟨[], [d, a], [k], [], [d], [], false⟩
  | .vredMaxu d a _ k => some ⟨[], [d, a], [k], [], [d], [], false⟩
  | .splat d g _ k => some ⟨[g], [d], [k], [], [d], [], false⟩
  | .extr g v _ _ => some ⟨[g], [v], [], [g], [], [], false⟩
  | .ins v g _ _ => some ⟨[g], [v], [], [], [v], [], false⟩
  | .extrK g kd => some ⟨[g], [], [kd], [g], [], [], false⟩
  | .insK kd g => some ⟨[g], [], [kd], [], [], [kd], false⟩
  | .vperm d a b _ k => some ⟨[], [d, a, b], [k], [], [d], [], false⟩
  | .vcvt d a _ _ _ k => some ⟨[], [d, a], [k], [], [d], [], true⟩
  | .kand kd ka kb => some ⟨[], [], [kd, ka, kb], [], [], [kd], false⟩
  | .kor kd ka kb => some ⟨[], [], [kd, ka, kb], [], [], [kd], false⟩
  | .kxor kd ka kb => some ⟨[], [], [kd, ka, kb], [], [], [kd], false⟩
  | .kandn kd ka kb => some ⟨[], [], [kd, ka, kb], [], [], [kd], false⟩
  | .knot kd ka => some ⟨[], [], [kd, ka], [], [], [kd], false⟩
  | .kli kd _ => some ⟨[], [], [kd], [], [], [kd], false⟩
  | .mabs .. | .mcrd .. | .beq .. | .bne .. | .blt .. | .bge .. | .bltu .. | .bgeu .. | .jal .. | .jalr .. | .loop .. | .loopi ..
  | .iterClaim .. | .iterNext .. | .ldB .. | .ldH .. | .ldW .. | .ldD .. | .ldBu .. | .ldHu .. | .ldWu .. | .lda .. | .stB ..
  | .stH .. | .stW .. | .stD .. | .stl .. | .storeAcknowledgement .. | .lateResult .. | .ldfE .. | .ldfF .. | .ste .. | .fill ..
  | .purge .. | .probe .. | .amoAdd .. | .amoAnd .. | .amoOr .. | .amoXor .. | .amoMin .. | .amoMax .. | .amoSwap ..
  | .amoFaddd .. | .amopAdd .. | .amopAnd .. | .amopOr .. | .amopXor .. | .amopMin .. | .amopMax .. | .amopSwap ..
  | .amopFaddd .. | .casD .. | .casW .. | .dec .. | .msg .. | .msgReply .. | .spawn .. | .dlg .. | .dlgP .. | .mcst .. | .done
  | .shrink .. | .arm .. | .ready .. | .migr .. | .fenceAcq .. | .fenceRel .. | .fenceFull .. | .fenceEng .. | .barArrive ..
  | .barWait .. | .barSync .. | .waitt .. | .srr .. | .srw .. | .trap .. | .eret | .bkpt .. | .report .. | .reportRecordWrite ..
  | .submit .. | .cpsSrc .. | .cpsDst .. | .cpsSstr .. | .cpsDstr .. | .cpsShape .. | .cpsFmt .. | .cpsChan .. | .cpgo ..
  | .btx .. | .qpush .. | .qstat .. | .qstatClr .. | .setOpen .. | .setPut .. | .setTake .. | .setClose .. | .setStat ..
  | .vld .. | .vst .. | .vlds .. | .vsts .. | .vgth .. | .vsct .. | .gzAdd .. | .gzSub .. | .gzMul .. | .gzFma .. | .gzMin ..
  | .gzMax .. | .gzRelu .. | .gzClamp .. | .gzAbs .. | .gzNeg .. | .gzExp2 .. | .gzRcp .. | .gzRsq .. | .gzSel .. | .gzLdr ..
  | .gzLdc .. | .gzCvt .. | .gzBscl .. | .gzSt .. | .gzStt .. | .gzRedr .. | .gzEnd | .mma .. | .mmas .. | .mzero .. | .maccld ..
  | .mdrain .. | .mdpl .. | .msig .. | .tcwCompletion .. | .copy .. | .copyCompletion .. | .blockTransferArrival ..
  | .blockTransferRetry .. | .blockTransferCompletion .. | .transientCondition .. | .setterPut .. | .place .. | .sessionClose ..
  | .handle .. | .amoHandler .. | .amopHandler .. | .casHandler .. | .claimHandler .. | .decHandler .. | .armHandler ..
  | .readyHandler .. | .readyEntryAppend .. | .task .. | .bounceRefusal .. | .registerContext .. | .departure ..
  | .forwardingEntryExpiry .. | .delegate .. | .reply .. | .mcstLine .. | .mcstAcknowledgement .. | .firingStart ..
  | .capsuleCompletion .. | .completionWave .. | .crossPackageAcknowledgement .. | .scannerVisit .. | .admission ..
  | .placement .. | .missedDeadline .. | .deadlineWatchdog .. | .runLimit .. | .readyNotice .. | .go .. | .gangStart ..
  | .preemptInterrupt .. | .resumeRecordWrite .. | .continuationPublish .. | .publishRetry .. | .killMessage ..
  | .routerDiscardExpiry .. | .purgeConfirmed .. | .halt .. | .resume .. | .firewallDrop .. | .rmaRead .. | .rmaWrite ..
  | .fetchAdd .. | .swap .. | .compareSwap .. | .claim .. | .claimWindowClose | .handover .. | .accept .. | .handoverLapse
  | .keepalive .. | .keepaliveTimeout | .readCapability .. | .measure .. | .readLog .. | .status .. | .addKey .. | .revokeKey ..
  | .setGuiltAndLimit .. | .setRunLimit .. | .mapQueue .. | .unmapQueue .. | .stopQueue .. | .restartQueue ..
  | .registerOwnerReportRing .. | .registerEventAddress .. | .mapWindow .. | .unmapWindow .. | .killCapsule .. | .podTable ..
  | .stageFirmware .. | .activateFirmware .. | .openDebugSession .. | .debugSessionStart .. | .closeDebugSession ..
  | .setHaltGroup .. | .powerLimit .. | .powerOn | .dieLinkTraining .. | .portTraining .. | .cxlEnumeration .. | .ptpLock ..
  | .lockLoss | .cxlPortFailure .. | .thermalThrottle | .thermalShutdown | .powerOff | .reset | .fetchFault
  | .illegalInstructionWord .. | .unsupportedUetRequest .. | .unknownManagementCommand .. | .ptpLockTimeout | .powerLimitThrottle => none

/-- The g operands of an instruction that may not stand in an open lookahead window (R37, R39): ldf, ste and fill, the FIRE group, the fences and barriers, waitt,
the SYS group, srw to ALLOT, and the engine commands that can wait at issue for room in their engine's queue; none for every other. -/
def windowBarred (i : Instr) : Option (List Nat) :=
  match i with
  | .ldfE d a | .ldfF d a | .btx d a _ | .setClose d a _ => some [d, a]
  | .ste a b | .fill a b | .arm a b | .report a b => some [a, b]
  | .done | .fenceAcq _ | .fenceRel _ | .fenceFull _ | .fenceEng _ | .barWait _ _ | .eret => some []
  | .shrink a | .ready a | .migr a | .barArrive _ _ a | .barSync _ _ a | .waitt _ a | .trap a | .bkpt a | .qpush a _ => some [a]
  | .srw index a => if index.toNat = 0x001 then some [a] else none
  | .submit d a b | .setPut d a b _ => some [d, a, b]
  | .cpgo d _ => some [d]
  | _ => none

/-! ### The statements' common forms -/

/-- On a ready thread i completes and writes v to g[d]. -/
def Gives (i : Instr) (gs : List Nat) (d : Nat) (v : State → Word) : Prop :=
  ∀ s : State, s.ready gs [] [] = true → ∃ t, exec i s = .next t ∧ Writes s t d (v s)

/-- On a ready thread i completes and writes a result with its flags to g[d]. -/
def GivesF (i : Instr) (gs : List Nat) (d : Nat) (r : State → Nat × Nat) : Prop :=
  ∀ s : State, s.ready gs [] [] = true → ∃ t, exec i s = .next t ∧ WritesF s t d (BitVec.ofNat 64 (r s).1) (r s).2

/-- On a ready thread i completes element by element. -/
def GivesLanes (i : Instr) (gs vs : List Nat) (d k w : Nat) (f : State → Nat → Nat × Nat) : Prop :=
  ∀ s : State, s.ready gs vs [k] = true → ∃ t, exec i s = .next t ∧ WritesLanes s t d k w (f s)

/-- On a ready thread i completes and writes a vector with its flags. -/
def GivesV (i : Instr) (gs vs ks : List Nat) (d : Nat) (r : State → Vec × Nat) : Prop :=
  ∀ s : State, s.ready gs vs ks = true → ∃ t, exec i s = .next t ∧ WritesV s t d (r s).1 (r s).2

/-- On a ready thread i completes and writes a mask. -/
def GivesK (i : Instr) (gs vs ks : List Nat) (d : Nat) (r : State → BitVec 8 × Nat) : Prop :=
  ∀ s : State, s.ready gs vs ks = true → ∃ t, exec i s = .next t ∧ WritesK s t d (r s).1 (r s).2

/-! ### Rounding -/

/-- A number is finite with this real value (R68). -/
def Num.Is (x : Num) (v : ℝ) : Prop :=
  match x with
  | .fin neg m e => v = (if neg then -1 else 1) * ((m : ℝ) * 2 ^ e)
  | .inf _ | .nan _ => False

/-- n is t rounded to an integer, t the magnitude of a value of that sign (R70). -/
def RoundsInt (rm : Nat) (neg : Bool) (t : ℝ) (n : Nat) : Prop :=
  if rm = 0 then |t - n| ≤ 1 / 2 ∧ (|t - n| = 1 / 2 → n % 2 = 0)
  else if rm = 1 ∨ (rm = 2 ∧ neg = false) ∨ (rm = 3 ∧ neg = true) then (n : ℝ) ≤ t ∧ t < n + 1
  else (n : ℝ) - 1 < t ∧ t ≤ n

/-- The pattern r is what a real v that is not zero gives in a format (R70): e is max(floor(log2 |v|), emin), n is |v| in units in the last place at e, rounded
to an integer; beyond the largest finite value the overflow table gives the result. -/
def RoundsTo (f : Fmt) (rm : Nat) (v : ℝ) (r : Nat) : Prop :=
  ∃ (neg : Bool) (e : ℤ) (n : Nat), (neg = true ↔ v < 0) ∧ f.emin ≤ e ∧ |v| < 2 ^ (e + 1) ∧ (e = f.emin ∨ 2 ^ e ≤ |v|) ∧
    RoundsInt rm neg (|v| / 2 ^ (e - f.fb)) n ∧ r < 2 ^ f.width ∧
    let x : ℝ := n * 2 ^ (e - f.fb)
    let largest : ℝ := (2 ^ (f.fb + 1) - 1) * 2 ^ ((f.bias : ℤ) - f.fb)
    (x ≤ largest → (f.decode r).Is ((if neg then -1 else 1) * x) ∧ (f.decode r).neg? = neg) ∧
    (largest < x → r = f.signBit neg + (if rm = 0 ∨ (rm = 2 ∧ neg = true) ∨ (rm = 3 ∧ neg = false) then f.infBits else f.infBits - 1))

/-- A real v is tiny in a format (R71): rounded to the format's precision with an unbounded exponent range, its magnitude lies below 2^emin. -/
def Tiny (f : Fmt) (rm : Nat) (v : ℝ) : Prop :=
  ∃ (neg : Bool) (e : ℤ) (n : Nat), (neg = true ↔ v < 0) ∧ 2 ^ e ≤ |v| ∧ |v| < 2 ^ (e + 1) ∧ RoundsInt rm neg (|v| / 2 ^ (e - f.fb)) n ∧
    (n : ℝ) * 2 ^ (e - f.fb) < 2 ^ f.emin

/-- The flags that rounding a real v that is not zero sets (R71): OF where the rounded value lies beyond the largest finite one; NX where it does, or where it is
not v; UF where it is not v, lies within the format, and v is tiny; and no other flag. -/
def RoundFlags (f : Fmt) (rm : Nat) (v : ℝ) (fl : Nat) : Prop :=
  ∃ (neg : Bool) (e : ℤ) (n : Nat), (neg = true ↔ v < 0) ∧ f.emin ≤ e ∧ |v| < 2 ^ (e + 1) ∧ (e = f.emin ∨ 2 ^ e ≤ |v|) ∧
    RoundsInt rm neg (|v| / 2 ^ (e - f.fb)) n ∧
    let x : ℝ := n * 2 ^ (e - f.fb)
    let largest : ℝ := (2 ^ (f.fb + 1) - 1) * 2 ^ ((f.bias : ℤ) - f.fb)
    fl % 64 = 0 ∧ fl < 512 ∧ (fl.testBit 6 = true ↔ largest < x) ∧ (fl.testBit 8 = true ↔ largest < x ∨ x ≠ |v|) ∧
    (fl.testBit 7 = true ↔ x ≤ largest ∧ x ≠ |v| ∧ Tiny f rm v)

/-- A result and its flags are what rounding a real v that is not zero gives (R70, R71). -/
def Rounds (f : Fmt) (rm : Nat) (v : ℝ) (r : Nat × Nat) : Prop := RoundsTo f rm v r.1 ∧ RoundFlags f rm v r.2

/-- An integer is the real v rounded to one under rm (R70, R96). -/
def RoundsToInt (rm : Nat) (neg : Bool) (v : ℝ) (i : Int) : Prop :=
  ∃ n : Nat, RoundsInt rm neg |v| n ∧ i = if neg then -(n : Int) else n

/-! ### Copies -/

/-- The keys from which n bytes at a are read, and to which m bytes at b are written, one after another, each byte checked by itself; no byte is poisoned or in a
failed CXL set, no tile is open there, and the two ranges do not meet. -/
structure Apart (s : State) (core n m : Nat) (allows : Mesh → Bool) (a b : Word) (ka kb : Nat) : Prop where
  source : ∀ i, i < n → ∃ e, s.reachIf core (a + BitVec.ofNat 64 i) 1 accLoad allows = .ok (.here (ka + i) e)
  target : ∀ i, i < m → ∃ e, s.reachIf core (b + BitVec.ofNat 64 i) 1 accStore allows = .ok (.here (kb + i) e)
  clean : ∀ i, i < n → s.poisoned (ka + i) 1 = false
  takes : ∀ i e, i < m → s.writeFails (.here (kb + i) e) = false
  shut : (∀ i, i < n → s.tileOpen (ka + i) = false) ∧ ∀ i, i < m → s.tileOpen (kb + i) = false
  disjoint : ka + n ≤ kb ∨ kb + m ≤ ka

/-- The address of row r of a copy's side: its base and its two strides of so many bytes, of which the outer one counts every n1 rows (R245). -/
def rowAddress (base strides : Word) (n1 r : Nat) : Word :=
  base + BitVec.ofInt 64 ((BitVec.ofNat 32 (bits strides.toNat 63 32)).toInt * ((r / n1 : Nat) : Int)) +
    BitVec.ofInt 64 ((BitVec.ofNat 32 (bits strides.toNat 31 0)).toInt * ((r % n1 : Nat) : Int))

/-! ### Drains -/

/-- From s to t a Glaze word of segment g has written the 32 values l to its destination, and the segment is at its next word (R242, R270): of the cluster only
its drain has changed, and nothing else has. -/
structure GlazeWrites (s t : State) (g : Segment) (dst : Nat) (l : List Word) : Prop where
  goes : ∃ x, (t.cluster g.cl).drain = some x ∧ x.core = g.d.core ∧ x.row = g.d.row ∧ x.word = g.d.word + 1 ∧ x.column = g.d.column ∧ x.latch = g.d.latch ∧
    x.cache = g.d.cache ∧ (dst = 0 → x.e = l ∧ x.w = g.d.w) ∧
    (dst ≠ 0 → x.e = g.d.e ∧ sget [] x.w (dst - 1) = l ∧ ∀ n, n ≠ dst - 1 → sget [] x.w n = sget [] g.d.w n)
  cluster : { t.cluster g.cl with drain := (s.cluster g.cl).drain } = s.cluster g.cl
  others : ∀ c, c ≠ g.cl → t.cluster c = s.cluster c
  rest : { t with clusters := s.clusters } = s

/-- From s to t an accepted operation of the matrix unit has failed, and its capsule ends with this cause, code and value (R257). -/
def Ends (s t : State) (cap cause : Nat) (code value : Word) : Prop :=
  t.mem = s.mem ∧ (t.cap cap).stage = .killing ∧ ∃ k, (t.cap cap).kill = some k ∧ k.final.cause = cause ∧ k.final.code = code ∧ k.final.value = value

/-! ### Capsules -/

/-- From s to t a capsule has left this package (R130, R214): its clusters are free and at their reset values, and its on-chip memories read zero. -/
structure Gone (s t : State) (n : Nat) : Prop where
  left : (t.cap n).placed = [] ∧ (t.cap n).kill = none
  cores : ∀ c ∈ (s.cap n).cores, (t.core c).capsule = none ∧ (t.core c).ring = [] ∧ (t.core c).slots = []
  threads : ∀ c ∈ (s.cap n).cores, ∀ r, r < 4 → t.thr (4 * c + r) = Thread.reset
  clusters : ∀ cl ∈ (s.cap n).clusters, t.cluster cl = Cluster.reset
  mem : ∀ k, (s.cap n).holdsKey k = true → t.byte k = 0
  tags : ∀ j, (s.cap n).holdsKey (8 * j) = true → t.full (8 * j) = false

/-- From s to t the kill of a capsule has been raised with a cause (R214). -/
def KillRaised (s t : State) (n cause : Nat) : Prop :=
  t.mem = s.mem ∧ (t.cap n).stage = .killing ∧ ∃ k, (t.cap n).kill = some k ∧ k.final.cause = cause ∧ k.swept = [] ∧ k.children = 0

/-- From s to t a capsule has been refused with a code (R194). -/
def Refused (t : State) (n code : Nat) : Prop := (t.cap n).stage = .ended ∧ (t.cap n).refusal = some code

/-! ### The invariant -/

/-- What every step keeps: memory is in its canonical form, bring-up stands at a stage of R231 or before it, the power limit lies within R239's bounds,
and the clock within the main clock's (R1, R240). -/
structure State.Inv (s : State) : Prop where
  memory : Memory.wf s.mem = true
  stage : s.mgmt.stage ≤ 6
  power : 600 ≤ s.mgmt.powerLimit ∧ s.mgmt.powerLimit ≤ 2000
  clock : 1200 ≤ s.mgmt.clockMHz ∧ s.mgmt.clockMHz ≤ 2250

end Sys2Proof.Machine
end

