-- ==== Sys2Proof/Certificates/Slice0/Obligations.lean ====
section
/-! DEFINITION. What is to be proved of the machine. -/

open Sys2Proof Sys2Proof.Machine

/-! ### Encodings -/

/-- Decoding and encoding agree. Every well-formed core instruction decodes from the word that encodes it, with every operand at every value that the
encoding admits (R36, R37, R41), and so does every well-formed Glaze word (R242). -/
def Obligations.RoundTrips : Prop :=
  (
  ∀ i : Instr, i.wf = true → i.kind = .core → encode i < 2 ^ 32 ∧ decodeWord (encode i) = some i
  ) ∧ (
  ∀ i : Instr, i.wf = true → i.kind = .glaze → encode i < 2 ^ 32 ∧ decodeGlaze (encode i) = some i
  )

/-- Words that the manual writes out decode to the instructions it gives them: lui and addi of R52, bfx of R53, mabs of R55, and the loop of R60's
fragment. -/
def Obligations.ManualWordsDecode : Prop :=  decodeWord 0x12346289 = some (.lui 5 0x91A3) ∧
  decodeWord 0xB3C0A282 = some (.addi 5 5 (BitVec.ofInt 13 (-2440))) ∧
  decodeWord 0x1FF80382 = some (.addi 7 0 0x3FF) ∧
  decodeWord 0x01A0E388 = some (.slli 7 7 52) ∧
  decodeWord 0x0E21448B = some (.bfx 9 10 4 7 false) ∧
  decodeWord 0x0401240D = some (.mabs 8 9) ∧
  decodeWord 0x01008019 = some (.loopi 4 4) ∧
  decodeWord 0x00018423 = some (.ldD 8 12 0 0) ∧
  decodeWord 0x00010190 = some (.beq 8 0 3) ∧
  decodeWord 0x00412481 = some (.add 9 9 8) ∧
  decodeWord 0x00418602 = some (.addi 12 12 8)

/-! ### The step -/

/-- A thread that issues a word which decodes to an instruction executes exactly that instruction (R14, R34); before it only time has passed, messages
have arrived at its core and its core's threads have noted what holds them, and around it only the core's count of cycles of H and S, and its last
task thread, follow. A word that is no instruction traps ILLEGAL with the word as its value, and a fetch that fails traps with its cause and the
address it failed at (R34, R37).

A thread issues where the order of R14 picks it: H while it is ready, then S, then T0 and T1 in turn; once H and S have issued for 16 cycles together a
ready task thread comes first. A thread is ready where it is live and not halted, its instruction is not held, and what it sends finds room in its
interface (R188). An issue of H or S counts one more, one of a task thread and a cycle in which nothing issues count from 0 again; H's handlers issue in
such cycles alone, whichever turn brings the cycle about, and no event runs a word in a thread's place.
Where the manual leaves a point open the clause states what the model chose (log 4, 68). -/
def Obligations.StepRunsTheWord : Prop :=
  (
  ∀ (s t : State) (n w cause : Nat) (i : Instr), IssuesIn s t n → roleOf n ≠ 2 → t.me.mode = .capsule →
    (t.fetch = .ok w → decodeWord w = some i → ∃ v, exec i t = .next v ∧ step s = .next (v.issuedBy n (t.core (coreOf n)).shared)) ∧
    (t.fetch = .ok w → w < 2 ^ 32 → decodeWord w = none →
      ∃ v, t.takeTrap causeIllegal (BitVec.ofNat 64 w) = .next v ∧ step s = .next (v.issuedBy n (t.core (coreOf n)).shared)) ∧
    (t.fetch = .error cause → ∃ v, t.takeTrap cause t.fetchVa = .next v ∧ step s = .next (v.issuedBy n (t.core (coreOf n)).shared))
  ) ∧ (
  ∀ (s : State) (c : Nat) (rest : List Turn), Cycles s c rest →
    let u := { s.tick with agenda := rest }.cycleStart c
    (∀ n r, u.picked c = some (n, .next r) → coreOf n = c ∧ ∃ t, step s = .next t ∧ { t with cores := r.cores } = r ∧ (∀ x, x ≠ c → t.core x = r.core x) ∧
      (2 ≤ roleOf n → t.core c = { r.core c with shared := (u.core c).shared + 1 }) ∧
      (roleOf n < 2 → t.core c = { r.core c with shared := 0, lastTask := roleOf n })) ∧
    (u.picked c = none → ∃ t, step s = .next t ∧ { t with cores := u.cores } = u ∧ (∀ x, x ≠ c → t.core x = u.core x) ∧
      t.core c = { u.core c with shared := 0 })
  ) ∧ (
  ∀ (s : State) (i : Instr) (rest : List Turn), s.agenda = .event i :: rest → ofThread i = true → step s = .next { s.tick with agenda := rest }
  ) ∧ (
  ∀ (s : State) (c : Nat), let k := s.core c
    let ready := fun (t : Nat) => (s.readyT t).isSome = true
    let picks := fun (t : Nat) => (s.picked c).map Prod.fst = some t
    let h := (s.readyH c).isSome = true
    let due := 16 ≤ k.shared ∧ (ready (c * 4) ∨ ready (c * 4 + 1))
    let shared := ¬ due ∧ (h ∨ ready (sThread c))
    (picks (hThread c) ↔ ¬ due ∧ h) ∧ (picks (sThread c) ↔ ¬ due ∧ ¬ h ∧ ready (sThread c)) ∧
    (picks (c * 4) ↔ ¬ shared ∧ ready (c * 4) ∧ (ready (c * 4 + 1) → k.lastTask ≠ 0)) ∧
    (picks (c * 4 + 1) ↔ ¬ shared ∧ ready (c * 4 + 1) ∧ (ready (c * 4) → k.lastTask = 0))
  ) ∧ (
  ∀ (s u : State) (n w : Nat) (i : Instr), let t : State := { s with who := n }
    t.me.live = true → t.me.mode = .capsule → roleOf n ≠ 2 → t.haltHolds = false → t.preempted n = false → t.fetch = .ok w → decodeWord w = some i →
    exec i t = .next u → (u.thr n).wait = .nothing → t.overfull u = false → s.readyT n = some (.next u)
  )

/-- No instruction ends the machine's run: each answers a next state in every state. The machine stops only where nothing is to come and the
device has no power (R240); it never refuses.
Where the manual leaves a point open the clause states what the model chose (log 4, 11). -/
def Obligations.TheRunGoesOn : Prop :=
  (
  ∀ (i : Instr) (s : State), ∃ t, exec i s = .next t
  ) ∧ (
  ∀ s : State, (s.agenda = [] ∧ s.mgmt.powered = false → step s = .fault .poweredOff) ∧
    (¬ (s.agenda = [] ∧ s.mgmt.powered = false) → ∃ t, step s = .next t)
  )

/-- Every step keeps the machine's invariant: memory stays in its canonical form, bring-up within its six stages (R231), the power limit within its
bounds (R239) and the clock between the throttle's floor and the main clock (R240). -/
def Obligations.StepKeepsInvariant : Prop := ∀ s t : State, s.Inv → step s = .next t → t.Inv

/-- The machine right after reset meets the invariant, holds no capsule, runs no thread, has no owner and no lock, and stands at bring-up stage 1 (R18,
R228, R231). The registers of a thread are zero, but for k0, which reads all ones (R15); of a core's, MQW is 1 (R18) and TRAPVEC 0x3D800, and the others are
zero; BFMT, the drain memory, the copy shadows, the drain parameters and the queues are zero or empty. The manual gives most of these values for admission or a firing alone; at
reset they are the model's choice (log 1), as is every byte and tag that nothing has written (log 2). -/
def Obligations.ResetState : Prop :=  State.reset.Inv ∧ Memory.wf State.reset.mem = true ∧ State.reset.mgmt.stage = 1 ∧ State.reset.mgmt.owner = none ∧
  State.reset.mgmt.locked = false ∧ State.reset.cycle = 0 ∧ State.reset.podTick = 0 ∧
  (∀ t, let x := State.reset.thr t
    x.live = false ∧ x.mode = .capsule ∧ x.pc = 0 ∧ (∀ n, x.rg n = 0 ∧ x.rv n = 0 ∧ x.rk n = if n = 0 then 0xFF else 0) ∧
    x.fcr = 0 ∧ x.vl = 0 ∧ x.ldepth = 0 ∧ (∀ l, sget 0 x.lstart l = 0 ∧ sget 0 x.lend l = 0 ∧ sget 0 x.lcount l = 0) ∧
    x.trapCause = 0 ∧ x.trapPc = 0 ∧ x.trapVal = 0 ∧ x.shadow = ⟨0, 0, 0, 0, 0, 0, 0, false⟩ ∧
    x.pending = [] ∧ x.requests = [] ∧ x.window = 0 ∧ x.unacked = 0 ∧ x.barRecs = [] ∧ x.handling = none) ∧
  (∀ c, let x := State.reset.core c
    x.capsule = none ∧ x.coord = 0 ∧ x.foot = 0 ∧ x.mqw = 1 ∧ x.trapVec = 0x3D800 ∧ (∀ ch, x.tlwOf ch = 0 ∧ x.lastIssued ch = 0) ∧
    x.inbox = [] ∧ x.ring = [] ∧ x.waiting = [] ∧ x.slots = [] ∧ x.params = ⟨0, 0, 0, 0, 0⟩ ∧ x.unacked = 0 ∧ x.haltGroup = none ∧ x.halted = false) ∧
  (∀ cl, let x := State.reset.cluster cl
    (∀ n, sget 0 x.bfmt n = 0) ∧ x.cur = 7 ∧ x.credit = 0 ∧ x.drainMem = [] ∧ x.directory = [] ∧ x.drain = none ∧ x.copies = [] ∧ x.sessions = [] ∧
    x.setterOps = []) ∧
  (∀ k, State.reset.byte k = 0 ∧ State.reset.full k = false)

/-! ### Issue -/

/-- What an instruction on registers alone meets before it acts. Where it names a pending destination whose window is over it does not
issue: its thread waits for the late result, and nothing else changes (R39). Where its fields break the limits of its format it traps ILLEGAL before any
register is looked up (R37, R38), and where it names a register outside its thread's allotment REGRANGE (R17), each with its word as TRAPVAL.

An instruction that may not stand in an open lookahead window traps ILLEGAL there, whatever its operands hold (R37, R39): ldf, ste and fill, done, shrink, arm, ready and migr,
the fences and barriers, waitt, trap, eret, bkpt, report and submit, srw to ALLOT, cpgo, btx, qpush, set.put and set.close. It waits only for what it waits for at
issue (log 57). -/
def Obligations.IssueChecks : Prop :=
  (
  ∀ (i : Instr) (S : Shape) (s : State) (r : RegName), shapeOf i = some S → s.held ⟨0, S.gs, S.vs, S.ks, false, false⟩ = some r →
    exec i s = .next (s.setMe { s.me with wait := .scoreboard r })
  ) ∧ (
  ∀ (i : Instr) (S : Shape) (s : State), shapeOf i = some S → i.wf = true → s.held ⟨0, S.gs, S.vs, S.ks, false, false⟩ = none →
    s.inRange ⟨0, S.gs, S.vs, S.ks, false, false⟩ = false →
    exec i s = s.takeTrap causeRegrange (BitVec.ofNat 64 (encode i))
  ) ∧ (
  ∀ (i : Instr) (S : Shape) (s : State), shapeOf i = some S → i.wf = false → s.held ⟨0, S.gs, S.vs, S.ks, false, false⟩ = none →
    exec i s = s.takeTrap causeIllegal (BitVec.ofNat 64 (encode i))
  ) ∧ (
  ∀ (i : Instr) (gs : List Nat) (s : State), windowBarred i = some gs → s.me.window ≠ 0 → s.held ⟨0, gs, [], [], false, false⟩ = none →
    (s.me.requests.any fun r => r.2) = false → s.atomicBefore s.me.firing s.nextId = false → s.me.syncArrived = false →
    exec i s = s.takeTrap causeIllegal (BitVec.ofNat 64 (encode i))
  )

/-- On a ready thread an instruction on registers alone completes, and the loop end test runs (R59): it alone moves the PC. loop and loopi open a level
over the next words, with the count and the address of the last instruction; a count of 0 transfers past the body; a body of no words, a body that reaches
beyond the one around it, a fifth level and an H thread trap ILLEGAL (R58). -/
def Obligations.EndTestsAndLoops : Prop :=
  (
  ∀ (i : Instr) (S : Shape) (s : State), shapeOf i = some S → i.wf = true → s.ready S.gs S.vs S.ks = true →
    ∃ t, exec i s = .next t ∧ EndTested s.me t.me
  ) ∧ (
  ∀ (a : G) (imm : BitVec 13) (count : BitVec 10) (len : BitVec 9) (s : State),
    let open_ := fun (i : Instr) (gs : List Nat) (e : Int) (n : Word) =>
      let last := s.me.pc + BitVec.ofInt 64 (4 * e)
      let depth := s.me.ldepth.toNat
      let bad := e ≤ 0 ∨ roleOf s.who = 2 ∨ (0 < depth ∧ (sget 0 s.me.lend (depth - 1)).toNat < last.toNat) ∨ (n ≠ 0 ∧ depth = 4)
      s.ready gs [] [] = true →
        (bad → exec i s = s.takeTrap causeIllegal (BitVec.ofNat 64 (encode i))) ∧
        (¬ bad → n = 0 → ∃ t, exec i s = .next t ∧ Jumps s t (last + 4) ∧ Unwound s.me t.me (last + 4)) ∧
        (¬ bad → n ≠ 0 → depth < 2 ^ 64 - 1 → ∃ t, exec i s = .next t ∧ t.me.pc = s.me.pc + 4 ∧ t.me.ldepth.toNat = depth + 1 ∧
          sget 0 t.me.lstart depth = s.me.pc + 4 ∧ sget 0 t.me.lend depth = last ∧ sget 0 t.me.lcount depth = n ∧
          (∀ l, l ≠ depth → sget 0 t.me.lstart l = sget 0 s.me.lstart l ∧ sget 0 t.me.lend l = sget 0 s.me.lend l ∧
            sget 0 t.me.lcount l = sget 0 s.me.lcount l) ∧
          { t.me with pc := s.me.pc, g := s.me.g, v := s.me.v, lstart := s.me.lstart, lend := s.me.lend, lcount := s.me.lcount,
                      ldepth := s.me.ldepth, pending := s.me.pending, window := s.me.window, wait := s.me.wait } = s.me ∧
          (∀ m, (∀ p ∈ s.me.pending, p.reg ≠ .g m) → t.rg m = s.rg m) ∧
          (∀ m, (∀ p ∈ s.me.pending, p.reg ≠ .v m) → t.rv m = s.rv m) ∧
          { t with threads := s.threads } = s ∧ ∀ m, m ≠ s.who → t.thr m = s.thr m)
    open_ (.loop a imm) [a] imm.toInt (s.rg a) ∧ open_ (.loopi count len) [] len.toNat (count.setWidth 64)
  )

/-- Whatever an instruction on registers alone does, it waits, it traps ILLEGAL or REGRANGE, or it changes nothing but its own thread's PC and
loop registers, its destination, its flags where it sets any, and registers that late results were due for (R39, R59). -/
def Obligations.RegisterFrame : Prop :=  ∀ (i : Instr) (S : Shape) (s t : State), shapeOf i = some S → exec i s = .next t →
    Waits s t ∨ Traps s t [causeIllegal, causeRegrange] ∨ RegFrame s t S.dg S.dv S.dk S.flags

/-! ### Scalar integers -/

/-- The ALU group (R49): the value of each row of the table, from g[a] and g[b] read before g[d] is written, and the unary rows; g0 takes nothing. -/
def Obligations.AluOperations : Prop :=
  (
  ∀ d a b : G,
    let two := fun (f : Word → Word → Word) (i : Instr) => Gives i [d, a, b] d fun s => f (s.rg a) (s.rg b)
    two (fun x y => BitVec.ofNat 64 (x.toNat + y.toNat)) (.add d a b) ∧
    two (fun x y => BitVec.ofInt 64 ((x.toNat : Int) - y.toNat)) (.sub d a b) ∧
    two (fun x y => x &&& y) (.and d a b) ∧
    two (fun x y => x ||| y) (.or d a b) ∧
    two (fun x y => x ^^^ y) (.xor d a b) ∧
    two (fun x y => x &&& ~~~y) (.andn d a b) ∧
    two (fun x y => x ||| ~~~y) (.orn d a b) ∧
    two (fun x y => x <<< (y &&& 63)) (.sll d a b) ∧
    two (fun x y => x >>> (y &&& 63)) (.srl d a b) ∧
    two (fun x y => BitVec.ofInt 64 (x.toInt / 2 ^ (y &&& 63).toNat)) (.sra d a b) ∧
    two (fun x y => x <<< (y &&& 63) ||| x >>> ((64 : Word) - (y &&& 63))) (.rol d a b) ∧
    two (fun x y => x >>> (y &&& 63) ||| x <<< ((64 : Word) - (y &&& 63))) (.ror d a b) ∧
    two (fun x y => if x.toInt < y.toInt then 1 else 0) (.slt d a b) ∧
    two (fun x y => if x.toNat < y.toNat then 1 else 0) (.sltu d a b) ∧
    two (fun x y => if x = y then 1 else 0) (.seq d a b) ∧
    two (fun x y => if x ≠ y then 1 else 0) (.sne d a b) ∧
    two (fun x y => if x.toInt ≤ y.toInt then x else y) (.min d a b) ∧
    two (fun x y => if x.toInt ≤ y.toInt then y else x) (.max d a b) ∧
    two (fun x y => if x.toNat ≤ y.toNat then x else y) (.minu d a b) ∧
    two (fun x y => if x.toNat ≤ y.toNat then y else x) (.maxu d a b) ∧
    two (fun x y => BitVec.ofNat 64 (x.toNat * y.toNat)) (.mul d a b) ∧
    two (fun x y => (x.signExtend 128 * y.signExtend 128).extractLsb' 64 64) (.mulh d a b) ∧
    two (fun x y => (x.setWidth 128 * y.setWidth 128).extractLsb' 64 64) (.mulhu d a b) ∧
    two (fun x y => (x.signExtend 128 * y.setWidth 128).extractLsb' 64 64) (.mulhsu d a b) ∧
    two (fun x y => if y = 0 then BitVec.allOnes 64 else x.sdiv y) (.div d a b) ∧
    two (fun x y => if y = 0 then BitVec.allOnes 64 else x / y) (.divu d a b) ∧
    two (fun x y => if y = 0 then x else x.srem y) (.rem d a b) ∧
    two (fun x y => if y = 0 then x else x % y) (.remu d a b)
  ) ∧ (
  ∀ d a : G,
    let one := fun (f : Word → Word) (i : Instr) => Gives i [d, a] d fun s => f (s.rg a)
    one (fun x => BitVec.ofNat 64 (if x = 0 then 64 else 63 - x.toNat.log2)) (.clz d a) ∧
    one (fun x => x.ctz) (.ctz d a) ∧
    one (fun x => BitVec.ofNat 64 ((List.range 64).countP fun i => x.getLsbD i)) (.popc d a) ∧
    one (fun x => x.reverse) (.brev d a) ∧
    one (fun x => x.extractLsb' 0 8 ++ x.extractLsb' 8 8 ++ x.extractLsb' 16 8 ++ x.extractLsb' 24 8 ++ x.extractLsb' 32 8 ++
      x.extractLsb' 40 8 ++ x.extractLsb' 48 8 ++ x.extractLsb' 56 8) (.bswap d a) ∧
    one (fun x => (x.setWidth 8).signExtend 64) (.sextB d a) ∧
    one (fun x => (x.setWidth 16).signExtend 64) (.sextH d a) ∧
    one (fun x => (x.setWidth 32).signExtend 64) (.sextW d a) ∧
    one (fun x => x &&& 0xFFFFFFFF) (.zextW d a)
  )

/-- The immediate forms (R50) and the shift immediates (R51): the value each writes to g[d], and the words of their encodings. -/
def Obligations.ImmediateForms : Prop :=  ∀ (d a : G) (imm : BitVec 13) (n : Fin 64),
    let one := fun (f : Word → Word) (i : Instr) => Gives i [d, a] d fun s => f (s.rg a)
    let y : Word := BitVec.ofInt 64 imm.toInt
    one (fun x => x + y) (.addi d a imm) ∧
    one (fun x => x &&& y) (.andi d a imm) ∧
    one (fun x => x ||| y) (.ori d a imm) ∧
    one (fun x => x ^^^ y) (.xori d a imm) ∧
    one (fun x => if x.toInt < imm.toInt then 1 else 0) (.slti d a imm) ∧
    one (fun x => if x.toNat < y.toNat then 1 else 0) (.sltiu d a imm) ∧
    one (fun x => BitVec.ofNat 64 (x.toNat * 2 ^ n.val)) (.slli d a n) ∧
    one (fun x => BitVec.ofNat 64 (x.toNat / 2 ^ n.val)) (.srli d a n) ∧
    one (fun x => BitVec.ofInt 64 (x.toInt / 2 ^ n.val)) (.srai d a n) ∧
    one (fun x => BitVec.ofNat 64 (x.toNat / 2 ^ n.val + x.toNat * 2 ^ (64 - n.val))) (.rori d a n) ∧
    (let word := fun (op sub field : Nat) => op + d.val * 2 ^ 7 + a.val * 2 ^ 13 + field * 2 ^ 19 + sub * 2 ^ 25
     encode (.addi d a imm) = word 0x02 0 imm.toNat ∧ encode (.andi d a imm) = word 0x03 0 imm.toNat ∧
     encode (.ori d a imm) = word 0x04 0 imm.toNat ∧ encode (.xori d a imm) = word 0x05 0 imm.toNat ∧
     encode (.slti d a imm) = word 0x06 0 imm.toNat ∧ encode (.sltiu d a imm) = word 0x07 0 imm.toNat ∧
     encode (.slli d a n) = word 0x08 0 n.val ∧ encode (.srli d a n) = word 0x08 1 n.val ∧
     encode (.srai d a n) = word 0x08 2 n.val ∧ encode (.rori d a n) = word 0x08 3 n.val)

/-- lui and adpc (R52), bfx and bfi (R53): with lsb + w ≤ 64 the bit field is taken or replaced bit by bit; beyond that the
instruction traps ILLEGAL. -/
def Obligations.ConstantsAndBitFields : Prop :=  ∀ (d a : G) (imm : BitVec 19) (lsb wm1 : Fin 64),
    Gives (.lui d imm) [d] d (fun _ => BitVec.ofInt 64 (imm.toInt * 2 ^ 13)) ∧
    Gives (.adpc d imm) [d] d (fun s => BitVec.ofInt 64 ((s.cap s.myCap).image.codeVa + s.me.pc.toNat + imm.toInt * 2 ^ 13)) ∧
    (lsb.val + wm1.val < 64 →
      Gives (.bfx d a lsb wm1 false) [d, a] d (fun s => ((s.rg a).extractLsb' lsb.val (wm1.val + 1)).setWidth 64) ∧
      Gives (.bfx d a lsb wm1 true) [d, a] d (fun s => ((s.rg a).extractLsb' lsb.val (wm1.val + 1)).signExtend 64) ∧
      ∀ s : State, s.ready [d, a] [] [] = true → ∃ t v, exec (.bfi d a lsb wm1) s = .next t ∧ Writes s t d v ∧
        ∀ j, j < 64 → v.getLsbD j = if lsb.val ≤ j ∧ j ≤ lsb.val + wm1.val then (s.rg a).getLsbD (j - lsb.val) else (s.rg d).getLsbD j) ∧
    (64 ≤ lsb.val + wm1.val → ∀ (s : State) (sx : Bool), s.held ⟨0, [d, a], [], [], false, false⟩ = none →
      exec (.bfx d a lsb wm1 sx) s = s.takeTrap causeIllegal (BitVec.ofNat 64 (encode (.bfx d a lsb wm1 sx))) ∧
      exec (.bfi d a lsb wm1) s = s.takeTrap causeIllegal (BitVec.ofNat 64 (encode (.bfi d a lsb wm1))))

/-- g0 reads zero whatever an instruction has written to it, and k0 reads all ones (R15): in every state, for every thread. -/
def Obligations.ConstantRegisters : Prop :=  ∀ (t : Thread) (v : Word) (m : BitVec 8), t.rg 0 = 0 ∧ (t.wg 0 v).rg 0 = 0 ∧ (t.wg 0 v).g = t.g ∧ t.rk 0 = 0xFF ∧ t.wk 0 m = t ∧
    (∀ n, n ≠ 0 → (t.wg n v).rg n = v ∧ (t.wk n m).rk n = m) ∧
    ∀ n j, n ≠ j → (t.wg n v).rg j = t.rg j ∧ (t.wk n m).rk j = t.rk j

/-! ### Mesh addresses -/

/-- madr and mrel put a mesh address together from its parts; mabs and mcrd resolve one, give a virtual address back or all ones for it, and
trap MESHBOUND where the address reaches nothing (R55).
Where the manual leaves a point open the clause states what the model chose (log 70). -/
def Obligations.MeshAddresses : Prop :=  ∀ d a b : G,
    Gives (.madr d a b) [d, a, b] d (fun s => (2 : BitVec 2) ++ (s.rg a).setWidth 24 ++ (s.rg b).setWidth 38) ∧
    Gives (.mrel d a b) [d, a, b] d (fun s => (3 : BitVec 2) ++ (s.rg a).setWidth 24 ++ (s.rg b).setWidth 38) ∧
    ∀ s : State, s.ready [d, a] [] [] = true →
      ((s.rg a).toNat < 2 ^ 63 →
        (∃ t, exec (.mabs d a) s = .next t ∧ Writes s t d (s.rg a)) ∧
        ∃ t, exec (.mcrd d a) s = .next t ∧ Writes s t d 0xFFFFFFFFFFFFFFFF) ∧
      (2 ^ 63 ≤ (s.rg a).toNat → s.resolve (coreOf s.who) (s.rg a) 1 = none →
        exec (.mabs d a) s = s.takeTrap causeMeshbound (s.rg a) ∧ exec (.mcrd d a) s = s.takeTrap causeMeshbound (s.rg a)) ∧
      ∀ m, 2 ^ 63 ≤ (s.rg a).toNat → s.resolve (coreOf s.who) (s.rg a) 1 = some m → (s.cap s.myCap).image.packages ≤ 4096 →
        (s.cap s.myCap).image.dies ≤ 4 →
        (∃ t v, exec (.mabs d a) s = .next t ∧ Writes s t d v ∧ bits v.toNat 63 62 = 2 ∧ bits v.toNat 61 50 = m.package ∧
          bits v.toNat 49 48 = m.die ∧ bits v.toNat 47 44 = m.col ∧ bits v.toNat 43 41 = m.row ∧ bits v.toNat 40 38 = m.core ∧
          bits v.toNat 37 35 = m.unit ∧ bits v.toNat 34 0 = m.offset) ∧
        ∃ t v, exec (.mcrd d a) s = .next t ∧ Writes s t d v ∧ bits v.toNat 63 27 = 0 ∧ bits v.toNat 26 24 = m.unit ∧
          bits v.toNat 23 12 = m.package ∧ bits v.toNat 11 10 = m.die ∧ bits v.toNat 9 6 = m.col ∧ bits v.toNat 5 3 = m.row ∧
          bits v.toNat 2 0 = m.core

/-! ### Control flow -/

/-- A branch compares g[a] with g[b]; taken it goes to PC + 4 × imm, else to the next word (R56). jal and jalr write PC + 4 and transfer; jalr to an
address that is no multiple of 4 traps ALIGN (R57). Every taken transfer pops the loop levels whose bodies its target leaves, and no other (R59). -/
def Obligations.BranchesAndJumps : Prop :=
  (
  ∀ (d a b : G) (imm : BitVec 13) (far : BitVec 19) (s : State),
    let x := s.rg a
    let y := s.rg b
    let go := fun (i : Instr) (taken : Prop) => s.ready [a, b] [] [] = true → ∃ t, exec i s = .next t ∧
      (taken → Jumps s t (s.me.pc + BitVec.ofInt 64 (4 * imm.toInt))) ∧ (¬ taken → Passes s t)
    go (.beq a b imm) (x = y) ∧ go (.bne a b imm) (x ≠ y) ∧ go (.blt a b imm) (x.toInt < y.toInt) ∧
    go (.bge a b imm) (y.toInt ≤ x.toInt) ∧ go (.bltu a b imm) (x.toNat < y.toNat) ∧ go (.bgeu a b imm) (y.toNat ≤ x.toNat) ∧
    (s.ready [d] [] [] = true → ∃ t, exec (.jal d far) s = .next t ∧
      Links s t d (s.me.pc + 4) (s.me.pc + BitVec.ofInt 64 (4 * far.toInt))) ∧
    (s.ready [d, a] [] [] = true →
      ((x + BitVec.ofInt 64 imm.toInt).toNat % 4 = 0 → ∃ t, exec (.jalr d a imm) s = .next t ∧
        Links s t d (s.me.pc + 4) (x + BitVec.ofInt 64 imm.toInt)) ∧
      ((x + BitVec.ofInt 64 imm.toInt).toNat % 4 ≠ 0 →
        exec (.jalr d a imm) s = s.takeTrap causeAlign (x + BitVec.ofInt 64 imm.toInt)))
  ) ∧ (
  ∀ (d a b : G) (imm : BitVec 13) (far : BitVec 19) (s t : State), s.ready [d, a, b] [] [] = true →
    (s.rg a = s.rg b → exec (.beq a b imm) s = .next t → Unwound s.me t.me t.me.pc) ∧
    (s.rg a ≠ s.rg b → exec (.bne a b imm) s = .next t → Unwound s.me t.me t.me.pc) ∧
    ((s.rg a).toInt < (s.rg b).toInt → exec (.blt a b imm) s = .next t → Unwound s.me t.me t.me.pc) ∧
    ((s.rg b).toInt ≤ (s.rg a).toInt → exec (.bge a b imm) s = .next t → Unwound s.me t.me t.me.pc) ∧
    ((s.rg a).toNat < (s.rg b).toNat → exec (.bltu a b imm) s = .next t → Unwound s.me t.me t.me.pc) ∧
    ((s.rg b).toNat ≤ (s.rg a).toNat → exec (.bgeu a b imm) s = .next t → Unwound s.me t.me t.me.pc) ∧
    (exec (.jal d far) s = .next t → Unwound s.me t.me t.me.pc) ∧
    ((s.rg a + BitVec.ofInt 64 imm.toInt).toNat % 4 = 0 → exec (.jalr d a imm) s = .next t → Unwound s.me t.me t.me.pc)
  )

/-! ### Addresses and access -/

/-- A mesh address reaches the core, unit and offset that it names: its fields are taken as they stand, or as signed deltas from the
issuer's coordinates when rel is set, and every field that its unit uses must lie in the footprint and the unit (R30, R31).

The checks of an access, in the order of R38: ALIGN; MESHBOUND for a mesh address that reaches nothing, EXTENT for a virtual address that no
extent holds; RIGHTS where the unit or the extent does not allow it (R24, R29, R64, R182, R184, R187).
Where the manual leaves a point open the clause states what the model chose (log 7, 21, 70). -/
def Obligations.MeshResolutionAndAccessChecks : Prop :=
  (
  ∀ (s : State) (core n : Nat) (a : Word),
    let c := s.cap (s.capOf core)
    let own := (s.core core).coord.toNat
    let sum := fun (o hi lo w : Nat) => if bits a.toNat 62 62 = 1 then (o : Int) + (BitVec.ofNat w (bits a.toNat hi lo)).toInt
      else (bits a.toNat hi lo : Int)
    let package := sum (bits own 23 12) 61 50 12
    let die := sum (bits own 11 10) 49 48 2
    let col := sum (bits own 9 6) 47 44 4
    let row := sum (bits own 5 3) 43 41 3
    let cor := sum (bits own 2 0) 40 38 3
    let unit := bits a.toNat 37 35
    let offset := bits a.toNat 34 0
    let within := fun (x : Int) (m : Nat) => 0 ≤ x ∧ x < m
    let legal := unit ≤ 4 ∧ within package c.image.packages ∧ within die c.image.dies ∧
      (unit ≠ 2 → within col (c.colsIn (bits own 23 12) package.toNat die.toNat) ∧ within row c.image.rows) ∧ (unit = 0 ∨ unit = 4 → within cor 8) ∧
      offset + n ≤ (if unit = 0 then 2 ^ 18 else if unit = 1 then 2 ^ 22 else if unit = 2 then c.image.dsramKib * 1024
        else if unit = 3 then 2 ^ 19 else 2 ^ 12)
    (¬ legal → s.resolve core a n = none) ∧
    (legal → ∃ m, s.resolve core a n = some m ∧ (m.package : Int) = package ∧ (m.die : Int) = die ∧ m.unit = unit ∧ m.offset = offset ∧
      (m.col : Int) = col % 16 ∧ (m.row : Int) = row % 8 ∧ (m.core : Int) = cor % 8)
  ) ∧ (
  ∀ (s : State) (core n : Nat) (a : Word) (acc : Acc),
    let c := s.cap (s.capOf core)
    (a.toNat % n ≠ 0 → s.access core a n acc = .error causeAlign) ∧
    (a.toNat % n = 0 →
      (2 ^ 63 ≤ a.toNat →
        (s.resolve core a n = none → s.access core a n acc = .error causeMeshbound) ∧
        ∀ m, s.resolve core a n = some m →
          (m.unit = 4 → s.access core a n acc = .error causeRights) ∧
          (m.unit = 0 → 0x3D800 ≤ m.offset → s.access core a n acc = .error causeRights) ∧
          (m.unit = 0 → 0x39800 ≤ m.offset → acc.byH = false → s.access core a n acc = .error causeRights) ∧
          (m.unit = 0 → 0x39800 ≤ m.offset → acc.writes = true → s.access core a n acc = .error causeRights) ∧
          (m.unit = 3 → acc.atomic = true → s.access core a n acc = .error causeRights) ∧
          (m.unit = 0 ∧ m.offset < 0x39800 ∨ m.unit = 1 ∨ m.unit = 2 ∨ (m.unit = 3 ∧ acc.atomic = false) →
            m.package = bits (s.core core).coord.toNat 23 12 → ∀ p, c.placed[m.die]? = some p →
            let cl := p.die * 96 + (p.row + m.row) * 12 + p.col + m.col
            s.access core a n acc = .ok (.here
              (if m.unit = 0 then tcmKey (cl * 8 + m.core) m.offset else if m.unit = 1 then spadKey cl m.offset
                else if m.unit = 2 then dsramKey p.die (p.sram + m.offset) else accKey cl m.offset) none)) ∧
          (m.unit = 1 → m.package ≠ bits (s.core core).coord.toNat 23 12 → s.access core a n acc = .ok (.peer (c.podOf m.package) a.toNat))) ∧
      (a.toNat < 2 ^ 63 →
        (2 ^ 57 ≤ a.toNat → s.access core a n acc = .error causeExtent) ∧
        (findExtent c.image.extents a.toNat = none → s.access core a n acc = .error causeExtent) ∧
        ∀ i e, a.toNat < 2 ^ 57 → findExtent c.image.extents a.toNat = some i → c.image.extents[i]? = some e →
          (e.rights &&& acc.need ≠ acc.need → s.access core a n acc = .error causeRights) ∧
          (e.rights &&& acc.need = acc.need → acc.writes = true → s.codeLocked (extentKey e a.toNat) n = true →
            s.access core a n acc = .error causeRights) ∧
          (e.rights &&& acc.need = acc.need → (acc.writes = true → s.codeLocked (extentKey e a.toNat) n = false) →
            s.worldRefuses c (extentKey e a.toNat) = false →
            s.access core a n acc = .ok (.here (handleKey e.handle + (a.toNat - e.vaBase)) (some i)))))
  )

/-- Loads read n bytes at g[a] plus the scaled offset, extend them and leave them in g[d] at once or behind a window; a check that fails traps with the
address, and poison ends in MEMERR (R39, R63, R65, R213). A load of bytes that a posted atomic of its thread will write waits for it, which the model reads from R166 (log 57).
Where the manual leaves a point open the clause states what the model chose (log 6, 12, 57). -/
def Obligations.Loads : Prop :=  ∀ (d a : G) (imm : BitVec 9) (la : La) (sz : Width) (sc : Scope) (s : State), s.readyMem [d, a] [] [] = true →
    let ld := fun (i : Instr) (n : Nat) (off : Int) (ext : Nat → Word) =>
      let addr := s.rg a + BitVec.ofInt 64 off
      (∀ c, s.access (coreOf s.who) addr n s.loadAcc = .error c → exec i s = s.takeTrap c addr) ∧
      ∀ p, s.access (coreOf s.who) addr n s.loadAcc = .ok p →
        (s.postedAt p n = true → exec i s = .next (s.setMe { s.me with wait := .posted })) ∧
        (s.postedAt p n = false → s.poisonedAt p n = true → exec i s = s.takeTrap causeMemerr addr) ∧
        (s.postedAt p n = false → s.poisonedAt p n = false → ∃ t v, exec i s = .next t ∧ LoadsG s t d la (ext v) p.far ∧
          ∀ k e, p = .here k e → s.tileOpen k = false → v = s.bytes k n)
    ld (.ldB d a imm la) 1 imm.toInt (fun v => (BitVec.ofNat 8 v).signExtend 64) ∧
    ld (.ldH d a imm la) 2 (2 * imm.toInt) (fun v => (BitVec.ofNat 16 v).signExtend 64) ∧
    ld (.ldW d a imm la) 4 (4 * imm.toInt) (fun v => (BitVec.ofNat 32 v).signExtend 64) ∧
    ld (.ldD d a imm la) 8 (8 * imm.toInt) (fun v => BitVec.ofNat 64 v) ∧
    ld (.ldBu d a imm la) 1 imm.toInt (fun v => BitVec.ofNat 64 v) ∧
    ld (.ldHu d a imm la) 2 (2 * imm.toInt) (fun v => BitVec.ofNat 64 v) ∧
    ld (.ldWu d a imm la) 4 (4 * imm.toInt) (fun v => BitVec.ofNat 64 v) ∧
    ld (.lda d a sz sc la) (match sz with | .b => 1 | .h => 2 | .w => 4 | .d => 8) 0 (fun v => BitVec.ofNat 64 v)

/-- Stores write the low n bytes of g[s] at g[a] plus the scaled offset, and nothing else in memory; a check that fails traps with the lowest failing byte (R204), and a
failed CXL set gives MEMERR (R230). A store into an accumulator tile that an accepted TCW writes leaves the whole tile open, and nothing beyond it changes (R29). stl waits until
every posted atomic of its thread is performed (R63, R65, R140); a store to bytes that one of them will write waits for it, which the model reads from R163
(log 57).
Where the manual leaves a point open the clause states what the model chose (log 3, 8, 57, 76). -/
def Obligations.StoresWrite : Prop :=  ∀ (a v : G) (imm : BitVec 9) (la : La) (sz : Width) (sc : Scope) (s : State), s.readyMem [a, v] [] [] = true →
    let st := fun (i : Instr) (n : Nat) (off : Int) =>
      let addr := s.rg a + BitVec.ofInt 64 off
      (∀ c, s.access (coreOf s.who) addr n accStore = .error c →
        ∃ x, exec i s = s.takeTrap c x ∧ s.FailsAt (coreOf s.who) addr n accStore c x) ∧
      ∀ p, s.access (coreOf s.who) addr n accStore = .ok p →
        (s.postedAt p n = true → exec i s = .next (s.setMe { s.me with wait := .posted })) ∧
        (s.postedAt p n = false → s.writeFails p = true → exec i s = s.takeTrap causeMemerr addr) ∧
        (s.postedAt p n = false → s.writeFails p = false → ∃ t, exec i s = .next t ∧ Stores s t p n (s.rg v).toNat la)
    st (.stB a v imm la) 1 imm.toInt ∧ st (.stH a v imm la) 2 (2 * imm.toInt) ∧ st (.stW a v imm la) 4 (4 * imm.toInt) ∧
    st (.stD a v imm la) 8 (8 * imm.toInt) ∧
    (s.atomicBefore s.me.firing s.nextId = false →
      st (.stl a v sz sc la) (match sz with | .b => 1 | .h => 2 | .w => 4 | .d => 8) 0) ∧
    (s.atomicBefore s.me.firing s.nextId = true → exec (.stl a v sz sc la) s = .next (s.setMe { s.me with wait := .posted }))

/-- A late result past its window is written to its register and is no longer pending, to a vector register in the bits that it brings; inside the window it waits; a result whose request was
cancelled is discarded; an acknowledged store leaves its firing's count (R39, R63). A result for a firing that departed to a peer package is sent on to it, if
its context was owed that request, and arrives there at the register of the firing that the peer names (R127).
Where the manual leaves a point open the clause states what the model chose (log 4, 8). -/
def Obligations.LateResultsAndAcknowledgements : Prop :=  ∀ s : State,
    (∀ (n t d left : Nat) (v : Word) (far : Bool) (r : LoadReply), s.loads[n]? = some r → s.threadOf r.firing = some t →
      r = ⟨r.firing, r.core, r.request, .g d, lateG v, far⟩ → d ≠ 0 → (s.thr t).pending = [⟨r.request, .g d, left, none⟩] →
      ∃ u, exec (.lateResult n) s = .next u ∧ u.loads = s.loads.eraseIdx n ∧
        { u with loads := s.loads, threads := s.threads } = s ∧ (∀ m, m ≠ t → u.thr m = s.thr m) ∧
        (left = 0 → (u.thr t).rg d = v ∧ (u.thr t).pending = [] ∧ ∀ m, m ≠ d → (u.thr t).rg m = (s.thr t).rg m) ∧
        (left ≠ 0 → (u.thr t).pending = [⟨r.request, .g d, left, some (lateG v)⟩] ∧ ∀ m, (u.thr t).rg m = (s.thr t).rg m)) ∧
    (∀ (n t d left : Nat) (r : LoadReply), s.loads[n]? = some r → s.threadOf r.firing = some t → r.reg = .v d →
      (s.thr t).pending = [⟨r.request, .v d, left, none⟩] →
      ∃ u, exec (.lateResult n) s = .next u ∧ u.loads = s.loads.eraseIdx n ∧
        { u with loads := s.loads, threads := s.threads } = s ∧ (∀ m, m ≠ t → u.thr m = s.thr m) ∧ (∀ m, (u.thr t).rg m = (s.thr t).rg m) ∧
        (left = 0 → (u.thr t).pending = [] ∧ ∀ m, (u.thr t).rv m = if m = d then r.value.onto ((s.thr t).rv d) else (s.thr t).rv m) ∧
        (left ≠ 0 → (u.thr t).pending = [⟨r.request, .v d, left, some r.value⟩] ∧ ∀ m, (u.thr t).rv m = (s.thr t).rv m)) ∧
    (∀ (n t : Nat) (r : LoadReply), s.loads[n]? = some r → s.threadOf r.firing = some t →
      (∀ p ∈ (s.thr t).pending, p.id ≠ r.request ∧ p.value = none) →
      ∃ u, exec (.lateResult n) s = .next u ∧ u.loads = s.loads.eraseIdx n ∧ (u.thr t) = (s.thr t) ∧ u.mem = s.mem) ∧
    (∀ (n d : Nat) (v : Word) (far : Bool) (r : LoadReply) (f : Forward), s.loads[n]? = some r → s.threadOf r.firing = none →
      s.departed r.firing = some f → r = ⟨r.firing, r.core, r.request, .g d, lateG v, far⟩ →
      ∃ u, exec (.lateResult n) s = .next u ∧ u.loads = s.loads.eraseIdx n ∧ { u with loads := s.loads, outbox := s.outbox } = s ∧
        (r.request ∉ f.owed → u.outbox = s.outbox) ∧
        (r.request ∈ f.owed → u.outbox = (s.toPod ((s.cap (s.capOf r.core)).podOf (f.target - coreCount)) 14
          (toBytes 4 f.origin.toNat ++ toBytes 8 f.firing ++ toBytes 4 d ++ toBytes 8 v.toNat)).outbox)) ∧
    (∀ (package n firing reg : Nat) (v : Word) (l : PeerLoad), s.mgmt.powered = true → s.reachable = true → s.peerLoads = [l] →
      (l.capsule = n ∧ l.package = package ∧ l.theirs = firing ∧ l.reg = reg → s.hear (.lateResult package n firing reg v) = .next
        { s with peerLoads := [], loads := s.loads ++ [⟨l.firing, (s.cap n).door, l.request, .g reg, lateG v, true⟩] }) ∧
      (¬ (l.capsule = n ∧ l.package = package ∧ l.theirs = firing ∧ l.reg = reg) → s.hear (.lateResult package n firing reg v) = .next s)) ∧
    (∀ n f c, s.stores[n]? = some (f, c) →
      ∃ u, exec (.storeAcknowledgement n) s = .next u ∧ u.stores = s.stores.eraseIdx n ∧ u.mem = s.mem ∧
        (∀ t, t / 4 = c → (s.thr t).live = true → (s.thr t).firing = f → f ≠ 0 →
          (∀ t', t' / 4 = c → t' ≠ t → (s.thr t').live = true → (s.thr t').firing ≠ f) →
          u.thr t = { s.thr t with unacked := (s.thr t).unacked - 1 } ∧ u.cores = s.cores) ∧
        ((∀ t, t / 4 = c → (s.thr t).live = true → (s.thr t).firing ≠ f) →
          u.core c = { s.core c with unacked := (s.core c).unacked - 1 } ∧ u.threads = s.threads))

/-! ### Tagged memory -/

/-- ldf, ste and fill at a word of this package whose queue is empty (R148): where the condition holds they complete at once with their effect on the word and
its tag; ldf.e and ldf.f of an EMPTY word and ste of a FULL one wait in the word's queue.

purge sets the tags of g[b] words EMPTY and leaves their values; probe reads the tag in bit 0 and whether requests wait in bit 1, and changes nothing. A purge
of no word or of more than 32,768 traps ILLEGAL, one beyond the scratchpad MESHBOUND (R152).

A change of a word's tag serves its queue from the head, each request once its condition holds (R149): a fill of a word where an ldf.e waits
gives that thread the value and leaves the word EMPTY; where an ldf.f waits the word stays FULL. What is served is the queue's beginning, in order, up to a
request that cannot proceed; the queues of other words stay. An ldf that waits and is served where the word lies on a poisoned line raises MEMERR at
its address, with its destination unwritten (R213).

At a word of a peer package each leaves to it as what it is; an ldf or ste waits for the answer, and completes with it. A peer core's operation on a word
here acts on the word, its tag and its queue as one of a core here does, and is answered.
Where the manual leaves a point open the clause states what the model chose (log 4, 6, 8, 13, 21). -/
def Obligations.TaggedMemory : Prop :=
  (
  ∀ (d a b : G) (s : State) (m : Mesh) (k : Nat) (e : Option Nat),
    s.meshOnly (coreOf s.who) (s.rg a) 8 tagUnit = .ok m → s.placeOf (coreOf s.who) m = .here k e → s.noWindow = true →
    s.poisoned k 8 = false → s.tagQueue = [] → roleOf s.who ≠ 2 →
    (s.readyMem [d, a] [] [] = true → s.postedTo s.me.firing k 8 = false →
      (s.full k = true →
        (∃ t, exec (.ldfE d a) s = .next t ∧ t.rg d = (if d.val = 0 then 0 else s.mem64 k) ∧ t.full k = false ∧
          (∀ j, j / 8 ≠ k / 8 → t.full j = s.full j) ∧ t.mem = s.mem ∧ RegFrame s { t with tags := s.tags } [d] [] [] false ∧
          (s.me.ldepth = 0 → t.me.pc = s.me.pc + 4)) ∧
        ∃ t, exec (.ldfF d a) s = .next t ∧ Writes s t d (s.mem64 k)) ∧
      (s.full k = false →
        exec (.ldfE d a) s = .next ({ s with tagQueue := [⟨k, 0, s.who, d, 0, none, s.rg a⟩] }.setMe { s.me with wait := .tag k }) ∧
        exec (.ldfF d a) s = .next ({ s with tagQueue := [⟨k, 1, s.who, d, 0, none, s.rg a⟩] }.setMe { s.me with wait := .tag k }))) ∧
    (s.readyRelease [a, b] [] [] = true →
      let filled := fun (t : State) => t.mem64 k = s.rg b ∧ t.full k = true ∧ MemFrame s t (span k 8) ∧
        (∀ j, j / 8 ≠ k / 8 → t.full j = s.full j) ∧ t.tagQueue = [] ∧ t.stores = s.stores ++ [(s.me.firing, coreOf s.who)] ∧
        (∀ n, (∀ p ∈ s.me.pending, p.reg ≠ .g n) → t.rg n = s.rg n) ∧ (∀ n, n ≠ s.who → t.thr n = s.thr n) ∧
        (s.me.ldepth = 0 → t.me.pc = s.me.pc + 4)
      (s.full k = false → ∃ t, exec (.ste a b) s = .next t ∧ filled t) ∧
      (s.full k = true → exec (.ste a b) s = .next ({ s with tagQueue := [⟨k, 2, s.who, 0, s.rg b, none, s.rg a⟩] }.setMe { s.me with wait := .tag k })) ∧
      ∃ t, exec (.fill a b) s = .next t ∧ filled t)
  ) ∧ (
  ∀ (d a b : G) (la : La) (s : State) (m : Mesh) (k : Nat) (e : Option Nat),
    s.meshOnly (coreOf s.who) (s.rg a) 8 tagUnit = .ok m → s.placeOf (coreOf s.who) m = .here k e →
    (s.readyRelease [a, b] [] [] = true →
      let n := (s.rg b).toNat
      (n = 0 ∨ 32768 < n → exec (.purge a b la) s = s.takeTrap causeIllegal (BitVec.ofNat 64 (encode (.purge a b la)))) ∧
      (0 < n → n ≤ 32768 → 0x400000 < m.offset + 8 * n →
        exec (.purge a b la) s = s.takeTrap causeMeshbound (s.rg a + BitVec.ofNat 64 (0x400000 - m.offset))) ∧
      (0 < n → n ≤ 32768 → m.offset + 8 * n ≤ 0x400000 → s.tagQueue = [] →
        ∃ t, exec (.purge a b la) s = .next t ∧ t.mem = s.mem ∧ la.val ≤ t.me.window ∧
          (∀ j, t.full j = if k / 8 ≤ j / 8 ∧ j / 8 < k / 8 + n then false else s.full j) ∧
          RegFrame s { t with tags := s.tags } [] [] [] false ∧ (s.me.ldepth = 0 → t.me.pc = s.me.pc + 4))) ∧
    (s.readyMem [d, a] [] [] = true →
      ∃ t, exec (.probe d a la) s = .next t ∧
        LoadsG s t d la (BitVec.ofNat 64 ((if s.full k then 1 else 0) + (if s.tagQueue.any fun r => r.addr = k then 2 else 0))) false)
  ) ∧ (
  ∀ (s : State) (k : Nat) (v : Word), s.poisoned k 8 = false →
    (∀ r, (s.fillWord k v).tagQueue.find? (fun q => q.addr = k) = some r →
      (r.kind = 2 → (s.fillWord k v).full k = true) ∧ (r.kind ≠ 2 → (s.fillWord k v).full k = false)) ∧
    ((s.fillWord k v).tagQueue.filter fun q => q.addr = k) <:+ (s.tagQueue.filter fun q => q.addr = k) ∧
    ((s.fillWord k v).tagQueue.filter fun q => q.addr ≠ k) = s.tagQueue.filter fun q => q.addr ≠ k
  ) ∧ (
  ∀ (s : State) (k w x d e : Nat) (v y p q : Word), k % 8 = 0 → s.poisoned k 8 = false → s.who ≠ w → s.who ≠ x → w ≠ x →
    let gets := fun (t : State) (n r : Nat) (z : Word) => (t.thr n).rg r = if r = 0 then 0 else z
    (s.tagQueue = [⟨k, 1, w, d, 0, none, p⟩, ⟨k, 0, x, e, 0, none, q⟩] → ∃ t, s.fillWord k v = t ∧ gets t w d v ∧ gets t x e v ∧ t.full k = false ∧ t.tagQueue = []) ∧
    (s.tagQueue = [⟨k, 0, w, d, 0, none, p⟩, ⟨k, 1, x, e, 0, none, q⟩] → ∃ t, s.fillWord k v = t ∧ gets t w d v ∧ t.thr x = s.thr x ∧ t.full k = false ∧
      t.tagQueue = [⟨k, 1, x, e, 0, none, q⟩]) ∧
    (s.tagQueue = [⟨k, 0, w, d, 0, none, p⟩, ⟨k, 2, x, 0, y, none, q⟩] → ∃ t, s.fillWord k v = t ∧ gets t w d v ∧ t.mem64 k = y ∧ t.full k = true ∧ t.tagQueue = [] ∧
      (s.thr x).unacked ≤ (t.thr x).unacked)
  ) ∧ (
  ∀ (s : State) (k w d : Nat) (v p : Word), k % 8 = 0 → s.poisoned k 8 = false → s.who ≠ w → s.full k = false →
    (s.tagQueue = [⟨k, 0, w, d, 0, none, p⟩] → ∃ t, s.fillWord k v = t ∧ (t.thr w).rg d = (if d = 0 then 0 else v) ∧ t.full k = false ∧ t.tagQueue = [] ∧
      t.who = s.who ∧ ∀ n, n ≠ w → t.thr n = s.thr n) ∧
    (s.tagQueue = [⟨k, 1, w, d, 0, none, p⟩] → ∃ t, s.fillWord k v = t ∧ (t.thr w).rg d = (if d = 0 then 0 else v) ∧ t.full k = true ∧ t.tagQueue = [] ∧
      t.who = s.who ∧ ∀ n, n ≠ w → t.thr n = s.thr n)
  ) ∧ (
  ∀ (s : State) (k w d kind : Nat) (v p : Word), k % 8 = 0 → s.poisoned k 8 = true → s.who ≠ w → kind < 2 →
    s.tagQueue = [⟨k, kind, w, d, 0, none, p⟩] →
    ∃ t, s.fillWord k v = t ∧ (t.thr w).mode = .firmware ∧ (t.thr w).trapCause.toNat = causeMemerr ∧ (t.thr w).trapVal = p ∧
      (t.thr w).trapPc = (s.thr w).pc ∧ (t.thr w).g = (s.thr w).g ∧ t.full k = true
  ) ∧ (
  ∀ (d a b : G) (la : La) (s : State) (m : Mesh) (pod x : Nat), s.meshOnly (coreOf s.who) (s.rg a) 8 tagUnit = .ok m →
    s.placeOf (coreOf s.who) m = .peer pod x → s.noWindow = true →
    let n := (s.rg b).toNat
    let leaves := fun (t : State) (what : Nat) (v : Word) => t.mem = s.mem ∧ t.tags = s.tags ∧ t.tagQueue = s.tagQueue ∧
      t.outbox = (s.toPod pod what (toBytes 8 x ++ toBytes 4 (s.originOf s.who).toNat ++ toBytes 8 v.toNat)).outbox
    let waits := fun (i : Instr) (kind reg : Nat) (v : Word) => ∃ t, exec i s = .next t ∧ leaves t (21 + kind) v ∧
      t.awayTags = [⟨s.who, kind, reg, x, pod⟩] ∧ t.me = { s.me with wait := .tag x } ∧ ∀ n, n ≠ s.who → t.thr n = s.thr n
    (roleOf s.who ≠ 2 → s.awayTags = [] →
      (s.readyMem [d, a] [] [] = true → waits (.ldfE d a) 0 d 0 ∧ waits (.ldfF d a) 1 d 0) ∧
      (s.readyRelease [a, b] [] [] = true → waits (.ste a b) 2 0 (s.rg b))) ∧
    (s.readyRelease [a, b] [] [] = true →
      (∃ t, exec (.fill a b) s = .next t ∧ leaves t 24 (s.rg b) ∧ t.stores = s.stores ++ [(s.me.firing, coreOf s.who)] ∧
        (s.me.ldepth = 0 → t.me.pc = s.me.pc + 4)) ∧
      (0 < n → n ≤ 32768 → m.offset + 8 * n ≤ 0x400000 → ∃ t, exec (.purge a b la) s = .next t ∧ leaves t 2 (s.rg b) ∧
        (s.me.ldepth = 0 → t.me.pc = s.me.pc + 4))) ∧
    (s.readyMem [d, a] [] [] = true → ∃ t v, exec (.probe d a la) s = .next t ∧ leaves t 25 0 ∧ v.toNat < 4 ∧
      LoadsG s { t with outbox := s.outbox } d la v true)
  ) ∧ (
  ∀ (s : State), s.mgmt.powered = true → s.reachable = true →
    (∀ (w kind reg x pod : Nat) (v : Word), s.awayTags = [⟨w, kind, reg, x, pod⟩] → kind < 3 → ∃ t, s.hear (.tagDone pod x v) = .next t ∧
      t.awayTags = [] ∧ (∀ n, n ≠ w → t.thr n = s.thr n) ∧ ((s.thr w).ldepth = 0 → (t.thr w).pc = (s.thr w).pc + 4) ∧
      (kind ≠ 2 → ((s.thr w).pending = [] → (t.thr w).rg reg = if reg = 0 then 0 else v) ∧ t.stores = s.stores) ∧
      (kind = 2 → t.stores = s.stores ++ [((s.thr w).firing, coreOf w)])) ∧
    ∀ (package n k : Nat) (address value origin : Word) (m : Mesh) (e : Option Nat), s.gangWith n package = true →
      s.meshOnly (s.cap n).door address 8 tagUnit = .ok m → s.placeOf (s.cap n).door m = .here k e → s.poisoned k 8 = false →
      let hears := fun (op : TagOp) => s.hear (.tag package n op address value origin)
      let answers := fun (t : State) (v : Nat) =>
        t.outbox = (s.toPod ((s.cap n).podOf package) 26 (toBytes 8 address.toNat ++ toBytes 4 origin.toNat ++ toBytes 8 v)).outbox
      (s.full k = true → s.tagQueue = [] →
        (∃ t, hears .ldfE = .next t ∧ answers t (s.mem64 k).toNat ∧ t.full k = false ∧ t.mem = s.mem) ∧
        ∃ t, hears .ldfF = .next t ∧ answers t (s.mem64 k).toNat ∧ t.full k = true ∧ t.mem = s.mem) ∧
      (s.full k = false → s.tagQueue = [] → ∃ t, hears .ste = .next t ∧ answers t value.toNat ∧ t.full k = true ∧ t.mem64 k = value ∧
        MemFrame s t (span k 8)) ∧
      (∀ op kind, ((op, kind) = (TagOp.ldfE, 0) ∨ (op, kind) = (TagOp.ldfF, 1)) ∧ s.full k = false ∨ (op, kind) = (TagOp.ste, 2) ∧ s.full k = true →
        ∃ r, r.addr = k ∧ r.kind = kind ∧ r.value = value ∧ r.peer = some ⟨n, package, address, origin⟩ ∧
          hears op = .next { s with tagQueue := s.tagQueue ++ [r] }) ∧
      (s.tagQueue = [] → ∃ t, hears .fill = .next t ∧ t.full k = true ∧ t.mem64 k = value ∧ MemFrame s t (span k 8)) ∧
      (s.tagQueue = [] → 0 < value.toNat → m.offset + 8 * value.toNat ≤ 0x400000 → ∃ t, hears .purge = .next t ∧ t.mem = s.mem ∧
        ∀ j, t.full j = if k / 8 ≤ j / 8 ∧ j / 8 < k / 8 + value.toNat then false else s.full j) ∧
      ∃ t, hears .probe = .next t ∧ { t with outbox := s.outbox } = s ∧
        answers t ((if s.full k then 1 else 0) + (if s.tagQueue.any fun r => r.addr = k then 2 else 0))
  )

/-! ### Atomics -/

/-- amo, cas and iter.claim check their dword and send it to its home as a request whose REPLY g[d] waits for (R62, R138, R140, R141); amop sends it as a posted
operation. A cas with d = 0 and la other than 0 traps ILLEGAL; an iter.next within a chunk takes the next index without an access. That a claim's payload has
op 0x1A, fn 0 and size 8 is the model's choice (log 89).

dec checks its word, whose rate dword lies in the user region too, and sends it to its home (R117, R120, R138); dec of no token or of more than 2,047 traps ILLEGAL
before any fault of the address, and before REGRANGE of another register (R38). A location goes as it was resolved (R135). An atomic or dec of a peer's home leaves
to the peer, but not before the firing's earlier atomics at homes here are performed, which the model reads from R140 (log 57).
Where the manual leaves a point open the clause states what the model chose (log 8, 21, 28, 57, 72, 89). -/
def Obligations.AtomicsIssue : Prop :=
  (
  ∀ (d a b : G) (la : La) (s : State),
    let x := s.rg a
    let leaves := fun (t : State) (m : Msg) => coreCount ≤ m.target ∧
      (s.atomicBefore s.me.firing s.nextId = true → m.held = true ∧ t.outbox = s.outbox) ∧
      ((∀ n, s.atomicBefore s.me.firing n = false) → m.held = false ∧
        t.outbox = (s.toPod ((s.cap s.myCap).podOf (m.target - coreCount)) 16 m.wire).outbox)
    let send := fun (i : Instr) (op fn size l : Nat) (op1 op2 : Word) =>
      (∀ c, s.access (coreOf s.who) x size accAmo = .error c →
        ∃ y, exec i s = s.takeTrap c y ∧ s.FailsAt (coreOf s.who) x size accAmo c y) ∧
      (∀ pk y, s.access (coreOf s.who) x size accAmo = .ok (.peer pk y) →
        ∃ t m, exec i s = .next t ∧ Requests s t d l true m ∧ Carries m op fn size x op1 op2 ∧ From s m ∧ leaves t m) ∧
      ∀ k e, s.access (coreOf s.who) x size accAmo = .ok (.here k e) →
        ∃ t m, exec i s = .next t ∧ Requests s t d l true m ∧ Carries m op fn size x op1 op2 ∧ From s m ∧ m.key = k ∧
          m.target = s.homeOf (coreOf s.who) x k ∧
          ∀ r, 2 ^ 63 ≤ x.toNat → s.resolve (coreOf s.who) x 1 = some r → m.located = r.word
    let post := fun (i : Instr) (fn : Nat) =>
      (∀ c, s.access (coreOf s.who) x 8 accAmop = .error c →
        ∃ y, exec i s = s.takeTrap c y ∧ s.FailsAt (coreOf s.who) x 8 accAmop c y) ∧
      (∀ pk y, s.access (coreOf s.who) x 8 accAmop = .ok (.peer pk y) → s.myCore.lastIssued 7 + 1 < 2 ^ 64 →
        ∃ t m, exec i s = .next t ∧ Posts s t la m ∧ Carries m 0x31 fn 8 x (s.rg b) 0 ∧ From s m ∧ leaves t m) ∧
      ∀ k e, s.access (coreOf s.who) x 8 accAmop = .ok (.here k e) → s.myCore.lastIssued 7 + 1 < 2 ^ 64 →
        ∃ t m, exec i s = .next t ∧ Posts s t la m ∧ Carries m 0x31 fn 8 x (s.rg b) 0 ∧ From s m ∧ m.key = k ∧
          fieldB m.body 32 8 = m.number ∧ m.target = s.homeOf (coreOf s.who) x k
    (s.readyMem [d, a, b] [] [] = true →
      send (.amoAdd d a b la) 0x30 0 8 la (s.rg b) 0 ∧ send (.amoAnd d a b la) 0x30 1 8 la (s.rg b) 0 ∧
      send (.amoOr d a b la) 0x30 2 8 la (s.rg b) 0 ∧ send (.amoXor d a b la) 0x30 3 8 la (s.rg b) 0 ∧
      send (.amoMin d a b la) 0x30 4 8 la (s.rg b) 0 ∧ send (.amoMax d a b la) 0x30 5 8 la (s.rg b) 0 ∧
      send (.amoSwap d a b la) 0x30 6 8 la (s.rg b) 0 ∧ send (.amoFaddd d a b la) 0x30 7 8 la (s.rg b) 0 ∧
      (¬ (d.val = 0 ∧ la.val ≠ 0) →
        send (.casD d a b la) 0x32 0 8 la (s.rg d) (s.rg b) ∧ send (.casW d a b la) 0x32 1 4 la (s.rg d) (s.rg b)) ∧
      (d.val = 0 ∧ la.val ≠ 0 →
        exec (.casD d a b la) s = s.takeTrap causeIllegal (BitVec.ofNat 64 (encode (.casD d a b la))) ∧
        exec (.casW d a b la) s = s.takeTrap causeIllegal (BitVec.ofNat 64 (encode (.casW d a b la)))) ∧
      (2 * 2 ^ 40 ≤ (s.rg b).toNat → ∃ t, exec (.iterNext d a b) s = .next t ∧ Writes s t d (s.rg b + 1 - 2 ^ 40)) ∧
      ((s.rg b).toNat < 2 * 2 ^ 40 → send (.iterNext d a b) 0x1A 0 8 0 0 0)) ∧
    (s.readyMem [d, a] [] [] = true → send (.iterClaim d a) 0x1A 0 8 0 0 0) ∧
    (s.readyMem [a, b] [] [] = true →
      post (.amopAdd a b la) 0 ∧ post (.amopAnd a b la) 1 ∧ post (.amopOr a b la) 2 ∧ post (.amopXor a b la) 3 ∧
      post (.amopMin a b la) 4 ∧ post (.amopMax a b la) 5 ∧ post (.amopSwap a b la) 6 ∧ post (.amopFaddd a b la) 7)
  ) ∧ (
  ∀ (a b : G) (lane : Fin 4) (la : La) (s : State), s.ready [a, b] [] [] = true →
    let x := s.rg a
    let n := (s.rg b).toNat
    let leaves := fun (t : State) (m : Msg) => coreCount ≤ m.target ∧
      (s.atomicBefore s.me.firing s.nextId = true → m.held = true ∧ t.outbox = s.outbox) ∧
      ((∀ n, s.atomicBefore s.me.firing n = false) → m.held = false ∧
        t.outbox = (s.toPod ((s.cap s.myCap).podOf (m.target - coreCount)) 16 m.wire).outbox)
    let i : Instr := .dec a b lane la
    (n = 0 ∨ 2047 < n → exec i s = s.takeTrap causeIllegal (BitVec.ofNat 64 (encode i))) ∧
    (0 < n → n ≤ 2047 →
      (x.toNat % 8 ≠ 0 → exec i s = s.takeTrap causeAlign x) ∧
      (x.toNat % 8 = 0 → x.toNat < 2 ^ 63 → exec i s = s.takeTrap causeRights x) ∧
      (x.toNat % 8 = 0 → 2 ^ 63 ≤ x.toNat →
        (s.resolve (coreOf s.who) x 8 = none → exec i s = s.takeTrap causeMeshbound x) ∧
        ∀ m, s.resolve (coreOf s.who) x 8 = some m →
          (¬ (m.unit = 0 ∧ m.offset + 16 ≤ 0x39800) → exec i s = s.takeTrap causeRights x) ∧
          (m.unit = 0 → m.offset + 16 ≤ 0x39800 → m.package = bits (s.myCore).coord.toNat 23 12 → s.myCore.lastIssued 7 + 1 < 2 ^ 64 →
            ∃ t g, exec i s = .next t ∧ Posts s t la g ∧ Carries g 0x33 lane 8 x (s.rg b) 0 ∧ From s g ∧
              fieldB g.body 32 8 = g.number ∧
              g.target = (s.cap s.myCap).coreFor m ∧ g.key = tcmKey g.target m.offset) ∧
          (m.unit = 0 → m.offset + 16 ≤ 0x39800 → m.package ≠ bits (s.myCore).coord.toNat 23 12 → s.myCore.lastIssued 7 + 1 < 2 ^ 64 →
            ∃ t g, exec i s = .next t ∧ Posts s t la g ∧ Carries g 0x33 lane 8 x (s.rg b) 0 ∧ From s g ∧
              fieldB g.body 32 8 = g.number ∧ g.target = coreCount + m.package ∧ leaves t g)))
  ) ∧ (
  ∀ (a b : G) (lane : Fin 4) (la : La) (s : State), s.held ⟨0, [a, b], [], [], false, false⟩ = none →
    let i : Instr := .dec a b lane la
    (b.val < (s.allot s.who).1 → (s.rg b = 0 ∨ 2047 < (s.rg b).toNat) → exec i s = s.takeTrap causeIllegal (BitVec.ofNat 64 (encode i))) ∧
    ((s.allot s.who).1 ≤ b.val → exec i s = s.takeTrap causeRegrange (BitVec.ofNat 64 (encode i)))
  )

/-- H performs an atomic at its home (R140, R141): the new value of the dword by the operation's row, or the compared write; the old value leaves as
the REPLY of a request, and a posted operation's unit and number end.

A claim hands out the next chunk of a fetch descriptor: half of what remains over P, at least one index and at most 2^24 − 1, and 0 once nothing
remains (R62). That its payload has op 0x1A, and that the end and the share stand at the next two keys, which nothing checks, is the model's choice (log 89).
Where the manual leaves a point open the clause states what the model chose (log 4, 28, 89). -/
def Obligations.AtomicsAtHome : Prop :=
  (
  ∀ (s : State) (core : Nat) (m : Msg), Serves s core m → m.words = [] → s.poisoned m.key 8 = false → s.codeLocked m.key 8 = false →
    let w := s.mem64 m.key
    let v := m.op1
    let new := fun (fn : Nat) => match fn with
      | 0 => w + v
      | 1 => w &&& v
      | 2 => w ||| v
      | 3 => w ^^^ v
      | 4 => if w.toInt ≤ v.toInt then w else v
      | 5 => if w.toInt ≤ v.toInt then v else w
      | 6 => v
      | _ => BitVec.ofNat 64 (fadd fmt64 0 w.toNat v.toNat).1
    let replies := fun (t : State) (old : Word) => t.net = [{ replyMsg m.capsule core (s.originOf (hThread core)) m.reply m.firing m.request old with serial := s.nextId }]
    (m.op = 0x30 → ∃ t, exec (.amoHandler core) s = .next t ∧ t.mem64 m.key = new m.fn ∧ MemFrame s t (span m.key 8) ∧ replies t w ∧
      ServedFrame s t core) ∧
    (m.op = 0x31 → m.request = 0 → ∃ t, exec (.amopHandler core) s = .next t ∧ t.mem64 m.key = new m.fn ∧ MemFrame s t (span m.key 8) ∧
      t.net = [] ∧ (t.cap m.capsule).outstanding = (s.cap m.capsule).outstanding - 1 ∧ ServedFrame s t core) ∧
    (m.op = 0x32 → m.size = 8 → ∃ t, exec (.casHandler core) s = .next t ∧ MemFrame s t (span m.key 8) ∧ replies t w ∧
      t.mem64 m.key = (if w = v then m.op2 else w) ∧ ServedFrame s t core) ∧
    (m.op = 0x32 → m.size = 4 → s.poisoned m.key 4 = false → s.codeLocked m.key 4 = false → ∃ t, exec (.casHandler core) s = .next t ∧ MemFrame s t (span m.key 4) ∧
      replies t (BitVec.ofNat 64 (s.bytes m.key 4)) ∧ ServedFrame s t core ∧
      t.bytes m.key 4 = (if s.bytes m.key 4 = v.toNat % 2 ^ 32 then m.op2.toNat % 2 ^ 32 else s.bytes m.key 4))
  ) ∧ (
  ∀ (s : State) (core : Nat) (m : Msg), Serves s core m → m.words = [] → m.op = 0x1A → s.poisoned m.key 24 = false →
    s.codeLocked m.key 24 = false →
    let nx := (s.mem64 m.key).toNat % 2 ^ 40
    let en := (s.mem64 (m.key + 8)).toNat % 2 ^ 40
    let p := max 1 (min (s.mem64 (m.key + 16)).toNat 4096)
    ∃ t r, exec (.claimHandler core) s = .next t ∧ ServedFrame s t core ∧ MemFrame s t (span m.key 8) ∧
      t.net = [{ replyMsg m.capsule core (s.originOf (hThread core)) m.reply m.firing m.request (BitVec.ofNat 64 r) with serial := s.nextId }] ∧
      (en ≤ nx → r = 0 ∧ t.mem64 m.key = s.mem64 m.key) ∧
      (nx < en → ∃ c, r = c * 2 ^ 40 + nx ∧ (t.mem64 m.key).toNat = nx + c ∧ 1 ≤ c ∧ c < 2 ^ 24 ∧
        (c - 1) * (2 * p) < en - nx ∧ (c = 2 ^ 24 - 1 ∨ en - nx ≤ c * (2 * p)))
  )

/-! ### Readiness -/

/-- H decrements a lane of a readiness word (R117): below zero with rate 0 the lane becomes 0 and UNDERFLOW is reported; else it becomes the difference, at least
−2,048, and when every lane is at or below zero the release step runs (R121): an entry for the word's codelet joins the ring and the rates are added, at
most to 2,047; a codelet that the capsule does not have is reported ILLEGAL instead. arm writes both dwords (R153), and ready runs the release step alone.

A release step of dec or ready whose ring is full, or where entries wait for room already, keeps H in its handler, and its entry waits behind them (R122); while the
capsule is pre-empted the handler ends at once and its entry stays to be appended (R209). Entries that wait join the ring at its tail, the oldest first, as far as it has
room, and the handler that waited for its own, the last, adds the rates and ends (R121, R122). A word that lies on a poisoned line raises MEMERR, which ends the
capsule, also where the poison came while the entry waited; while the capsule is being killed the record is written all the same (R139, R213).
Where the manual leaves a point open the clause states what the model chose (log 4, 11, 40, 63, 95, 99). -/
def Obligations.ReadinessAtHome : Prop :=
  (
  ∀ (s : State) (core : Nat) (m : Msg), Serves s core m → m.words = [] → m.request = 0 → s.poisoned m.key 16 = false →
    s.codeLocked m.key 16 = false →
    let w := s.mem64 m.key
    let rates := s.mem64 (m.key + 8)
    let owner := s.cap m.capsule
    let lane := fun (x : Word) (l : Nat) => (x.extractLsb' (12 * l) 12).toInt
    let lanes := fun (t : State) (now : Nat → Int) => (∀ l, l < 4 → lane (t.mem64 m.key) l = now l) ∧ (t.mem64 m.key) >>> 48 = w >>> 48
    let rate := fun (l : Nat) => (rates.extractLsb' (12 * l) 12).toNat
    let added := fun (now : Nat → Int) (l : Nat) => min (now l + rate l) 2047
    let entry : Entry := ⟨(w >>> 48).toNat, 0, m.key % 2 ^ 18, none⟩
    let ends := fun (t : State) => ServedFrame s t core ∧ (t.cap m.capsule).outstanding = owner.outstanding - 1 ∧ (t.core core).ring = (s.core core).ring
    let apart := ∀ k, owner.keyOf (s.reportBase owner + 64 * owner.reportIndex) = some k → k + 64 ≤ m.key ∨ m.key + 8 ≤ k
    let reported := fun (t : State) (cause : Nat) => ∃ r, t.mgmt.errorLog = s.mgmt.errorLog ++ [(redact owner r, owner.world)] ∧ r.kind = 1 ∧ r.cause = cause ∧
      r.code = m.code ∧ r.value = m.written ∧ r.capsule = owner.id
    let known := (w >>> 48).toNat < owner.image.codelets.length
    let room := (s.core core).entryCount < 256 ∧ (s.core core).waiting = []
    let releases := fun (t : State) (now : Nat → Int) =>
      ((∃ l, l < 4 ∧ 0 < now l) → lanes t now ∧ MemFrame s t (span m.key 8) ∧ ends t) ∧
      ((∀ l, l < 4 → now l ≤ 0) → ¬ known → apart → lanes t now ∧ ends t ∧ reported t causeIllegal) ∧
      ((∀ l, l < 4 → now l ≤ 0) → known → room → lanes t (added now) ∧ MemFrame s t (span m.key 8) ∧ ServedFrame s t core ∧
        (t.core core).ring = (s.core core).ring ++ [entry] ∧ (t.cap m.capsule).outstanding = owner.outstanding) ∧
      ((∀ l, l < 4 → now l ≤ 0) → known → ¬ room → MemFrame s t (span m.key 8) ∧ (t.core core).inbox = (s.core core).inbox.tail ∧
        (t.core core).waiting = (s.core core).waiting ++ [entry] ∧ (t.core core).ring = (s.core core).ring ∧
        (owner.stage ≠ .preempting → lanes t now ∧ (t.thr (hThread core)).live = true ∧ (t.thr (hThread core)).handling = some m ∧
          (∀ n, n ≠ hThread core → t.thr n = s.thr n) ∧ (t.cap m.capsule).outstanding = owner.outstanding + 1) ∧
        (owner.stage = .preempting → lanes t (added now) ∧ ServedFrame s t core ∧ (t.cap m.capsule).outstanding = owner.outstanding))
    (m.op = 0x33 → m.fn < 4 → m.op1.toNat ≤ 2047 →
      let c := lane w m.fn - m.op1.toNat
      let under := rate m.fn = 0 ∧ c < 0
      ∃ t, exec (.decHandler core) s = .next t ∧
        (under → apart → lanes t (fun l => if l = m.fn then 0 else lane w l) ∧ ends t ∧ reported t causeUnderflow) ∧
        (¬ under → releases t fun l => if l = m.fn then max c (-2048) else lane w l)) ∧
    (m.op = 0x38 → m.fn = 2 → ∃ t, exec (.armHandler core) s = .next t ∧ MemFrame s t (span m.key 16) ∧
      (t.mem64 m.key) = (m.op1.setWidth 16 ++ m.op2.setWidth 48 : BitVec 64) ∧ t.mem64 (m.key + 8) = m.op2 ∧ ends t) ∧
    (m.op = 0x38 → m.fn = 3 → ∃ t, exec (.readyHandler core) s = .next t ∧ releases t (lane w))
  ) ∧ (
  ∀ (s : State) (core : Nat), (s.core core).halted = false →
    let l := (s.core core).waiting
    let n := min l.length (256 - (s.core core).entryCount)
    let lane := fun (x : Word) (l : Nat) => (x.extractLsb' (12 * l) 12).toInt
    let appended := fun (t : State) => (t.core core).ring = (s.core core).ring ++ l.take n ∧ (t.core core).waiting = l.drop n
    (s.appends core = false ∨ l = [] ∨ n < l.length → ∃ t, exec (.readyEntryAppend core) s = .next t ∧ appended t ∧
      { t with cores := s.cores } = s ∧ ∀ c, c ≠ core → t.core c = s.core c) ∧
    ∀ m, s.appends core = true → (s.thr (hThread core)).handling = some m → m.request = 0 → l ≠ [] → n = l.length →
      ∃ t, exec (.readyEntryAppend core) s = .next t ∧ appended t ∧ (t.thr (hThread core)).live = false ∧
        (t.cap m.capsule).outstanding = (s.cap m.capsule).outstanding - 1 ∧
        (s.poisoned m.key 16 = false → MemFrame s t (span m.key 8) ∧
          ∀ l, l < 4 → lane (t.mem64 m.key) l = min (lane (s.mem64 m.key) l + ((s.mem64 (m.key + 8)).extractLsb' (12 * l) 12).toNat) 2047) ∧
        (s.poisoned m.key 16 = true → (s.cap m.capsule).stage = .running → KillRaised s t m.capsule causeMemerr)
  ) ∧ (
  ∀ (s : State) (core : Nat) (m : Msg), Serves s core m → m.words = [] → m.request = 0 → m.op = 0x33 → s.poisoned m.key 16 = true →
    let owner := s.cap m.capsule
    (owner.stage = .running → ∃ t, exec (.decHandler core) s = .next t ∧ KillRaised s t m.capsule causeMemerr) ∧
    (owner.stage = .killing → ∃ t r, exec (.decHandler core) s = .next t ∧ t.mgmt.errorLog = s.mgmt.errorLog ++ [(redact owner r, owner.world)] ∧
      r.kind = 1 ∧ r.cause = causeMemerr ∧ r.code = m.code ∧ r.value = m.written ∧ (t.cap m.capsule).kill = owner.kill)
  )

/-! ### Messages, tasks and delegations -/

/-- spawn, dlg and dlg.p check target and packet, the first failure by R38's order first, and send it, once the thread's posted atomics are performed (R140); msg sends its image with inline words; msg.reply answers the message being handled, once,
and nothing where its reply address is 0 (R138, R142 to R145).
Where the manual leaves a point open the clause states what the model chose (log 21, 53, 92). -/
def Obligations.MessagesIssue : Prop :=  ∀ (d a b : G) (la : La) (s : State),
    let x := s.rg a
    let rank := fun (c : Nat) => if c = causeAlign then 4 else if c = causeMeshbound ∨ c = causeExtent then 5 else if c = causeRights then 6 else 7
    let both := fun (i : Instr) (at_ : Nat) (done : Nat → List Byte → Prop) =>
      (∀ c, s.targetCore (coreOf s.who) x = .error c →
        (∀ bytes, s.readImage (coreOf s.who) (s.rg b) at_ = .ok bytes → exec i s = s.takeTrap c x) ∧
        ∀ c' y, s.readImage (coreOf s.who) (s.rg b) at_ = .error (c', y) →
          (rank c' < rank c → exec i s = s.takeTrap c' y) ∧ (rank c ≤ rank c' → exec i s = s.takeTrap c x)) ∧
      ∀ target, s.targetCore (coreOf s.who) x = .ok target →
        (∀ c y, s.readImage (coreOf s.who) (s.rg b) at_ = .error (c, y) → exec i s = s.takeTrap c y) ∧
        ∀ bytes, s.readImage (coreOf s.who) (s.rg b) at_ = .ok bytes → done target bytes
    let packet := fun (i : Instr) (done : Nat → List Byte → Prop) => both i 0 fun target bytes =>
          (packetOk (s.cap s.myCap) bytes = false → exec i s = s.takeTrap causeIllegal (BitVec.ofNat 64 (encode i))) ∧
          (packetOk (s.cap s.myCap) bytes = true → done target bytes)
    let asked := fun (i : Instr) (kind target : Nat) (bytes : List Byte) =>
      ∃ t m, exec i s = .next t ∧ Requests s t d la false m ∧ From s m ∧ m.kind = kind ∧ m.target = target ∧ m.body = bytes ∧ m.words = []
    (s.atomicBefore s.me.firing s.nextId = true → ∀ i ∈ [Instr.spawn d a b la, .dlg d a b la, .dlgP a b la, .msg a b la],
      exec i s = .next (s.setMe { s.me with wait := .posted })) ∧
    (s.readyRelease [d, a, b] [] [] = true →
      packet (.spawn d a b la) (asked (.spawn d a b la) 1) ∧ packet (.dlg d a b la) (asked (.dlg d a b la) 2)) ∧
    (s.readyRelease [a, b] [] [] = true →
      packet (.dlgP a b la) (fun target bytes => ∃ t m, exec (.dlgP a b la) s = .next t ∧ Posts s t la m ∧ From s m ∧ m.kind = 2 ∧
        m.target = target ∧ m.body = bytes ∧ m.words = []) ∧
      both (.msg a b la) 2 fun target image =>
        let inline := fieldB image 1 1
        let reply := dwordB image 8
        (handleImageOk image = false → exec (.msg a b la) s = s.takeTrap causeIllegal (BitVec.ofNat 64 (encode (.msg a b la)))) ∧
        (handleImageOk image = true → reply ≠ 0 → s.resolve (coreOf s.who) reply 1 = none →
          exec (.msg a b la) s = s.takeTrap causeMeshbound reply) ∧
        (handleImageOk image = true → (reply = 0 ∨ (s.resolve (coreOf s.who) reply 1).isSome = true) →
          ∃ t m, exec (.msg a b la) s = .next t ∧ Posts s t la m ∧ From s m ∧ m.kind = 0 ∧ m.target = target ∧ m.reply = reply ∧
            m.words = (List.range inline).map (fun i => BitVec.ofNat 32 (fieldB image (16 + 4 * i) 4)) ∧
            m.body = image.drop ((16 + 4 * inline + 7) / 8 * 8))) ∧
    (s.ready [b] [] [] = true →
      (roleOf s.who ≤ 1 ∨ s.me.handling = none ∨ s.me.replied = true →
        exec (.msgReply b la) s = s.takeTrap causeIllegal (BitVec.ofNat 64 (encode (.msgReply b la)))) ∧
      ∀ h, 2 ≤ roleOf s.who → s.me.handling = some h → s.me.replied = false →
        ∃ t, exec (.msgReply b la) s = .next t ∧ t.me.replied = true ∧ la.val ≤ t.me.window ∧ t.mem = s.mem ∧
          (s.me.ldepth = 0 → t.me.pc = s.me.pc + 4) ∧
          (h.reply = 0 → t.net = s.net) ∧
          (h.reply ≠ 0 → t.net = s.net ++ [{ replyMsg s.myCap (coreOf s.who) (s.originOf s.who) h.reply h.firing h.request (s.rg b) with
              serial := s.nextId, code := s.me.pc }] ∧
            (t.cap s.myCap).outstanding = (s.cap s.myCap).outstanding + 1))

/-- A REPLY is written to the register that its request left pending (R39, R137), or, where it names an address, there: a scratchpad word is filled, other memory is
stored to. Each takes its unit with it (R129). One whose address names a peer package leaves to it, and its unit stays until the peer acknowledges it (R131); a
kill's routers and swept cores discard it (R137, R214). A peer's REPLY to the reply window of a request that left for it is on its way to that request's
register, with the value that came (R131, R137).
Where the manual leaves a point open the clause states what the model chose (log 8, 31, 76). -/
def Obligations.RepliesArrive : Prop :=
  (
  ∀ (s : State) (package : Nat) (q x : Msg), s.mgmt.powered = true → s.reachable = true → s.gangWith q.capsule package = true →
    s.net = [q] → q.target = coreCount + package → q.kind ≠ 4 → q.held = false → q.request ≠ 0 → q.reply ≠ 0 →
    x.kind = 4 → x.bounce = false → x.ok = true → x.capsule = q.capsule → x.reply = q.reply → x.request = q.request →
    ∃ u, s.hear (.message package x x.bytes) = .next u ∧ (u.cap q.capsule).outstanding = (s.cap q.capsule).outstanding ∧ u.threads = s.threads ∧ u.mem = s.mem ∧
      u.net = [{ replyMsg q.capsule q.sender x.origin q.reply q.firing q.request 0 with body := x.body, serial := s.nextId }]
  ) ∧
  ∀ (s : State) (n : Nat) (m : Msg), s.net[n]? = some m → m.kind = 4 → m.ofHost = false → (s.cap m.capsule).stage ≠ .ended →
    let v := dwordB m.body 0
    (s.replyDiscarded m = true → ∃ u, exec (.reply n) s = .next u ∧ { u with net := s.net } = s ∧ u.net = s.net.eraseIdx n) ∧
    (∀ p, m.request = 0 → s.replyDiscarded m = false → s.replyPackage m = some p → ∃ u, exec (.reply n) s = .next u ∧
      u.net = s.net.set n { m with kind := 0, request := 0, number := 0, target := coreCount + p } ∧
      u.outbox = (s.toPod ((s.cap m.capsule).podOf p) 20 m.wire).outbox ∧ { u with net := s.net, outbox := s.outbox } = s) ∧
    (∀ t d left, s.replyDiscarded m = false → m.request ≠ 0 → s.threadOf m.firing = some t → d ≠ 0 → (s.thr t).pending = [⟨m.request, .g d, left, none⟩] →
      ∃ u, exec (.reply n) s = .next u ∧ u.net = s.net.eraseIdx n ∧ u.mem = s.mem ∧
        (u.cap m.capsule).outstanding = (s.cap m.capsule).outstanding - 1 ∧
        (∀ r, r ∈ (u.thr t).requests ↔ r ∈ (s.thr t).requests ∧ r.1 ≠ m.request) ∧
        (left = 0 → (u.thr t).rg d = v ∧ (u.thr t).pending = []) ∧
        (left ≠ 0 → (u.thr t).rg d = (s.thr t).rg d ∧ (u.thr t).pending = [⟨m.request, .g d, left, some (lateG v)⟩]) ∧
        (∀ j, j ≠ d → (u.thr t).rg j = (s.thr t).rg j) ∧ ∀ x, x ≠ t → u.thr x = s.thr x) ∧
    (∀ k e, s.replyDiscarded m = false → s.replyPackage m = none → m.request = 0 → s.access m.sender m.reply 8 accStore = .ok (.here k e) → s.tileOpen k = false → s.tagQueue = [] →
      ∃ u, exec (.reply n) s = .next u ∧ u.net = s.net.eraseIdx n ∧ u.mem64 k = v ∧ MemFrame s u (span k 8) ∧
        (isSpadKey k = true → u.full k = true) ∧ (isSpadKey k = false → u.tags = s.tags) ∧
        (u.cap m.capsule).outstanding = (s.cap m.capsule).outstanding - 1)

/-- A TASK message whose packet is good is accepted as a ready entry with source 1 while inbox and ring have room, and spawn receives 0; else it bounces, and spawn receives 1
when the refusal is back (R124); a peer's refusal, and the result of a peer's spawn, leave to it. The result of a spawn whose firing is saved or carried is on its way to its
register as a late result (R128). A register context is accepted with source 2 (R127). At a gang member that has loaded and not started both wait, since its entry
firings come before any other entry (R122); that they wait in the network is the model's choice (log 109).
Where the manual leaves a point open the clause states what the model chose (log 4, 8, 11, 17, 76, 102, 109). -/
def Obligations.TasksArrive : Prop :=  ∀ (s : State) (n : Nat) (m : Msg), s.net[n]? = some m → m.kind = 1 →
    let c := s.core m.target
    let room := c.inboxBytes + m.bytesLen ≤ 16384 ∧ c.entryCount < 256
    let answered := fun (u : State) (v : Word) =>
      (m.sender < coreCount →
        (∀ t d, s.threadOf m.firing = some t → d ≠ 0 → (s.thr t).pending = [⟨m.request, .g d, 0, none⟩] → (u.thr t).rg d = v ∧ (u.thr t).pending = []) ∧
        (s.threadOf m.firing = none → u.threads = s.threads ∧
          u.loads = s.loads ++ [⟨m.firing, m.sender, m.request, .g (m.reply.toNat % 64), lateG v, true⟩])) ∧
      (coreCount ≤ m.sender → m.reply ≠ 0 → u.outbox = (s.toPod ((s.cap m.capsule).podOf (m.sender - coreCount)) 20
        (replyMsg m.capsule m.target (s.originOf (hThread m.target)) m.reply 0 m.request v).wire).outbox)
    (m.bounce = false → m.target < coreCount → fieldB m.body 2 2 ≠ 0xFFFF → s.heldBehind m = false → s.atomicBefore m.firing m.serial = false →
      (s.cap m.capsule).stage ≠ .loaded → s.discards m.target m.capsule = false → m.ok = true → packetOk (s.cap m.capsule) m.body = true → c.waiting = [] →
      (room → ∃ u, exec (.task n) s = .next u ∧ u.net = s.net.eraseIdx n ∧ u.mem = s.mem ∧ answered u 0 ∧
        u.core m.target = { c with ring := c.ring ++ [⟨fieldB m.body 2 2, 1, 0, some m⟩] } ∧ ∀ j, j ≠ m.target → u.core j = s.core j) ∧
      (¬ room → ∃ u, exec (.task n) s = .next u ∧ u.net = s.net.eraseIdx n ++ [{ m with bounce := true, target := m.sender }] ∧
        u.threads = s.threads ∧ ∀ j, u.core j = s.core j)) ∧
    (m.bounce = true → coreCount ≤ m.target → ∃ u, exec (.bounceRefusal n) s = .next u ∧
      u.net = s.net.set n { m with bounce := false, kind := 0, request := 0, number := 0 } ∧
      u.outbox = (s.toPod ((s.cap m.capsule).podOf (m.target - coreCount)) 11 m.wire).outbox ∧ { u with net := s.net, outbox := s.outbox } = s) ∧
    (m.bounce = true → m.target < coreCount → ∃ u, exec (.bounceRefusal n) s = .next u ∧ u.net = s.net.eraseIdx n ∧ answered u 1 ∧
      (u.cap m.capsule).outstanding = (s.cap m.capsule).outstanding - 1) ∧
    (m.bounce = false → m.target < coreCount → (s.cap m.capsule).stage = .loaded → s.discards m.target m.capsule = false →
      (fieldB m.body 2 2 ≠ 0xFFFF → exec (.task n) s = .next s) ∧ (fieldB m.body 2 2 = 0xFFFF → exec (.registerContext n) s = .next s)) ∧
    (m.bounce = false → m.target < coreCount → fieldB m.body 2 2 = 0xFFFF → (s.cap m.capsule).stage ≠ .loaded → s.discards m.target m.capsule = false →
      c.waiting = [] →
      (room → ∃ u, exec (.registerContext n) s = .next u ∧ u.net = s.net.eraseIdx n ∧ u.threads = s.threads ∧
        u.core m.target = { c with ring := c.ring ++ [⟨0xFFFF, 2, 0, some m⟩] }) ∧
      (¬ room → exec (.registerContext n) s = .next s))

/-- A free task thread takes the head entry once the pool holds its allotment: the firing starts at the codelet's code offset with its allotment; an entry's or a
readiness word's firing has the arguments in g1 to g8, a task packet's has its payload, and a context's goes on at its PC with its registers (R10, R16, R123, R126). S starts a delegated routine so with 32 and 8 registers (R145).

done ends a firing: its unit and its allotment are free (R129, R153); a delegated routine answers its dlg with g1, or ends dlg.p's unit and number (R145). Each successor, in
order, is a dec of one token on its handle's lane; a handle that fails its check is reported (R125). shrink releases the registers above the new bounds, once none of them is pending, and traps ILLEGAL on any value that ALLOT refuses (R19).
Where the manual leaves a point open the clause states what the model chose (log 4, 11, 63, 74). -/
def Obligations.Firings : Prop :=
  (
  ∀ (s : State) (core : Nat),
    let c := s.core core
    let cap := s.cap (s.capOf core)
    let begun := fun (x : Thread) (sregs vregs : Nat) (code firing : Nat) (g : List Word) => x.live = true ∧ x.mode = .capsule ∧
      x.pc = BitVec.ofNat 64 code ∧ x.sregs = sregs ∧ x.vregs = vregs ∧ x.firing = firing ∧ x.fcr = 0 ∧ x.vl = 0 ∧ x.ldepth = 0 ∧
      (∀ i, i < g.length → i + 1 < sregs → x.rg (i + 1) = g.getD i 0) ∧ (∀ i, g.length ≤ i → x.rg (i + 1) = 0) ∧
      (∀ i, x.rv i = 0) ∧ (∀ i, i ≠ 0 → x.rk i = 0)
    (∀ (e : Entry) (rest : List Entry) (d : Codelet) (k : Nat), k < 2 → c.ring = e :: rest → c.halted = false → cap.runs = true → e.source ≠ 2 →
      (s.thr (core * 4 + k)).live = false → (k = 1 → (s.thr (core * 4)).live = true) → cap.image.codelets[e.codelet]? = some d →
      s.poolHolds core (d.sregs, d.vregs) = true →
      ∃ u, exec (.firingStart (core * 4 + k)) s = .next u ∧ (u.core core).ring = rest ∧ (u.core core).waiting = c.waiting ∧ u.mem = s.mem ∧
        u.nextId = s.nextId + 1 ∧ (∀ x, x ≠ core * 4 + k → u.thr x = s.thr x) ∧
        (e.message = none → begun (u.thr (core * 4 + k)) d.sregs d.vregs d.code s.nextId (cap.image.args.take 8) ∧
          (u.thr (core * 4 + k)).successors = []) ∧
        ∀ m, e.message = some m → begun (u.thr (core * 4 + k)) d.sregs d.vregs d.code s.nextId (packetPayload m.body) ∧
          (u.thr (core * 4 + k)).successors = packetHandles m.body) ∧
    (∀ (e : Entry) (rest : List Entry) (m : Msg) (k : Nat), k < 2 → c.ring = e :: rest → c.halted = false → cap.runs = true → e.source = 2 →
      e.message = some m → (s.thr (core * 4 + k)).live = false → (k = 1 → (s.thr (core * 4)).live = true) →
      s.poolHolds core (fieldB m.body 5 1, fieldB m.body 6 1) = true →
      let n := fieldB m.body 4 1
      let w := fun (i : Nat) => dwordB m.body (8 + 8 * n + 8 * i)
      ∃ u, exec (.firingStart (core * 4 + k)) s = .next u ∧ (u.core core).ring = rest ∧ u.mem = s.mem ∧
        (∀ x, x ≠ core * 4 + k → u.thr x = s.thr x) ∧
        let x := u.thr (core * 4 + k)
        x.live = true ∧ x.mode = .capsule ∧ x.sregs = fieldB m.body 5 1 ∧ x.vregs = fieldB m.body 6 1 ∧ x.pc = w 0 ∧ x.fcr = w 1 ∧ x.vl = w 2 ∧
        x.ldepth = w 15 ∧ x.firing = (if m.firing = 0 then s.nextId else m.firing) ∧
        x.successors = (List.range n).map (fun i => dwordB m.body (8 + 8 * i)) ∧
        (∀ l, l < 4 → sget 0 x.lstart l = w (3 + l) ∧ sget 0 x.lend l = w (7 + l) ∧ sget 0 x.lcount l = w (11 + l)) ∧
        (∀ i, i < 7 → x.rk (i + 1) = BitVec.ofNat 8 (fieldB m.body (8 + 8 * n + 8 * 16 + i) 1)) ∧
        ∀ i, i + 1 < x.sregs → x.rg (i + 1) = w (18 + i)) ∧
    (∀ (e : Entry) (rest : List Entry) (a : Nat × Nat), c.ring = e :: rest → entryAllot cap e = some a → s.poolHolds core a = false →
      exec (.firingStart (core * 4)) s = .next s) ∧
    (∀ (m : Msg) (d : Codelet), s.net = [] → c.inbox.head? = some m → m.kind = 2 → c.halted = false → cap.runs = true →
      (s.thr (sThread core)).live = false → s.atomicBefore m.firing m.serial = false →
      (s.cap m.capsule).image.codelets[fieldB m.body 2 2]? = some d →
      ∃ u, exec (.delegate core) s = .next u ∧ (u.core core).inbox = c.inbox.tail ∧ u.mem = s.mem ∧ u.net = [] ∧
        (u.thr (sThread core)).handling = some m ∧ (u.thr (sThread core)).successors = packetHandles m.body ∧
        begun (u.thr (sThread core)) 32 8 d.code s.nextId (packetPayload m.body) ∧ ∀ x, x ≠ sThread core → u.thr x = s.thr x)
  ) ∧ (
  ∀ (a : G) (s : State), s.noWindow = true →
    (s.ready [] [] [] = true →
      (roleOf s.who = 2 → exec .done s = s.takeTrap causeIllegal (BitVec.ofNat 64 (encode .done))) ∧
      (roleOf s.who ≠ 2 → s.me.handling = none → s.me.successors = [] → ∃ t, exec .done s = .next t ∧ Freed s t ∧ t.net = s.net ∧
        (t.cap s.myCap).outstanding = (s.cap s.myCap).outstanding - 1) ∧
      (∀ where_ : List Mesh, roleOf s.who ≠ 2 → s.me.handling = none →
        s.me.successors.map (fun h => s.readyTarget (coreOf s.who) (h &&& ~~~7)) = where_.map Except.ok →
        (∀ m ∈ where_, m.package = bits (s.myCore).coord.toNat 23 12) →
        ∃ t gs, exec .done s = .next t ∧ t.me = { s.me with issued := t.me.issued }.ended ∧ t.net = s.net ++ gs ∧ gs.length = where_.length ∧
          (t.cap s.myCap).outstanding = (s.cap s.myCap).outstanding + where_.length - 1 ∧ t.mem = s.mem ∧
          ∀ (i : Nat) (h : Word) (m : Mesh) (g : Msg), s.me.successors[i]? = some h → where_[i]? = some m → gs[i]? = some g →
            Carries g 0x33 (h.toNat % 4) 8 (h &&& ~~~7) 1 0 ∧ From s g ∧ g.number = s.myCore.lastIssued 7 + 1 + i ∧
            g.target = (s.cap s.myCap).coreFor m) ∧
      (∀ (h : Word) (c : Nat), roleOf s.who ≠ 2 → s.me.handling = none → s.me.successors = [h] →
        s.readyTarget (coreOf s.who) (h &&& ~~~7) = .error c →
        ∃ t r, exec .done s = .next t ∧ t.me = s.me.ended ∧ t.net = s.net ∧ r.kind = 1 ∧ r.cause = c ∧ r.value = h ∧ r.code = s.me.pc ∧
          t.mgmt.errorLog = s.mgmt.errorLog ++ [(redact (s.cap s.myCap) r, (s.cap s.myCap).world)] ∧
          (t.cap s.myCap).outstanding = (s.cap s.myCap).outstanding - 1) ∧
      (∀ m, roleOf s.who ≠ 2 → s.me.handling = some m → s.me.successors = [] → m.request = 0 → ∃ t, exec .done s = .next t ∧ Freed s t ∧
        t.net = s.net ∧ (t.cap m.capsule).outstanding = (s.cap m.capsule).outstanding - 1 ∧
        (m.number ≠ 0 → m.sender < coreCount →
          m.number ≤ (t.core m.sender).tlwOf 7 ∨ (7, m.number) ∈ (t.core m.sender).completed)) ∧
      (∀ m, roleOf s.who ≠ 2 → s.me.handling = some m → s.me.successors = [] → m.request ≠ 0 → ∃ t, exec .done s = .next t ∧ Freed s t ∧
        t.net = s.net ++ [{ replyMsg m.capsule (coreOf s.who) (s.originOf s.who) m.reply m.firing m.request (s.rg 1) with serial := s.nextId }])) ∧
    (s.ready [a] [] [] = true →
      let x := (s.rg a).toNat
      let sregs := bits x 7 0
      let vregs := bits x 15 8
      let ok := roleOf s.who ≤ 1 ∧ x < 2 ^ 16 ∧ sregs % 8 = 0 ∧ vregs % 8 = 0 ∧ 8 ≤ sregs ∧ sregs ≤ s.me.sregs ∧ vregs ≤ s.me.vregs
      let owed := fun (p : Pending) => match p.reg with
        | .g n => sregs ≤ n
        | .v n => vregs ≤ n
      (¬ ok → exec (.shrink a) s = s.takeTrap causeIllegal (BitVec.ofNat 64 (encode (.shrink a)))) ∧
      (ok → (∃ p ∈ s.me.pending, owed p) → ∃ w, exec (.shrink a) s = .next (s.setMe { s.me with wait := w })) ∧
      (ok → (∀ p ∈ s.me.pending, ¬ owed p) → ∃ t, exec (.shrink a) s = .next t ∧ t.me.sregs = sregs ∧ t.me.vregs = vregs ∧
        (s.me.ldepth = 0 → t.me.pc = s.me.pc + 4) ∧ t.mem = s.mem ∧
        (∀ n, n < sregs → (∀ p ∈ s.me.pending, p.reg ≠ .g n) → t.rg n = s.rg n) ∧
        (∀ n, n < vregs → (∀ p ∈ s.me.pending, p.reg ≠ .v n) → t.rv n = s.rv n) ∧ ∀ n, n ≠ s.who → t.thr n = s.thr n))
  )

/-- arm and ready send their word's home an operation: arm the codelet and its rates, ready nothing more; a codelet that the capsule does not have traps ILLEGAL. migr stops its
thread until departure (R153).
Where the manual leaves a point open the clause states what the model chose (log 73). -/
def Obligations.ArmReadyMigr : Prop :=  ∀ (a b : G) (s : State), s.noWindow = true →
    let x := s.rg a
    let q := (s.rg b).toNat % 2 ^ 16
    let codelets := (s.cap s.myCap).image.codelets
    (s.ready [a, b] [] [] = true →
      (roleOf s.who = 2 ∨ codelets.length ≤ q → exec (.arm a b) s = s.takeTrap causeIllegal (BitVec.ofNat 64 (encode (.arm a b)))) ∧
      ∀ d m, roleOf s.who ≠ 2 → codelets[q]? = some d → s.readyTarget (coreOf s.who) x = .ok m →
        m.package = bits (s.myCore).coord.toNat 23 12 →
        ∃ t g, exec (.arm a b) s = .next t ∧ Posts s t 0 g ∧ From s g ∧ g.target = (s.cap s.myCap).coreFor m ∧
          g.key = tcmKey g.target m.offset ∧
          Carries g 0x38 2 8 x (s.rg b)
            (BitVec.ofNat 64 (d.rates.getD 0 0 + d.rates.getD 1 0 * 2 ^ 12 + d.rates.getD 2 0 * 2 ^ 24 + d.rates.getD 3 0 * 2 ^ 36))) ∧
    (s.ready [a] [] [] = true →
      (∀ m, roleOf s.who ≠ 2 → s.readyTarget (coreOf s.who) x = .ok m → m.package = bits (s.myCore).coord.toNat 23 12 →
        ∃ t g, exec (.ready a) s = .next t ∧ Posts s t 0 g ∧ From s g ∧ g.target = (s.cap s.myCap).coreFor m ∧
          g.key = tcmKey g.target m.offset ∧ Carries g 0x38 3 8 x 0 0) ∧
      (2 ≤ roleOf s.who ∨ s.me.vregs ≠ 0 ∨ s.me.barRecs ≠ [] ∨ s.me.shadow.written = true →
        exec (.migr a) s = s.takeTrap causeIllegal (BitVec.ofNat 64 (encode (.migr a)))) ∧
      (roleOf s.who < 2 → s.me.vregs = 0 → s.me.barRecs = [] → s.me.shadow.written = false →
        (∀ c, s.targetCore (coreOf s.who) x = .error c → exec (.migr a) s = s.takeTrap c x) ∧
        ∀ target, s.targetCore (coreOf s.who) x = .ok target → exec (.migr a) s = .next (s.setMe { s.me with wait := .departure target })))

/-- A migrating firing departs once its window is closed, its stores are acknowledged and only loads are owed: its context leaves with its successors, PC, FCR, VL, loop registers, masks,
pending registers and scalars, its thread is free, and its old core forwards its replies for 512 cycles, and for as long as a load reply is owed (R126, R127). A context for a peer package leaves to it (R131), once the firing's
posted atomics are performed, which the model reads from R140 (log 57). A thread that PREEMPT has taken at its migr departs no more (R175).
Where the manual leaves a point open the clause states what the model chose (log 4, 8, 11, 57, 76). -/
def Obligations.Departures : Prop :=  ∀ (s : State) (thread target : Nat), let x := s.thr thread
    x.wait = .departure target → x.live = true → x.window = 0 → x.unacked = 0 → s.onlyLoadsOwed x = true →
    (s.core (coreOf thread)).halted = false → (s.preempted thread = true → exec (.departure thread) s = .next s) ∧
    (s.preempted thread = false → (∀ p ∈ x.pending, p.value = none) → 1 ≤ x.sregs → x.sregs < 256 → x.successors.length ≤ 4 →
    (∃ u m y, exec (.departure thread) s = .next u ∧ u.net = s.net ++ [m] ∧ m.kind = 1 ∧ m.target = target ∧ m.firing = x.firing ∧
      m.sender = coreOf thread ∧ m.capsule = s.capOf (coreOf thread) ∧ EndTested x y ∧
      let n := x.successors.length
      let w := fun (i : Nat) => dwordB m.body (8 + 8 * n + 8 * i)
      fieldB m.body 0 2 = 8 * (18 + n + x.sregs) ∧ fieldB m.body 2 2 = 0xFFFF ∧ fieldB m.body 4 1 = n ∧ fieldB m.body 5 1 = x.sregs ∧
      fieldB m.body 6 1 = 0 ∧ fieldB m.body 7 1 = 0 ∧ m.body.length = 8 * (18 + n + x.sregs) ∧
      (∀ i h, x.successors[i]? = some h → dwordB m.body (8 + 8 * i) = h) ∧
      w 0 = y.pc ∧ w 1 = x.fcr ∧ w 2 = x.vl ∧
      (∀ l, l < 4 → w (3 + l) = sget 0 x.lstart l ∧ w (7 + l) = sget 0 x.lend l ∧ w (11 + l) = sget 0 y.lcount l) ∧ w 15 = y.ldepth ∧
      (∀ i, i < 7 → fieldB m.body (8 + 8 * n + 8 * 16 + i) 1 = (x.rk (i + 1)).toNat) ∧
      (∀ j, j < 64 → ((w 17).getLsbD j = true ↔ ∃ p ∈ x.pending, p.reg = .g j)) ∧
      (∀ i, i + 1 < x.sregs → w (18 + i) = x.rg (i + 1)) ∧
      (u.thr thread).live = false ∧ (u.core (coreOf thread)).forwarding = (s.core (coreOf thread)).forwarding ++ [⟨x.firing, target, m.origin, s.cycle + 512, x.pending.map Pending.id⟩] ∧
      (∀ c, (u.cap c).outstanding = (s.cap c).outstanding) ∧ u.mem = s.mem ∧
      (target < coreCount → u.outbox = s.outbox) ∧
      (coreCount ≤ target →
        (s.atomicBefore x.firing s.nextId = true → m.held = true ∧ u.outbox = s.outbox) ∧
        (s.atomicBefore x.firing s.nextId = false → u.outbox = (s.toPod ((s.cap m.capsule).podOf (target - coreCount)) 17 m.wire).outbox)))) ∧
    ∀ core, ∃ u, exec (.forwardingEntryExpiry core) s = .next u ∧
      (∀ e, e ∈ (u.core core).forwarding ↔ e ∈ (s.core core).forwarding ∧ (s.cycle < e.until_ ∨ ∃ l ∈ s.loads, l.firing = e.firing)) ∧
      ∀ c, c ≠ core → u.core c = s.core c

/-- mcst sends its 256-byte line to every member but its own package under one channel-7 number, which g[d] receives when the last has acknowledged, or at once with no members (R146); a
member outside the footprint traps MESHBOUND with its number, a destination that may not
be written traps with its lowest such byte (R204), and a mesh address is none (R138). A line for this package is written there. A line of a peer reaches this package as a member: it is written or reported, and acknowledged (R138, R139, R146); on a failed CXL set it ends in MEMERR (R230). That the record of a refused line enters the error log as well is the model's
reading (log 63).
Where the manual leaves a point open the clause states what the model chose (log 8, 29, 63, 76). -/
def Obligations.Multicast : Prop :=  ∀ (d a : G) (la : La) (s : State),
    (∀ k e, s.readyRelease [d, a] [] [] = true → s.imageKey (coreOf s.who) (s.rg a) 272 = .ok k → s.poisoned k 272 = false →
      let image := s.byteList k 272
      let first := fieldB image 0 2
      let count := fieldB image 2 2
      let stride := fieldB image 4 2
      let dest := dwordB image 8
      let own := bits s.myCore.coord.toNat 23 12
      let members := ((List.range count).map fun i => first + i * stride).filter fun p => p ≠ own
      let i : Instr := .mcst d a la
      (dest.toNat % 256 ≠ 0 → exec i s = s.takeTrap causeAlign dest) ∧
      (∀ p, dest.toNat % 256 = 0 → members.find? (fun p => (s.cap s.myCap).image.packages ≤ p) = some p →
        exec i s = s.takeTrap causeMeshbound (BitVec.ofNat 64 p)) ∧
      (dest.toNat % 256 = 0 → (∀ p ∈ members, p < (s.cap s.myCap).image.packages) → 2 ^ 63 ≤ dest.toNat →
        (∃ q, s.reach (coreOf s.who) dest 256 { accStore with need := rightW + rightM } = .ok q) → exec i s = s.takeTrap causeRights dest) ∧
      (dest.toNat % 256 = 0 → (∀ p ∈ members, p < (s.cap s.myCap).image.packages) →
        ∀ c, s.reach (coreOf s.who) dest 256 { accStore with need := rightW + rightM } = .error c →
          ∃ y, exec i s = s.takeTrap c y ∧ s.FailsAt (coreOf s.who) dest 256 { accStore with need := rightW + rightM } c y) ∧
      (dest.toNat % 256 = 0 → (∀ p ∈ members, p < (s.cap s.myCap).image.packages) → dest.toNat < 2 ^ 63 →
        s.reach (coreOf s.who) dest 256 { accStore with need := rightW + rightM } = .ok e →
        (fieldB image 6 2 ≠ 0 ∨ 4096 < count ∨ (stride = 0 ∧ 1 < count) →
          exec i s = s.takeTrap causeIllegal (BitVec.ofNat 64 (encode i))) ∧
        (fieldB image 6 2 = 0 → count ≤ 4096 → (stride ≠ 0 ∨ count ≤ 1) →
          ∃ t, exec i s = .next t ∧ t.mem = s.mem ∧ la.val ≤ t.me.window ∧ (s.me.ldepth = 0 → t.me.pc = s.me.pc + 4) ∧
            (t.core (coreOf s.who)).lastIssued 7 = s.myCore.lastIssued 7 + 1 ∧
            (members ≠ [] → (t.cap s.myCap).outstanding = (s.cap s.myCap).outstanding + 1 ∧
              t.mcsts = s.mcsts ++ members.map fun p => ⟨p, dest, image.drop 16, s.who, d, s.me.firing, s.nextId, s.myCore.lastIssued 7 + 1, s.myCap,
                s.me.pc, false⟩) ∧
            (members = [] → t.mcsts = s.mcsts ∧ (la.val = 0 → t.rg d = if d.val = 0 then 0 else BitVec.ofNat 64 (s.myCore.lastIssued 7 + 1)) ∧
              (la.val ≠ 0 → t.loads = s.loads ++
                [⟨s.me.firing, coreOf s.who, s.nextId, .g d, lateG (BitVec.ofNat 64 (s.myCore.lastIssued 7 + 1)), true⟩]))))) ∧
    (∀ n m, s.mcsts[n]? = some m → m.acked = false → s.lineBehind m = false →
      ∃ t, exec (.mcstLine n) s = .next t ∧ t.mcsts = s.mcsts.set n { m with acked := true } ∧
        (m.package ≠ bits (s.core (coreOf m.thread)).coord.toNat 23 12 → t.mem = s.mem ∧
          t.outbox = (s.toPod ((s.cap m.capsule).podOf m.package) 3 (toBytes 8 m.destination.toNat ++ m.line)).outbox) ∧
        ∀ k e, m.package = bits (s.core (coreOf m.thread)).coord.toNat 23 12 → m.line.length = 256 →
          s.reach (coreOf m.thread) m.destination 256 { accStore with need := rightW + rightM } = .ok (.here k e) →
          s.writeFails (.here k e) = false → (∀ j, j < 256 → t.byte (k + j) = m.line.getD j 0) ∧ MemFrame s t (span k 256)) ∧
    (∀ n m, s.mcsts[n]? = some m → (∀ q ∈ s.mcsts, q.thread = m.thread → q.request = m.request → q.acked = true) →
      ∃ t, exec (.mcstAcknowledgement n) s = .next t ∧ (∀ q, q ∈ t.mcsts ↔ q ∈ s.mcsts ∧ ¬ (q.thread = m.thread ∧ q.request = m.request)) ∧
        (t.cap m.capsule).outstanding = (s.cap m.capsule).outstanding - 1 ∧
        t.loads = s.loads ++ [⟨m.firing, coreOf m.thread, m.request, .g m.reg, lateG (BitVec.ofNat 64 m.number), true⟩]) ∧
    (∀ (package n : Nat) (dest code origin : Word) (line : List Byte) (number : Nat), s.gangWith n package = true → line.length = 256 →
      s.mgmt.powered = true → s.reachable = true →
      let reached := s.reach (s.cap n).door dest 256 { accStore with need := rightW + rightM }
      ∃ t, s.hear (.line package n dest line code origin number) = .next t ∧
        let told := t.outbox = (s.toPod ((s.cap n).podOf package) 10 (toBytes 8 (s.cap n).id.toNat)).outbox
        (∀ k e, reached = .ok (.here k e) → s.writeFails (.here k e) = false →
          told ∧ (∀ j, j < 256 → t.byte (k + j) = line.getD j 0) ∧ MemFrame s t (span k 256)) ∧
        (∀ k e, reached = .ok (.here k e) → s.writeFails (.here k e) = true → (s.cap n).stage = .running → KillRaised s t n causeMemerr) ∧
        (∀ c, reached = .error c → told ∧ ∃ r, r.kind = 1 ∧ r.cause = c ∧ r.value = dest ∧ r.code = code ∧
          t.mgmt.errorLog = s.mgmt.errorLog ++ [(redact (s.cap n) r, (s.cap n).world)])) ∧
    ∀ m rest package, s.net = m :: rest → m.target = coreCount + package → m.kind ≠ 4 → m.held = false →
      ∃ t, exec (.crossPackageAcknowledgement m.capsule package) s = .next t ∧
        (m.request = 0 → t.net = rest ∧ (t.cap m.capsule).outstanding = (s.cap m.capsule).outstanding - 1) ∧
        (m.request ≠ 0 → ∃ v, t.net = rest ++ [{ replyMsg m.capsule m.sender (s.peerOrigin package m) m.reply m.firing m.request v with serial := s.nextId }])

/-! ### Synchronisation -/

/-- Fences complete once what they wait for is over, and wait until then: the replies owed to the thread, its posted atomics, or its engine numbers; nothing but the
PC changes (R154). waitt completes once the channel's watermark has reached g[a], waits until then, and traps ILLEGAL on a number not yet issued (R156).
Where the manual leaves a point open the clause states what the model chose (log 3). -/
def Obligations.FencesAndTimelines : Prop :=  ∀ (sc : Scope) (ch : Fin 8) (a : G) (s : State), s.noWindow = true → (s.cluster (clusterOf (coreOf s.who))).openTiles = [] →
    let quiet := s.atomicBefore s.me.firing s.nextId = false
    let n := (s.rg a).toNat
    let tlw := s.myCore.tlwOf ch
    (s.ready [] [] [] = true →
      (s.me.requests = [] → ∃ t, exec (.fenceAcq sc) s = .next t ∧ Passes s t) ∧
      (s.me.requests ≠ [] → exec (.fenceAcq sc) s = .next (s.setMe { s.me with wait := .reply }) ∧
        exec (.fenceFull sc) s = .next (s.setMe { s.me with wait := .reply })) ∧
      ((∀ r ∈ s.me.requests, r.2 = false) → quiet → ∃ t, exec (.fenceRel sc) s = .next t ∧ Passes s t) ∧
      ((∃ r ∈ s.me.requests, r.2 = true) → exec (.fenceRel sc) s = .next (s.setMe { s.me with wait := .reply })) ∧
      ((∀ r ∈ s.me.requests, r.2 = false) → ¬ quiet → exec (.fenceRel sc) s = .next (s.setMe { s.me with wait := .posted })) ∧
      (s.me.requests = [] → quiet → ∃ t, exec (.fenceFull sc) s = .next t ∧ Passes s t) ∧
      (s.me.requests = [] → ¬ quiet → exec (.fenceFull sc) s = .next (s.setMe { s.me with wait := .posted })) ∧
      ((∀ e ∈ s.me.issued, e.2 ≤ s.myCore.tlwOf e.1) → ∃ t, exec (.fenceEng sc) s = .next t ∧ Passes s t) ∧
      ((∃ e ∈ s.me.issued, s.myCore.tlwOf e.1 < e.2) → exec (.fenceEng sc) s = .next (s.setMe { s.me with wait := .engines }))) ∧
    (s.ready [a] [] [] = true →
      (s.myCore.lastIssued ch < n → exec (.waitt ch a) s = s.takeTrap causeIllegal (BitVec.ofNat 64 (encode (.waitt ch a)))) ∧
      (n ≤ s.myCore.lastIssued ch → n ≤ tlw → ∃ t, exec (.waitt ch a) s = .next t ∧ Passes s t) ∧
      (n ≤ s.myCore.lastIssued ch → tlw < n → exec (.waitt ch a) s = .next (s.setMe { s.me with wait := .timeline ch n })))

/-- bar.arrive counts one arrival in the barrier's current phase and records it; the arrival that makes the count completes the phase; bar.wait goes on once its recorded phase is
over and clears the record, and waits until then; bar.sync does both (R133, R155). Barrier 0 counts the footprint cores of its instance, which stay its expected count. H, a count out of range, one
that differs from the phase's, a count register for barrier 0 and a record held already trap ILLEGAL, and count nothing. An arrival of a peer's thread counts at the pod's barriers.
Where the manual leaves a point open the clause states what the model chose (log 8). -/
def Obligations.Barriers : Prop :=
  (
  ∀ (sc : Scope) (id : Fin 8) (a : G) (s : State), s.noWindow = true → sc ≠ .core →
    let b := s.barrier sc id
    let count := (s.rg a).toNat
    let c := s.cap s.myCap
    let illegal := fun (i : Instr) => exec i s = s.takeTrap causeIllegal (BitVec.ofNat 64 (encode i))
    s.readyRelease [a] [] [] = true → s.me.syncArrived = false →
      (roleOf s.who = 2 ∨ s.me.barRec sc id ≠ none ∨ (id.val = 0 ∧ a.val ≠ 0) ∨
          (id.val ≠ 0 ∧ (count = 0 ∨ 65535 < count ∨ ∃ e, b.expected = some e ∧ e ≠ count)) →
        illegal (.barArrive sc id a) ∧ illegal (.barSync sc id a)) ∧
      ∀ e0, roleOf s.who ≠ 2 → s.me.barRec sc id = none → id.val = 0 → a.val = 0 →
        (sc = .quad ∧ e0 = 4 ∨ sc = .clu ∧ e0 = 8 ∨ sc = .die ∧ e0 = 8 * c.colsOf (bits s.myCore.coord.toNat 11 10) * c.image.rows ∨
          sc = .pkg ∧ e0 = c.cores.length ∨
          sc = .pod ∧ c.image.packages = 1 ∧ bits s.myCore.coord.toNat 23 12 = 0 ∧ e0 = c.cores.length) →
        ∃ t, exec (.barArrive sc id a) s = .next t ∧ t.me.barRecs = s.me.barRecs ++ [⟨sc, id, b.phase⟩] ∧
          t.barrier sc id = (if b.arrived + 1 = e0 then ⟨some e0, 0, b.phase + 1⟩ else ⟨some e0, b.arrived + 1, b.phase⟩) ∧ t.mem = s.mem ∧
          (s.me.ldepth = 0 → t.me.pc = s.me.pc + 4)
  ) ∧ (
  ∀ (n id count core : Nat) (s : State), s.mgmt.powered = true → s.reachable = true → (s.cap n).placed ≠ [] → 1 < (s.cap n).image.packages →
    1 ≤ id → id < 8 → 1 ≤ count → count ≤ 65535 →
    let key := barrierKey core .pod id
    let b := sget Barrier.reset (s.cap n).barriers key
    (b.expected = none ∨ b.expected = some count → ∃ t, s.hear (.arrival n id count) = .next t ∧ { t with capsules := s.capsules } = s ∧
      sget Barrier.reset (t.cap n).barriers key =
        (if b.arrived + 1 = count then ⟨none, 0, b.phase + 1⟩ else ⟨some count, b.arrived + 1, b.phase⟩))
  ) ∧ (
  ∀ (sc : Scope) (id : Fin 8) (a : G) (s : State), s.noWindow = true → sc ≠ .core → roleOf s.who ≠ 2 →
    let b := s.barrier sc id
    let count := (s.rg a).toNat
    let mine : BarRec := ⟨sc, id, b.phase⟩
    let counted := fun (t : State) => t.barrier sc id = (if b.arrived + 1 = count then ⟨none, 0, b.phase + 1⟩ else ⟨some count, b.arrived + 1, b.phase⟩)
    (id.val ≠ 0 → s.me.barRec sc id = none → 1 ≤ count → count ≤ 65535 → (b.expected = none ∨ b.expected = some count) →
      s.readyRelease [a] [] [] = true → s.me.syncArrived = false →
      (∃ t, exec (.barArrive sc id a) s = .next t ∧ counted t ∧ t.me.barRecs = s.me.barRecs ++ [mine] ∧ t.mem = s.mem ∧
        (s.me.ldepth = 0 → t.me.pc = s.me.pc + 4)) ∧
      ∃ t, exec (.barSync sc id a) s = .next t ∧ counted t ∧ t.mem = s.mem ∧
        (b.arrived + 1 = count → t.me.syncArrived = false ∧ (s.me.ldepth = 0 → t.me.pc = s.me.pc + 4) ∧ t.me.barRec sc id = none) ∧
        (b.arrived + 1 ≠ count → t.me.pc = s.me.pc ∧ t.me.syncArrived = true ∧ t.me.wait = .phase sc id b.phase ∧
          t.me.barRecs = s.me.barRecs ++ [mine])) ∧
    (∀ r, s.me.barRec sc id = some r → s.ready [] [] [] = true →
      (b.phase = r.phase → exec (.barWait sc id) s = .next (s.setMe { s.me with wait := .phase sc id r.phase })) ∧
      (b.phase ≠ r.phase → ∃ t, exec (.barWait sc id) s = .next t ∧ t.me.barRec sc id = none ∧ t.mem = s.mem ∧
        (s.me.ldepth = 0 → t.me.pc = s.me.pc + 4))) ∧
    (s.me.barRec sc id = none → s.ready [] [] [] = true →
      exec (.barWait sc id) s = s.takeTrap causeIllegal (BitVec.ofNat 64 (encode (.barWait sc id))))
  )

/-! ### Special registers and traps -/

/-- srr reads the register that the table names; an index outside the table traps ILLEGAL, and a firmware register read in capsule mode traps PRIV (R18 to R22, R67).

srw writes a register of the table that may be written, with a value that its fields allow, and takes effect from the next instruction; every other register or value traps ILLEGAL and
leaves the register alone, and a firmware register in capsule mode traps PRIV (R18, R19, R21, R27, R60, R67). A smaller allotment waits for what is pending above it and then releases the registers
above it; ALLOT takes no other value (R19). A value in a register outside the allotment raises no ILLEGAL: REGRANGE follows (R17, R38).
Where the manual leaves a point open the clause states what the model chose (log 5, 21, 27, 75, 113). -/
def Obligations.SpecialRegisters : Prop :=
  (
  ∀ (d : G) (index : BitVec 12) (s : State), s.ready [d] [] [] = true →
    let n := index.toNat
    let c := s.myCore
    let pool := s.allot s.who
    let table : List (Nat × Word) :=
      [(0x000, s.me.pc), (0x001, BitVec.ofNat 64 (pool.2 * 256 + pool.1)), (0x002, c.coord), (0x003, c.foot), (0x004, (s.cap s.myCap).id),
       (0x005, BitVec.ofNat 64 (s.who % 4)), (0x008, s.me.fcr), (0x009, s.me.vl), (0x01C, s.me.ldepth), (0x020, BitVec.ofNat 64 (s.cycle + Config.cycleSkew (coreOf s.who))),
       (0x021, BitVec.ofNat 64 s.podTick), (0x040, c.mqw), (0x041, c.mqstat), (0x060, c.rrstat), (0x061, c.inboxWord),
       (0x080, BitVec.ofNat 64 (s.dbgTier (dieOf s.myCluster)))] ++
      (List.range 4).map (fun l => (0x010 + l, sget 0 s.me.lstart l)) ++ (List.range 4).map (fun l => (0x014 + l, sget 0 s.me.lend l)) ++
      (List.range 4).map (fun l => (0x018 + l, sget 0 s.me.lcount l)) ++
      (List.range 16).map (fun i => (0x030 + i, sget 0 (s.cluster s.myCluster).bfmt i)) ++
      (List.range 8).map (fun i => (0x050 + i, BitVec.ofNat 64 (c.tlwOf i)))
    let firmware : List (Nat × Word) := [(0x070, s.me.trapCause), (0x071, s.me.trapPc), (0x072, s.me.trapVal), (0x073, c.trapVec)]
    (∀ v, (n, v) ∈ table → ∃ t, exec (.srr d index) s = .next t ∧ Writes s t d v) ∧
    (∀ v, (n, v) ∈ firmware →
      (s.me.mode = .firmware → ∃ t, exec (.srr d index) s = .next t ∧ Writes s t d v) ∧
      (s.me.mode = .capsule → exec (.srr d index) s = s.takeTrap causePriv (BitVec.ofNat 64 (encode (.srr d index))))) ∧
    ((∀ v, (n, v) ∉ table ++ firmware) → exec (.srr d index) s = s.takeTrap causeIllegal (BitVec.ofNat 64 (encode (.srr d index))))
  ) ∧ (
  ∀ (a : G) (index : BitVec 12) (s : State), s.ready [a] [] [] = true → s.noWindow = true →
    let n := index.toNat
    let v := s.rg a
    let i : Instr := .srw index a
    let illegal := exec i s = s.takeTrap causeIllegal (BitVec.ofNat 64 (encode i))
    let writes := fun (ok : Prop) (f : State → State) => (ok → ∃ u, exec i s = .next (f u) ∧ Passes s u) ∧ (¬ ok → illegal)
    let cl := s.myCluster
    (n = 0x008 → writes (v.toNat < 512 ∧ bits v.toNat 3 2 = 0) fun u => u.setMe { u.me with fcr := v }) ∧
    (n = 0x009 → writes (v.toNat ≤ 16) fun u => u.setMe { u.me with vl := v }) ∧
    (∀ l, l < 4 →
      (n = 0x010 + l → writes (v.toNat % 4 = 0) fun u => u.setMe { u.me with lstart := sset 0 u.me.lstart l v }) ∧
      (n = 0x014 + l → writes (v.toNat % 4 = 0) fun u => u.setMe { u.me with lend := sset 0 u.me.lend l v }) ∧
      (n = 0x018 + l → writes True fun u => u.setMe { u.me with lcount := sset 0 u.me.lcount l v })) ∧
    (n = 0x01C → writes (v.toNat ≤ 4) fun u => u.setMe { u.me with ldepth := v }) ∧
    (∀ b, b < 16 → n = 0x030 + b → writes (v.toNat < 16) fun u =>
      u.setCluster cl { s.cluster cl with bfmt := sset 0 (s.cluster cl).bfmt b v }) ∧
    (n = 0x040 → writes (1 ≤ v.toNat ∧ v.toNat ≤ 15) fun u => u.setCore (coreOf s.who) { s.myCore with mqw := v }) ∧
    (0x070 ≤ n → n ≤ 0x073 → (n = 0x070 → v.toNat < 2 ^ 16) → s.me.mode = .capsule → exec i s = s.takeTrap causePriv (BitVec.ofNat 64 (encode i))) ∧
    (n = 0x070 → 2 ^ 16 ≤ v.toNat → illegal) ∧
    (n = 0x070 → s.me.mode = .firmware → writes (v.toNat < 2 ^ 16) fun u => u.setMe { u.me with trapCause := v }) ∧
    (n = 0x072 → s.me.mode = .firmware → writes True fun u => u.setMe { u.me with trapVal := v }) ∧
    (n = 0x071 → s.me.mode = .firmware → writes True fun u => u.setMe { u.me with trapPc := v }) ∧
    (n = 0x073 → s.me.mode = .firmware → writes True fun u => u.setCore (coreOf s.who) { s.myCore with trapVec := v }) ∧
    (n = 0x001 →
      let sregs := bits v.toNat 7 0
      let vregs := bits v.toNat 15 8
      let ok := roleOf s.who ≤ 1 ∧ v.toNat < 2 ^ 16 ∧ sregs % 8 = 0 ∧ vregs % 8 = 0 ∧ 8 ≤ sregs ∧ sregs ≤ s.me.sregs ∧ vregs ≤ s.me.vregs
      let owed := fun (p : Pending) => match p.reg with
        | .g n => sregs ≤ n
        | .v n => vregs ≤ n
      (¬ ok → illegal) ∧
      (ok → (∃ p ∈ s.me.pending, owed p) → ∃ w, exec i s = .next (s.setMe { s.me with wait := w })) ∧
      (ok → (∀ p ∈ s.me.pending, ¬ owed p) → ∃ t, exec i s = .next t ∧ t.me.sregs = sregs ∧ t.me.vregs = vregs ∧
        (s.me.ldepth = 0 → t.me.pc = s.me.pc + 4) ∧ t.mem = s.mem ∧
        (∀ n, n < sregs → (∀ p ∈ s.me.pending, p.reg ≠ .g n) → t.rg n = s.rg n) ∧
        (∀ n, n < vregs → (∀ p ∈ s.me.pending, p.reg ≠ .v n) → t.rv n = s.rv n) ∧ ∀ n, n ≠ s.who → t.thr n = s.thr n)) ∧
    (n ∉ [0x001, 0x008, 0x009, 0x040] → ¬ (0x010 ≤ n ∧ n ≤ 0x01C) → ¬ (0x030 ≤ n ∧ n ≤ 0x03F) → ¬ (0x070 ≤ n ∧ n ≤ 0x073) → illegal)
  ) ∧ (
  ∀ (a : G) (index : BitVec 12) (s : State), s.held ⟨0, [a], [], [], false, false⟩ = none → s.noWindow = true → (s.allot s.who).1 ≤ a.val →
    let n := index.toNat
    let written := n ∈ [0x001, 0x008, 0x009, 0x040] ∨ (0x010 ≤ n ∧ n ≤ 0x01C) ∨ (0x030 ≤ n ∧ n ≤ 0x03F) ∨ (0x070 ≤ n ∧ n ≤ 0x073)
    let i : Instr := .srw index a
    (written → exec i s = s.takeTrap causeRegrange (BitVec.ofNat 64 (encode i))) ∧
    (¬ written → exec i s = s.takeTrap causeIllegal (BitVec.ofNat 64 (encode i)))
  )

/-- Taking a trap fills TRAPCAUSE, TRAPPC and TRAPVAL, enters firmware mode and goes on at TRAPVEC; nothing else changes unless an armed halt group halts on the fault (R204, R216). trap, a fetch that fails and a word that
is no instruction are such traps (R34, R37, R205); eret in firmware mode returns to TRAPPC, in capsule mode it traps PRIV.

The resident handler writes the fault record of a trap with its cause, PC, value, extent and thread, and ends what R203 ends: the firing, whose unit and allotment are free; or the whole capsule, whose kill keeps
the record as its final one, unless it is under way already (R118, R203, R204, R211, R214, R215). The record of a trap in a delegated routine names the issuer of its dlg (R139), and
the dlg's REPLY of 24 bytes leaves where the interface has room for it (R145, R188).
Where the manual leaves a point open the clause states what the model chose (log 14, 16, 40, 63, 68, 95). -/
def Obligations.TrapsAndTheResidentHandler : Prop :=
  (
  ∀ (s : State) (cause : Nat) (v : Word) (a : G) (w : BitVec 32),
    let plain := roleOf s.who = 2 ∨ s.faultHalts (coreOf s.who) = none
    (plain → s.takeTrap cause v = .next (s.trapped cause v)) ∧
    (∀ g, roleOf s.who ≠ 2 → s.faultHalts (coreOf s.who) = some g → ∃ t, s.takeTrap cause v = .next t ∧
      t.threads = (s.trapped cause v).threads ∧ t.mem = s.mem ∧ (sget ⟨false, false, false⟩ t.mgmt.groups g).halted = true ∧
      ∀ e ∈ t.cores, e.2.haltGroup = some g → e.2.halted = true) ∧
    (plain → roleOf s.who ≠ 2 → s.ready [a] [] [] = true → s.noWindow = true → exec (.trap a) s = .next (s.trapped causeTrap (s.rg a))) ∧
    (plain → exec (.illegalInstructionWord w) s = .next (s.trapped causeIllegal (w.setWidth 64))) ∧
    (plain → ∀ c, s.fetch = .error c → exec .fetchFault s = .next (s.trapped c s.fetchVa)) ∧
    (s.ready [] [] [] = true → s.noWindow = true →
      (s.me.mode = .firmware → s.me.pending = [] → exec .eret s = .next (s.setMe { s.me with pc := s.me.trapPc, mode := .capsule, wait := .nothing })) ∧
      (s.me.mode = .capsule → exec .eret s = s.takeTrap causePriv (BitVec.ofNat 64 (encode .eret))))
  ) ∧ (
  ∀ (s t : State) (n : Nat), IssuesIn s t n →
    let cap := t.cap t.myCap
    let cause := t.me.trapCause.toNat
    let ends := bits cap.image.flags 3 3 = 0 ∨ cause = causeMemerr
    t.me.mode = .firmware → roleOf n < 2 → t.me.handling = none →
    ∃ u r, step s = .next u ∧ r.kind = 1 ∧ r.cause = cause ∧ r.code = t.me.trapPc ∧ r.value = t.me.trapVal ∧ r.capsule = cap.id ∧
      r.thread = roleOf n ∧ r.tick = t.podTick ∧ r.extent = extentIndex cap cause t.me.trapVal ∧ (u.thr n).live = false ∧
      (ends → cap.stage = .running → (u.cap t.myCap).stage = .killing ∧ (u.cap t.myCap).kill = some ⟨r, 0, []⟩ ∧ u.mem = t.mem) ∧
      (ends → cap.stage = .killing → (u.cap t.myCap).kill = cap.kill ∧ (u.cap t.myCap).stage = .killing ∧
        u.mgmt.errorLog = t.mgmt.errorLog ++ [(redact cap r, cap.world)]) ∧
      (¬ ends → (u.cap t.myCap).outstanding = cap.outstanding - 1 ∧ (u.cap t.myCap).faultFirings = cap.faultFirings + 1 ∧
        (u.thr n).sregs = 0 ∧ u.mgmt.errorLog = t.mgmt.errorLog ++ [(redact cap r, cap.world)] ∧
        ∀ k, cap.reportIndex < 63 → cap.keyOf (t.reportBase cap + 64 * cap.reportIndex) = some k → t.takes k 64 →
          u.byteList k 64 = r.bytes 0 ∧ (u.cap t.myCap).reportIndex = cap.reportIndex + 1)
  ) ∧ (
  ∀ (s t : State) (n : Nat) (m : Msg), IssuesIn s t n →
    let cap := t.cap t.myCap
    let cause := t.me.trapCause.toNat
    t.me.mode = .firmware → roleOf n = 3 → t.me.handling = some m → bits cap.image.flags 3 3 = 1 → cause ≠ causeMemerr →
    ∃ u r, step s = .next u ∧ r.kind = 1 ∧ r.cause = cause ∧ r.code = t.me.trapPc ∧ r.value = t.me.trapVal ∧
      r.origin = m.origin.toNat % 2 ^ 16 ∧ r.thread = bits m.origin.toNat 25 24 ∧
      r.timeline = (if m.number = 0 then 0 else BitVec.ofNat 64 (7 * 2 ^ 60 + m.number)) ∧ (u.thr n).live = false ∧
      u.mgmt.errorLog = t.mgmt.errorLog ++ [(redact cap r, cap.world)] ∧
      (m.request = 0 → u.net = t.net) ∧
      (m.request ≠ 0 → u.net = t.net ++
        [{ replyMsg m.capsule (coreOf n) (t.originOf n) m.reply m.firing m.request 0xFFFFFFFFFFFFFFFF with serial := t.nextId }])
  )

/-- bkpt halts an armed halt group, else it writes a breakpoint record; report leaves a user record to be written, and a unit outstanding until it is (R118, R205, R211, R216). Once
63 records stand in the report area a further one is dropped and counted (R188). That a record enters the error log as well is the model's reading (log 63).
Where the manual leaves a point open the clause states what the model chose (log 3, 16, 63, 95). -/
def Obligations.RecordsAndBreakpoints : Prop :=  ∀ (a b : G) (s : State), s.noWindow = true →
    (s.readyRelease [a] [] [] = true → roleOf s.who ≠ 2 →
      (∀ g, s.armedGroup (coreOf s.who) = some g → ∃ t u, exec (.bkpt a) s = .next t ∧ Passes s u ∧ t = u.haltGroup g) ∧
      (s.armedGroup (coreOf s.who) = none → (s.cap s.myCap).reportIndex < 63 →
        ∃ t r, exec (.bkpt a) s = .next t ∧ r.kind = 5 ∧ r.value = s.rg a ∧ r.code = s.me.pc ∧ r.capsule = (s.cap s.myCap).id ∧
          (t.cap s.myCap).reportIndex = (s.cap s.myCap).reportIndex + 1 ∧ (s.me.ldepth = 0 → t.me.pc = s.me.pc + 4) ∧
          t.mgmt.errorLog = s.mgmt.errorLog ++ [(redact (s.cap s.myCap) r, (s.cap s.myCap).world)] ∧
          ∀ k, (s.cap s.myCap).keyOf (s.reportBase (s.cap s.myCap) + 64 * (s.cap s.myCap).reportIndex) = some k → s.takes k 64 →
            t.byteList k 64 = r.bytes 0) ∧
      (s.armedGroup (coreOf s.who) = none → 63 ≤ (s.cap s.myCap).reportIndex →
        ∃ t r, exec (.bkpt a) s = .next t ∧ r.kind = 5 ∧ r.value = s.rg a ∧ r.code = s.me.pc ∧ t.mem = s.mem ∧
          (t.cap s.myCap).reportIndex = (s.cap s.myCap).reportIndex ∧ (t.cap s.myCap).dropped = (s.cap s.myCap).dropped + 1 ∧
          (s.me.ldepth = 0 → t.me.pc = s.me.pc + 4) ∧
          t.mgmt.errorLog = s.mgmt.errorLog ++ [(redact (s.cap s.myCap) r, (s.cap s.myCap).world)])) ∧
    (s.readyMem [a, b] [] [] = true →
      ∃ t r, exec (.report a b) s = .next t ∧ t.reports = s.reports ++ [⟨s.myCap, s.me.firing, s.nextId, r⟩] ∧ r.kind = 2 ∧
        r.cause = (s.rg a).toNat % 2 ^ 32 ∧ r.value = s.rg b ∧ r.code = s.me.pc ∧ r.capsule = (s.cap s.myCap).id ∧ r.tick = s.podTick ∧
        (t.cap s.myCap).outstanding = (s.cap s.myCap).outstanding + 1 ∧ t.mem = s.mem ∧ (s.me.ldepth = 0 → t.me.pc = s.me.pc + 4)) ∧
    ∀ n p, s.reports[n]? = some p → s.atomicBefore p.firing p.serial = false →
      let c := s.cap p.capsule
      ∃ t, exec (.reportRecordWrite n) s = .next t ∧ t.reports = s.reports.eraseIdx n ∧ (t.cap p.capsule).outstanding = c.outstanding - 1 ∧
        (c.reportIndex < 63 → (t.cap p.capsule).reportIndex = c.reportIndex + 1 ∧
          ∀ k, c.keyOf (s.reportBase c + 64 * c.reportIndex) = some k → s.takes k 64 → t.byteList k 64 = p.record.bytes 0) ∧
        (63 ≤ c.reportIndex → t.mem = s.mem ∧ (t.cap p.capsule).dropped = c.dropped + 1)

/-! ### Copy and block-transfer engines -/

/-- cps writes its shadow register alone, on H it traps ILLEGAL (R244). cpgo latches shadow and formats in an operation of the copy engine (R245), waits while the engine's queue holds 32 (R261), and traps ILLEGAL on counts
of 0, reserved bits and a row that breaks the block size of a converting side (R245, R262), and MESHBOUND on a scratchpad side outside the footprint (R262). btx reads its descriptor and sends the transfer to its row's engine (R264, R265).
Where the manual leaves a point open the clause states what the model chose (log 59). -/
def Obligations.CopiesIssue : Prop :=  ∀ (d a : G) (la : La) (s : State),
    let x := s.me.shadow
    let cps := fun (i : Instr) (y : Shadow) => s.ready [a] [] [] = true →
      (roleOf s.who = 2 → exec i s = s.takeTrap causeIllegal (BitVec.ofNat 64 (encode i))) ∧
      (roleOf s.who ≠ 2 → ∃ t, exec i s = .next t ∧ t.me.shadow = { y with written := true } ∧ la.val ≤ t.me.window ∧
        Passes s (t.setMe { t.me with shadow := x }))
    cps (.cpsSrc a la) { x with src := s.rg a } ∧ cps (.cpsDst a la) { x with dst := s.rg a } ∧ cps (.cpsSstr a la) { x with sstr := s.rg a } ∧
    cps (.cpsDstr a la) { x with dstr := s.rg a } ∧ cps (.cpsShape a la) { x with shape := s.rg a } ∧ cps (.cpsFmt a la) { x with fmt := s.rg a } ∧
    cps (.cpsChan a la) { x with chan := s.rg a } ∧
    (s.readyRelease [d] [] [] = true → s.noWindow = true → roleOf s.who ≠ 2 →
      let n0 := bits x.shape.toNat 23 0
      let bad := n0 = 0 ∨ bits x.shape.toNat 39 24 = 0 ∨ bits x.shape.toNat 55 40 = 0 ∨ bits x.shape.toNat 63 56 ≠ 0 ∨ 256 ≤ x.fmt.toNat ∨
        4 ≤ x.chan.toNat
      (bad → exec (.cpgo d la) s = s.takeTrap causeIllegal (BitVec.ofNat 64 (encode (.cpgo d la)))) ∧
      (∀ sf df, s.sideFormat (coreOf s.who) x.src (bits x.fmt.toNat 3 0) = some sf →
        s.sideFormat (coreOf s.who) x.dst (bits x.fmt.toNat 7 4) = some df → blockBad sf df n0 = true →
        exec (.cpgo d la) s = s.takeTrap causeIllegal (BitVec.ofNat 64 (encode (.cpgo d la)))) ∧
      (¬ bad → s.sideFormat (coreOf s.who) x.src (bits x.fmt.toNat 3 0) = none → exec (.cpgo d la) s = s.takeTrap causeMeshbound x.src) ∧
      (∀ sf, ¬ bad → s.sideFormat (coreOf s.who) x.src (bits x.fmt.toNat 3 0) = some sf → s.sideFormat (coreOf s.who) x.dst (bits x.fmt.toNat 7 4) = none →
        exec (.cpgo d la) s = s.takeTrap causeMeshbound x.dst) ∧
      ∀ sf df, ¬ bad → s.sideFormat (coreOf s.who) x.src (bits x.fmt.toNat 3 0) = some sf →
        s.sideFormat (coreOf s.who) x.dst (bits x.fmt.toNat 7 4) = some df → blockBad sf df n0 = false →
        (32 ≤ (s.cluster s.myCluster).copies.length → exec (.cpgo d la) s = .next (s.setMe { s.me with wait := .copyRoom })) ∧
        ((s.cluster s.myCluster).copies.length < 32 → ∃ t c, exec (.cpgo d la) s = .next t ∧
          (t.cluster s.myCluster).copies = (s.cluster s.myCluster).copies ++ [c] ∧ c.shadow = x ∧ c.sfmt = sf ∧ c.dfmt = df ∧ c.chan = x.chan.toNat ∧
          c.thread = s.who ∧ c.reg = d.val ∧ c.firing = s.me.firing ∧ c.request = s.nextId ∧ c.code = s.me.pc ∧ c.moved = false ∧
          c.number = s.myCore.lastIssued x.chan.toNat + 1 ∧ (t.core (coreOf s.who)).lastIssued x.chan.toNat = c.number ∧
          (t.cap s.myCap).outstanding = (s.cap s.myCap).outstanding + 1 ∧ t.me.shadow.written = false ∧ t.mem = s.mem ∧
          (d.val ≠ 0 → ⟨s.nextId, .g d, la, none⟩ ∈ t.me.pending) ∧ la.val ≤ t.me.window ∧ (s.me.ldepth = 0 → t.me.pc = s.me.pc + 4))) ∧
    (s.readyRelease [d, a] [] [] = true → s.noWindow = true → roleOf s.who ≠ 2 →
      let i : Instr := .btx d a la
      ((s.rg a).toNat % 8 ≠ 0 → exec i s = s.takeTrap causeAlign (s.rg a)) ∧
      ∀ l, (s.rg a).toNat % 8 = 0 → s.readRange (coreOf s.who) accLoad (fun m => unitAllows m accLoad) 32 (s.rg a) = .ok l →
        let b := l.map Prod.snd
        let n := fieldB b 16 8
        let ok := fieldB b 0 8 % 64 = 0 ∧ fieldB b 8 8 % 64 = 0 ∧ 64 ≤ n ∧ n ≤ 2 ^ 30 ∧ n % 64 = 0 ∧ fieldB b 24 8 = 0
        let busy := (s.transfers.filter fun t => coreOf t.thread = coreOf s.who).length
        (¬ ok → exec i s = s.takeTrap causeIllegal (BitVec.ofNat 64 (encode i))) ∧
        (ok → 8 ≤ busy → exec i s = .next (s.setMe { s.me with wait := .transferRoom })) ∧
        (ok → busy < 8 → ∃ t c, exec i s = .next t ∧ t.transfers = s.transfers ++ [c] ∧ c.src = dwordB b 0 ∧ c.dst = dwordB b 8 ∧ c.length = n ∧
          c.stage = 0 ∧ c.thread = s.who ∧ c.reg = d.val ∧ c.request = s.nextId ∧ c.firing = s.me.firing ∧ c.capsule = s.myCap ∧
          c.number = s.myCore.lastIssued 6 + 1 ∧ c.engine = s.myCluster / 96 * 8 + s.myCluster % 96 / 12 ∧
          (t.cap s.myCap).outstanding = (s.cap s.myCap).outstanding + 1 ∧ t.mem = s.mem ∧ (d.val ≠ 0 → ⟨s.nextId, .g d, la, none⟩ ∈ t.me.pending) ∧
          (s.me.ldepth = 0 → t.me.pc = s.me.pc + 4)))

/-- The copy engine moves the bytes of every raw row from its source to its destination, or converts the elements of every row, and changes nothing else in memory (R245, R262); a row that fails ends the capsule (R263). A copy
that has moved completes behind none of its thread and channel, and its number and token are written (R261, R266).

A block transfer that arrives at its engine takes a free entry that no older ticket waits for, or is refused with a ticket and a hint; a retry, once the hint's cycles are over,
does the same (R265). An accepted one moves its lines and completes (R264).

A transient condition restarts from the progress point: a row and a line have none within them, and a drain runs its segment again, with the memory values it has read (R258, R279); a tile row
that has been poisoned meanwhile ends the capsule with MEMERR (R213, R257). The sixteenth restart in a row ends the
capsule of the operation with MEMERR (R258, R263, R264).
Where the manual leaves a point open the clause states what the model chose (log 4, 11, 19, 58, 82). -/
def Obligations.CopiesMove : Prop :=
  (
  (∀ (s : State) (cl : Nat) (x : CopyOp) (rest : List CopyOp), (s.cluster cl).copies = x :: rest →
    let n := bits x.shadow.shape.toNat 23 0
    let n1 := bits x.shadow.shape.toNat 39 24
    let n2 := bits x.shadow.shape.toNat 55 40
    let core := coreOf x.thread
    let src := fun r => rowAddress x.shadow.src x.shadow.sstr n1 r
    let dst := fun r => rowAddress x.shadow.dst x.shadow.dstr n1 r
    let raw := x.sfmt = x.dfmt ∨ x.sfmt = 0 ∨ x.dfmt = 0
    let moved := fun (t : State) => ∃ y, (t.cluster cl).copies = y :: rest ∧ y.moved = true ∧
      { y with next := x.next, done := x.done, moved := x.moved } = x ∧ t.threads = s.threads ∧ t.tags = s.tags
    (∀ ka kb : Nat → Nat, x.moved = false → x.next = 0 → x.done = [] → (s.cap (s.capOf core)).runs = true → raw →
      (∀ r, r < n1 * n2 → Apart s core n n copyAllows (src r) (dst r) (ka r) (kb r)) →
      (∀ p r, p < n1 * n2 → r < n1 * n2 → p ≠ r →
        (kb p + n ≤ ka r ∨ ka r + n ≤ kb p) ∧ (kb p + n ≤ kb r ∨ kb r + n ≤ kb p)) →
      ∃ t, exec (.copy cl 0) s = .next t ∧ moved t ∧ (∀ r i, r < n1 * n2 → i < n → t.byte (kb r + i) = s.byte (ka r + i)) ∧
        MemFrame s t fun k => ∃ r, r < n1 * n2 ∧ span (kb r) n k) ∧
    (∀ ka kb : Nat → Nat, x.moved = false → x.next = 0 → x.done = [] → (s.cap (s.capOf core)).runs = true → ¬ raw →
      let read := rowBytes x.sfmt n
      let out := fun (r : Nat) => encodeRow x.dfmt (decodeRow x.sfmt n (s.byteList (ka r) read))
      (∀ r, r < n1 * n2 → Apart s core read (out r).length copyAllows (src r) (dst r) (ka r) (kb r)) →
      (∀ p r, p < n1 * n2 → r < n1 * n2 → p ≠ r →
        (kb p + (out p).length ≤ ka r ∨ ka r + read ≤ kb p) ∧ (kb p + (out p).length ≤ kb r ∨ kb r + (out r).length ≤ kb p)) →
      ∃ t, exec (.copy cl 0) s = .next t ∧ moved t ∧ (∀ r, r < n1 * n2 → t.byteList (kb r) (out r).length = out r) ∧
        MemFrame s t fun k => ∃ r, r < n1 * n2 ∧ span (kb r) (out r).length k) ∧
    (∀ c a, x.moved = false → x.next = 0 → x.done = [] → (s.cap (s.capOf core)).stage = .running → 1 ≤ n1 → 1 ≤ n2 →
      s.readRange core accLoad copyAllows (if x.sfmt = x.dfmt ∨ x.sfmt = 0 ∨ x.dfmt = 0 then n else rowBytes x.sfmt n) (src 0) = .error (c, a) →
      ∃ t, exec (.copy cl 0) s = .next t ∧ (t.cluster cl).copies = rest ∧ Ends s t (s.capOf core) c x.code a) ∧
    (x.moved = true → ∃ t, exec (.copyCompletion cl 0) s = .next t ∧ (t.cluster cl).copies = rest ∧ t.mem = s.mem ∧
      (t.cap (s.capOf (coreOf x.thread))).outstanding = (s.cap (s.capOf (coreOf x.thread))).outstanding - 1 ∧
      t.loads = s.loads ++ [⟨x.firing, coreOf x.thread, x.request, .g x.reg, lateG (BitVec.ofNat 64 x.number), true⟩] ∧
      (x.number = (s.core core).tlwOf x.chan + 1 → core < coreCount → x.number ≤ (t.core core).tlwOf x.chan))) ∧
  ∀ (s : State) (n : Nat) (x : Transfer), s.transfers[n]? = some x →
    let ticket := sget 0 s.tickets x.engine + 1
    (x.stage = 0 → (s.olderTickets x.engine ticket < s.freeEntries x.engine →
        exec (.blockTransferArrival n) s = .next { s with transfers := s.transfers.set n { x with stage := 2 } }) ∧
      (s.freeEntries x.engine ≤ s.olderTickets x.engine ticket → ∃ t hint, exec (.blockTransferArrival n) s = .next t ∧
        t.transfers = s.transfers.set n { x with stage := 1, ticket := ticket, hint := hint } ∧ hint = s.cycle + min 65535 (64 * (s.olderTickets x.engine ticket + 1)) ∧
        sget 0 t.tickets x.engine = ticket)) ∧
    (x.stage = 1 → x.hint ≤ s.cycle →
      (s.olderTickets x.engine x.ticket < s.freeEntries x.engine →
        exec (.blockTransferRetry n) s = .next { s with transfers := s.transfers.set n { x with stage := 2 } }) ∧
      (s.freeEntries x.engine ≤ s.olderTickets x.engine x.ticket →
        let hint := s.cycle + min 65535 (64 * (s.olderTickets x.engine x.ticket + 1))
        exec (.blockTransferRetry n) s = .next { s with transfers := s.transfers.set n { x with hint := hint } })) ∧
    (x.stage = 1 → s.cycle < x.hint → exec (.blockTransferRetry n) s = .next s) ∧
    (∀ (m : Nat) (ka kb : Nat → Nat), x.stage = 2 → x.length = 64 * m → x.next = 0 → x.done = [] → (s.cap x.capsule).runs = true →
      (∀ r, r < m → Apart s (coreOf x.thread) 64 64 transferAllows (x.src + BitVec.ofNat 64 (64 * r)) (x.dst + BitVec.ofNat 64 (64 * r)) (ka r) (kb r)) →
      (∀ p r, p < m → r < m → p ≠ r →
        (kb p + 64 ≤ ka r ∨ ka r + 64 ≤ kb p) ∧ (kb p + 64 ≤ kb r ∨ kb r + 64 ≤ kb p)) →
      ∃ t, exec (.blockTransferCompletion x.engine n) s = .next t ∧ (∀ r i, r < m → i < 64 → t.byte (kb r + i) = s.byte (ka r + i)) ∧
        (MemFrame s t fun k => ∃ r, r < m ∧ span (kb r) 64 k) ∧
        t.transfers = s.transfers.eraseIdx n ∧ (t.cap x.capsule).outstanding = (s.cap x.capsule).outstanding - 1 ∧
        t.loads = s.loads ++ [⟨x.firing, coreOf x.thread, x.request, .g x.reg, lateG (BitVec.ofNat 64 x.number), true⟩])
  ) ∧ (
  ∀ (s : State) (unit n : Nat),
    (n < 16 → exec (.transientCondition .copy unit n) s = .next s ∧ exec (.transientCondition .blockTransfer unit n) s = .next s ∧
      ((s.cluster unit).drain = none → exec (.transientCondition .matrix unit n) s = .next s) ∧
      (∀ g, s.segmentOf unit = some g → (s.cap (s.capOf g.core)).stage = .running →
        let offset := bits g.slot.tcw 30 24 * 4096 + g.d.row * 32 * tcwSize g.slot.tcw
        s.poisoned (accKey g.cl offset) (32 * tcwSize g.slot.tcw) = true →
        ∃ t v, exec (.transientCondition .matrix unit n) s = .next t ∧ Ends s t (s.capOf g.core) causeMemerr g.slot.code v) ∧
      ∀ g, s.segmentOf unit = some g →
        s.poisoned (accKey g.cl (bits g.slot.tcw 30 24 * 4096 + g.d.row * 32 * tcwSize g.slot.tcw)) (32 * tcwSize g.slot.tcw) = false →
        ∃ t x, exec (.transientCondition .matrix unit n) s = .next t ∧ (t.cluster unit).drain = some x ∧
        t.mem = s.mem ∧ t.threads = s.threads ∧ t.cores = s.cores ∧ x.core = g.core ∧ x.row = g.d.row ∧ x.word = 0 ∧ x.w = [] ∧ x.latch = none ∧
        x.cache = g.d.cache ∧ x.column = (if s.storesFrom g g.d.word then g.d.column else 32) ∧
        x.e = (List.range 32).map fun j =>
          BitVec.ofNat 64 (s.bytes (tileKey g.core g.slot.tcw + (g.d.row * 32 + j) * tcwSize g.slot.tcw) (tcwSize g.slot.tcw))) ∧
    (16 ≤ n →
      (∀ g, s.segmentOf unit = some g → (s.cap (s.capOf g.core)).stage = .running →
        ∃ t v, exec (.transientCondition .matrix unit n) s = .next t ∧ Ends s t (s.capOf g.core) causeMemerr g.slot.code v) ∧
      (∀ q i x, s.segmentOf unit = none → (s.inMultiply unit = some (q, i) ∨ s.inMultiply unit = none ∧ ∃ c, s.pick unit = some (q, i, c)) →
        (s.core (unit * 8 + q)).slots[i]? = some x → (s.cap (s.capOf (unit * 8 + q))).stage = .running →
        ∃ t v, exec (.transientCondition .matrix unit n) s = .next t ∧ Ends s t (s.capOf (unit * 8 + q)) causeMemerr x.code v) ∧
      (∀ x rest, (s.cluster unit).copies = x :: rest → x.moved = false → (s.cap (s.capOf (coreOf x.thread))).stage = .running →
        ∃ t k, exec (.transientCondition .copy unit n) s = .next t ∧ (t.cluster unit).copies = rest ∧ t.mem = s.mem ∧
          (t.cap (s.capOf (coreOf x.thread))).stage = .killing ∧ (t.cap (s.capOf (coreOf x.thread))).kill = some k ∧ k.final.cause = causeMemerr ∧
          k.final.code = x.code) ∧
      (∀ x rest, s.transfers = x :: rest → x.engine = unit → x.stage = 2 → (s.cap x.capsule).stage = .running →
        ∃ t k, exec (.transientCondition .blockTransfer unit n) s = .next t ∧ t.transfers = rest ∧ t.mem = s.mem ∧
          (t.cap x.capsule).stage = .killing ∧ (t.cap x.capsule).kill = some k ∧ k.final.cause = causeMemerr ∧ k.final.code = x.code))
  )

/-! ### The matrix unit -/

/-- qpush reads and checks a TCW and puts it in the core's queue with its channel-4 numbers and one outstanding unit, waits while the queue holds 16, and traps ILLEGAL on a TCW that the limits refuse; an mdparm only sets
the parameters (R45, R246, R248). qstat reads the queue's status word, and qstat.clr empties the FAULTED slots (R260). A finished TCW completes and its slot empties (R246).
Where the manual leaves a point open the clause states what the model chose (log 4). -/
def Obligations.TileCommands : Prop :=  ∀ (d a : G) (la : La) (s : State), roleOf s.who ≠ 2 →
    let core := coreOf s.who
    (∀ k e, s.readyRelease [a] [] [] = true → s.noWindow = true → s.access core (s.rg a) 32 accLoad = .ok (.here k e) →
      s.poisoned k 32 = false → s.tileOpen k = false →
      let t := s.bytes k 32
      let b := s.tcwB core t
      let i : Instr := .qpush a la
      (tcwOk t b = false → exec i s = s.takeTrap causeIllegal (BitVec.ofNat 64 (encode i))) ∧
      (tcwOk t b = true → 16 ≤ s.myCore.slots.length → exec i s = .next (s.setMe { s.me with wait := .matrixRoom })) ∧
      (tcwOk t b = true → s.myCore.slots.length < 16 → ∃ u, exec i s = .next u ∧ u.mem = s.mem ∧ la.val ≤ u.me.window ∧
        (s.me.ldepth = 0 → u.me.pc = s.me.pc + 4) ∧
        (bits t 7 0 = 8 → (u.core core).slots = s.myCore.slots ∧ (u.core core).params = tcwParams t ∧
          (u.cap s.myCap).outstanding = (s.cap s.myCap).outstanding) ∧
        (bits t 7 0 ≠ 8 → ∃ x, (u.core core).slots = s.myCore.slots ++ [x] ∧ x.state = .queued ∧ x.code = s.me.pc ∧ x.thread = s.who ∧
          (bits t 15 12 ≠ 0 → x.tcw = t) ∧ x.rowProgress = 0 ∧
          (u.core core).lastIssued 4 = s.myCore.lastIssued 4 + bits t 251 248 ∧
          (bits t 251 248 ≠ 0 → x.first = s.myCore.lastIssued 4 + 1) ∧ (bits t 251 248 = 0 → x.first = 0) ∧
          (u.cap s.myCap).outstanding = (s.cap s.myCap).outstanding + 1))) ∧
    (s.ready [d] [] [] = true →
      let faulted := s.myCore.slots.filter fun x => x.state = .faulted
      ∃ w : Word, bits w.toNat 4 0 = s.myCore.slots.length % 32 ∧
        (s.myCore.slots.length ≤ 16 → bits w.toNat 10 6 = faulted.length ∧ bits w.toNat 5 5 = (if faulted = [] then 0 else 1) ∧
          bits w.toNat 15 11 = 0 ∧ bits w.toNat 63 16 = (faulted.head?.map Slot.first).getD 0 % 2 ^ 48) ∧
        (∃ t, exec (.qstat d) s = .next t ∧ Writes s t d w) ∧
        ∃ t, exec (.qstatClr d) s = .next t ∧ t.rg d = (if d.val = 0 then 0 else w) ∧
          (t.core core).slots = s.myCore.slots.filter (fun x => x.state ≠ .faulted) ∧ t.mem = s.mem ∧ (s.me.ldepth = 0 → t.me.pc = s.me.pc + 4)) ∧
    ∀ (c : Nat) (x : Slot) (front rest : List Slot), (s.core c).slots = front ++ x :: rest → (∀ y ∈ front, y.state ≠ .finished) →
      x.state = .finished → c < coreCount →
      let n := bits x.tcw 251 248
      ∃ t, exec (.tcwCompletion c) s = .next t ∧ (t.core c).slots = front ++ rest ∧ t.mem = s.mem ∧
        (t.cap (s.capOf c)).outstanding = (s.cap (s.capOf c)).outstanding - 1 ∧
        (∀ j, j < n → x.first ≠ 0 → x.first + j ≤ (t.core c).tlwOf 4 ∨ (4, x.first + j) ∈ (t.core c).completed) ∧
        (x.first = (s.core c).tlwOf 4 + 1 → (s.core c).tlwOf 4 + n ≤ (t.core c).tlwOf 4)

/-- The arbiter starts the oldest TCW of the queue it picks (R250), and the matrix unit performs it (R247, R254, R255, R268): mzero clears the tile, maccld loads it, mma and mmas form each of its elements from a row of A and a column of
B, msig does nothing more, mdpl loads drain words and names its entry filled, and mdrain opens the drain of row 0, or faults NOPROG where no mdpl has filled its entry (R257). An mma or mmas that names a drain opens it over its tile. A TCW that starts while a drain runs waits for
its end (R251), and one K-step of an mma leaves the tile after its first group and the row progress behind it (R256). A group of finite products is added to the
element exactly and rounded once, to nearest even, and positions that the mask does not keep add nothing (R72, R86); the columns of B are its rows along K or, with trb, the elements of K rows
(R254).
Where the manual leaves a point open the clause states what the model chose (log 4, 25). -/
def Obligations.MatrixOperations : Prop :=
  (
  ∀ (s : State) (cl q i credit : Nat) (x : Slot), s.pick cl = some (q, i, credit) →
    let core := cl * 8 + q
    let t := x.tcw
    let k := tileKey core t
    let old := s.cluster cl
    q < 8 → (s.core core).slots[i]? = some x → (s.cap (s.capOf core)).runs = true → old.openTiles.any (fun o => o.spoiled) = false →
    let started := fun (u : State) (state : SlotState) => ∃ y, (u.core core).slots = (s.core core).slots.set i y ∧ y.state = state ∧ y.tcw = t ∧
      y.first = x.first ∧ (u.cluster cl).cur = q ∧ (u.cluster cl).credit = credit
    let tile := fun (u : State) => MemFrame s u (span k 4096)
    (old.drain ≠ none → ∀ i' top, (i', top) ∈ [(Instr.mma cl, 1), (.mmas cl, 2), (.mzero cl, 3), (.maccld cl, 4), (.mdrain cl, 5), (.mdpl cl, 6), (.msig cl, 7)] →
      bits t 7 0 = top → ∃ u, exec i' s = .next u ∧ started u .multiply ∧ u.mem = s.mem ∧ (u.cluster cl).drain = old.drain) ∧
    (old.drain = none →
    (bits t 7 0 = 3 → ∃ u, exec (.mzero cl) s = .next u ∧ started u .finished ∧ tile u ∧ ∀ j, j < 4096 → u.byte (k + j) = 0) ∧
    (∀ rows, bits t 7 0 = 4 → s.readRows core (32 * tcwSize t) (tcwAstride t) (tcwRows t) (tcwAaddr t) = .ok rows →
      ∃ u, exec (.maccld cl) s = .next u ∧ started u .finished ∧ tile u ∧ u.byteList k 4096 = rows.flatten) ∧
    (∀ a b i', (i' = Instr.mma cl ∧ bits t 7 0 = 1 ∨ i' = Instr.mmas cl ∧ bits t 7 0 = 2) → x.rowProgress = 0 →
      (bits t 39 32 = 0xFF ∨ old.directory.contains (bits t 39 32) = true) →
      (tcwAcc t = 1 → s.poisoned k 4096 = false) → badMask t a = none →
      s.readRows core (tcwARow t) (tcwAstride t) (tcwRows t) (tcwAaddr t) = .ok a →
      s.readRows core (if tcwTrb t = 1 then 32 * fmtWidth (tcwBfmt t) / 8 else rowBytes (tcwBfmt t) (tcwK t)) (tcwBstride t)
        (if tcwTrb t = 1 then tcwK t else 32) (tcwBaddr t) = .ok b →
      let formed := fun (u : State) (steps : Nat) => tile u ∧ ∀ r c, r < tcwRows t → c < 32 →
          let e := k + (32 * r + c) * tcwSize t
          u.bytes e (tcwSize t) = accumulate (tcwFmt t) (decide (fmtClass (tcwAfmtc t) = .wide)) (stepSize (tcwAfmtc t))
            steps ((rowsOf t a).getD r []) ((columnsOf t (tcwBfmt t) b).getD c [])
            (if tcwAcc t = 1 then s.bytes e (tcwSize t) else 0) % 256 ^ tcwSize t
      (∃ u, exec i' s = .next u ∧ formed u ((tcwK t + stepSize (tcwAfmtc t) - 1) / stepSize (tcwAfmtc t)) ∧
        (bits t 39 32 = 0xFF → started u .finished) ∧
        (bits t 39 32 ≠ 0xFF → started u .drain ∧ ∃ dr, (u.cluster cl).drain = some dr ∧ dr.core = core ∧ dr.row = 0 ∧ dr.word = 0 ∧ dr.column = 0 ∧
          dr.e = (List.range 32).map (fun j => BitVec.ofNat 64 (u.bytes (k + j * tcwSize t) (tcwSize t))))) ∧
      (stepSize (tcwAfmtc t) < tcwK t → started (s.kStep cl) .multiply ∧ formed (s.kStep cl) 1 ∧
        ∃ y, ((s.kStep cl).core core).slots[i]? = some y ∧ y.rowProgress = stepSize (tcwAfmtc t))) ∧
    (bits t 7 0 = 7 → ∃ u, exec (.msig cl) s = .next u ∧ started u .finished ∧ u.mem = s.mem) ∧
    (∀ l, bits t 7 0 = 6 → s.readRange core accLoad pipeAllows (4 * tcwK t) (tcwAaddr t) = .ok l → tcwK t ≤ 32 →
      let word := fun (n : Nat) => fieldB (l.map Prod.snd) (4 * n) 4
      (∃ n, n < tcwK t ∧ bits (word n) 7 0 = 0x16 ∧ ∀ j, j ≤ n → glazeValid (word j) = true) →
      ∃ u, exec (.mdpl cl) s = .next u ∧ started u .finished ∧ u.mem = s.mem ∧ (u.cluster cl).directory.contains (tcwDrain t) = true ∧
        ∀ n, n < tcwK t → (u.cluster cl).drainWord (8 * tcwDrain t + n) = word n % 2 ^ 32) ∧
    (bits t 7 0 = 5 → old.directory.contains (tcwDrain t) = true → s.poisoned k (32 * tcwSize t) = false →
      ∃ u dr, exec (.mdrain cl) s = .next u ∧ started u .drain ∧ (u.cluster cl).drain = some dr ∧ dr.core = core ∧ dr.row = 0 ∧ dr.word = 0 ∧
        dr.e = (List.range 32).map (fun j => BitVec.ofNat 64 (s.bytes (k + j * tcwSize t) (tcwSize t))) ∧ u.mem = s.mem) ∧
    (bits t 7 0 = 5 → old.directory.contains (tcwDrain t) = false → (s.cap (s.capOf core)).stage = .running → (s.cap (s.capOf core)).onFiring = false →
      ∃ u f, exec (.mdrain cl) s = .next u ∧ (u.cap (s.capOf core)).stage = .killing ∧ (u.cap (s.capOf core)).kill = some f ∧
        f.final.cause = causeDrain + 256 * 2 ∧ f.final.value = BitVec.ofNat 64 (tcwTile t * 2 ^ 32)))
  ) ∧ (
  ∀ (f : Fmt) (wide : Bool) (z c : Nat) (u : ℝ) (p : List (Option Machine.Num × Machine.Num)) (v : Option Machine.Num × Machine.Num → ℝ), f = fmt32 ∨ f = fmt64 →
    c < 2 ^ f.width → (f.decode c).Is u → p.length ≤ z → (wide = true → p.length ≤ 1) →
    (∀ e ∈ p, e.1 = none ∧ v e = 0 ∨ ∃ a x y, e.1 = some a ∧ a.Is x ∧ e.2.Is y ∧ v e = x * y) →
    let sum := u + (p.map v).sum
    sum ≠ 0 → RoundsTo f 0 sum (accumulate f wide z 1 (p.map Prod.fst) (p.map Prod.snd) c)
  ) ∧ (
  ∀ (f : Fmt) (wide : Bool) (z n c : Nat) (a : List (Option Machine.Num)) (b : List Machine.Num),
    accumulate f wide z (n + 1) a b c = accumulate f wide z n (a.drop z) (b.drop z) (accumulate f wide z 1 a b c)
  ) ∧ (
  ∀ (t b j k : Nat) (rows : List (List Byte)) (r : List Byte), j < 32 →
    (tcwTrb t = 0 → rows[j]? = some r → ((columnsOf t b rows).getD j []) = decodeRow b (tcwK t) r) ∧
    (tcwTrb t ≠ 0 → rows[k]? = some r → ((columnsOf t b rows).getD j []).length = rows.length ∧
      ((columnsOf t b rows).getD j [])[k]? = some ((decodeRow b 32 r).getD j (.nan false))) ∧
    (tcwTop t ≠ 2 → rows[j]? = some r → ((rowsOf t rows).getD j []) = (decodeRow (tcwAfmtc t) (tcwK t) r).map some) ∧
    (tcwTop t = 2 → rows[j]? = some r → ((rowsOf t rows).getD j []) = decodeSparse (tcwAfmtc t) (tcwK t) (tcwKeep t) r)
  )

/-! ### The Setter -/

/-- set.open takes the lowest free session, or answers all ones; set.put and set.close join the Setter's queue with a channel-5 number and wait while it holds 8; set.take and set.stat read the session's and the Setter's
words (R286 to R290, R295, R296).

The Setter performs its operations in order (R283, R284, R287 to R289): a record joins the oldest shelf that shares no body with it and has room, else a new one; a shelf that it fills is emitted, and a full window
first emits its oldest shelf. A record with a flag set is reported and skipped, and one that cannot be read ends the capsule (R287). A close emits the open shelves, the oldest first, one at a
time or all that are left at once, since takes may be served between two records (R295); then it writes the end mark, frees the session and completes its number.
A shelf takes bodies that it does not hold, while it has fewer than 32 constraints and no more than 128 bodies would stand in it (R283); its record has the fields of R284. The bodies of a record are those it
names other than 0xFFFFFF, each once.
Where the manual leaves a point open the clause states what the model chose (log 4, 6, 24, 63). -/
def Obligations.Setter : Prop :=
  (
  ∀ (d a b : G) (la : La) (s : State), roleOf s.who ≠ 2 →
    let cl := s.myCluster
    let k := s.cluster cl
    let x := (s.rg a).toNat
    let n := (s.rg b).toNat
    let accepted := fun (t : State) (kind q count : Nat) (address : Word) => ∃ op, (t.cluster cl).setterOps = k.setterOps ++ [op] ∧ op.kind = kind ∧
      op.session = q ∧ op.count = count ∧ op.address = address ∧ op.thread = s.who ∧ op.reg = d.val ∧ op.request = s.nextId ∧ op.begun = false ∧ op.next = 0 ∧
      op.number = s.myCore.lastIssued 5 + 1 ∧ (t.cap s.myCap).outstanding = (s.cap s.myCap).outstanding + 1 ∧
      (d.val ≠ 0 → ⟨s.nextId, .g d, la, none⟩ ∈ t.me.pending) ∧ t.mem = s.mem ∧ (s.me.ldepth = 0 → t.me.pc = s.me.pc + 4)
    (s.readyMem [d, a] [] [] = true →
      (x % 8 ≠ 0 → exec (.setOpen d a la) s = s.takeTrap causeAlign (s.rg a)) ∧
      (∀ m, x % 8 = 0 → 2 ^ 63 ≤ x → s.resolve (coreOf s.who) (s.rg a) 1 = some m → m.package = bits s.myCore.coord.toNat 23 12 →
        (s.cap s.myCap).clusterFor m = cl → m.unit = 1 →
        ((∀ q, q < 4 → (k.session q).state = 1 ∨ (k.session q).state = 2) →
          ∃ t, exec (.setOpen d a la) s = .next t ∧ LoadsG s t d la 0xFFFFFFFFFFFFFFFF true) ∧
        ∀ q, q < 4 → ((k.session q).state = 0 ∨ (k.session q).state = 3) →
          (∀ j, j < q → (k.session j).state ≠ 0 ∧ (k.session j).state ≠ 3) →
          ∃ t, exec (.setOpen d a la) s = .next t ∧ LoadsG s { t with clusters := s.clusters } d la (BitVec.ofNat 64 q) true ∧
            (t.cluster cl).session q = ⟨1, 0, m.offset, m.offset, 0, []⟩ ∧ ∀ j, j ≠ q → (t.cluster cl).session j = k.session j) ∧
      (3 < x → exec (.setTake d a la) s = s.takeTrap causeIllegal (BitVec.ofNat 64 (encode (.setTake d a la)))) ∧
      (x ≤ 3 → ∃ t w, exec (.setTake d a la) s = .next t ∧ LoadsG s t d la w true ∧ bits w.toNat 55 54 = (k.session x).state % 4 ∧
        bits w.toNat 53 22 = (k.session x).emitted % 2 ^ 32 ∧ bits w.toNat 21 0 = (k.session x).position % 2 ^ 22 ∧ bits w.toNat 63 56 = 0)) ∧
    (s.readyMem [d] [] [] = true → k.setterOps.length ≤ 8 →
      ∃ t w, exec (.setStat d la) s = .next t ∧ LoadsG s t d la w true ∧ bits w.toNat 11 8 = k.setterOps.length ∧ bits w.toNat 63 32 = 0 ∧
        ∀ q, q < 4 → bits w.toNat (2 * q + 1) (2 * q) = (k.session q).state % 4 ∧
          bits w.toNat (19 + 4 * q) (16 + 4 * q) = (k.session q).shelves.length % 16) ∧
    (s.readyRelease [d, a, b] [] [] = true → s.noWindow = true →
      let q := bits n 17 16
      let bad := 2 ^ 18 ≤ n ∨ n % 2 ^ 16 = 0 ∨ 4096 < n % 2 ^ 16 ∨ (k.session q).state ≠ 1
      (bad → exec (.setPut d a b la) s = s.takeTrap causeIllegal (BitVec.ofNat 64 (encode (.setPut d a b la)))) ∧
      (¬ bad → x % 16 ≠ 0 → exec (.setPut d a b la) s = s.takeTrap causeAlign (s.rg a)) ∧
      (¬ bad → x % 16 = 0 → 8 ≤ k.setterOps.length → exec (.setPut d a b la) s = .next (s.setMe { s.me with wait := .setterRoom })) ∧
      (¬ bad → x % 16 = 0 → k.setterOps.length < 8 → ∃ t, exec (.setPut d a b la) s = .next t ∧ accepted t 1 q (n % 2 ^ 16) (s.rg a))) ∧
    (s.readyRelease [d, a] [] [] = true → s.noWindow = true →
      let bad := 3 < x ∨ (k.session x).state ≠ 1
      (bad → exec (.setClose d a la) s = s.takeTrap causeIllegal (BitVec.ofNat 64 (encode (.setClose d a la)))) ∧
      (¬ bad → 8 ≤ k.setterOps.length → exec (.setClose d a la) s = .next (s.setMe { s.me with wait := .setterRoom })) ∧
      (¬ bad → k.setterOps.length < 8 → ∃ t, exec (.setClose d a la) s = .next t ∧ accepted t 2 x 0 0 ∧
        (t.cluster cl).session x = { k.session x with state := 2 }))
  ) ∧ (
  ∀ (s : State) (cl : Nat) (op : SetterOp), s.setterHead cl = some op →
    let k := s.cluster cl
    let x := k.session op.session
    let core := coreOf op.thread
    (op.kind = 1 → op.begun = false → ∃ t, exec (.setterPut cl) s = .next t ∧ (t.cluster cl).setterOps = { op with begun := true } :: k.setterOps.tail ∧
      t.mem = s.mem ∧ (t.cluster cl).sessions = k.sessions) ∧
    (∀ l, op.kind = 1 → op.begun = true → s.readRange core accLoad setterAllows 16 (op.address + BitVec.ofNat 64 (16 * op.next)) = .ok l →
      let b := l.map Prod.snd
      let bodies := recordBodies b
      let index := fieldB b 12 2
      let onward := fun (t : State) => (op.next + 1 < op.count → (t.cluster cl).setterOps = { op with next := op.next + 1 } :: k.setterOps.tail) ∧
        (op.count ≤ op.next + 1 → (t.cluster cl).setterOps = k.setterOps.tail ∧
          t.loads = s.loads ++ [⟨op.firing, core, op.request, .g op.reg, lateG (BitVec.ofNat 64 op.number), true⟩])
      (fieldB b 14 2 ≠ 0 → ∃ t r, exec (.place cl) s = .next t ∧ onward t ∧ (t.cluster cl).sessions = k.sessions ∧ r.kind = 1 ∧ r.cause = causeIllegal ∧
        r.value = op.address + BitVec.ofNat 64 (16 * op.next) ∧ r.code = op.code ∧
        t.mgmt.errorLog = s.mgmt.errorLog ++ [(redact (s.cap (s.capOf core)) r, (s.cap (s.capOf core)).world)]) ∧
      (fieldB b 14 2 = 0 →
      ((∀ h ∈ x.shelves, h.takes bodies = false) → x.shelves.length < 8 →
        ∃ t, exec (.place cl) s = .next t ∧ onward t ∧ t.mem = s.mem ∧
          (t.cluster cl).session op.session = { x with next := x.next + 1, shelves := x.shelves ++ [⟨x.next, [index], bodies⟩] }) ∧
      (∀ front h rest, x.shelves = front ++ h :: rest → (∀ g ∈ front, g.takes bodies = false) → h.takes bodies = true →
        let full : Shelf := { h with indices := h.indices ++ [index], bodies := h.bodies ++ bodies }
        (h.indices.length < 31 → h.bodies.length + bodies.length < 128 →
          ∃ t, exec (.place cl) s = .next t ∧ onward t ∧ t.mem = s.mem ∧
            (t.cluster cl).session op.session = { x with shelves := front ++ full :: rest }) ∧
        (h.indices.length = 31 ∨ h.bodies.length + bodies.length = 128 → (∀ g ∈ front, g.number ≠ h.number) →
          x.position + (full.bytes 2).length ≤ 0x400000 →
          ∃ t, exec (.place cl) s = .next t ∧ onward t ∧ MemFrame s t (span (spadKey cl x.position) (full.bytes 2).length) ∧
            t.byteList (spadKey cl x.position) (full.bytes 2).length = full.bytes 2 ∧
            (t.cluster cl).session op.session = { x with
              shelves := front ++ rest, position := x.position + (full.bytes 2).length, emitted := (x.emitted + 1) % 2 ^ 32 })) ∧
      (∀ h rest, x.shelves = h :: rest → (∀ g ∈ x.shelves, g.takes bodies = false) → 8 ≤ x.shelves.length →
        x.position + (h.bytes 1).length ≤ 0x400000 →
        ∃ t, exec (.place cl) s = .next t ∧ onward t ∧ MemFrame s t (span (spadKey cl x.position) (h.bytes 1).length) ∧
          t.byteList (spadKey cl x.position) (h.bytes 1).length = h.bytes 1 ∧
          ((t.cluster cl).session op.session).shelves = rest ++ [⟨x.next, [index], bodies⟩] ∧
          ((t.cluster cl).session op.session).position = x.position + (h.bytes 1).length ∧
          ((t.cluster cl).session op.session).emitted = (x.emitted + 1) % 2 ^ 32))) ∧
    (∀ c y, op.kind = 1 → op.begun = true → (s.cap (s.capOf core)).stage = .running →
      s.readRange core accLoad setterAllows 16 (op.address + BitVec.ofNat 64 (16 * op.next)) = .error (c, y) →
      ∃ t, exec (.place cl) s = .next t ∧ (t.cluster cl).setterOps = k.setterOps.tail ∧ Ends s t (s.capOf core) c op.code y) ∧
    (op.kind = 2 → x.shelves ≠ [] →
      let out := x.shelves.flatMap (fun h => h.bytes 3) ++ List.replicate 8 0
      x.position + out.length ≤ 0x400000 →
      ∃ t, exec (.sessionClose cl) s = .next t ∧
        (t.cluster cl).session op.session = { x with
          state := 3, position := x.position + out.length, shelves := [], emitted := (x.emitted + x.shelves.length) % 2 ^ 32 } ∧
        t.byteList (spadKey cl x.position) out.length = out ∧ MemFrame s t (span (spadKey cl x.position) out.length) ∧
        (t.cluster cl).setterOps = k.setterOps.tail ∧
        t.loads = s.loads ++ [⟨op.firing, core, op.request, .g op.reg, lateG (BitVec.ofNat 64 op.number), true⟩] ∧
        (t.cap (s.capOf core)).outstanding = (s.cap (s.capOf core)).outstanding - 1) ∧
    (∀ h rest, op.kind = 2 → x.shelves = h :: rest → x.position + (h.bytes 3).length ≤ 0x400000 →
      ∃ t, s.workTurn (.shelf cl) = .next t ∧ t.byteList (spadKey cl x.position) (h.bytes 3).length = h.bytes 3 ∧
        MemFrame s t (span (spadKey cl x.position) (h.bytes 3).length) ∧ (t.cluster cl).setterOps = k.setterOps ∧ t.loads = s.loads ∧
        (t.cluster cl).session op.session = { x with
          position := x.position + (h.bytes 3).length, shelves := rest, emitted := (x.emitted + 1) % 2 ^ 32 }) ∧
    (op.kind = 2 → x.shelves = [] → x.position + 8 ≤ 0x400000 →
      ∃ t, exec (.sessionClose cl) s = .next t ∧ (t.cluster cl).session op.session = { x with state := 3, position := x.position + 8 } ∧
        t.bytes (spadKey cl x.position) 8 = 0 ∧ MemFrame s t (span (spadKey cl x.position) 8) ∧ (t.cluster cl).setterOps = k.setterOps.tail ∧
        t.loads = s.loads ++ [⟨op.firing, core, op.request, .g op.reg, lateG (BitVec.ofNat 64 op.number), true⟩] ∧
        (t.cap (s.capOf core)).outstanding = (s.cap (s.capOf core)).outstanding - 1)
  ) ∧ (
  ∀ (h : Shelf) (l : List Nat), h.takes l = true ↔ (∀ v ∈ l, v ∉ h.bodies) ∧ h.indices.length < 32 ∧ h.bodies.length + l.length ≤ 128
  ) ∧ (
  ∀ b : List Byte, (recordBodies b).Nodup ∧ ∀ v, v ∈ recordBodies b ↔ v ≠ 0xFFFFFF ∧ ∃ i, i < 4 ∧ v = fieldB b (3 * i) 3
  ) ∧ (
  ∀ (h : Shelf) (reason : Nat), reason ≤ 3 → h.indices.length ≤ 32 → h.bodies.length ≤ 128 → (∀ v ∈ h.indices, v < 2 ^ 16) →
    let b := h.bytes reason
    let n := h.indices.length
    b.length = 8 + 8 * ((n + 3) / 4) ∧ fieldB b 0 2 = n ∧ fieldB b 2 1 = h.bodies.length ∧ fieldB b 3 1 = reason ∧ fieldB b 4 4 = h.number % 2 ^ 32 ∧
    (∀ i v, h.indices[i]? = some v → fieldB b (8 + 2 * i) 2 = v) ∧ ∀ j, 8 + 2 * n ≤ j → j < b.length → b.getD j 0 = 0
  )

/-! ### Floating point -/

/-- The scalar operations of one format f, on the low bits of their operands and under FCR.RM (R91 to R93, R95, R97): the value of R92, zero-extended, and the flags. The sign
operations move bits alone. fcvt converts between two formats, traps ILLEGAL on the function codes that name no conversion, and sign-extends an i32 (R96).
Where the manual leaves a point open the clause states what the model chose (log 23). -/
def Obligations.ScalarFloat : Prop :=  ∀ d a b c : G,
    let family := fun (f : Fmt) (add sub mul div sqrt min max eq lt le sgnj sgnjn sgnjx fma fms : Instr) =>
      let x := fun (s : State) => (s.rg a).toNat % 2 ^ f.width
      let y := fun (s : State) => (s.rg b).toNat % 2 ^ f.width
      let z := fun (s : State) => (s.rg c).toNat % 2 ^ f.width
      let two := fun (i : Instr) (op : Nat → Nat → Nat → Nat × Nat) => GivesF i [d, a, b] d fun s => op s.me.rm (x s) (y s)
      let sign := 2 ^ (f.width - 1)
      let truth := fun (p : Bool × Nat) => ((if p.1 then 1 else 0, p.2) : Nat × Nat)
      two add (fadd f) ∧ two sub (fsub f) ∧ two mul (fmul f) ∧ two div (fdiv f) ∧
      GivesF sqrt [d, a] d (fun s => fsqrt f s.me.rm (x s)) ∧
      two min (fun _ => fminmax f false) ∧ two max (fun _ => fminmax f true) ∧
      two eq (fun _ x y => truth (feq f x y)) ∧ two lt (fun _ x y => truth (flt f x y)) ∧ two le (fun _ x y => truth (fle f x y)) ∧
      two sgnj (fun _ x y => (x % sign + y / sign * sign, 0)) ∧ two sgnjn (fun _ x y => (x % sign + (1 - y / sign) * sign, 0)) ∧
      two sgnjx (fun _ x y => (x % sign + (x / sign + y / sign) % 2 * sign, 0)) ∧
      GivesF fma [d, a, b, c] d (fun s => ffma f s.me.rm false false (x s) (y s) (z s)) ∧
      GivesF fms [d, a, b, c] d (fun s => ffma f s.me.rm false true (x s) (y s) (z s))
    family fmt64 (.faddD d a b) (.fsubD d a b) (.fmulD d a b) (.fdivD d a b) (.fsqrtD d a) (.fminD d a b) (.fmaxD d a b) (.feqD d a b) (.fltD d a b)
      (.fleD d a b) (.fsgnjD d a b) (.fsgnjnD d a b) (.fsgnjxD d a b) (.fmaD d a b c) (.fmsD d a b c) ∧
    family fmt32 (.faddS d a b) (.fsubS d a b) (.fmulS d a b) (.fdivS d a b) (.fsqrtS d a) (.fminS d a b) (.fmaxS d a b) (.feqS d a b) (.fltS d a b)
      (.fleS d a b) (.fsgnjS d a b) (.fsgnjnS d a b) (.fsgnjxS d a b) (.fmaS d a b c) (.fmsS d a b c) ∧
    ∀ (rtz : Bool) (dst src : NumTy), (cvtOk dst src = true → GivesF (.fcvt d a rtz dst src) [d, a] d fun s =>
        let r := convert s.me.rm rtz dst src (s.rg a).toNat
        (if dst = .i32 then (BitVec.ofNat 32 r.1).signExtend 64 |>.toNat else r.1, r.2)) ∧
      (cvtOk dst src = false → ∀ s : State, s.ready [d, a] [] [] = true →
        exec (.fcvt d a rtz dst src) s = s.takeTrap causeIllegal (BitVec.ofNat 64 (encode (.fcvt d a rtz dst src))))

/-- fclass writes the mask of R94, with one bit set, and raises no flag. -/
def Obligations.ClassMasks : Prop :=  ∀ d a : G,
    let class_ := fun (eb fb : Nat) (i : Instr) => GivesF i [d, a] d fun s =>
      let x := (s.rg a).toNat
      let neg := x / 2 ^ (eb + fb) % 2 = 1
      let e := x / 2 ^ fb % 2 ^ eb
      let m := x % 2 ^ fb
      (2 ^ (if e = 2 ^ eb - 1 then (if m = 0 then (if neg then 0 else 7) else if m < 2 ^ (fb - 1) then 8 else 9)
            else if e = 0 then (if m = 0 then (if neg then 3 else 4) else if neg then 2 else 5)
            else if neg then 1 else 6), 0)
    class_ 11 52 (.fclassD d a) ∧ class_ 8 23 (.fclassS d a)

/-- The rules of R68 to R71 and R93 about values and flags. A pattern has the value of its sign, exponent and fraction; a value of the format rounds to itself with no flag; a
sum, difference, product, quotient, square root and fused multiply-add of finite values is the exact value rounded once, a zero with its sign, and sets OF, UF and NX as R71
has it; a finite value divided by zero sets DZ; ∞ − ∞, 0 × ∞, 0 / 0, ∞ / ∞ and the square root of a negative number give the canonical quiet NaN and set NV, and the other
operations on infinities set nothing. An operation with a NaN operand gives the canonical quiet NaN, and sets NV only for a signalling one; fmin and fmax follow R93,
and the comparisons are false for a NaN.

A conversion (R96, R112) reads its operand as its source type. To a float type it rounds once; to an integer type it rounds to an integer, and where that lies outside the range gives the
nearer bound with NV; a NaN gives 0 with NV, and NX tells that the result is not the value.
Where the manual leaves a point open the clause states what the model chose (log 23). -/
def Obligations.FloatRules : Prop :=
  (
  ∀ (f : Fmt) (rm x y : Nat), f = fmt64 ∨ f = fmt32 ∨ f = fmt16 ∨ f = fmtBf → x < 2 ^ f.width → y < 2 ^ f.width →
    let u := f.decode x
    let v := f.decode y
    let nv := if u.isSnan || v.isSnan then flagNV else 0
    let sign := x / 2 ^ (f.eb + f.fb)
    let ex := x / 2 ^ f.fb % 2 ^ f.eb
    let fr := x % 2 ^ f.fb
    let inf := fun (neg : Bool) => f.signBit neg + f.infBits
    (ex = 2 ^ f.eb - 1 → u = if fr = 0 then .inf (decide (sign = 1)) else .nan (decide (fr < 2 ^ (f.fb - 1)))) ∧
    (ex = 0 → u.neg? = decide (sign = 1) ∧ u.Is ((if sign = 1 then -1 else 1) * (fr * 2 ^ (f.emin - f.fb)))) ∧
    (ex ≠ 0 → ex ≠ 2 ^ f.eb - 1 → u.neg? = decide (sign = 1) ∧
      u.Is ((if sign = 1 then -1 else 1) * ((2 ^ f.fb + fr) * 2 ^ ((ex : ℤ) - f.bias - f.fb)))) ∧
    (u.isNan = false → roundNum f rm u = (x, 0)) ∧
    (rm < 4 → ∀ p q : ℝ, u.Is p → v.Is q →
      (p + q ≠ 0 → Rounds f rm (p + q) (fadd f rm x y)) ∧ (p - q ≠ 0 → Rounds f rm (p - q) (fsub f rm x y)) ∧
      (p * q ≠ 0 → Rounds f rm (p * q) (fmul f rm x y)) ∧ (p ≠ 0 → q ≠ 0 → Rounds f rm (p / q) (fdiv f rm x y)) ∧
      (0 < p → Rounds f rm (Real.sqrt p) (fsqrt f rm x)) ∧ (p < 0 → fsqrt f rm x = (f.qnan, flagNV)) ∧ (p = 0 → fsqrt f rm x = (x, 0)) ∧
      (p + q = 0 → fadd f rm x y = (f.signBit (if u.neg? = v.neg? then u.neg? else decide (rm = 2)), 0)) ∧
      (p - q = 0 → fsub f rm x y = (f.signBit (if u.neg? = v.neg? then decide (rm = 2) else u.neg?), 0)) ∧
      (p * q = 0 → fmul f rm x y = (f.signBit (u.neg? != v.neg?), 0)) ∧
      (p = 0 → q ≠ 0 → fdiv f rm x y = (f.signBit (u.neg? != v.neg?), 0)) ∧
      (p ≠ 0 → q = 0 → fdiv f rm x y = (inf (u.neg? != v.neg?), flagDZ)) ∧ (p = 0 → q = 0 → fdiv f rm x y = (f.qnan, flagNV)) ∧
      ∀ (z : Nat) (r : ℝ) (np nz : Bool), (f.decode z).Is r →
        let a := (if np then -(p * q) else p * q) + (if nz then -r else r)
        let sp := (u.neg? != v.neg?) != np
        let sr := (f.decode z).neg? != nz
        (a ≠ 0 → Rounds f rm a (ffma f rm np nz x y z)) ∧ (a = 0 → ffma f rm np nz x y z = (f.signBit (if sp = sr then sp else decide (rm = 2)), 0))) ∧
    (∀ a, u = .inf a →
      (∀ b, v = .inf b → fadd f rm x y = (if a = b then (inf a, 0) else (f.qnan, flagNV)) ∧ fsub f rm x y = (if a = b then (f.qnan, flagNV) else (inf a, 0)) ∧
        fmul f rm x y = (inf (a != b), 0) ∧ fdiv f rm x y = (f.qnan, flagNV)) ∧
      (∀ q, v.Is q → fadd f rm x y = (inf a, 0) ∧ fsub f rm x y = (inf a, 0) ∧ fsub f rm y x = (inf !a, 0) ∧
        (q = 0 → fmul f rm x y = (f.qnan, flagNV)) ∧ (q ≠ 0 → fmul f rm x y = (inf (a != v.neg?), 0)) ∧
        fdiv f rm x y = (inf (a != v.neg?), 0) ∧ fdiv f rm y x = (f.signBit (v.neg? != a), 0) ∧
        ∀ (z : Nat) (np nz : Bool), let w := f.decode z
          (q = 0 → w.isNan = false → ffma f rm np nz x y z = (f.qnan, flagNV)) ∧
          (∀ c, q ≠ 0 → w = .inf c → ffma f rm np nz x y z =
            (if ((a != v.neg?) != np) = (c != nz) then (inf ((a != v.neg?) != np), 0) else (f.qnan, flagNV))) ∧
          (∀ r, q ≠ 0 → w.Is r → ffma f rm np nz x y z = (inf ((a != v.neg?) != np), 0))) ∧
      fsqrt f rm x = (if a then (f.qnan, flagNV) else (f.infBits, 0))) ∧
    (∀ z np nz, (u.isNan || v.isNan || (f.decode z).isNan) = true → (ffma f rm np nz x y z).1 = f.qnan) ∧
    (u.isNan → fsqrt f rm x = (f.qnan, if u.isSnan then flagNV else 0)) ∧
    (u.isNan || v.isNan → fadd f rm x y = (f.qnan, nv) ∧ fsub f rm x y = (f.qnan, nv) ∧ fmul f rm x y = (f.qnan, nv) ∧ fdiv f rm x y = (f.qnan, nv) ∧
      (feq f x y).1 = false ∧ flt f x y = (false, flagNV) ∧ fle f x y = (false, flagNV)) ∧
    (feq f x y).2 = nv ∧
    (u.isNan = false → v.isNan = false → (flt f x y).2 = 0 ∧ (fle f x y).2 = 0 ∧ ((fle f x y).1 = ((flt f x y).1 || (feq f x y).1)) ∧
      ((flt f x y).1 = !(fle f y x).1)) ∧
    (∀ big, (fminmax f big x y).2 = nv ∧
      (u.isNan → v.isNan → (fminmax f big x y).1 = f.qnan) ∧
      (u.isNan → v.isNan = false → (fminmax f big x y).1 = y) ∧
      (u.isNan = false → v.isNan → (fminmax f big x y).1 = x)) ∧
    (u.isNan = false → v.isNan = false → (u.isZero && v.isZero) = false →
      (flt f x y).1 = true → (fminmax f false x y).1 = x ∧ (fminmax f true x y).1 = y ∧ (fminmax f false y x).1 = x ∧ (fminmax f true y x).1 = y) ∧
    fadd f rm x y = fadd f rm y x ∧ fmul f rm x y = fmul f rm y x
  ) ∧ (
  ∀ (rm x : Nat) (rtz : Bool) (dst src : NumTy), rm < 4 →
    let v := numRead src x
    let m := if rtz then 1 else rm
    let got := convert rm rtz dst src x
    let float : NumTy → Option Fmt := fun t => match t with
      | .f64 => some fmt64 | .f32 => some fmt32 | .f16 => some fmt16 | .bf16 => some fmtBf
      | .i64 | .u64 | .i32 | .u32 => none
    let read : NumTy → Option Int := fun t => match t with
      | .i64 => some (BitVec.ofNat 64 x).toInt | .u64 => some (x % 2 ^ 64 : Nat) | .i32 => some (BitVec.ofNat 32 x).toInt | .u32 => some (x % 2 ^ 32 : Nat)
      | .f64 | .f32 | .f16 | .bf16 => none
    let range : NumTy → Option (Nat × Int × Int) := fun t => match t with
      | .i64 => some (64, -2 ^ 63, 2 ^ 63 - 1) | .u64 => some (64, 0, 2 ^ 64 - 1) | .i32 => some (32, -2 ^ 31, 2 ^ 31 - 1) | .u32 => some (32, 0, 2 ^ 32 - 1)
      | .f64 | .f32 | .f16 | .bf16 => none
    (∀ f, float src = some f → v = f.decode (x % 2 ^ f.width)) ∧
    (∀ i, read src = some i → v.Is i ∧ v.neg? = decide (i < 0)) ∧
    (∀ g, float dst = some g →
      (v.isNan → got = (g.qnan, if v.isSnan then flagNV else 0)) ∧ (∀ n, v = .inf n → got = (g.signBit n + g.infBits, 0)) ∧
      ∀ p, v.Is p → (p = 0 → got = (g.signBit v.neg?, 0)) ∧ (p ≠ 0 → Rounds g m p got)) ∧
    ∀ w lo hi, range dst = some (w, lo, hi) →
      let is := fun (i : Int) (fl : Nat) => got = ((BitVec.ofInt w i).toNat, fl)
      (v.isNan → is 0 flagNV) ∧ (∀ n, v = .inf n → is (if n then lo else hi) flagNV) ∧
      ∀ p, v.Is p → ∃ i, RoundsToInt m v.neg? p i ∧ (hi < i → is hi flagNV) ∧ (i < lo → is lo flagNV) ∧
        (lo ≤ i → i ≤ hi → ((i : ℝ) = p → is i 0) ∧ ((i : ℝ) ≠ p → is i flagNX))
  )

/-! ### Vectors -/

/-- The element-wise instructions (R99, R100, R104 to R106, R110, R111): every active element receives its value, the others keep theirs, and the flags of the active
elements are set; an integer instruction sets none.
Where the manual leaves a point open the clause states what the model chose (log 23, 71). -/
def Obligations.VectorElements : Prop :=  ∀ (d a b c : V) (k : K) (wc : Width) (g : G),
    (let w := Width.bitsOf wc
     let s_ := fun (v : Nat) => (BitVec.ofNat w v).toInt
     let wrap := fun (i : Int) => (BitVec.ofInt w i).toNat
     let low : Int := -2 ^ (w - 1)
     let high : Int := 2 ^ (w - 1) - 1
     let two := fun (i : Instr) (op : Nat → Nat → Nat) => GivesLanes i [] [d, a, b] d k w fun s j => (op (elem (s.rv a) w j) (elem (s.rv b) w j), 0)
     two (.vadd d a b wc k) (fun x y => (x + y) % 2 ^ w) ∧ two (.vsub d a b wc k) (fun x y => (x + 2 ^ w - y) % 2 ^ w) ∧
     two (.vadds d a b wc k) (fun x y => wrap (max low (min high (s_ x + s_ y)))) ∧ two (.vaddus d a b wc k) (fun x y => min (x + y) (2 ^ w - 1)) ∧
     two (.vsubs d a b wc k) (fun x y => wrap (max low (min high (s_ x - s_ y)))) ∧ two (.vsubus d a b wc k) (fun x y => x - y) ∧
     two (.vmul d a b wc k) (fun x y => x * y % 2 ^ w) ∧ two (.vmulh d a b wc k) (fun x y => wrap (s_ x * s_ y / 2 ^ w)) ∧
     two (.vmulhu d a b wc k) (fun x y => x * y / 2 ^ w) ∧
     two (.vand d a b wc k) (fun x y => x &&& y) ∧ two (.vor d a b wc k) (fun x y => x ||| y) ∧ two (.vxor d a b wc k) (fun x y => x ^^^ y) ∧
     two (.vsll d a b wc k) (fun x y => x * 2 ^ (y % w) % 2 ^ w) ∧ two (.vsrl d a b wc k) (fun x y => x / 2 ^ (y % w)) ∧
     two (.vsra d a b wc k) (fun x y => wrap (s_ x / 2 ^ (y % w))) ∧
     two (.vmin d a b wc k) (fun x y => wrap (min (s_ x) (s_ y))) ∧ two (.vmax d a b wc k) (fun x y => wrap (max (s_ x) (s_ y))) ∧
     two (.vminu d a b wc k) min ∧ two (.vmaxu d a b wc k) max ∧
     GivesLanes (.vabs d a wc k) [] [d, a] d k w (fun s j => (min (s_ (elem (s.rv a) w j)).natAbs (2 ^ (w - 1) - 1), 0)) ∧
     GivesLanes (.splat d g wc k) [g] [d] d k w (fun s _ => ((s.rg g).toNat % 2 ^ w, 0)) ∧
     GivesLanes (.vperm d a b wc k) [] [d, a, b] d k w (fun s j => (elem (s.rv a) w (elem (s.rv b) w j % (512 / w)), 0))) ∧
    (let family := fun (f : Fmt) (add sub mul div sqrt min max sgnj sgnjn sgnjx cls fma fms fnma fnms : Instr) =>
       let w := f.width
       let two := fun (i : Instr) (op : Nat → Nat → Nat → Nat × Nat) =>
         GivesLanes i [] [d, a, b] d k w fun s j => op s.me.rm (elem (s.rv a) w j) (elem (s.rv b) w j)
       let one := fun (i : Instr) (op : Nat → Nat → Nat × Nat) => GivesLanes i [] [d, a] d k w fun s j => op s.me.rm (elem (s.rv a) w j)
       let three := fun (i : Instr) (np nz : Bool) => GivesLanes i [] [d, a, b, c] d k w fun s j =>
         ffma f s.me.rm np nz (elem (s.rv a) w j) (elem (s.rv b) w j) (elem (s.rv c) w j)
       let sign := 2 ^ (w - 1)
       two add (fadd f) ∧ two sub (fsub f) ∧ two mul (fmul f) ∧ two div (fdiv f) ∧ one sqrt (fsqrt f) ∧
       two min (fun _ => fminmax f false) ∧ two max (fun _ => fminmax f true) ∧
       two sgnj (fun _ x y => (x % sign + y / sign * sign, 0)) ∧ two sgnjn (fun _ x y => (x % sign + (1 - y / sign) * sign, 0)) ∧
       two sgnjx (fun _ x y => (x % sign + (x / sign + y / sign) % 2 * sign, 0)) ∧ one cls (fun _ x => (fclass f x, 0)) ∧
       three fma false false ∧ three fms false true ∧ three fnma true false ∧ three fnms true true
     family fmt64 (.vfaddD d a b k) (.vfsubD d a b k) (.vfmulD d a b k) (.vfdivD d a b k) (.vfsqrtD d a k) (.vfminD d a b k) (.vfmaxD d a b k)
       (.vfsgnjD d a b k) (.vfsgnjnD d a b k) (.vfsgnjxD d a b k) (.vfclassD d a k) (.vfmaD d a b c k) (.vfmsD d a b c k) (.vfnmaD d a b c k)
       (.vfnmsD d a b c k) ∧
     family fmt32 (.vfaddS d a b k) (.vfsubS d a b k) (.vfmulS d a b k) (.vfdivS d a b k) (.vfsqrtS d a k) (.vfminS d a b k) (.vfmaxS d a b k)
       (.vfsgnjS d a b k) (.vfsgnjnS d a b k) (.vfsgnjxS d a b k) (.vfclassS d a k) (.vfmaS d a b c k) (.vfmsS d a b c k) (.vfnmaS d a b c k)
       (.vfnmsS d a b c k))

/-- Comparison, selection, reductions, moves, conversion and the mask operations (R107 to R110, R112, R113). A condition of a float type compares as feq, flt and fle do, one of an
integer type the patterns as signed or, for ltu and leu, unsigned numbers. That vcmp and ins.k trap ILLEGAL where they name k0 is the model's choice (log 100).
Where the manual leaves a point open the clause states what the model chose (log 71, 100). -/
def Obligations.VectorWholes : Prop :=
  (
  ∀ (ty : CmpTy) (x y : Nat), let w := CmpTy.bitsOf ty
    (ty.isFloat = false → x < 2 ^ w → y < 2 ^ w →
      let p := (BitVec.ofNat w x).toInt
      let q := (BitVec.ofNat w y).toInt
      cmpElem ty 0 x y = (decide (x = y), 0) ∧ cmpElem ty 1 x y = (decide (x ≠ y), 0) ∧ cmpElem ty 2 x y = (decide (p < q), 0) ∧
      cmpElem ty 3 x y = (decide (p ≤ q), 0) ∧ cmpElem ty 4 x y = (decide (x < y), 0) ∧ cmpElem ty 5 x y = (decide (x ≤ y), 0)) ∧
    (ty.isFloat = true →
      let f := if w = 64 then fmt64 else fmt32
      let nv := if (f.decode x).isSnan || (f.decode y).isSnan then flagNV else 0
      cmpElem ty 0 x y = feq f x y ∧ cmpElem ty 1 x y = (!(feq f x y).1, nv) ∧ cmpElem ty 2 x y = flt f x y ∧ cmpElem ty 3 x y = fle f x y ∧
      cmpElem ty 4 x y = ((f.decode x).isNan || (f.decode y).isNan, nv))
  ) ∧ (
  ∀ (d a b : V) (kd ka kb k : K) (wc : Width) (g : G) (idx : Fin 16),
    let w := Width.bitsOf wc
    let illegal := fun (i : Instr) (s : State) => exec i s = s.takeTrap causeIllegal (BitVec.ofNat 64 (encode i))
    (∀ (s : State) (cond : Fin 6) (ty : CmpTy) (any : Bool), s.ready [] [a, b] [kd, k] = true →
      let i : Instr := .vcmp kd a b cond ty any k
      let w := CmpTy.bitsOf ty
      let act := s.actives k w
      let holds := fun (j : Nat) => (cmpElem ty cond (elem (s.rv a) w j) (elem (s.rv b) w j)).1 = true
      let bad := kd.val = 0 ∨ (ty.isFloat = true ∧ cond.val = 5)
      (bad → illegal i s) ∧
      (¬ bad → ∃ t m, exec i s = .next t ∧
        WritesK s t kd m (act.foldl (fun fl j => fl ||| (cmpElem ty cond (elem (s.rv a) w j) (elem (s.rv b) w j)).2) 0) ∧
        ∀ l, l < 8 → (m.getLsbD l = true ↔ (∃ j ∈ act, j * w / 64 = l) ∧
          if any then ∃ j ∈ act, j * w / 64 = l ∧ holds j else ∀ j ∈ act, j * w / 64 = l → holds j))) ∧
    (∀ s : State, s.ready [] [d, a, b] [k] = true → ∃ t v, exec (.vsel d a b k) s = .next t ∧ WritesV s t d v 0 ∧
      ∀ l, l < 8 → elem v 64 l = if (s.rk k).getLsbD l then elem (s.rv a) 64 l else elem (s.rv b) 64 l) ∧
    (let s_ := fun (v : Nat) => (BitVec.ofNat w v).toInt
     let fold := fun (i : Instr) (empty : Nat) (op : Nat → Nat → Nat) =>
       GivesV i [] [d, a] [k] d fun s => (setElem (s.rv d) w 0 (((s.actives k w).map fun j => elem (s.rv a) w j).foldl op empty), 0)
     fold (.vredAdd d a wc k) 0 (fun x y => (x + y) % 2 ^ w) ∧ fold (.vredAnd d a wc k) (2 ^ w - 1) (fun x y => x &&& y) ∧
     fold (.vredOr d a wc k) 0 (fun x y => x ||| y) ∧ fold (.vredXor d a wc k) 0 (fun x y => x ^^^ y) ∧
     fold (.vredMin d a wc k) (2 ^ (w - 1) - 1) (fun x y => if s_ x < s_ y then x else y) ∧
     fold (.vredMax d a wc k) (2 ^ (w - 1)) (fun x y => if s_ x < s_ y then y else x) ∧
     fold (.vredMinu d a wc k) (2 ^ w - 1) min ∧ fold (.vredMaxu d a wc k) 0 max) ∧
    (let f : Fmt := if wc = .w then fmt32 else fmt64
     let float := fun (i : Instr) (empty : Nat) (op : Nat → Nat → Nat → Nat × Nat) =>
       (floatWidth wc = false → ∀ s : State, s.ready [] [d, a] [k] = true → illegal i s) ∧
       (floatWidth wc = true → GivesV i [] [d, a] [k] d fun s =>
         let l := (s.actives k w).map fun j => elem (s.rv a) w j
         let r : Nat × Nat := match l with
           | [] => (empty, 0)
           | [x] => if (f.decode x).isNan then (f.qnan, if (f.decode x).isSnan then flagNV else 0) else (x, 0)
           | _ => ((tree (op s.me.rm) 6 l 0).1.headD 0, (tree (op s.me.rm) 6 l 0).2)
         (setElem (s.rv d) w 0 r.1, r.2))
     float (.vredFadd d a wc k) 0 (fadd f) ∧ float (.vredFmin d a wc k) f.infBits (fun _ => fminmax f false) ∧
     float (.vredFmax d a wc k) (2 ^ (f.width - 1) + f.infBits) (fun _ => fminmax f true)) ∧
    (∀ s : State, s.ready [g] [d] [] = true →
      (idxOk idx wc = true → (∃ t, exec (.extr g d idx wc) s = .next t ∧ Writes s t g (BitVec.ofNat 64 (elem (s.rv d) w idx))) ∧
        ∃ t, exec (.ins d g idx wc) s = .next t ∧ WritesV s t d (setElem (s.rv d) w idx (s.rg g).toNat) 0) ∧
      (idxOk idx wc = false → illegal (.extr g d idx wc) s ∧ illegal (.ins d g idx wc) s)) ∧
    (∀ s : State, s.ready [g] [] [kd] = true →
      (∃ t, exec (.extrK g kd) s = .next t ∧ Writes s t g ((s.rk kd).setWidth 64)) ∧
      (kd.val = 0 → illegal (.insK kd g) s) ∧
      (kd.val ≠ 0 → ∃ t, exec (.insK kd g) s = .next t ∧ WritesK s t kd ((s.rg g).setWidth 8) 0)) ∧
    (∀ (s : State) (rtz : Bool) (dst src : NumTy), s.ready [] [d, a] [k] = true →
      let i : Instr := .vcvt d a rtz dst src k
      let act := s.actives k (max (numWidth dst) (numWidth src))
      let r := fun (j : Nat) => convert s.me.rm rtz dst src (elem (s.rv a) (numWidth src) j)
      (cvtOk dst src = false → illegal i s) ∧
      (cvtOk dst src = true → ∃ t v, exec i s = .next t ∧ WritesV s t d v (act.foldl (fun fl j => fl ||| (r j).2) 0) ∧
        ∀ j, j < 512 / numWidth dst →
          elem v (numWidth dst) j = if j ∈ act then (r j).1 % 2 ^ numWidth dst else elem (s.rv d) (numWidth dst) j)) ∧
    (kd.val ≠ 0 →
      let gives := fun (i : Instr) (ks : List Nat) (m : State → BitVec 8) => GivesK i [] [] (kd.val :: ks) kd fun s => (m s, 0)
      gives (.kand kd ka kb) [ka, kb] (fun s => s.rk ka &&& s.rk kb) ∧ gives (.kor kd ka kb) [ka, kb] (fun s => s.rk ka ||| s.rk kb) ∧
      gives (.kxor kd ka kb) [ka, kb] (fun s => s.rk ka ^^^ s.rk kb) ∧ gives (.kandn kd ka kb) [ka, kb] (fun s => s.rk ka &&& ~~~s.rk kb) ∧
      gives (.knot kd ka) [ka] (fun s => ~~~s.rk ka) ∧ ∀ imm, gives (.kli kd imm) [] fun _ => imm) ∧
    (kd.val = 0 → ∀ (s : State) (imm : BitVec 8), s.ready [] [] [kd, ka, kb] = true →
      illegal (.kand kd ka kb) s ∧ illegal (.kor kd ka kb) s ∧ illegal (.kxor kd ka kb) s ∧ illegal (.kandn kd ka kb) s ∧ illegal (.knot kd ka) s ∧
      illegal (.kli kd imm) s)
  )

/-- Vector loads and stores (R101 to R103) in this package: vld and vst move the active elements in 8-byte words; vlds, vgth, vsts and vsct the active lanes, and where
lanes store to one word the highest remains. Everything is checked before any byte moves, and the first failing piece traps with its lowest failing byte (R204);
poison under a load and a failed CXL set under a store give MEMERR (R213, R230); an access to bytes that a posted atomic of its thread will write waits, which the model reads
from R163 and R166 (log 57).
Where the manual leaves a point open the clause states what the model chose (log 6, 29, 57, 65). -/
def Obligations.VectorMemory : Prop :=  ∀ (d b : V) (a x : G) (imm : BitVec 8) (sz : Width) (k : K) (la : La) (s : State) (key : Nat → Nat) (place : Nat → Place),
    let core := coreOf s.who
    (let addr := s.rg a + BitVec.ofInt 64 (64 * imm.toInt)
     let n := min 64 (activeCount s.me.vl.toNat (Width.bitsOf sz) * (Width.bitsOf sz / 8))
     let size := fun (i : Nat) => min 8 (n - 8 * i)
     let word := fun (acc : Acc) (i : Nat) => s.reach core (addr + BitVec.ofNat 64 (8 * i)) (size i) acc
     s.readyMem [a] [d] [] = true →
     (n = 0 → (∃ t, exec (.vld d a imm sz la) s = .next t ∧ LoadsV s t d la (fun old new => new = old)) ∧
       ∃ t, exec (.vst d a imm sz la) s = .next t ∧ la.val ≤ t.me.window ∧ t.mem = s.mem ∧ t.stores = s.stores ∧
         (s.me.ldepth = 0 → t.me.pc = s.me.pc + 4)) ∧
     (n ≠ 0 → addr.toNat % 8 ≠ 0 →
       exec (.vld d a imm sz la) s = s.takeTrap causeAlign addr ∧ exec (.vst d a imm sz la) s = s.takeTrap causeAlign addr) ∧
     (n ≠ 0 → addr.toNat % 8 = 0 →
       (let fails := fun (acc : Acc) (go : Instr) => ∀ i cause, 8 * i < n → word acc i = .error cause → (∀ j, j < i → ∃ p, word acc j = .ok p) →
         ∃ v, exec go s = s.takeTrap cause v ∧ s.FailsAt core (addr + BitVec.ofNat 64 (8 * i)) (size i) acc cause v
        fails accLoad (.vld d a imm sz la) ∧ fails accStore (.vst d a imm sz la)) ∧
       (let meets := fun (acc : Acc) (go : Instr) (bad : Place → Nat → Bool) => (∀ i, 8 * i < n → word acc i = .ok (place i)) →
         ((∃ i, 8 * i < n ∧ s.postedAt (place i) (size i) = true) → exec go s = .next (s.setMe { s.me with wait := .posted })) ∧
         ((∀ i, 8 * i < n → s.postedAt (place i) (size i) = false) →
           ∀ i, 8 * i < n → bad (place i) (size i) = true → (∀ j, j < i → bad (place j) (size j) = false) →
             exec go s = s.takeTrap causeMemerr (addr + BitVec.ofNat 64 (8 * i)))
        meets accLoad (.vld d a imm sz la) s.poisonedAt ∧ meets accStore (.vst d a imm sz la) fun p _ => s.writeFails p) ∧
       ((∀ i, 8 * i < n → ∃ e, word accLoad i = .ok (.here (key i) e) ∧ s.poisoned (key i) (size i) = false ∧ s.tileOpen (key i) = false ∧
           s.postedTo s.me.firing (key i) (size i) = false) →
         ∃ t, exec (.vld d a imm sz la) s = .next t ∧ LoadsV s t d la fun old new => ∀ j, j < 64 →
           elem new 8 j = if j < n then (s.byte (key (j / 8) + j % 8)).toNat else elem old 8 j) ∧
       ((∀ i, 8 * i < n → ∃ e, word accStore i = .ok (.here (key i) e) ∧ s.tileOpen (key i) = false ∧ s.writeFails (.here (key i) e) = false ∧
           s.postedTo s.me.firing (key i) (size i) = false) →
         (∀ i j, i < j → 8 * j < n → key i + 8 ≤ key j ∨ key j + 8 ≤ key i) →
         ∃ t, exec (.vst d a imm sz la) s = .next t ∧ la.val ≤ t.me.window ∧ (s.me.ldepth = 0 → t.me.pc = s.me.pc + 4) ∧
           t.stores = s.stores ++ [(s.me.firing, core)] ∧ (∀ j, j < n → (t.byte (key (j / 8) + j % 8)).toNat = elem (s.rv d) 8 j) ∧
           MemFrame s t (fun m => ∃ i, 8 * i < n ∧ span (key i) (size i) m) ∧
           (∀ m, (∀ p ∈ s.me.pending, p.reg ≠ .v m) → t.rv m = s.rv m) ∧ ∀ m, (∀ p ∈ s.me.pending, p.reg ≠ .g m) → t.rg m = s.rg m))) ∧
    (let act := s.actives k 64
     let lanes := fun (load store : Instr) (addr : Nat → Word) =>
       (let fails := fun (acc : Acc) (go : Instr) => ∀ i cause, i ∈ act → s.access core (addr i) 8 acc = .error cause →
         (∀ j ∈ act, j < i → ∃ p, s.access core (addr j) 8 acc = .ok p) → ∃ v, exec go s = s.takeTrap cause v ∧ s.FailsAt core (addr i) 8 acc cause v
        fails accLoad load ∧ fails accStore store) ∧
       (let meets := fun (acc : Acc) (go : Instr) (bad : Place → Bool) => (∀ i ∈ act, s.access core (addr i) 8 acc = .ok (place i)) →
         ((∃ i ∈ act, s.postedAt (place i) 8 = true) → exec go s = .next (s.setMe { s.me with wait := .posted })) ∧
         ((∀ i ∈ act, s.postedAt (place i) 8 = false) → ∀ i ∈ act, bad (place i) = true → (∀ j ∈ act, j < i → bad (place j) = false) →
           exec go s = s.takeTrap causeMemerr (addr i))
        meets accLoad load (fun p => s.poisonedAt p 8) ∧ meets accStore store s.writeFails) ∧
       ((∀ i ∈ act, ∃ e, s.access core (addr i) 8 accLoad = .ok (.here (key i) e) ∧ s.poisoned (key i) 8 = false ∧ s.tileOpen (key i) = false ∧
           s.postedTo s.me.firing (key i) 8 = false) →
         ∃ t, exec load s = .next t ∧ LoadsV s t d la fun old new => ∀ i, i < 8 →
           elem new 64 i = if i ∈ act then s.bytes (key i) 8 else elem old 64 i) ∧
       ((∀ i ∈ act, ∃ e, s.access core (addr i) 8 accStore = .ok (.here (key i) e) ∧ s.tileOpen (key i) = false ∧ s.writeFails (.here (key i) e) = false ∧
           s.postedTo s.me.firing (key i) 8 = false) →
         ∃ t, exec store s = .next t ∧ la.val ≤ t.me.window ∧ (s.me.ldepth = 0 → t.me.pc = s.me.pc + 4) ∧
           t.stores = (if act = [] then s.stores else s.stores ++ [(s.me.firing, core)]) ∧
           (∀ i ∈ act, (∀ j ∈ act, i < j → key i + 8 ≤ key j ∨ key j + 8 ≤ key i) → t.bytes (key i) 8 = elem (s.rv d) 64 i) ∧
           MemFrame s t (fun m => ∃ i ∈ act, span (key i) 8 m) ∧
           (∀ m, (∀ p ∈ s.me.pending, p.reg ≠ .v m) → t.rv m = s.rv m) ∧ ∀ m, (∀ p ∈ s.me.pending, p.reg ≠ .g m) → t.rg m = s.rg m)
     (s.readyMem [a, x] [d] [k] = true →
       lanes (.vlds d a x k la) (.vsts d a x k la) fun i => s.rg a + BitVec.ofNat 64 i * s.rg x) ∧
     (s.readyMem [a] [d, b] [k] = true →
       lanes (.vgth d a b k la) (.vsct d a b k la) fun i => s.rg a + BitVec.ofNat 64 (elem (s.rv b) 64 i)))

/-! ### Drain programs -/

/-- The Glaze operations that write a destination (R242, R243, R270, R272, R273) act on the 32 values of the segment, under nearest-even and without flags; a source
that cannot be read ends the capsule (R257). With no drain in the cluster a Glaze word does nothing.

The sources of a segment (R242, R270): the tile's row, the w registers, row and column vectors, the constants after gz.end, the row and column numbers, zero and one.
Where the manual leaves a point open the clause states what the model chose (log 11, 22, 58). -/
def Obligations.GlazeValuesAndSources : Prop :=
  (
  ∀ (d : GDst) (a b c : GSrc) (n fmt cc : Fin 32) (s : State),
    (s.segmentOf s.myCluster = none → ∀ i ∈ [Instr.gzAdd d a b, .gzSub d a b, .gzMul d a b, .gzFma d a b c, .gzMin d a b, .gzMax d a b, .gzRelu d a,
        .gzClamp d a b c, .gzAbs d a, .gzNeg d a, .gzExp2 d a, .gzRcp d a, .gzRsq d a, .gzSel cc d a b c, .gzLdr n d, .gzLdc n d, .gzCvt fmt d a,
        .gzBscl a, .gzSt a, .gzStt a, .gzEnd], exec i s = .next s) ∧
    (s.segmentOf s.myCluster = none → ∀ (r : Fin 8) (op : Fin 4), exec (.gzRedr r op a) s = .next s) ∧
    ∀ g, s.segmentOf s.myCluster = some g →
      let f := g.fmt
      let sign := 2 ^ (f.width - 1)
      let pattern := fun (v : Nat) => (BitVec.ofNat 64 v : Word)
      let running := (s.cap (s.capOf g.core)).stage = .running
      let fails := fun (i : Instr) (e : Nat × Word) => running → ∃ t, exec i s = .next t ∧ Ends s t (s.capOf g.core) e.1 g.slot.code e.2
      let one := fun (i : Instr) (op : Nat → Nat) =>
        (∀ e, s.source g a = .error e → fails i e) ∧
        ∀ g1 x, s.source g a = .ok (g1, x) → ∃ t, exec i s = .next t ∧ GlazeWrites s t g1 d (x.map fun v => pattern (op v.toNat))
      let two := fun (i : Instr) (op : Nat → Nat → Nat) =>
        (∀ e, s.source g a = .error e → fails i e) ∧
        ∀ g1 x, s.source g a = .ok (g1, x) →
          (∀ e, s.source g1 b = .error e → fails i e) ∧
          ∀ g2 y, s.source g1 b = .ok (g2, y) →
            ∃ t, exec i s = .next t ∧ GlazeWrites s t g2 d (List.zipWith (fun v w => pattern (op v.toNat w.toNat)) x y)
      let three := fun (i : Instr) (op : Nat → Nat → Nat → Nat) =>
        (∀ e, s.source g a = .error e → fails i e) ∧
        ∀ g1 x, s.source g a = .ok (g1, x) →
          (∀ e, s.source g1 b = .error e → fails i e) ∧
          ∀ g2 y, s.source g1 b = .ok (g2, y) →
            (∀ e, s.source g2 c = .error e → fails i e) ∧
            ∀ g3 z, s.source g2 c = .ok (g3, z) → ∃ t, exec i s = .next t ∧
              GlazeWrites s t g3 d (List.zipWith (fun v p => pattern (op v.toNat p.1.toNat p.2.toNat)) x (y.zip z))
      let least := fun (x y : Nat) => (fminmax f false x y).1
      let most := fun (x y : Nat) => (fminmax f true x y).1
      let nan := fun (x : Nat) => (f.decode x).isNan
      two (.gzAdd d a b) (fun x y => (fadd f 0 x y).1) ∧ two (.gzSub d a b) (fun x y => (fsub f 0 x y).1) ∧ two (.gzMul d a b) (fun x y => (fmul f 0 x y).1) ∧
      three (.gzFma d a b c) (fun x y z => (ffma f 0 false false x y z).1) ∧ two (.gzMin d a b) least ∧ two (.gzMax d a b) most ∧
      one (.gzRelu d a) (fun x => if nan x then f.qnan else if (f.decode x).isZero || decide (x / sign % 2 = 1) then 0 else x) ∧
      three (.gzClamp d a b c) (fun x y z => least (most x y) z) ∧
      one (.gzAbs d a) (fun x => if nan x then f.qnan else x % sign) ∧
      one (.gzNeg d a) (fun x => if nan x then f.qnan else x % sign + (1 - x / sign % 2) * sign) ∧
      one (.gzExp2 d a) (fun x => (roundNum f 0 (exp2Exact (f.decode x))).1) ∧
      one (.gzRcp d a) (fun x => (roundNum f 0 (divExact (.fin false 1 0) (f.decode x)).1).1) ∧
      one (.gzRsq d a) (fun x => (roundNum f 0 (rsqExact (f.decode x))).1) ∧
      (let less := fun (z : Nat) => decide (z / sign % 2 = 1)
       let zero := fun (z : Nat) => (f.decode z).isZero
       (cc.val = 0 → three (.gzSel cc d a b c) fun x y z => if !nan z && !zero z && !less z then x else y) ∧
       (cc.val = 1 → three (.gzSel cc d a b c) fun x y z => if !nan z && (zero z || !less z) then x else y) ∧
       (cc.val = 2 → three (.gzSel cc d a b c) fun x y z => if zero z then x else y) ∧
       (cc.val = 3 → three (.gzSel cc d a b c) fun x y z => if nan z then x else y)) ∧
      one (.gzCvt fmt d a) (fun x => (roundNum f 0 ((fmtIeee fmt).decode (roundNum (fmtIeee fmt) 0 (f.decode x)).1)).1) ∧
      (let load := fun (i : Instr) (key count : Nat) (at_ : Word) (values : List Byte → List Word) =>
         (sget [] g.d.cache key ≠ [] → ∃ t, exec i s = .next t ∧ GlazeWrites s t g d (sget [] g.d.cache key)) ∧
         (sget [] g.d.cache key = [] → (∀ e, s.readRange g.core accLoad pipeAllows (count * g.size) at_ = .error e → fails i e) ∧
           ∀ l, s.readRange g.core accLoad pipeAllows (count * g.size) at_ = .ok l → ∃ t, exec i s = .next t ∧
             GlazeWrites s t { g with d := { g.d with cache := sset [] g.d.cache key (values (l.map Prod.snd)) } } d (values (l.map Prod.snd)))
       load (.gzLdr n d) n 1 (g.slot.params.rowbase + BitVec.ofNat 64 ((32 * n + g.d.row) * g.size))
         (fun l => List.replicate 32 (pattern (fieldB l 0 g.size))) ∧
       load (.gzLdc n d) (32 + n) 32 (g.slot.params.colbase + BitVec.ofNat 64 (32 * n * g.size))
         (fun l => (List.range 32).map fun j => pattern (fieldB l (j * g.size) g.size)))
  ) ∧ (
  ∀ (s : State) (g : Segment),
    let f := g.fmt
    let number := fun (i : Nat) => (BitVec.ofNat 64 (roundNum f 0 (.fin false i 0)).1 : Word)
    s.source g 0 = .ok (g, g.d.e) ∧
    (∀ n, 1 ≤ n → n ≤ 8 → sget [] g.d.w (n - 1) ≠ [] → s.source g n = .ok (g, sget [] g.d.w (n - 1))) ∧
    (∀ n, 1 ≤ n → n ≤ 8 → sget [] g.d.w (n - 1) = [] → s.source g n = .ok (g, List.replicate 32 0)) ∧
    (∀ l, sget [] g.d.cache 0 = [] →
      s.readRange g.core accLoad pipeAllows g.size (g.slot.params.rowbase + BitVec.ofNat 64 (g.d.row * g.size)) = .ok l →
      ∃ g', s.source g 9 = .ok (g', List.replicate 32 (BitVec.ofNat 64 (fieldB (l.map Prod.snd) 0 g.size)))) ∧
    (∀ l, sget [] g.d.cache 32 = [] → s.readRange g.core accLoad pipeAllows (32 * g.size) g.slot.params.colbase = .ok l →
      ∃ g', s.source g 10 = .ok (g', (List.range 32).map fun j => BitVec.ofNat 64 (fieldB (l.map Prod.snd) (j * g.size) g.size))) ∧
    (∀ n, n < 4 →
      let k := s.cluster g.cl
      let base := 8 * tcwDrain g.slot.tcw
      let ends := fun (p : Nat) => k.drainWord (base + p) % 256 = 0x16
      ((∀ p, p < 32 → ¬ ends p) → s.source g (11 + n) = .ok (g, List.replicate 32 0)) ∧
      ∀ p, p < 32 → ends p → (∀ q, q < p → ¬ ends q) →
        let w := k.drainWord (base + p + 1 + n)
        s.source g (11 + n) = .ok (g, List.replicate 32 (BitVec.ofNat 64 (if tcwAfmt g.slot.tcw = 2 then (roundNum fmt64 0 (fmt32.decode w)).1 else w)))) ∧
    s.source g 15 = .ok (g, List.replicate 32 (number g.d.row)) ∧
    s.source g 16 = .ok (g, (List.range 32).map number) ∧
    s.source g 17 = .ok (g, List.replicate 32 0) ∧
    s.source g 18 = .ok (g, List.replicate 32 (number 1))
  )

/-- The stores of a drain (R274, R275) and its end (R243, R270): what gz.bscl latches, gz.st, gz.stt and gz.redr store, and where; a segment that restarted at column c
stores no column below c again (R279); gz.end goes to the next row of the tile or finishes the TCW. A store that the output format does not allow faults DRAIN (R278).
Where the manual leaves a point open the clause states what the model chose (log 4, 29). -/
def Obligations.GlazeStores : Prop :=  ∀ (a : GSrc) (n : Fin 8) (op : Fin 4) (s : State) (g : Segment), s.segmentOf s.myCluster = some g →
    let cap := s.capOf g.core
    let p := g.slot.params
    let f := p.outfmt
    let row := g.d.row
    let fault := fun (i : Instr) (sub : Nat) => (s.cap cap).stage = .running → (s.cap cap).onFiring = false →
      ∃ t, exec i s = .next t ∧ Ends s t cap (causeDrain + 256 * sub) g.slot.code (BitVec.ofNat 64 (tcwTile g.slot.tcw * 2 ^ 32 + row * 2 ^ 16))
    let reaches := fun (at_ : Word) (k n : Nat) => ∀ i, i < n →
      (∃ e, s.reachIf g.core (at_ + BitVec.ofNat 64 i) 1 accStore pipeAllows = .ok (.here (k + i) e) ∧ s.writeFails (.here (k + i) e) = false) ∧
        s.tileOpen (k + i) = false
    let onward := fun (t : State) (g1 : Segment) => (t.cluster g.cl).drain = some { g1.d with word := g1.d.word + 1 } ∧ t.threads = s.threads ∧ t.tags = s.tags
    (f = 0 → fault (.gzBscl a) 0x12 ∧ fault (.gzSt a) 0x12 ∧ fault (.gzStt a) 0x12) ∧
    (1 ≤ f → f ≤ 4 → fault (.gzBscl a) 0x14) ∧ (5 ≤ f → fault (.gzStt a) 0x14) ∧ (5 ≤ f → g.d.latch = none → fault (.gzSt a) 0x13) ∧
    (∀ g1 x, s.source g a = .ok (g1, x) →
      let values := x.map fun v => g.fmt.decode v.toNat
      (5 ≤ f → ∃ t, exec (.gzBscl a) s = .next t ∧ onward t { g1 with d := { g1.d with latch := some (rowScales f values) } } ∧ t.mem = s.mem) ∧
      (1 ≤ f → (5 ≤ f → g.d.latch ≠ none) → ∀ k,
        let row_ := if fmtBlock f = 0 then encodeRow f values else scaledRow f (g.d.latch.getD []) values
        let at_ := p.outbase + BitVec.ofNat 64 (row * p.outstride)
        reaches at_ k row_.length →
        ∃ t, exec (.gzSt a) s = .next t ∧ onward t g1 ∧ MemFrame s t (span k row_.length) ∧
          ∀ i, i < row_.length → t.byte (k + i) = if g.d.column ≤ byteColumn f i then row_.getD i 0 else s.byte (k + i)) ∧
      (1 ≤ f → f ≤ 4 → x.length = 32 → ∀ key : Nat → Nat,
        let b := fmtWidth f / 8
        (∀ j, j < 32 → reaches (p.outbase + BitVec.ofNat 64 (j * p.outstride + row * b)) (key j) b) →
        (∀ i j, i < j → j < 32 → key i + b ≤ key j ∨ key j + b ≤ key i) →
        ∃ t, exec (.gzStt a) s = .next t ∧ onward t g1 ∧ MemFrame s t (fun m => ∃ j, j < 32 ∧ span (key j) b m) ∧
          ∀ j, j < 32 → t.bytes (key j) b = if g.d.column ≤ j then convF f (values.getD j (.nan false)) else s.bytes (key j) b) ∧
      (op.val ≤ 2 → g.d.column ≤ 32 → ∀ k,
        let step := fun (u v : Nat) => if op.val = 0 then (fadd g.fmt 0 u v).1 else (fminmax g.fmt (op.val = 1) u v).1
        reaches (p.rowbase + BitVec.ofNat 64 ((32 * n + row) * g.size)) k g.size →
        ∃ t, exec (.gzRedr n op a) s = .next t ∧ onward t g1 ∧ t.bytes k g.size = tree32 step (x.map BitVec.toNat) % 256 ^ g.size ∧
          MemFrame s t (span k g.size))) ∧
    (row + 1 < tcwRows g.slot.tcw → s.poisoned (tileKey g.core g.slot.tcw + (row + 1) * 32 * g.size) (32 * g.size) = false → clusterOf g.core = g.cl →
      ∃ t dr, exec .gzEnd s = .next t ∧ (t.cluster g.cl).drain = some dr ∧ dr.core = g.core ∧ dr.row = row + 1 ∧ dr.word = 0 ∧ dr.w = [] ∧ dr.latch = none ∧
        dr.cache = [] ∧ dr.column = 0 ∧ t.mem = s.mem ∧
        dr.e = (List.range 32).map (fun j => BitVec.ofNat 64 (s.bytes (tileKey g.core g.slot.tcw + ((row + 1) * 32 + j) * g.size) g.size))) ∧
    (tcwRows g.slot.tcw ≤ row + 1 → ∃ t, exec .gzEnd s = .next t ∧ (t.cluster g.cl).drain = none ∧ t.mem = s.mem ∧
      (t.core g.core).slots = (s.core g.core).slots.set g.at_ { g.slot with state := .finished })

/-! ### Capsules -/

/-- submit (R197, R205): a readable image is checked and its code written; with code 0 a derived capsule is handed over that adds one to its parent's count, with any other
nothing is, and one refusal record goes to the owner's report ring, whose header can be read (R194). An image that cannot be read traps with the lowest byte of its cause: a byte
outside every extent comes before one that may not be read (R38), and that before poison (R213). An image of no bytes is read at once and has no header.
Where the manual leaves a point open the clause states what the model chose (log 10, 51, 94, 95, 97, 101). -/
def Obligations.Submission : Prop :=  ∀ (d a b : G) (s : State), s.readyRelease [d, a, b] [] [] = true → s.noWindow = true → roleOf s.who ≠ 2 →
    let va := (s.rg a).toNat
    let n := (s.rg b).toNat
    let c := s.cap s.myCap
    let i : Instr := .submit d a b
    (va % 8 ≠ 0 → exec i s = s.takeTrap causeAlign (s.rg a)) ∧
    (va % 8 = 0 → n ≠ 0 → findExtent c.image.extents va = none → exec i s = s.takeTrap causeExtent (s.rg a)) ∧
    (va % 8 = 0 → n = 0 → ∃ t, exec i s = .next t ∧ t.rg d = (if d.val = 0 then 0 else 2) ∧ (s.me.ldepth = 0 → t.me.pc = s.me.pc + 4) ∧
      t.capsules = s.capsules) ∧
    ∀ j e, va % 8 = 0 → n ≠ 0 → findExtent c.image.extents va = some j → c.image.extents[j]? = some e →
      let reads := fun (x : Extent) (y : Nat) => hasRights x.rights rightR = true ∧ s.worldRefuses c (extentKey x y) = false
      (va + n ≤ e.vaBase + e.length → ¬ reads e va → exec i s = s.takeTrap causeRights (s.rg a)) ∧
      (e.vaBase + e.length < va + n →
        let last := e.vaBase + e.length
        (findExtent c.image.extents last = none → exec i s = s.takeTrap causeExtent (BitVec.ofNat 64 last)) ∧
        ∀ j2 e2, findExtent c.image.extents last = some j2 → c.image.extents[j2]? = some e2 → va + n ≤ e2.vaBase + e2.length →
          (¬ reads e va → exec i s = s.takeTrap causeRights (s.rg a)) ∧
          (reads e va → ¬ reads e2 last → exec i s = s.takeTrap causeRights (BitVec.ofNat 64 last))) ∧
      (∀ x, reads e va → va + n ≤ e.vaBase + e.length → s.poisonVa c.image.extents va n = some x →
        exec i s = s.takeTrap causeMemerr (BitVec.ofNat 64 x)) ∧
      (reads e va → va + n ≤ e.vaBase + e.length → s.poisonVa c.image.extents va n = none →
        let image := s.readVa c.image.extents va (min n (2 ^ 20 + 1))
        let code := submitCode image n c
        ∃ t, exec i s = .next t ∧ t.rg d = (if d.val = 0 then 0 else BitVec.ofNat 64 code) ∧ (s.me.ldepth = 0 → t.me.pc = s.me.pc + 4) ∧
          (code ≠ 0 → t.capsules = s.capsules ∧ ∀ key ring, s.key? c.image.owner = some key → key.ring = some ring →
            let k := handleKey ring.base
            let w := s.bytes k 4
            let r := k + 64 + 64 * w
            ring.slots ≠ 0 → ring.slots ≤ 2 ^ 32 → s.takes k 12 → s.takes r 64 → (s.poisoned k 12 = true → t.mem = s.mem) ∧ (s.poisoned k 12 = false →
            ((w + 1) % ring.slots ≠ s.bytes (k + 4) 4 → t.bytes k 4 = (w + 1) % ring.slots ∧ t.bytes (k + 8) 4 = s.bytes (k + 8) 4 ∧
              t.bytes r 4 = 4 ∧ t.bytes (r + 4) 4 = causeQueue ∧ t.bytes (r + 8) 8 = (capsuleId image).toNat ∧
              t.bytes (r + 24) 8 = (code * 2 ^ 32 + c.queue) % 2 ^ 64 ∧ t.bytes (r + 32) 4 = 0xFFFFFFFF) ∧
            ((w + 1) % ring.slots = s.bytes (k + 4) 4 → t.bytes k 4 = w ∧ t.bytes (k + 8) 4 = (s.bytes (k + 8) 4 + 1) % 2 ^ 32))) ∧
          (code = 0 → t.mem = s.mem ∧ (s.myCap ≠ s.nextCapsule → (t.cap s.myCap).outstanding = c.outstanding + 1) ∧
            let x := t.cap s.nextCapsule
            x.stage = .offered ∧ x.derived = true ∧ x.parent = s.myCap ∧ x.image.va = va ∧ x.image.length = n ∧ x.mapping = c.image.extents ∧
            x.owner = c.image.owner))

/-- How capsules end. A capsule of one package completes when its count is zero, every number is complete and every store acknowledged (R130), with a final record of kind 3
(R211); a gang after two quiet waves with no unit received in between, of which package 0 tells every member, and the other members report to it (R131). The deadline and
the run limit kill (R191), and so does the kill of a gang that reaches a member (R192). A kill sweeps each core, and ends the capsule once every
core has been swept (R214). A packet into the saggar column is dropped, reported with its faulting address and logged (R233).
Where the manual leaves a point open the clause states what the model chose (log 4, 8, 11, 63, 76). -/
def Obligations.CapsulesEnd : Prop :=  (∀ (s : State) (n : Nat),
    let c := s.cap n
    let quiet := c.outstanding = 0 ∧ ∀ core ∈ c.cores, (∀ ch, ch < 8 → (s.core core).tlwOf ch = (s.core core).lastIssued ch) ∧
      (s.core core).unacked = 0 ∧ ∀ r, r < 4 → (s.thr (core * 4 + r)).unacked = 0
    let final := fun (t : State) (faults : Nat) => ∀ k, c.keyOf (s.reportBase c + 64 * min c.reportIndex 63) = some k → k + 64 ≤ 2 ^ 44 → s.takes k 64 →
      t.bytes k 4 = 3 ∧ t.bytes (k + 4) 4 = (if faults = 0 then 0 else 1) ∧ t.bytes (k + 8) 8 = c.id.toNat ∧ t.bytes (k + 24) 8 = faults % 2 ^ 64
    c.stage = .running →
    (c.image.packages = 1 → quiet → ∃ t, exec (.capsuleCompletion n) s = .next t ∧ (t.cap n).stage = .ended ∧ (t.cap n).entryDone = true ∧ Gone s t n ∧
      final t c.faultFirings) ∧
    (c.image.packages ≠ 1 ∨ ¬ quiet → exec (.capsuleCompletion n) s = .next s) ∧
    (c.image.packages = 1 → exec (.completionWave n) s = .next s) ∧
    (c.image.packages ≠ 1 → s.packageOf c ≠ 0 →
      (∀ q, q ≤ 1 → (q = 1 ↔ quiet) → exec (.completionWave n) s =
        .next ((s.toPod (c.podOf 0) 9 (toBytes 8 c.id.toNat ++ (toBytes 8 q ++ toBytes 8 c.received))).setCap n { c with received := 0 })) ∧
      (s.mgmt.powered = true → s.reachable = true → (s.members c.id fun x => decide (x.stage = .running ∧ s.packageOf x ≠ 0)) = [n] →
        ∃ t, s.hear (.completed c.id) = .next t ∧ (t.cap n).stage = .ended ∧ Gone s t n ∧ final t c.faultFirings)) ∧
    (c.image.packages ≠ 1 → s.packageOf c = 0 →
      (¬ quiet ∨ s.peersQuiet c = false → exec (.completionWave n) s = .next (s.setCap n { c with received := 0, waves := 0 })) ∧
      (quiet → s.peersQuiet c = true →
        (c.waves = 0 ∨ c.received ≠ 0 ∨ s.peersStill c = false → exec (.completionWave n) s = .next (s.setCap n { c with received := 0, waves := 1 })) ∧
        (c.waves ≠ 0 → c.received = 0 → s.peersStill c = true → ∃ t, exec (.completionWave n) s = .next t ∧ (t.cap n).stage = .ended ∧ Gone s t n ∧
          final t (c.faultFirings + s.peerFaults c) ∧
          ∀ m ∈ c.image.members, m ≠ s.mgmt.podId → ∀ x, s.mgmt.peers.find? (fun e => decide (e.1 = m)) = some x →
            .peer x.2 8 (toBytes 8 c.id.toNat) ∈ t.outbox))) ∧
    (s.mgmt.powered = true → s.reachable = true → (s.members c.id fun x => decide (x.stage ≠ .ended ∧ x.stage ≠ .offered)) = [n] →
      ∀ cause, ∃ t, s.hear (.kill c.id cause) = .next t ∧ KillRaised s t n cause) ∧
    (c.placed ≠ [] → c.image.deadline ≠ 0 →
      (c.image.deadline ≤ s.podTick → ∃ t, exec (.deadlineWatchdog n) s = .next t ∧ KillRaised s t n causeWatchdog) ∧
      (s.podTick < c.image.deadline → exec (.deadlineWatchdog n) s = .next s)) ∧
    (∀ k start, s.key? c.image.owner = some k → k.runLimit ≠ 0 → c.placed ≠ [] → c.started = some start →
      (k.runLimit < c.runTime + (s.podTick - start) → ∃ t, exec (.runLimit n) s = .next t ∧ KillRaised s t n causeWatchdog) ∧
      (c.runTime + (s.podTick - start) ≤ k.runLimit → exec (.runLimit n) s = .next s))) ∧
  (∀ (s : State) (core : Nat) (k : Kill),
    let n := s.capOf core
    let x := s.core core
    (s.cap n).stage = .killing → (s.cap n).kill = some k →
    (core ∈ k.swept → exec (.killMessage core) s = .next s) ∧
    (core ∉ k.swept → ∃ t, exec (.killMessage core) s = .next t ∧ (∀ r, r < 4 → t.thr (4 * core + r) = Thread.reset) ∧ (t.core core).ring = [] ∧
      (t.core core).waiting = [] ∧ (t.core core).slots = [] ∧ (t.core core).inbox = x.inbox.filter (fun m => m.capsule ≠ n) ∧ t.mem = s.mem ∧
      (t.cap n).kill = some { k with children := k.children + (x.inbox.filter fun m => m.kind = 2).length +
        ((x.ring ++ x.waiting).filter fun e => e.source = 1).length, swept := core :: k.swept } ∧
      (n, clusterOf core, s.cycle + 4096) ∈ t.routers)) ∧
  (∀ (s : State) (n cl : Nat), exec (.routerDiscardExpiry n cl) s =
    .next { s with routers := s.routers.filter fun r => ¬ (r.1 = n ∧ r.2.1 = cl ∧ r.2.2 ≤ s.cycle) }) ∧
  (∀ (s : State) (n : Nat) (k : Kill), (s.cap n).stage = .killing → (s.cap n).kill = some k →
    ((∀ core ∈ (s.cap n).cores, core ∈ k.swept) → ∃ t, exec (.purgeConfirmed n) s = .next t ∧ (t.cap n).stage = .ended ∧ Gone s t n) ∧
    (¬ (∀ core ∈ (s.cap n).cores, core ∈ k.swept) → exec (.purgeConfirmed n) s = .next s)) ∧
  ∀ (s : State) (n : Nat) (m : Msg), s.net[n]? = some m →
    (s.intoColumn m = false → exec (.firewallDrop n) s = .next s) ∧
    (s.intoColumn m = true → ∃ t r, exec (.firewallDrop n) s = .next t ∧ t.net = s.net.eraseIdx n ∧
      r.kind = 1 ∧ r.cause = causeRights ∧ r.code = m.code ∧ r.value = (if m.kind = 4 then m.reply else m.wrote) ∧
      t.mgmt.errorLog = s.mgmt.errorLog ++ [(redact (s.cap m.capsule) r, (s.cap m.capsule).world)] ∧
      (t.cap m.capsule).outstanding = (s.cap m.capsule).outstanding - 1 ∧ (t.cap m.capsule).stage = (s.cap m.capsule).stage)

/-- The queue scanner (R157, R160, R161, R200, R201): entries are taken in order and performed; a malformed one leaves its queue in ERROR with its code, the slot and the
owner's guilt; a stopped queue and a barred owner's are left alone; a restart is taken or refused. A control block, slot or timeline that cannot be read
ends the visit, which then only the error log may show. That the number of an entry stays in Capsule.sequence is the model's.
Where the manual leaves a point open the clause states what the model chose (log 4, 11, 80, 81, 88, 94, 95, 110). -/
def Obligations.QueueScanner : Prop :=  ∀ (s : State) (q : Queue), s.queue? q.desc.number = some q → s.takes (handleKey q.desc.control) 28 →
    let number := q.desc.number
    let cb := handleKey q.desc.control
    let word := fun (t : State) (o : Nat) => t.bytes (cb + o) 4
    let w := word s 0
    let visit := exec (.scannerVisit number) s
    let slot := handleKey q.desc.slotsBase + 64 * q.read
    let e := s.byteList slot 64
    let type := fieldB e 0 1
    let onward := (q.read + 1) % q.desc.slots
    let moved := fun (t : State) => t.queue? number = some { q with read := onward } ∧ word t 4 = onward % 2 ^ 32
    let unread := ∃ t, visit = .next t ∧ { t with mgmt := s.mgmt } = s
    (s.poisoned cb 32 = true → unread) ∧ (s.poisoned cb 32 = false →
    (q.state = .stopped → visit = .next s) ∧
    (q.state = .run → word s 0x10 = 0 →
      (s.barred q.desc.owner = true → visit = .next s) ∧
      (w < q.desc.slots → s.poisoned slot 64 = true → unread) ∧
      (s.barred q.desc.owner = false →
        (w < q.desc.slots → q.read = w → visit = .next s) ∧
        (let bad := if q.desc.slots ≤ w then 6 else entryError q.desc e
         bad ≠ 0 → (w < q.desc.slots → q.read ≠ w ∧ s.poisoned slot 64 = false) → ∃ t, visit = .next t ∧ t.queue? number = some { q with state := .error } ∧ word t 0x14 = bad ∧
           word t 8 = 1 ∧ word t 0x0C = q.read % 2 ^ 32 ∧ MemFrame s t (span (cb + 8) 20) ∧ t.capsules = s.capsules ∧
           ∀ k, s.key? q.desc.owner = some k → ∃ k', t.key? q.desc.owner = some k' ∧ k'.guilt = min (k.guilt + 1) (2 ^ 32 - 1) ∧
             word t 0x18 = k'.guilt % 2 ^ 32) ∧
        (w < q.desc.slots → q.read ≠ w → onward = w → s.poisoned slot 64 = false → entryError q.desc e = 0 →
          (fieldB e 1 1 = 1 → s.openEntry number = true → visit = .next s) ∧
          ((fieldB e 1 1 = 1 → s.openEntry number = false) →
            (type = 0 → ∃ t, visit = .next t ∧ moved t ∧ MemFrame s t (span (cb + 4) 4) ∧ t.capsules = s.capsules) ∧
            (type = 1 → ∃ t, visit = .next t ∧ moved t ∧ MemFrame s t (span (cb + 4) 4) ∧
              let c := t.cap s.nextCapsule
              c.stage = .offered ∧ c.image.va = fieldB e 8 8 ∧ c.image.length = fieldB e 16 8 ∧ c.queue = number ∧ c.owner = q.desc.owner ∧
              c.sequence = fieldB e 2 2 ∧ c.mapping = q.desc.mapping ∧ c.derived = false) ∧
            (let k := handleKey q.desc.timelines + 8 * fieldB e 8 4
             (2 ≤ type → s.poisoned k 8 = true → unread) ∧ (s.poisoned k 8 = false →
             (type = 2 → (s.mem64 k).toNat < fieldB e 16 8 → visit = .next s) ∧
             (type = 2 → fieldB e 16 8 ≤ (s.mem64 k).toNat → ∃ t, visit = .next t ∧ moved t ∧ MemFrame s t (span (cb + 4) 4)) ∧
             (type = 3 → s.takes k 8 → k + 8 ≤ cb + 4 ∨ cb + 8 ≤ k → ∃ t, visit = .next t ∧ moved t ∧ t.mem64 k = s.mem64 k + dwordB e 16 ∧
               MemFrame s t (fun m => span (cb + 4) 4 m ∨ span k 8 m)))))))) ∧
    (q.state = .error →
      let r := word s 0x10
      let i := word s 4
      (r = 0 → visit = .next s) ∧
      (r ≠ 0 → r ≠ 1 → ∃ t, visit = .next t ∧ word t 0x10 = 0 ∧ t.queue? number = some q ∧ MemFrame s t (span (cb + 0x10) 4)) ∧
      (r = 1 → s.barred q.desc.owner = true ∨ q.desc.slots ≤ i → ∃ t, visit = .next t ∧ word t 0x10 = 0 ∧ t.queue? number = some q ∧
        word t 0x14 = (if s.barred q.desc.owner then 8 else 7) ∧ MemFrame s t (span (cb + 0x10) 8)) ∧
      (r = 1 → s.barred q.desc.owner = false → i < q.desc.slots → w = i → ∃ t, visit = .next t ∧ word t 0x10 = 0 ∧ word t 8 = 0 ∧
        t.queue? number = some { q with read := i, state := .run } ∧ MemFrame s t (span (cb + 8) 12))))

/-- Admission (R193, R194): the steps in their order, each with its code; an image that passes them waits for placement under the ID of its digest. Nothing is admitted before
the last stage of bring-up (R231). That a continuation whose record fails its MAC is refused with 16 before steps 6 to 13, whatever its image, is the model's choice (log 32):
R195 places the check there only for an original image that is derived. A derived image that admission reads leaves its parent's count, and that of every continuation which has
taken it up (R197); a continuation takes the rest of its counts from its record (R195).
Where the manual leaves a point open the clause states what the model chose (log 10, 11, 32, 49, 55, 94, 112). -/
def Obligations.Admission : Prop :=  ∀ (s : State) (n : Nat),
    let c := s.cap n
    let u := if c.derived then (s.parents c).foldl (fun acc m => State.subCount acc m 1) s else s
    (∀ e ∈ s.capsules, e.1 = c.parent → c.parent ∈ s.parents c) ∧
    let refused := fun (code : Nat) => ∃ t, exec (.admission n) s = .next t ∧ Refused t n code
    (c.stage ≠ .offered ∨ s.mgmt.stage ≠ 6 → exec (.admission n) s = .next s) ∧
    (c.stage = .offered → s.mgmt.stage = 6 →
      (u.readEntry c = none → refused 1) ∧
      ∀ b va len record, u.readEntry c = some (b, va, len, record) →
        let i := parseImage b va
        let header := headerOk b len = true ∧ recordLengthOk i record = true
        (¬ header → refused 2) ∧
        (header → u.ownerKey i c.owner = none → refused 3) ∧
        ∀ k, header → u.ownerKey i c.owner = some k →
          (u.barred i.owner = true → refused 4) ∧
          (u.barred i.owner = false →
            (u.sealStep c b i k record.isSome = false → refused 5) ∧
            (u.sealStep c b i k record.isSome = true →
              (u.macBad b i record = true → refused 16) ∧
              (u.macBad b i record = false →
                let steps : List (Nat × Bool) := [(6, extentsOk u.mgmt.cxlCapacity i.extents), (7, i.extents.all (extentGranted k.desc)), (8, codeOk i),
                  (9, u.digestOk i), (10, tablesOk b i), (11, areasOk i), (12, footprintOk u.saggarWidth u.mgmt.usableDies i), (13, sramOk i)]
                (∀ step, steps.find? (fun p => !p.2) = some step → refused step.1) ∧
                (steps.find? (fun p => !p.2) = none → u.lateCode i record.isSome = none →
                  ∃ t, exec (.admission n) s = .next t ∧ (t.cap n).stage = .placing ∧ (t.cap n).id = capsuleId b ∧ (t.cap n).digest = capsuleDigest b ∧
                    (t.cap n).image = i ∧ t.mem = s.mem ∧ (record = none → (t.cap n).continuation = c.continuation) ∧
                    ∀ h key length, record = some (h, key, length) → (t.cap n).continuation = true ∧ (t.cap n).recordVa = c.image.va ∧
                      (t.cap n).recordLength = length ∧ (t.cap n).reportIndex = h.reportIndex ∧ (t.cap n).runTime = h.runTime) ∧
                (∀ code, steps.find? (fun p => !p.2) = none → u.lateCode i record.isSome = some code → refused code)))))

/-- Placement (R190 to R193, R20, R122, R129): a capsule whose turn it is and that fits takes its clusters, latched and empty, each core with its COORD and FOOT, and starts with one
entry per entry firing and that count; a gang waits for its start tick. A continuation takes up what its record's snapshot holds, its whole dies with die 0 or without it as before,
or is refused with 16 where the record does not verify (R195), and with 1 where it cannot be read: that the check is made here, as the record is read, is the model's. A gang that waits while the package is not locked is refused with 15 (R228). For a DEADLINE capsule that does not fit the fewest RESEARCH capsules admitted latest are pre-empted, or none where
no number of them suffices (R191); the order of admission is that of placement, and clusters whose capsule is being pre-empted count as free, by the model's choice. One past its deadline is refused. A gang's notices go to its first member, GO to the others, and at the start tick it starts with GO and dies
without; one not placed by then is refused, and the others receive the kill with its cause (R192, R131).
Where the manual leaves a point open the clause states what the model chose (log 4, 11, 32, 33, 61, 64, 76, 84, 94, 96, 116). -/
def Obligations.PlacementAndStart : Prop :=  ∀ (s : State) (n : Nat),
    let c := s.cap n
    let entries := fun (c : Capsule) => ((s.entriesHere c).flatMap c.entryCores).length
    let started := fun (t : State) => (t.cap n).stage = .running ∧ (t.cap n).started = some s.podTick ∧
      (t.cap n).outstanding = c.outstanding + entries (t.cap n)
    let told := fun (what : Nat) (data : List Byte) => (c.image.members.filter fun m => m ≠ s.mgmt.podId).filterMap fun m =>
      (s.mgmt.peers.find? fun e => decide (e.1 = m)).map fun e => Response.peer e.2 what data
    let gang := bits c.image.flags 2 2 = 1
    (c.stage = .placing → s.tooLate c = false → s.startMissed c = false → gang → s.mgmt.locked = false →
      ∃ t, exec (.placement n) s = .next t ∧ Refused t n 15) ∧
    (c.stage = .placing → s.tooLate c = false → s.startMissed c = false → ¬ (gang ∧ s.mgmt.locked = false) → s.turnOf n = true →
      (∀ l, s.placementOf c = some l → c.continuation = false →
        ∃ t, exec (.placement n) s = .next t ∧ (t.cap n).placed = l ∧
          (bits c.image.flags 2 2 = 0 → started t) ∧ (bits c.image.flags 2 2 = 1 → (t.cap n).stage = .loaded) ∧
          (∀ core ∈ (t.cap n).cores, (t.core core).capsule = some n ∧ ∀ r, r < 4 → t.thr (4 * core + r) = Thread.reset) ∧
          (∀ cl ∈ (t.cap n).clusters, t.cluster cl = Cluster.reset) ∧
          (((s.footprint { c with placed := l }).map Prod.fst).Nodup → ∀ x ∈ s.footprint { c with placed := l },
            (t.core x.1).coord = BitVec.ofNat 64 x.2.1 ∧ (t.core x.1).foot = x.2.2) ∧
          (c.image.readiness = [] → ∀ k, (t.cap n).holdsKey k = true → t.byte k = 0) ∧
          ∀ p ∈ l, (p.die, c.world) ∈ t.worlds) ∧
      (∀ l, s.placementOf c = some l → c.continuation = true →
        (s.recordHead c = none → ∃ t, exec (.placement n) s = .next t ∧ Refused t n 1) ∧
        ∀ hd k, s.recordHead c = some (hd, k) →
          (1 < c.image.dies → (hd.clusters = c.image.requested → ∀ p ∈ l, p.die ≠ 0) ∧ (hd.clusters ≠ c.image.requested → ∃ p ∈ l, p.die = 0)) ∧
          let x := s.snapshotFor c.id (s.bytes (k + (c.recordLength - 4096)) 64)
          let sound := s.recordVerifies c.digest k (c.recordLength - 4096)
          let readable := s.poisoned k c.recordLength = false
          (¬ readable → ∃ t, exec (.placement n) s = .next t ∧ Refused t n 1 ∧ t.cores = s.cores) ∧
          (readable → x = none ∨ sound = false → ∃ t, exec (.placement n) s = .next t ∧ Refused t n 16 ∧ t.cores = s.cores) ∧
          ∀ y, readable → x = some y → sound = true → ∃ t, exec (.placement n) s = .next t ∧ (t.cap n).stage = .running ∧ (t.cap n).placed = l ∧
            (t.cap n).started = some s.podTick ∧ (t.cap n).outstanding = c.outstanding ∧ (t.cap n).reportIndex = c.reportIndex ∧ (t.cap n).runTime = c.runTime ∧
            (t.cap n).barriers = y.barriers ∧ (t.cap n).faultFirings = y.faultFirings ∧ (t.cap n).dropped = y.dropped ∧ (t.cap n).home = y.home) ∧
      (s.placementOf c = none → c.image.cls ≠ 0 → exec (.placement n) s = .next s) ∧
      (s.placementOf c = none → c.image.cls = 0 →
        let soon := ((s.capsules.filter fun e => e.2.stage = .preempting).map Prod.fst).foldl State.vacate s
        let fits := fun (k : Nat) => (((s.victims.take k).foldl State.vacate soon).placementOf c).isSome = true
        (fits 0 ∨ (∀ k, k ≤ s.victims.length → ¬ fits k) → exec (.placement n) s = .next s) ∧
        ∀ k, k ≤ s.victims.length → fits k → (∀ j, j < k → ¬ fits j) → ∃ t, exec (.placement n) s = .next t ∧ t.mem = s.mem ∧ t.cores = s.cores ∧
          (∀ v ∈ s.victims.take k, (t.cap v).stage = .preempting ∧ (t.cap v).reached = [] ∧ (t.cap v).answered = []) ∧ ∀ v, v ∉ s.victims.take k → t.cap v = s.cap v)) ∧
    (∃ l : List (Nat × Capsule), l.Perm (s.capsules.filter fun e => e.2.stage = .running ∧ e.2.image.cls = 2) ∧
      (l.Pairwise fun a b => b.2.admitted ≤ a.2.admitted) ∧ s.victims = l.map Prod.fst) ∧
    (s.startMissed c = true ↔ c.stage = .placing ∧ bits c.image.flags 2 2 = 1 ∧ c.continuation = false ∧ c.image.gangStart ≤ s.podTick) ∧
    (s.startMissed c = true → exec (.placement n) s = .next s ∧ ∃ t, exec (.gangStart n) s = .next t ∧ Refused t n 15 ∧
      ∀ x ∈ told 4 (toBytes 8 c.id.toNat ++ toBytes 4 causeKilled), x ∈ t.outbox) ∧
    (let late := c.stage = .placing ∧ (c.image.cls = 0 ∨ c.continuation = true) ∧ c.image.deadline ≠ 0 ∧ c.image.deadline ≤ s.podTick
     (late → ∃ t, exec (.missedDeadline n) s = .next t ∧ Refused t n 14) ∧ (¬ late → exec (.missedDeadline n) s = .next s)) ∧
    (c.stage = .placing → ∀ package, package < c.image.packages → package ∉ c.notices → s.packageOf c = 0 →
      exec (.readyNotice n package) s = .next (if package = 0 then s else s.setCap n { c with notices := package :: c.notices })) ∧
    (c.stage = .loaded →
      (∀ package, package < c.image.packages → package ∉ c.notices →
        (s.packageOf c = 0 → exec (.readyNotice n package) s = .next (s.setCap n { c with notices := package :: c.notices })) ∧
        (s.packageOf c ≠ 0 → package = s.packageOf c →
          (s.mgmt.peers.find? (fun e => decide (e.1 = c.podOf 0)) = none → exec (.readyNotice n package) s = .next s) ∧
          ∀ e, s.mgmt.peers.find? (fun e => decide (e.1 = c.podOf 0)) = some e → ∃ t, exec (.readyNotice n package) s = .next t ∧
            (t.cap n).notices = [package] ∧ t.outbox = s.outbox ++ [.peer e.2 5 (toBytes 64 c.digest)])) ∧
      (c.go = false →
        (s.packageOf c ≠ 0 → exec (.go n) s = .next (s.setCap n { c with go := true })) ∧
        (s.packageOf c = 0 → c.notices.length = c.image.packages → s.podTick ≤ c.image.gangStart - 20000 → ∃ t, exec (.go n) s = .next t ∧
          (t.cap n).go = true ∧ t.outbox = s.outbox ++ told 6 (toBytes 64 c.digest)) ∧
        (s.packageOf c = 0 → c.notices.length ≠ c.image.packages → exec (.go n) s = .next s)) ∧
      (s.podTick < c.image.gangStart → exec (.gangStart n) s = .next s) ∧
      (c.image.gangStart ≤ s.podTick →
        (c.go = true → ∃ t, exec (.gangStart n) s = .next t ∧ started t ∧ t.mem = s.mem) ∧
        (c.go = false → ∃ t k, exec (.gangStart n) s = .next t ∧ (t.cap n).stage = .killing ∧ (t.cap n).kill = some k ∧ k.final.cause = causeKilled ∧
          ∀ x ∈ told 4 (toBytes 8 c.id.toNat ++ toBytes 4 causeKilled), x ∈ t.outbox)))

/-- Pre-emption (R175, R206, R209, R210): PREEMPT takes a core out of its halt group and its threads' tag requests out of their queues; each firing that stands at a window-free
boundary is saved, by itself, and one that is not, or whose trap is not handled, goes on; a handler that waits to append ends, its entry pending; the core answers once no firing is
left, and saves the contexts that wait there for room; the record is written at the resume VA when the saved work has ended,
under its header, where the area lies apart from what is freed, and the clusters are freed; firmware publishes the continuation in the home queue under the publish lock, and tries again after 1 µs.
Where the manual leaves a point open the clause states what the model chose (log 4, 11, 33, 55, 62, 83, 94, 95, 99, 111, 118). -/
def Obligations.Preemption : Prop :=  (∀ (s : State) (core : Nat),
    let n := s.capOf core
    let c := s.cap n
    c.stage = .preempting → core ∉ c.answered →
    let x := s.core core
    let h := s.thr (hThread core)
    let tasks := [core * 4, core * 4 + 1, core * 4 + 3]
    (s.appends core = true → ∃ m, h.handling = some m ∧ m.ofHost = false ∧ s.poisoned m.key 16 = false) →
    ∃ t, exec (.preemptInterrupt core) s = .next t ∧
      (t.core core).halted = false ∧ (x.halted = true → (t.core core).haltGroup = none) ∧
      core ∈ (t.cap n).reached ∧ (core ∉ c.reached → ∀ r ∈ t.tagQueue, coreOf r.thread ≠ core) ∧
      (∀ k, (t.core k).ring = (s.core k).ring ∧ (t.core k).inbox = (s.core k).inbox) ∧
      (∀ r ∈ tasks, let y := s.thr r
        let saved := (t.thr r).live = false ∧ (⟨r, { y with wait := .nothing }⟩ : Saved) ∈ (t.cap n).saved
        y.live = true →
          (y.window ≠ 0 ∨ y.mode ≠ .capsule ∨ y.unacked ≠ 0 → t.thr r = y) ∧
          (y.window = 0 → y.mode = .capsule → y.unacked = 0 → y.pending = [] → y.requests = [] → (∀ l ∈ s.loads, l.firing ≠ y.firing) →
            (∀ m ∈ s.net, m.kind = 4 → m.firing ≠ y.firing) → saved) ∧
          ((∀ q ∈ tasks, q ≠ r → (s.thr q).live = false) →
            ((s.interrupt core).atBoundary n y = true → saved) ∧ ((s.interrupt core).atBoundary n y = false → t.thr r = y))) ∧
      (s.appends core = false → t.mem = s.mem ∧ t.thr (hThread core) = h) ∧
      (s.appends core = true → ∀ m, h.handling = some m → (t.thr (hThread core)).live = false ∧ MemFrame s t (span m.key 8) ∧
        ∀ l, l < 4 → laneCount (t.mem64 m.key) l = min (laneCount (s.mem64 m.key) l + laneRate (s.mem64 (m.key + 8)) l) 2047) ∧
      (s.midInline core = true ∨ (∃ r ∈ tasks, (t.thr r).live = true) → (t.cap n).answered = c.answered ∧ (t.core core).waiting = x.waiting) ∧
      (s.midInline core = false → (∀ r ∈ tasks, (t.thr r).live = false) → (t.cap n).answered = core :: c.answered ∧
        (t.core core).waiting = (x.waiting.filter fun e => e.source = 0) ∧
        ∀ e ∈ x.waiting, ∀ m, e.message = some m → ∃ y ∈ (t.cap n).saved, y.thread = core * 4 + bits m.origin.toNat 25 24)) ∧
  (∀ (s : State) (t : Nat), s.preempted t = true → s.readyT t = none) ∧
  (∀ (s : State) (n : Nat), (s.cap n).stage = .preempting →
    (s.recordReady n = false → exec (.resumeRecordWrite n) s = .next s) ∧
    (s.recordReady n = true → ∃ t, exec (.resumeRecordWrite n) s = .next t ∧ (t.cap n).stage = .saved ∧ (t.cap n).snap.isSome = true ∧
      (t.cap n).placed = [] ∧ (∀ core ∈ (s.cap n).cores, (t.core core).capsule = none) ∧
      (∀ k, (s.cap n).holdsKey k = true → t.byte k = 0) ∧
      let c := s.cap n
      let len := 0x700000 * c.clusters.length + c.image.dsramKib * 1024 * c.image.dies + 4096
      (t.cap n).recordLength = len ∧
      ∀ k, c.keyOf (s.resumeVaOf c) = some k → (∀ i, i < len → c.holdsKey (k + i) = false) → s.takes k len → c.clusters ≠ [] →
        t.bytes k 4 = 0x53525250 ∧ t.bytes (k + 4) 2 = 1 ∧ t.bytes (k + 8) 8 = c.id.toNat ∧ t.bytes (k + 0x1C) 4 = c.saved.length % 2 ^ 32 ∧
        t.bytes (k + 0x20) 4 = c.reportIndex % 2 ^ 32 ∧ t.bytes (k + 0x24) 2 = c.clusters.length % 2 ^ 16 ∧
        t.bytes (k + 0x30) 8 = c.outstanding % 2 ^ 64)) ∧
  ∀ (s : State) (n : Nat) (i : Instr),
    let c := s.cap n
    (i = .continuationPublish n ∧ c.stage = .saved) ∨ (i = .publishRetry n ∧ c.stage = .publishing ∧ ∃ a, c.started = some a ∧ a + 1000 ≤ s.podTick) →
    (s.queue? c.home = none → ∃ t, exec i s = .next t ∧ (t.cap n).stage = .ended) ∧
    ∀ q, s.queue? c.home = some q →
      let lock := handleKey q.desc.timelines + 8 * (q.desc.timelineCount - 1)
      let cb := handleKey q.desc.control
      let w := s.bytes cb 4
      let next := (w + 1) % q.desc.slots
      let k := handleKey q.desc.slotsBase + 64 * w
      (q.desc.owner ≠ c.image.owner → ∃ t, exec i s = .next t ∧ (t.cap n).stage = .ended) ∧
      (q.desc.owner = c.image.owner →
        (s.poisoned lock 8 = true ∨ s.poisoned cb 32 = true ∨ s.mem64 lock ≠ 0 ∨ next = s.bytes (cb + 4) 4 ∨ q.desc.slots ≤ w →
          ∃ t, exec i s = .next t ∧ (t.cap n).stage = .publishing ∧ (t.cap n).started = some s.podTick ∧ t.mem = s.mem) ∧
        (s.poisoned lock 8 = false → s.poisoned cb 32 = false → s.mem64 lock = 0 → next ≠ s.bytes (cb + 4) 4 → w < q.desc.slots → k + 24 ≤ cb ∨ cb + 4 ≤ k → s.takes k 24 → s.takes cb 4 →
          ∃ t, exec i s = .next t ∧ (t.cap n).stage = .ended ∧ (t.cap n).published = some (c.home, w) ∧ t.bytes cb 4 = next % 2 ^ 32 ∧ t.bytes k 1 = 1 ∧ t.bytes (k + 1) 1 = 0 ∧ t.bytes (k + 4) 4 = 24 ∧
            t.bytes (k + 8) 8 = s.resumeVaOf c % 2 ^ 64 ∧ t.bytes (k + 16) 8 = c.recordLength % 2 ^ 64 ∧
            MemFrame s t (fun m => span cb 4 m ∨ span k 24 m)))

/-! ### The outside -/

/-- Hosts read and write windows (R213, R218 to R220), and their atomics go to the home core where the window has SA, else to the port's atomic unit (R171); an operation that its
window does not allow completes with a remote access error and changes nothing; poison and a failed CXL set answer a remote error (R213, R230),
and a line whose MAC failed is marked in the error log besides (R237). The write of a port's unit is refused where the dword is write-locked code by
then, and fails where its set has failed: what becomes of that later write is the model's choice, which R187 and R230 do not state.
Where the manual leaves a point open the clause states what the model chose (log 11, 35, 88, 95). -/
def Obligations.HostOperations : Prop :=  ∀ (s : State) (host window offset : Nat),
    let answer := fun (status : Nat) (data : List Byte) => Response.rma host status data
    let tells := fun (i : Instr) (status : Nat) (data : List Byte) => exec i s = .next { s with outbox := s.outbox ++ [answer status data] }
    let failed := fun (i : Instr) (k n : Nat) =>
      ((∀ j, j < n → s.forgedAt (k + j) = false) → tells i 3 []) ∧
      ((∃ j, j < n ∧ s.forgedAt (k + j) = true) → ∃ t r, exec i s = .next t ∧ t.outbox = s.outbox ++ [answer 3 []] ∧ t.mem = s.mem ∧
        t.mgmt.errorLog = s.mgmt.errorLog ++ [(r, 0)] ∧ t.mgmt.integrity = s.mgmt.integrity ++ [s.mgmt.errorLog.length] ∧ r.cause = causeMemerr ∧ r.capsule = 0)
    (s.mgmt.ports = [] → (∀ n, exec (.rmaRead host window offset n) s = .next s) ∧ (∀ l, exec (.rmaWrite host window offset l) s = .next s) ∧
      exec (.unsupportedUetRequest host) s = .next s) ∧
    (s.mgmt.ports ≠ [] →
      exec (.unsupportedUetRequest host) s = .next { s with outbox := s.outbox ++ [.unsupported host] } ∧
      (∀ n, (s.windowKey host window offset n rightR false = none → tells (.rmaRead host window offset n) 2 []) ∧
        ∀ k, s.windowKey host window offset n rightR false = some k →
          (s.poisoned k n = true → failed (.rmaRead host window offset n) k n) ∧
          (s.poisoned k n = false → tells (.rmaRead host window offset n) 0 (s.byteList k n))) ∧
      ∀ l, (s.windowKey host window offset l.length rightW true = none → tells (.rmaWrite host window offset l) 2 []) ∧
        ∀ k, s.windowKey host window offset l.length rightW true = some k →
          (s.writeFails (.here k none) = true → tells (.rmaWrite host window offset l) 3 []) ∧
          (s.writeFails (.here k none) = false → ∃ t, exec (.rmaWrite host window offset l) s = .next t ∧
          t.byteList k l.length = l ∧ MemFrame s t (span k l.length) ∧ t.outbox = s.outbox ++ [answer 0 []] ∧ t.tags = s.tags ∧ t.threads = s.threads)) ∧
    (∀ n need write, (s.window? window = none → s.windowKey host window offset n need write = none) ∧
      ∀ d, s.window? window = some d → d.length < offset + n ∨ hasRights d.rights need = false ∨
          (s.ownerNow ≠ some (BitVec.ofNat 64 host) ∧ (write = true ∨ bits d.rights 6 6 = 0)) →
        s.windowKey host window offset n need write = none) ∧
    (∀ (p : PortOp) (v : Word), p.value = some v →
      (s.codeLocked p.key 8 = true → s.portWrite p = { s with outbox := s.outbox ++ [.rma p.host 2 []] }) ∧
      (s.codeLocked p.key 8 = false → s.writeFails (.here p.key none) = true → s.portWrite p = { s with outbox := s.outbox ++ [.rma p.host 3 []] }) ∧
      (s.codeLocked p.key 8 = false → s.writeFails (.here p.key none) = false → (s.portWrite p).mem64 p.key = v ∧ MemFrame s (s.portWrite p) (span p.key 8) ∧
        (s.portWrite p).outbox = s.outbox ++ [.rma p.host 0 (toBytes 8 p.old.toNat)])) ∧
    ∀ (port : Nat) (x y : Word),
      let atomic := fun (i : Instr) (code fn : Nat) (op1 op2 : Word) (value : Word → Option Word) =>
        (port ∉ s.mgmt.ports → exec i s = .next s) ∧
        (port ∈ s.mgmt.ports → offset % 8 ≠ 0 ∨ s.windowKey host window offset 8 rightA true = none → tells i 2 []) ∧
        ∀ k d, port ∈ s.mgmt.ports → offset % 8 = 0 → s.window? window = some d → s.windowKey host window offset 8 rightA true = some k →
          (hasRights d.rights rightSA = true → ∃ t m, exec i s = .next t ∧ t.net = s.net ++ [m] ∧ m.kind = 0 ∧ m.target = homeOfKey k ∧ m.key = k ∧ m.op = code ∧
            m.fn = fn ∧ m.size = 8 ∧ m.op1 = op1 ∧ m.op2 = op2 ∧ m.words = [] ∧ m.request = host + 1 ∧ m.sender = coreCount ∧ t.mem = s.mem ∧ t.outbox = s.outbox) ∧
          (hasRights d.rights rightSA = false → s.poisoned k 8 = true → (∀ p ∈ s.portOps, ¬ (p.port = port ∧ p.key = k)) → failed i k 8) ∧
          (hasRights d.rights rightSA = false → s.poisoned k 8 = false → (∀ p ∈ s.portOps, ¬ (p.port = port ∧ p.key = k)) →
            ∃ t p, exec i s = .next t ∧ t.portOps = s.portOps ++ [p] ∧ p.port = port ∧ p.host = host ∧ p.key = k ∧ p.old = s.mem64 k ∧
              p.value = value (s.mem64 k) ∧ t.mem = s.mem)
      atomic (.fetchAdd port host window offset x) 0x30 0 x 0 (fun old => some (old + x)) ∧
      atomic (.swap port host window offset x) 0x30 6 x 0 (fun _ => some x) ∧
      atomic (.compareSwap port host window offset x y) 0x32 0 x y (fun old => if old = x then some y else none)

/-- A command with a malformed header is answered with status 2; one whose tag does not verify under its session's key, or whose host holds no session, with status 3; one of another
host than the owner with status 1; each has no other effect. The owner's
has the effect of R185, R196, R199, R201, R202, R214, R216, R220, R222, R224, R225, R229, R235, R238 and R239, and its status. That a second handover replaces the first is the
model's choice (log 43), and so are the requested debug session that a close drops, the status 5 of a close while its scope runs a capsule (log 38), and that of a restart of a
queue that is not stopped (log 114). A revoked key's
capsules that have not started are refused with code 3, one that is loaded is wiped, and every other capsule stays as it is (R196).
Where the manual leaves a point open the clause states what the model chose (log 10, 38, 42, 43, 44, 46, 86, 87, 88, 94, 95, 98, 104, 105, 106, 107, 108, 114). -/
def Obligations.OwnerCommands : Prop :=  ∀ (h : MgmtHeader) (s : State), 2 ≤ s.mgmt.stage →
    let reply := fun (code status : Nat) (body : List Byte) => s.outbox ++ [s.mgmtResponse h.host h.sequence code status body]
    let only := fun (t : State) (code status : Nat) => t = { s with outbox := reply code status [] }
    let cmd := fun (i : Instr) (code : Nat) (fields : List Nat) (done : State → Prop) =>
      let formed := h.status = 0 ∧ h.bodyLength ≤ 4016 ∧ h.reserved = 0
      let known := h.host ∈ s.mgmt.sessions ∧ ∃ k, s.mgmt.sessionKey h.host = some k ∧ Config.tagVerifies k h.host code h.sequence h.bodyLength fields h.tag = true
      ∃ t, exec i s = .next t ∧ (¬ formed → only t code 2) ∧ (formed → ¬ known → only t code 3) ∧ (formed → known → s.ownerNow ≠ some h.host → only t code 1) ∧
        (formed → known → s.ownerNow = some h.host → done t)
    let m := s.mgmt
    let cxl := m.cxlCapacity
    let added := fun (d : KeyDesc) => (⟨d, d.guilt, d.limit.getD 8, d.runLimit, false, none, none⟩ : OwnerKey)
    (s.ownerNow = if m.lastKeepalive + 5000000000 ≤ s.podTick then none else m.owner) ∧
    let tells := fun (t : State) (code status : Nat) (u : State) => t = { u with outbox := reply code status [] }
    let key := fun (id : Nat) (f : OwnerKey → OwnerKey) => { s with keys := s.keys.map fun k => if k.desc.id = id then f k else k }
    (∀ id, cmd (.handover h id) 2 [id.toNat] fun t =>
      if id ∈ m.sessions then tells t 2 0 { s with mgmt := { m with handover := some (id, s.podTick) } } else only t 2 5) ∧
    (∀ d, cmd (.addKey h d) 0x20 (keyNumbers d) fun t =>
      (keyOk cxl d = false → only t 0x20 2) ∧
      (keyOk cxl d = true → s.key? d.id = none → 256 ≤ s.keys.length → only t 0x20 4) ∧
      (keyOk cxl d = true → s.key? d.id = none → s.keys.length < 256 → tells t 0x20 0 { s with keys := s.keys ++ [added d] }) ∧
      ∀ k, keyOk cxl d = true → s.key? d.id = some k → (k.revoked = false → only t 0x20 5) ∧
        (k.revoked = true → tells t 0x20 0 (key d.id fun _ => added d))) ∧
    (∀ id, cmd (.revokeKey h id) 0x21 [id] fun t =>
      (s.key? id = none → only t 0x21 2) ∧
      (s.key? id ≠ none → (∃ k, t.key? id = some k ∧ k.revoked = true) ∧ (∃ pre, t.outbox = pre ++ [s.mgmtResponse h.host h.sequence 0x21 0 []]) ∧
        ((∀ e ∈ s.capsules, e.2.image.owner ≠ id) → tells t 0x21 0 (key id fun k => { k with revoked := true })) ∧
        (∀ n, let c := s.cap n
          ((n, c) ∈ s.capsules → c.image.owner = id → c.stage = .placing → Refused t n 3) ∧
          ((n, c) ∈ s.capsules → c.image.owner = id → c.stage = .loaded → Refused t n 3 ∧ (t.cap n).placed = [] ∧
            (∀ core ∈ c.cores, (t.core core).capsule = none) ∧ ∀ cl ∈ c.clusters, t.cluster cl = Cluster.reset) ∧
          ((c.stage ≠ .placing ∧ c.stage ≠ .loaded) ∨ (∀ e ∈ s.capsules, e.1 = n → e.2.image.owner ≠ id) →
            (t.cap n).stage = c.stage ∧ (t.cap n).placed = c.placed ∧ (t.cap n).kill = c.kill)))) ∧
    (∀ id guilt limit, cmd (.setGuiltAndLimit h id guilt limit) 0x22 [id, guilt, limit] fun t =>
      let ok := s.key? id ≠ none ∧ guilt < 2 ^ 32 ∧ 1 ≤ limit ∧ limit < 2 ^ 32
      (¬ ok → only t 0x22 2) ∧ (ok → tells t 0x22 0 (key id fun k => { k with guilt := guilt, limit := limit }))) ∧
    (∀ id limit, cmd (.setRunLimit h id limit) 0x23 [id, limit] fun t =>
      (s.key? id = none → only t 0x23 2) ∧ (s.key? id ≠ none → tells t 0x23 0 (key id fun k => { k with runLimit := limit }))) ∧
    (∀ d, cmd (.mapQueue h d) 0x30 (queueNumbers d) fun t =>
      (s.key? d.owner = none → only t 0x30 2) ∧
      ∀ k, s.key? d.owner = some k → (queueOk cxl d k.desc = false → only t 0x30 2) ∧
        (queueOk cxl d k.desc = true → s.queue? d.number ≠ none → only t 0x30 5) ∧
        (queueOk cxl d k.desc = true → s.queue? d.number = none → s.poisoned (handleKey d.control) 32 = true → { t with mgmt := m } = { s with outbox := reply 0x30 5 [] }) ∧
        (queueOk cxl d k.desc = true → s.queue? d.number = none → s.poisoned (handleKey d.control) 32 = false →
          let cb := handleKey d.control
          t.queues = s.queues ++ [⟨d, s.bytes (cb + 4) 4, .run, false⟩] ∧ t.outbox = reply 0x30 0 [] ∧
          (s.takes (cb + 8) 16 → t.bytes (cb + 0x14) 4 = 0 ∧ t.bytes (cb + 0x10) 4 = 0 ∧ t.bytes (cb + 8) 4 = 0) ∧ MemFrame s t (fun x => span (cb + 8) 4 x ∨ span (cb + 0x10) 8 x))) ∧
    (∀ n, cmd (.unmapQueue h n) 0x31 [n] fun t => (s.queue? n = none → only t 0x31 2) ∧
      (s.queue? n ≠ none → tells t 0x31 0 { s with queues := s.queues.filter fun q => q.desc.number ≠ n })) ∧
    (∀ n, cmd (.stopQueue h n) 0x32 [n] fun t => (s.queue? n = none → only t 0x32 2) ∧
      ∀ q, s.queue? n = some q → ∃ q', t.queue? n = some q' ∧ q'.state = .stopped ∧ q'.read = q.read ∧ q'.desc = q.desc ∧
        (q.state = .error → q'.wasError = true) ∧ (q.state = .run → q'.wasError = false) ∧ (q.state = .stopped → q'.wasError = q.wasError) ∧
        (s.takes (handleKey q.desc.control + 8) 4 → t.bytes (handleKey q.desc.control + 8) 4 = 2) ∧
        MemFrame s t (span (handleKey q.desc.control + 8) 4) ∧ t.outbox = reply 0x32 0 []) ∧
    (∀ n, cmd (.restartQueue h n) 0x33 [n] fun t => (s.queue? n = none → only t 0x33 2) ∧
      ∀ q, s.queue? n = some q → (q.state ≠ .stopped → only t 0x33 5) ∧
        (q.state = .stopped → t.queue? n = some { q with state := if q.wasError then .error else .run, wasError := false } ∧
          (s.takes (handleKey q.desc.control + 8) 4 → t.bytes (handleKey q.desc.control + 8) 4 = (if q.wasError then 1 else 0)) ∧ MemFrame s t (span (handleKey q.desc.control + 8) 4) ∧
          t.outbox = reply 0x33 0 [])) ∧
    (∀ id base slots, cmd (.registerOwnerReportRing h id base slots) 0x34 [id, base.toNat, slots] fun t =>
      let ok := s.key? id ≠ none ∧ powerIn 16 4096 slots = true ∧ fineHandleOk base (64 + 64 * slots) cxl = true
      (¬ ok → only t 0x34 2) ∧ (ok → tells t 0x34 0 (key id fun k => { k with ring := some ⟨base, slots⟩ }))) ∧
    (∀ id address, cmd (.registerEventAddress h id address) 0x35 [id, address] fun t =>
      (s.key? id = none → only t 0x35 2) ∧ (s.key? id ≠ none → tells t 0x35 0 (key id fun k => { k with event := some address }))) ∧
    (∀ d, cmd (.mapWindow h d) 0x38 (windowNumbers d) fun t =>
      (s.key? d.key = none → only t 0x38 2) ∧
      ∀ k, s.key? d.key = some k → (windowOk cxl d k.desc = false → only t 0x38 2) ∧
        (windowOk cxl d k.desc = true → s.window? d.number ≠ none → only t 0x38 5) ∧
        (windowOk cxl d k.desc = true → s.window? d.number = none → tells t 0x38 0 { s with windows := s.windows ++ [d] })) ∧
    (∀ n, cmd (.unmapWindow h n) 0x39 [n] fun t => (s.window? n = none → only t 0x39 2) ∧
      (s.window? n ≠ none → tells t 0x39 0 { s with windows := s.windows.filter fun w => w.number ≠ n })) ∧
    (∀ id, cmd (.killCapsule h id) 0x40 [id.toNat] fun t =>
      ((∀ e ∈ s.capsules, e.2.id = id → e.2.stage = .ended ∨ e.2.stage = .offered) → only t 0x40 5) ∧
      (∀ n, (n, s.cap n) ∈ s.capsules → (s.cap n).id = id → (s.cap n).stage = .running →
        (t.cap n).stage = .killing ∧ (∃ k, (t.cap n).kill = some k ∧ k.final.cause = causeKilled) ∧
        ∃ pre, t.outbox = pre ++ [s.mgmtResponse h.host h.sequence 0x40 0 []])) ∧
    (∀ own peers, cmd (.podTable h own peers) 0x41 (own :: peers.flatMap fun p => [p.1, p.2]) fun t =>
      let ok := own ≤ 4095 ∧ ∀ p ∈ peers, p.1 ≤ 4095
      (¬ ok → only t 0x41 2) ∧ (ok → tells t 0x41 0 { s with mgmt := { m with podId := own, peers := peers } })) ∧
    (∀ image, cmd (.stageFirmware h image) 0x50 (bytesOf image) fun t =>
      if Config.firmwareVerifies image then tells t 0x50 0 { s with mgmt := { m with staged := some image } } else only t 0x50 3) ∧
    (cmd (.activateFirmware h) 0x51 [] fun t => (m.staged = none → only t 0x51 5) ∧
      ∀ image, m.staged = some image →
        tells t 0x51 0 { s with mgmt := { m with firmware := image, generation := Config.firmwareGeneration image, staged := none } }) ∧
    (∀ tier die id l, cmd (.openDebugSession h tier die id l) 0x60 ([tier, die, id] ++ bytesOf l) fun t =>
      let ok := 1 ≤ tier ∧ tier ≤ 3 ∧ die ≤ 3 ∧ s.key? id ≠ none
      let taken := ∃ d ∈ m.debugSessions, d.die = die ∨ 2 ≤ d.tier ∨ 2 ≤ tier
      (¬ ok → only t 0x60 2) ∧ (ok → Config.debugVerifies tier die id l = false → only t 0x60 3) ∧
      (ok → Config.debugVerifies tier die id l = true →
        (Config.fusedDebugTier < tier → only t 0x60 5) ∧ (tier ≤ Config.fusedDebugTier → taken → only t 0x60 4) ∧
        (tier ≤ Config.fusedDebugTier → ¬ taken → ∃ n, (∀ d ∈ m.debugSessions, d.number < n) ∧
          t = { s with mgmt := { m with debugSessions := m.debugSessions ++ [⟨n, tier, die, id, 0⟩] }, outbox := reply 0x60 0 (toBytes 4 n) }))) ∧
    (∀ n, cmd (.closeDebugSession h n) 0x61 [n] fun t =>
      ((∀ d ∈ m.debugSessions, d.number ≠ n) → only t 0x61 2) ∧
      ∀ d, m.debugSessions.find? (fun x => x.number = n) = some d →
        let rest := m.debugSessions.filter fun x => x.number ≠ n
        (d.stage = 0 → tells t 0x61 0 { s with mgmt := { m with debugSessions := rest } }) ∧
        (d.stage ≠ 0 → s.scopeFree d = false → only t 0x61 5) ∧
        (d.stage ≠ 0 → s.scopeFree d = true → d.tier ≤ 2 → t.mgmt.debugSessions = rest ∧ t.outbox = reply 0x61 0 [] ∧
          (∀ k, t.byte k = if s.debugClears d k then 0 else s.byte k) ∧
          ∀ c, (dieOf (clusterOf c) = d.die ∨ 2 ≤ d.tier) → (t.core c).haltGroup = none ∧ (t.core c).halted = false)) ∧
    (∀ g, cmd (.setHaltGroup h g) 0x62 (haltNumbers g) fun t =>
      let ok := g.group < 16 ∧ ∀ c ∈ g.members, c < coreCount
      let covered := (∃ d ∈ m.debugSessions, d.stage = 1) ∧ ∀ c ∈ g.members, ∃ d ∈ m.debugSessions, d.stage = 1 ∧ (d.die = dieOf (clusterOf c) ∨ 2 ≤ d.tier)
      (¬ ok → only t 0x62 2) ∧ (ok → ¬ covered → only t 0x62 5) ∧
      (ok → covered → t.outbox = reply 0x62 0 [] ∧ t.mem = s.mem ∧ (∀ c ∈ g.members, (t.core c).haltGroup = some g.group) ∧
        (∀ c, c ∉ g.members → (t.core c).haltGroup ≠ some g.group) ∧
        let x := sget (⟨false, false, false⟩ : HaltGroup) t.mgmt.groups g.group
        x.armed = g.armed ∧ x.haltOnFault = g.haltOnFault)) ∧
    (∀ watts, cmd (.powerLimit h watts) 0x70 [watts] fun t =>
      if 600 ≤ watts ∧ watts ≤ 2000 then tells t 0x70 0 { s with mgmt := { m with powerLimit := watts } } else only t 0x70 2)

/-- Sessions and ownership (R221 to R224, R226, R234): accept, keepalive, read capability, measure and read log of a host with a session; status, which answers every host; a claim, its 10 ms window and its
winner; what lapses; and an unassigned command code. Each answer carries its tag under the session key, which is made from the claim's share. That a claimant has its session from
the arrival of its claim on is the model's choice (log 105): R223 gives it the session once the claim has been accepted. So is that the tag of a claim is not checked (log 120).
Where the manual leaves a point open the clause states what the model chose (log 11, 36, 42, 43, 45, 86, 87, 105, 119, 120). -/
def Obligations.SessionsAndOwnership : Prop :=  ∀ (h : MgmtHeader) (s : State),
    let m := s.mgmt
    let tells := fun (i : Instr) (code status : Nat) (body : List Byte) (u : State) =>
      exec i s = .next { u with outbox := s.outbox ++ [u.mgmtResponse h.host h.sequence code status body] }
    let formed := h.status = 0 ∧ h.bodyLength ≤ 4016 ∧ h.reserved = 0
    let known := fun (code : Nat) (fields : List Nat) =>
      h.host ∈ m.sessions ∧ ∃ k, m.sessionKey h.host = some k ∧ Config.tagVerifies k h.host code h.sequence h.bodyLength fields h.tag = true
    let cmd := fun (i : Instr) (code : Nat) (fields : List Nat) (done : Prop) =>
      (m.stage ≤ 1 → exec i s = .next s) ∧
      (2 ≤ m.stage → (¬ formed → tells i code 2 [] s) ∧ (formed → (¬ known code fields → tells i code 3 [] s) ∧ (known code fields → done)))
    let host := fun (priority : Nat) (key share signature : List Byte) => key ∈ tableKeys m.table ∧
      Config.claimVerifies priority key share signature = true ∧ Config.shake256 key 8 = h.host.toNat
    cmd (.accept h) 3 [] (
      (m.handover = none → tells (.accept h) 3 5 [] s) ∧
      ∀ next tick, m.handover = some (next, tick) →
        (next = h.host → s.podTick ≤ tick + 1000000000 → s.ownerNow ≠ none → tells (.accept h) 3 0 []
          { s with mgmt := { m with owner := some h.host, lastKeepalive := s.podTick, handover := none } }) ∧
        (next ≠ h.host ∨ tick + 1000000000 < s.podTick ∨ s.ownerNow = none → tells (.accept h) 3 5 [] s)) ∧
    cmd (.keepalive h) 4 [] (
      (s.ownerNow = some h.host → tells (.keepalive h) 4 0 [] { s with mgmt := { m with lastKeepalive := s.podTick } }) ∧
      (s.ownerNow ≠ some h.host → tells (.keepalive h) 4 0 [] s)) ∧
    (∀ offset length, cmd (.readCapability h offset length) 0x10 [offset, length] (
      (4016 < length → tells (.readCapability h offset length) 0x10 2 [] s) ∧
      (length ≤ 4016 → tells (.readCapability h offset length) 0x10 0 ((s.capabilities.drop offset).take length) s))) ∧
    (∀ nonce, cmd (.measure h nonce) 0x11 (bytesOf nonce) (
      (nonce.length ≠ 32 → tells (.measure h nonce) 0x11 2 [] s) ∧
      (nonce.length = 32 → ∃ l, tells (.measure h nonce) 0x11 0 l s ∧ l.take 32 = nonce ∧ fieldB l 32 4 = m.generation % 2 ^ 32 ∧
        l.drop 168 = Config.measureSignature (l.take 168)))) ∧
    cmd (.readLog h) 0x12 [] (tells (.readLog h) 0x12 0 ((m.errorLog.drop (m.errorLog.length - 62)).flatMap fun e => e.1.bytes 0) s) ∧
    (m.stage = 0 → exec (.status h) s = .next s) ∧
    (m.stage ≠ 0 → ¬ formed → tells (.status h) 0x13 2 [] s) ∧
    (m.stage ≠ 0 → formed → h.host ∈ m.sessions → ¬ known 0x13 [] → tells (.status h) 0x13 3 [] s) ∧
    (m.stage ≠ 0 → formed → (h.host ∈ m.sessions → known 0x13 []) →
      ∃ l, tells (.status h) 0x13 0 l s ∧ fieldB l 0 4 = m.stage % 2 ^ 32 ∧ fieldB l 4 4 = (if m.locked then 1 else 0) ∧
        fieldB l 8 8 = (s.ownerNow.map BitVec.toNat).getD 0) ∧
    (∀ code, (m.stage ≤ 1 → exec (.unknownManagementCommand h code) s = .next s) ∧
      (2 ≤ m.stage → tells (.unknownManagementCommand h code) code 2 [] s)) ∧
    (∀ priority key share signature, let i : Instr := .claim h priority key share signature
      (m.stage ≤ 1 → exec i s = .next s) ∧
      (2 ≤ m.stage → ¬ formed → tells i 1 2 [] s) ∧
      (2 ≤ m.stage → formed → (¬ host priority key share signature → tells i 1 3 [] s) ∧
        (host priority key share signature → (m.claimOpen = true → s.podTick < m.claimTick + 10000000) →
          let opened : Mgmt := { m with
            sessions := if m.sessions.contains h.host then m.sessions else h.host :: m.sessions
            sessionKeys := (h.host, Config.shake256 (Config.x448 share) 32) :: m.sessionKeys.filter fun e => decide (e.1 ≠ h.host) }
          (priority = 0xFFFF → tells i 1 0 [] { s with mgmt := opened }) ∧
          (priority ≠ 0xFFFF → m.stage ≠ 6 ∨ s.ownerNow ≠ none → tells i 1 5 [] s) ∧
          (priority ≠ 0xFFFF → m.stage = 6 → s.ownerNow = none → exec i s = .next { s with mgmt := { opened with
            claims := m.claims ++ [(priority, h.host, h.sequence)], claimOpen := true, claimTick := if m.claimOpen then m.claimTick else s.podTick } })))) ∧
    (m.claimOpen = false ∨ s.podTick < m.claimTick + 10000000 → exec .claimWindowClose s = .next s) ∧
    (m.claimOpen = true → m.claimTick + 10000000 ≤ s.podTick →
      (m.claims = [] → ∃ t, exec .claimWindowClose s = .next t ∧ t.mgmt.claimOpen = false ∧ t.mgmt.owner = m.owner) ∧
      (m.claims ≠ [] → ∃ t w, exec .claimWindowClose s = .next t ∧ w ∈ m.claims ∧ t.mgmt.owner = some w.2.1 ∧ t.mgmt.claimOpen = false ∧ t.mgmt.claims = [] ∧
        (∀ c ∈ m.claims, w.1 < c.1 ∨ (w.1 = c.1 ∧ w.2.1.toNat ≤ c.2.1.toNat)) ∧
        t.outbox = s.outbox ++ m.claims.map fun c => s.mgmtResponse c.2.1 c.2.2 1 (if c = w then 0 else 5) [])) ∧
    (m.handover = none → exec .handoverLapse s = .next s) ∧
    (∀ next tick, m.handover = some (next, tick) → (tick + 1000000000 < s.podTick → exec .handoverLapse s = .next { s with mgmt := { m with handover := none } }) ∧
      (s.podTick ≤ tick + 1000000000 → exec .handoverLapse s = .next s)) ∧
    (m.owner ≠ none → m.lastKeepalive + 5000000000 ≤ s.podTick → exec .keepaliveTimeout s = .next { s with mgmt := { m with owner := none, handover := none } }) ∧
    (m.owner = none ∨ s.podTick < m.lastKeepalive + 5000000000 → exec .keepaliveTimeout s = .next s)

/-- Debug sessions and halt groups (R216, R238): a requested session opens once its scope is empty, which it wipes; a halt stops the members of an armed group under an open session, and a resume
releases them.
Where the manual leaves a point open the clause states what the model chose (log 11, 38, 48). -/
def Obligations.DebugAndHalt : Prop :=  ∀ (s : State) (n g : Nat),
    let m := s.mgmt
    let x : HaltGroup := sget ⟨false, false, false⟩ m.groups g
    ((∀ d ∈ m.debugSessions, ¬ (d.number = n ∧ d.stage = 0)) → exec (.debugSessionStart n) s = .next s) ∧
    (∀ d, m.debugSessions.find? (fun d => d.number = n ∧ d.stage = 0) = some d →
      (s.scopeFree d = false → exec (.debugSessionStart n) s = .next s) ∧
      (s.scopeFree d = true → ∃ t, exec (.debugSessionStart n) s = .next t ∧
        t.mgmt = { m with debugSessions := m.debugSessions.map fun y => if y.number = n then { y with stage := 1 } else y } ∧
        ∀ k, t.byte k = if s.debugClears d k then 0 else s.byte k)) ∧
    (x.armed = true → (∃ d ∈ m.debugSessions, d.stage = 1) → ∃ t, exec (.halt g) s = .next t ∧ t.mem = s.mem ∧ t.threads = s.threads ∧
      (sget (⟨false, false, false⟩ : HaltGroup) t.mgmt.groups g).halted = true ∧
      ∀ c, t.core c = if (s.core c).haltGroup = some g then { s.core c with halted := true } else s.core c) ∧
    (x.armed = false ∨ (∀ d ∈ m.debugSessions, d.stage ≠ 1) → exec (.halt g) s = .next s) ∧
    (x.halted = true → ∃ t, exec (.resume g) s = .next t ∧ t.mem = s.mem ∧ t.threads = s.threads ∧
      (sget (⟨false, false, false⟩ : HaltGroup) t.mgmt.groups g).halted = false ∧
      ∀ c, t.core c = if (s.core c).haltGroup = some g then { s.core c with halted := false } else s.core c) ∧
    (x.halted = false → exec (.resume g) s = .next s)

/-- Bring-up (R231) in its stages, the configuration table (R232), pod time (R228), the CXL set (R230), memory errors (R213, R237), and power and cooling (R239, R240): what each
event does to the device, and that a reset or the loss of power leaves every field of the state as after reset but those that the statement names: flash with what is staged there, the count of power-ons,
over a reset a failed CXL set and the records that the resume key still covers, the model's own counters, and what has been told to the outside. The power limit of 2,000 W before the
table is read is the model's choice (log 26): R239 and R240 state none then.
Where the manual leaves a point open the clause states what the model chose (log 11, 26, 33, 37, 39, 47, 77, 88). -/
def Obligations.BringUpAndPower : Prop :=  ∀ s : State,
    let m := s.mgmt
    let survives := fun (t : State) =>
      t = { State.reset with
        steps := s.steps, agenda := s.agenda, outbox := s.outbox, nextId := s.nextId, capsules := t.capsules
        mgmt := { Mgmt.reset with powerCount := t.mgmt.powerCount, table := m.table, firmware := m.firmware, generation := m.generation,
                                  staged := m.staged, cxlFailed := t.mgmt.cxlFailed, powered := t.mgmt.powered, stage := t.mgmt.stage,
                                  powerLimit := t.mgmt.powerLimit } } ∧
      ∀ e ∈ t.capsules, e.2.stage = .ended ∧ e.2.placed = [] ∧ e.2.snap ≠ none
    let slower := { s with mgmt := { m with clockMHz := max 1200 (m.clockMHz - 75) } }
    (m.powered = false → ∃ t, exec .powerOn s = .next t ∧ survives t ∧ t.mgmt.powered = true ∧ t.mgmt.powerCount = m.powerCount + 1 ∧
      t.mgmt.cxlFailed = false ∧ t.mgmt.stage = (if tableOk m.table then 2 else 1) ∧ t.mgmt.powerLimit = (if tableOk m.table then tablePower m.table else 2000)) ∧
    (tableOk m.table = true → 600 ≤ tablePower m.table ∧ tablePower m.table ≤ 2000 ∧ Config.fusedGeneration ≤ tableGeneration m.table) ∧
    (m.powered = true → m.stage = 1 → exec .powerOn s =
      .next (if tableOk m.table then { s with mgmt := { m with stage := 2, powerLimit := tablePower m.table } } else s)) ∧
    (m.powered = true → m.stage ≠ 1 → exec .powerOn s = .next s) ∧
    (∀ l, (m.powered = true → m.stage = 2 → ∃ t, exec (.dieLinkTraining l) s = .next t ∧
        t.mgmt = { m with stage := 3, usableDies := [0, 1, 2, 3].filter fun d => d ∈ l } ∧ t.mem = s.mem) ∧
      (m.powered = false ∨ m.stage ≠ 2 → exec (.dieLinkTraining l) s = .next s)) ∧
    (∀ l, let ports := [0, 1, 2, 3, 4, 5, 6, 7].filter fun p => p ∈ l
      (m.powered = true → m.stage = 3 → ports ≠ [] → exec (.portTraining l) s = .next { s with mgmt := { m with ports := ports, stage := 4 } }) ∧
      (m.powered = false ∨ m.stage ≠ 3 ∨ ports = [] → exec (.portTraining l) s = .next s)) ∧
    (∀ l, (m.powered = true → m.stage = 4 → ∃ (t : State) (set_ : List (Nat × Nat)), exec (.cxlEnumeration l) s = .next t ∧
        t.mgmt = { m with stage := 5, cxlPorts := set_.map Prod.fst, cxlCapacity := (set_.map Prod.snd).sum } ∧
        (∀ p ∈ set_, p ∈ l ∧ p.1 < 8 ∧ p.2 ≠ 0 ∧ ∀ q ∈ set_, q.2 = p.2) ∧ set_.length ∈ [0, 1, 2, 4, 8] ∧ (set_.map Prod.snd).sum ≤ 2 ^ 42) ∧
      (m.powered = false ∨ m.stage ≠ 4 → exec (.cxlEnumeration l) s = .next s)) ∧
    (∀ tick, (m.powered = false → exec (.ptpLock tick) s = .next s) ∧
      (m.powered = true → m.stage = 5 → exec (.ptpLock tick) s = .next
        { s with podTick := tick, mgmt := { m with locked := true, slewing := true, podOffset := 0, stage := 6 } }) ∧
      (m.powered = true → m.stage = 6 → ∃ t, exec (.ptpLock tick) s = .next t ∧ t.podTick = s.podTick ∧ t.mgmt.slewing = true ∧
        t.mgmt.podOffset = (tick : Int) - s.podTick ∧ (t.mgmt.locked = true ↔ ((tick : Int) - s.podTick).natAbs ≤ 20)) ∧
      (m.powered = true → m.stage < 5 → exec (.ptpLock tick) s = .next s)) ∧
    (m.powered = true → m.stage = 5 → exec .ptpLockTimeout s = .next { s with mgmt := { m with stage := 6 } }) ∧
    (m.powered = false ∨ m.stage ≠ 5 → exec .ptpLockTimeout s = .next s) ∧
    exec .lockLoss s = .next { s with mgmt := { m with locked := false, slewing := false, podOffset := 0 } } ∧
    (∀ p, (m.powered = true → m.stage = 6 → p ∈ m.cxlPorts → exec (.cxlPortFailure p) s = .next { s with mgmt := { m with cxlFailed := true } }) ∧
      (m.powered = false ∨ m.stage ≠ 6 ∨ p ∉ m.cxlPorts → exec (.cxlPortFailure p) s = .next s)) ∧
    (m.powered = true → exec .thermalThrottle s = .next slower ∧ exec .powerLimitThrottle s = .next slower) ∧
    (m.powered = false → exec .thermalThrottle s = .next s ∧ exec .powerLimitThrottle s = .next s ∧ exec .reset s = .next s) ∧
    (m.powered = true → s.memoryEvent .corrected = .next { s with mgmt := { m with corrected := m.corrected + 1 } } ∧
      ∀ line, (∃ t, s.memoryEvent (.uncorrectable line) = .next t ∧ t.mem = s.mem ∧ t.mgmt.corrected = m.corrected ∧ line ∉ t.mgmt.forged ∧
          ∀ l, l ∈ t.poison ↔ l = line ∨ l ∈ s.poison) ∧
        ∃ t, s.memoryEvent (.macFailure line) = .next t ∧ t.mem = s.mem ∧ line ∈ t.mgmt.forged ∧ ∀ l, l ∈ t.poison ↔ l = line ∨ l ∈ s.poison) ∧
    (∀ r, s.readBoard r = .next (if m.powered then { s with outbox := s.outbox ++ [.board (s.boardData r)] } else s)) ∧
    s.boardData .identityKey = Config.identityKey ∧
    (∀ i : Instr, i = .thermalShutdown ∨ i = .powerOff → ∃ t, exec i s = .next t ∧ survives t ∧ t.capsules = [] ∧ t.mgmt.powered = false ∧ t.mgmt.stage = 0 ∧
      t.mgmt.powerCount = m.powerCount ∧ t.mgmt.powerLimit = 2000) ∧
    (m.powered = true → ∃ t, exec .reset s = .next t ∧ survives t ∧ t.mgmt.powered = true ∧ t.mgmt.stage = 1 ∧ t.mgmt.powerCount = m.powerCount ∧
      t.mgmt.cxlFailed = m.cxlFailed ∧ t.mgmt.powerLimit = 2000)

/-- Inline words run on H (R13, R48, R136): their message lies in the inbox region, H's registers hold its payload, its own address, the origin and the reply address, and a store among the words is
performed; a word that may not stand there ends the handler with an ILLEGAL record. The message then ends (R129), and H is as before. That the record enters the error log too is
inferred (log 63).
Where the manual leaves a point open the clause states what the model chose (log 30, 54, 63). -/
def Obligations.InlineWords : Prop :=  ∀ (s : State) (core : Nat) (m : Msg) (w : BitVec 32) (rest : List (BitVec 32)), Serves s core m → m.words = w :: rest → m.request = 0 →
    let owner := s.cap m.capsule
    let rg := fun (n : Nat) => if n = 0 then (0 : Word) else if n ≤ 12 then dwordB m.body (8 * (n - 1))
      else if n = 13 then s.meshOf core 0 (0x39800 + (16 + 4 * m.words.length + 7) / 8 * 8)
      else if n = 14 then BitVec.ofNat 64 (m.origin.toNat % 2 ^ 32) else m.reply
    let same := fun (t : State) => (t.core core).inbox = (s.core core).inbox.tail ∧ (∀ n, t.thr n = s.thr n) ∧ t.who = s.who ∧
      (t.cap m.capsule).outstanding = owner.outstanding - 1
    (inlineDecode w.toNat = none ∨ inlineLa w.toNat = true → ∃ t r, exec (.handle core) s = .next t ∧ same t ∧
      t.mgmt.errorLog = s.mgmt.errorLog ++ [(redact owner r, owner.world)] ∧ r.kind = 1 ∧ r.cause = causeIllegal ∧ r.code = m.code ∧
      r.value = w.setWidth 64) ∧
    ∀ (a v : G) (imm : BitVec 9) (k : Nat) (e : Option Nat), rest = [] → inlineDecode w.toNat = some (.stD a v imm 0) → inlineLa w.toNat = false →
      a.val < 16 → v.val < 16 → s.access core (rg a + BitVec.ofInt 64 (8 * imm.toInt)) 8 accStore = .ok (.here k e) → s.tileOpen k = false → s.writeFails (.here k e) = false →
      ∃ t, exec (.handle core) s = .next t ∧ same t ∧ t.bytes k 8 = (rg v).toNat ∧ t.stores = s.stores ++ [(0, core)] ∧
        MemFrame s t (fun x => span k 8 x ∨ span (tcmKey core 0x39800) m.bytes.length x)
end

