-- ==== Sys2Proof/Laws/State.lean ====
section
/-! SUPPORT. What each update of State leaves alone: one lemma per field and update, and the reads of the tables after their
writes. -/

namespace Sys2Proof.Machine

/-! ### setThr -/

@[simp] theorem State.setThr_who (s : State) (t : Nat) (x : Thread) : (s.setThr t x).who = s.who := rfl
@[simp] theorem State.setThr_agenda (s : State) (t : Nat) (x : Thread) : (s.setThr t x).agenda = s.agenda := rfl
@[simp] theorem State.setThr_steps (s : State) (t : Nat) (x : Thread) : (s.setThr t x).steps = s.steps := rfl
@[simp] theorem State.setThr_nextId (s : State) (t : Nat) (x : Thread) : (s.setThr t x).nextId = s.nextId := rfl
@[simp] theorem State.setThr_cycle (s : State) (t : Nat) (x : Thread) : (s.setThr t x).cycle = s.cycle := rfl
@[simp] theorem State.setThr_podTick (s : State) (t : Nat) (x : Thread) : (s.setThr t x).podTick = s.podTick := rfl
@[simp] theorem State.setThr_cores (s : State) (t : Nat) (x : Thread) : (s.setThr t x).cores = s.cores := rfl
@[simp] theorem State.setThr_clusters (s : State) (t : Nat) (x : Thread) : (s.setThr t x).clusters = s.clusters := rfl
@[simp] theorem State.setThr_mem (s : State) (t : Nat) (x : Thread) : (s.setThr t x).mem = s.mem := rfl
@[simp] theorem State.setThr_poison (s : State) (t : Nat) (x : Thread) : (s.setThr t x).poison = s.poison := rfl
@[simp] theorem State.setThr_tags (s : State) (t : Nat) (x : Thread) : (s.setThr t x).tags = s.tags := rfl
@[simp] theorem State.setThr_tagQueue (s : State) (t : Nat) (x : Thread) : (s.setThr t x).tagQueue = s.tagQueue := rfl
@[simp] theorem State.setThr_awayTags (s : State) (t : Nat) (x : Thread) : (s.setThr t x).awayTags = s.awayTags := rfl
@[simp] theorem State.setThr_peerLoads (s : State) (t : Nat) (x : Thread) : (s.setThr t x).peerLoads = s.peerLoads := rfl
@[simp] theorem State.setThr_net (s : State) (t : Nat) (x : Thread) : (s.setThr t x).net = s.net := rfl
@[simp] theorem State.setThr_loads (s : State) (t : Nat) (x : Thread) : (s.setThr t x).loads = s.loads := rfl
@[simp] theorem State.setThr_stores (s : State) (t : Nat) (x : Thread) : (s.setThr t x).stores = s.stores := rfl
@[simp] theorem State.setThr_mcsts (s : State) (t : Nat) (x : Thread) : (s.setThr t x).mcsts = s.mcsts := rfl
@[simp] theorem State.setThr_transfers (s : State) (t : Nat) (x : Thread) : (s.setThr t x).transfers = s.transfers := rfl
@[simp] theorem State.setThr_tickets (s : State) (t : Nat) (x : Thread) : (s.setThr t x).tickets = s.tickets := rfl
@[simp] theorem State.setThr_reports (s : State) (t : Nat) (x : Thread) : (s.setThr t x).reports = s.reports := rfl
@[simp] theorem State.setThr_capsules (s : State) (t : Nat) (x : Thread) : (s.setThr t x).capsules = s.capsules := rfl
@[simp] theorem State.setThr_worlds (s : State) (t : Nat) (x : Thread) : (s.setThr t x).worlds = s.worlds := rfl
@[simp] theorem State.setThr_routers (s : State) (t : Nat) (x : Thread) : (s.setThr t x).routers = s.routers := rfl
@[simp] theorem State.setThr_codeCache (s : State) (t : Nat) (x : Thread) : (s.setThr t x).codeCache = s.codeCache := rfl
@[simp] theorem State.setThr_scanned (s : State) (t : Nat) (x : Thread) : (s.setThr t x).scanned = s.scanned := rfl
@[simp] theorem State.setThr_keys (s : State) (t : Nat) (x : Thread) : (s.setThr t x).keys = s.keys := rfl
@[simp] theorem State.setThr_queues (s : State) (t : Nat) (x : Thread) : (s.setThr t x).queues = s.queues := rfl
@[simp] theorem State.setThr_windows (s : State) (t : Nat) (x : Thread) : (s.setThr t x).windows = s.windows := rfl
@[simp] theorem State.setThr_portOps (s : State) (t : Nat) (x : Thread) : (s.setThr t x).portOps = s.portOps := rfl
@[simp] theorem State.setThr_mgmt (s : State) (t : Nat) (x : Thread) : (s.setThr t x).mgmt = s.mgmt := rfl
@[simp] theorem State.setThr_outbox (s : State) (t : Nat) (x : Thread) : (s.setThr t x).outbox = s.outbox := rfl

/-! ### setMe -/

@[simp] theorem State.setMe_who (s : State) (x : Thread) : (s.setMe x).who = s.who := rfl
@[simp] theorem State.setMe_agenda (s : State) (x : Thread) : (s.setMe x).agenda = s.agenda := rfl
@[simp] theorem State.setMe_steps (s : State) (x : Thread) : (s.setMe x).steps = s.steps := rfl
@[simp] theorem State.setMe_nextId (s : State) (x : Thread) : (s.setMe x).nextId = s.nextId := rfl
@[simp] theorem State.setMe_cycle (s : State) (x : Thread) : (s.setMe x).cycle = s.cycle := rfl
@[simp] theorem State.setMe_podTick (s : State) (x : Thread) : (s.setMe x).podTick = s.podTick := rfl
@[simp] theorem State.setMe_cores (s : State) (x : Thread) : (s.setMe x).cores = s.cores := rfl
@[simp] theorem State.setMe_clusters (s : State) (x : Thread) : (s.setMe x).clusters = s.clusters := rfl
@[simp] theorem State.setMe_mem (s : State) (x : Thread) : (s.setMe x).mem = s.mem := rfl
@[simp] theorem State.setMe_poison (s : State) (x : Thread) : (s.setMe x).poison = s.poison := rfl
@[simp] theorem State.setMe_tags (s : State) (x : Thread) : (s.setMe x).tags = s.tags := rfl
@[simp] theorem State.setMe_tagQueue (s : State) (x : Thread) : (s.setMe x).tagQueue = s.tagQueue := rfl
@[simp] theorem State.setMe_awayTags (s : State) (x : Thread) : (s.setMe x).awayTags = s.awayTags := rfl
@[simp] theorem State.setMe_peerLoads (s : State) (x : Thread) : (s.setMe x).peerLoads = s.peerLoads := rfl
@[simp] theorem State.setMe_net (s : State) (x : Thread) : (s.setMe x).net = s.net := rfl
@[simp] theorem State.setMe_loads (s : State) (x : Thread) : (s.setMe x).loads = s.loads := rfl
@[simp] theorem State.setMe_stores (s : State) (x : Thread) : (s.setMe x).stores = s.stores := rfl
@[simp] theorem State.setMe_mcsts (s : State) (x : Thread) : (s.setMe x).mcsts = s.mcsts := rfl
@[simp] theorem State.setMe_transfers (s : State) (x : Thread) : (s.setMe x).transfers = s.transfers := rfl
@[simp] theorem State.setMe_tickets (s : State) (x : Thread) : (s.setMe x).tickets = s.tickets := rfl
@[simp] theorem State.setMe_reports (s : State) (x : Thread) : (s.setMe x).reports = s.reports := rfl
@[simp] theorem State.setMe_capsules (s : State) (x : Thread) : (s.setMe x).capsules = s.capsules := rfl
@[simp] theorem State.setMe_worlds (s : State) (x : Thread) : (s.setMe x).worlds = s.worlds := rfl
@[simp] theorem State.setMe_routers (s : State) (x : Thread) : (s.setMe x).routers = s.routers := rfl
@[simp] theorem State.setMe_codeCache (s : State) (x : Thread) : (s.setMe x).codeCache = s.codeCache := rfl
@[simp] theorem State.setMe_scanned (s : State) (x : Thread) : (s.setMe x).scanned = s.scanned := rfl
@[simp] theorem State.setMe_keys (s : State) (x : Thread) : (s.setMe x).keys = s.keys := rfl
@[simp] theorem State.setMe_queues (s : State) (x : Thread) : (s.setMe x).queues = s.queues := rfl
@[simp] theorem State.setMe_windows (s : State) (x : Thread) : (s.setMe x).windows = s.windows := rfl
@[simp] theorem State.setMe_portOps (s : State) (x : Thread) : (s.setMe x).portOps = s.portOps := rfl
@[simp] theorem State.setMe_mgmt (s : State) (x : Thread) : (s.setMe x).mgmt = s.mgmt := rfl
@[simp] theorem State.setMe_outbox (s : State) (x : Thread) : (s.setMe x).outbox = s.outbox := rfl

/-! ### setCore -/

@[simp] theorem State.setCore_who (s : State) (c : Nat) (x : Core) : (s.setCore c x).who = s.who := rfl
@[simp] theorem State.setCore_agenda (s : State) (c : Nat) (x : Core) : (s.setCore c x).agenda = s.agenda := rfl
@[simp] theorem State.setCore_steps (s : State) (c : Nat) (x : Core) : (s.setCore c x).steps = s.steps := rfl
@[simp] theorem State.setCore_nextId (s : State) (c : Nat) (x : Core) : (s.setCore c x).nextId = s.nextId := rfl
@[simp] theorem State.setCore_cycle (s : State) (c : Nat) (x : Core) : (s.setCore c x).cycle = s.cycle := rfl
@[simp] theorem State.setCore_podTick (s : State) (c : Nat) (x : Core) : (s.setCore c x).podTick = s.podTick := rfl
@[simp] theorem State.setCore_threads (s : State) (c : Nat) (x : Core) : (s.setCore c x).threads = s.threads := rfl
@[simp] theorem State.setCore_clusters (s : State) (c : Nat) (x : Core) : (s.setCore c x).clusters = s.clusters := rfl
@[simp] theorem State.setCore_mem (s : State) (c : Nat) (x : Core) : (s.setCore c x).mem = s.mem := rfl
@[simp] theorem State.setCore_poison (s : State) (c : Nat) (x : Core) : (s.setCore c x).poison = s.poison := rfl
@[simp] theorem State.setCore_tags (s : State) (c : Nat) (x : Core) : (s.setCore c x).tags = s.tags := rfl
@[simp] theorem State.setCore_tagQueue (s : State) (c : Nat) (x : Core) : (s.setCore c x).tagQueue = s.tagQueue := rfl
@[simp] theorem State.setCore_awayTags (s : State) (c : Nat) (x : Core) : (s.setCore c x).awayTags = s.awayTags := rfl
@[simp] theorem State.setCore_peerLoads (s : State) (c : Nat) (x : Core) : (s.setCore c x).peerLoads = s.peerLoads := rfl
@[simp] theorem State.setCore_net (s : State) (c : Nat) (x : Core) : (s.setCore c x).net = s.net := rfl
@[simp] theorem State.setCore_loads (s : State) (c : Nat) (x : Core) : (s.setCore c x).loads = s.loads := rfl
@[simp] theorem State.setCore_stores (s : State) (c : Nat) (x : Core) : (s.setCore c x).stores = s.stores := rfl
@[simp] theorem State.setCore_mcsts (s : State) (c : Nat) (x : Core) : (s.setCore c x).mcsts = s.mcsts := rfl
@[simp] theorem State.setCore_transfers (s : State) (c : Nat) (x : Core) : (s.setCore c x).transfers = s.transfers := rfl
@[simp] theorem State.setCore_tickets (s : State) (c : Nat) (x : Core) : (s.setCore c x).tickets = s.tickets := rfl
@[simp] theorem State.setCore_reports (s : State) (c : Nat) (x : Core) : (s.setCore c x).reports = s.reports := rfl
@[simp] theorem State.setCore_capsules (s : State) (c : Nat) (x : Core) : (s.setCore c x).capsules = s.capsules := rfl
@[simp] theorem State.setCore_worlds (s : State) (c : Nat) (x : Core) : (s.setCore c x).worlds = s.worlds := rfl
@[simp] theorem State.setCore_routers (s : State) (c : Nat) (x : Core) : (s.setCore c x).routers = s.routers := rfl
@[simp] theorem State.setCore_codeCache (s : State) (c : Nat) (x : Core) : (s.setCore c x).codeCache = s.codeCache := rfl
@[simp] theorem State.setCore_scanned (s : State) (c : Nat) (x : Core) : (s.setCore c x).scanned = s.scanned := rfl
@[simp] theorem State.setCore_keys (s : State) (c : Nat) (x : Core) : (s.setCore c x).keys = s.keys := rfl
@[simp] theorem State.setCore_queues (s : State) (c : Nat) (x : Core) : (s.setCore c x).queues = s.queues := rfl
@[simp] theorem State.setCore_windows (s : State) (c : Nat) (x : Core) : (s.setCore c x).windows = s.windows := rfl
@[simp] theorem State.setCore_portOps (s : State) (c : Nat) (x : Core) : (s.setCore c x).portOps = s.portOps := rfl
@[simp] theorem State.setCore_mgmt (s : State) (c : Nat) (x : Core) : (s.setCore c x).mgmt = s.mgmt := rfl
@[simp] theorem State.setCore_outbox (s : State) (c : Nat) (x : Core) : (s.setCore c x).outbox = s.outbox := rfl

/-! ### setCluster -/

@[simp] theorem State.setCluster_who (s : State) (c : Nat) (x : Cluster) : (s.setCluster c x).who = s.who := rfl
@[simp] theorem State.setCluster_agenda (s : State) (c : Nat) (x : Cluster) : (s.setCluster c x).agenda = s.agenda := rfl
@[simp] theorem State.setCluster_steps (s : State) (c : Nat) (x : Cluster) : (s.setCluster c x).steps = s.steps := rfl
@[simp] theorem State.setCluster_nextId (s : State) (c : Nat) (x : Cluster) : (s.setCluster c x).nextId = s.nextId := rfl
@[simp] theorem State.setCluster_cycle (s : State) (c : Nat) (x : Cluster) : (s.setCluster c x).cycle = s.cycle := rfl
@[simp] theorem State.setCluster_podTick (s : State) (c : Nat) (x : Cluster) : (s.setCluster c x).podTick = s.podTick := rfl
@[simp] theorem State.setCluster_threads (s : State) (c : Nat) (x : Cluster) : (s.setCluster c x).threads = s.threads := rfl
@[simp] theorem State.setCluster_cores (s : State) (c : Nat) (x : Cluster) : (s.setCluster c x).cores = s.cores := rfl
@[simp] theorem State.setCluster_mem (s : State) (c : Nat) (x : Cluster) : (s.setCluster c x).mem = s.mem := rfl
@[simp] theorem State.setCluster_poison (s : State) (c : Nat) (x : Cluster) : (s.setCluster c x).poison = s.poison := rfl
@[simp] theorem State.setCluster_tags (s : State) (c : Nat) (x : Cluster) : (s.setCluster c x).tags = s.tags := rfl
@[simp] theorem State.setCluster_tagQueue (s : State) (c : Nat) (x : Cluster) : (s.setCluster c x).tagQueue = s.tagQueue := rfl
@[simp] theorem State.setCluster_awayTags (s : State) (c : Nat) (x : Cluster) : (s.setCluster c x).awayTags = s.awayTags := rfl
@[simp] theorem State.setCluster_peerLoads (s : State) (c : Nat) (x : Cluster) : (s.setCluster c x).peerLoads = s.peerLoads := rfl
@[simp] theorem State.setCluster_net (s : State) (c : Nat) (x : Cluster) : (s.setCluster c x).net = s.net := rfl
@[simp] theorem State.setCluster_loads (s : State) (c : Nat) (x : Cluster) : (s.setCluster c x).loads = s.loads := rfl
@[simp] theorem State.setCluster_stores (s : State) (c : Nat) (x : Cluster) : (s.setCluster c x).stores = s.stores := rfl
@[simp] theorem State.setCluster_mcsts (s : State) (c : Nat) (x : Cluster) : (s.setCluster c x).mcsts = s.mcsts := rfl
@[simp] theorem State.setCluster_transfers (s : State) (c : Nat) (x : Cluster) : (s.setCluster c x).transfers = s.transfers := rfl
@[simp] theorem State.setCluster_tickets (s : State) (c : Nat) (x : Cluster) : (s.setCluster c x).tickets = s.tickets := rfl
@[simp] theorem State.setCluster_reports (s : State) (c : Nat) (x : Cluster) : (s.setCluster c x).reports = s.reports := rfl
@[simp] theorem State.setCluster_capsules (s : State) (c : Nat) (x : Cluster) : (s.setCluster c x).capsules = s.capsules := rfl
@[simp] theorem State.setCluster_worlds (s : State) (c : Nat) (x : Cluster) : (s.setCluster c x).worlds = s.worlds := rfl
@[simp] theorem State.setCluster_routers (s : State) (c : Nat) (x : Cluster) : (s.setCluster c x).routers = s.routers := rfl
@[simp] theorem State.setCluster_codeCache (s : State) (c : Nat) (x : Cluster) : (s.setCluster c x).codeCache = s.codeCache := rfl
@[simp] theorem State.setCluster_scanned (s : State) (c : Nat) (x : Cluster) : (s.setCluster c x).scanned = s.scanned := rfl
@[simp] theorem State.setCluster_keys (s : State) (c : Nat) (x : Cluster) : (s.setCluster c x).keys = s.keys := rfl
@[simp] theorem State.setCluster_queues (s : State) (c : Nat) (x : Cluster) : (s.setCluster c x).queues = s.queues := rfl
@[simp] theorem State.setCluster_windows (s : State) (c : Nat) (x : Cluster) : (s.setCluster c x).windows = s.windows := rfl
@[simp] theorem State.setCluster_portOps (s : State) (c : Nat) (x : Cluster) : (s.setCluster c x).portOps = s.portOps := rfl
@[simp] theorem State.setCluster_mgmt (s : State) (c : Nat) (x : Cluster) : (s.setCluster c x).mgmt = s.mgmt := rfl
@[simp] theorem State.setCluster_outbox (s : State) (c : Nat) (x : Cluster) : (s.setCluster c x).outbox = s.outbox := rfl

/-! ### setCap -/

@[simp] theorem State.setCap_who (s : State) (n : Nat) (x : Capsule) : (s.setCap n x).who = s.who := rfl
@[simp] theorem State.setCap_agenda (s : State) (n : Nat) (x : Capsule) : (s.setCap n x).agenda = s.agenda := rfl
@[simp] theorem State.setCap_steps (s : State) (n : Nat) (x : Capsule) : (s.setCap n x).steps = s.steps := rfl
@[simp] theorem State.setCap_nextId (s : State) (n : Nat) (x : Capsule) : (s.setCap n x).nextId = s.nextId := rfl
@[simp] theorem State.setCap_cycle (s : State) (n : Nat) (x : Capsule) : (s.setCap n x).cycle = s.cycle := rfl
@[simp] theorem State.setCap_podTick (s : State) (n : Nat) (x : Capsule) : (s.setCap n x).podTick = s.podTick := rfl
@[simp] theorem State.setCap_threads (s : State) (n : Nat) (x : Capsule) : (s.setCap n x).threads = s.threads := rfl
@[simp] theorem State.setCap_cores (s : State) (n : Nat) (x : Capsule) : (s.setCap n x).cores = s.cores := rfl
@[simp] theorem State.setCap_clusters (s : State) (n : Nat) (x : Capsule) : (s.setCap n x).clusters = s.clusters := rfl
@[simp] theorem State.setCap_mem (s : State) (n : Nat) (x : Capsule) : (s.setCap n x).mem = s.mem := rfl
@[simp] theorem State.setCap_poison (s : State) (n : Nat) (x : Capsule) : (s.setCap n x).poison = s.poison := rfl
@[simp] theorem State.setCap_tags (s : State) (n : Nat) (x : Capsule) : (s.setCap n x).tags = s.tags := rfl
@[simp] theorem State.setCap_tagQueue (s : State) (n : Nat) (x : Capsule) : (s.setCap n x).tagQueue = s.tagQueue := rfl
@[simp] theorem State.setCap_awayTags (s : State) (n : Nat) (x : Capsule) : (s.setCap n x).awayTags = s.awayTags := rfl
@[simp] theorem State.setCap_peerLoads (s : State) (n : Nat) (x : Capsule) : (s.setCap n x).peerLoads = s.peerLoads := rfl
@[simp] theorem State.setCap_net (s : State) (n : Nat) (x : Capsule) : (s.setCap n x).net = s.net := rfl
@[simp] theorem State.setCap_loads (s : State) (n : Nat) (x : Capsule) : (s.setCap n x).loads = s.loads := rfl
@[simp] theorem State.setCap_stores (s : State) (n : Nat) (x : Capsule) : (s.setCap n x).stores = s.stores := rfl
@[simp] theorem State.setCap_mcsts (s : State) (n : Nat) (x : Capsule) : (s.setCap n x).mcsts = s.mcsts := rfl
@[simp] theorem State.setCap_transfers (s : State) (n : Nat) (x : Capsule) : (s.setCap n x).transfers = s.transfers := rfl
@[simp] theorem State.setCap_tickets (s : State) (n : Nat) (x : Capsule) : (s.setCap n x).tickets = s.tickets := rfl
@[simp] theorem State.setCap_reports (s : State) (n : Nat) (x : Capsule) : (s.setCap n x).reports = s.reports := rfl
@[simp] theorem State.setCap_worlds (s : State) (n : Nat) (x : Capsule) : (s.setCap n x).worlds = s.worlds := rfl
@[simp] theorem State.setCap_routers (s : State) (n : Nat) (x : Capsule) : (s.setCap n x).routers = s.routers := rfl
@[simp] theorem State.setCap_codeCache (s : State) (n : Nat) (x : Capsule) : (s.setCap n x).codeCache = s.codeCache := rfl
@[simp] theorem State.setCap_scanned (s : State) (n : Nat) (x : Capsule) : (s.setCap n x).scanned = s.scanned := rfl
@[simp] theorem State.setCap_keys (s : State) (n : Nat) (x : Capsule) : (s.setCap n x).keys = s.keys := rfl
@[simp] theorem State.setCap_queues (s : State) (n : Nat) (x : Capsule) : (s.setCap n x).queues = s.queues := rfl
@[simp] theorem State.setCap_windows (s : State) (n : Nat) (x : Capsule) : (s.setCap n x).windows = s.windows := rfl
@[simp] theorem State.setCap_portOps (s : State) (n : Nat) (x : Capsule) : (s.setCap n x).portOps = s.portOps := rfl
@[simp] theorem State.setCap_mgmt (s : State) (n : Nat) (x : Capsule) : (s.setCap n x).mgmt = s.mgmt := rfl
@[simp] theorem State.setCap_outbox (s : State) (n : Nat) (x : Capsule) : (s.setCap n x).outbox = s.outbox := rfl

/-! ### setByte -/

@[simp] theorem State.setByte_who (s : State) (k : Nat) (b : Byte) : (s.setByte k b).who = s.who := rfl
@[simp] theorem State.setByte_agenda (s : State) (k : Nat) (b : Byte) : (s.setByte k b).agenda = s.agenda := rfl
@[simp] theorem State.setByte_steps (s : State) (k : Nat) (b : Byte) : (s.setByte k b).steps = s.steps := rfl
@[simp] theorem State.setByte_nextId (s : State) (k : Nat) (b : Byte) : (s.setByte k b).nextId = s.nextId := rfl
@[simp] theorem State.setByte_cycle (s : State) (k : Nat) (b : Byte) : (s.setByte k b).cycle = s.cycle := rfl
@[simp] theorem State.setByte_podTick (s : State) (k : Nat) (b : Byte) : (s.setByte k b).podTick = s.podTick := rfl
@[simp] theorem State.setByte_threads (s : State) (k : Nat) (b : Byte) : (s.setByte k b).threads = s.threads := rfl
@[simp] theorem State.setByte_cores (s : State) (k : Nat) (b : Byte) : (s.setByte k b).cores = s.cores := rfl
@[simp] theorem State.setByte_clusters (s : State) (k : Nat) (b : Byte) : (s.setByte k b).clusters = s.clusters := rfl
@[simp] theorem State.setByte_poison (s : State) (k : Nat) (b : Byte) : (s.setByte k b).poison = s.poison := rfl
@[simp] theorem State.setByte_tags (s : State) (k : Nat) (b : Byte) : (s.setByte k b).tags = s.tags := rfl
@[simp] theorem State.setByte_tagQueue (s : State) (k : Nat) (b : Byte) : (s.setByte k b).tagQueue = s.tagQueue := rfl
@[simp] theorem State.setByte_awayTags (s : State) (k : Nat) (b : Byte) : (s.setByte k b).awayTags = s.awayTags := rfl
@[simp] theorem State.setByte_peerLoads (s : State) (k : Nat) (b : Byte) : (s.setByte k b).peerLoads = s.peerLoads := rfl
@[simp] theorem State.setByte_net (s : State) (k : Nat) (b : Byte) : (s.setByte k b).net = s.net := rfl
@[simp] theorem State.setByte_loads (s : State) (k : Nat) (b : Byte) : (s.setByte k b).loads = s.loads := rfl
@[simp] theorem State.setByte_stores (s : State) (k : Nat) (b : Byte) : (s.setByte k b).stores = s.stores := rfl
@[simp] theorem State.setByte_mcsts (s : State) (k : Nat) (b : Byte) : (s.setByte k b).mcsts = s.mcsts := rfl
@[simp] theorem State.setByte_transfers (s : State) (k : Nat) (b : Byte) : (s.setByte k b).transfers = s.transfers := rfl
@[simp] theorem State.setByte_tickets (s : State) (k : Nat) (b : Byte) : (s.setByte k b).tickets = s.tickets := rfl
@[simp] theorem State.setByte_reports (s : State) (k : Nat) (b : Byte) : (s.setByte k b).reports = s.reports := rfl
@[simp] theorem State.setByte_capsules (s : State) (k : Nat) (b : Byte) : (s.setByte k b).capsules = s.capsules := rfl
@[simp] theorem State.setByte_worlds (s : State) (k : Nat) (b : Byte) : (s.setByte k b).worlds = s.worlds := rfl
@[simp] theorem State.setByte_routers (s : State) (k : Nat) (b : Byte) : (s.setByte k b).routers = s.routers := rfl
@[simp] theorem State.setByte_codeCache (s : State) (k : Nat) (b : Byte) : (s.setByte k b).codeCache = s.codeCache := rfl
@[simp] theorem State.setByte_scanned (s : State) (k : Nat) (b : Byte) : (s.setByte k b).scanned = s.scanned := rfl
@[simp] theorem State.setByte_keys (s : State) (k : Nat) (b : Byte) : (s.setByte k b).keys = s.keys := rfl
@[simp] theorem State.setByte_queues (s : State) (k : Nat) (b : Byte) : (s.setByte k b).queues = s.queues := rfl
@[simp] theorem State.setByte_windows (s : State) (k : Nat) (b : Byte) : (s.setByte k b).windows = s.windows := rfl
@[simp] theorem State.setByte_portOps (s : State) (k : Nat) (b : Byte) : (s.setByte k b).portOps = s.portOps := rfl
@[simp] theorem State.setByte_mgmt (s : State) (k : Nat) (b : Byte) : (s.setByte k b).mgmt = s.mgmt := rfl
@[simp] theorem State.setByte_outbox (s : State) (k : Nat) (b : Byte) : (s.setByte k b).outbox = s.outbox := rfl

/-! ### setFull -/

@[simp] theorem State.setFull_who (s : State) (k : Nat) (b : Bool) : (s.setFull k b).who = s.who := rfl
@[simp] theorem State.setFull_agenda (s : State) (k : Nat) (b : Bool) : (s.setFull k b).agenda = s.agenda := rfl
@[simp] theorem State.setFull_steps (s : State) (k : Nat) (b : Bool) : (s.setFull k b).steps = s.steps := rfl
@[simp] theorem State.setFull_nextId (s : State) (k : Nat) (b : Bool) : (s.setFull k b).nextId = s.nextId := rfl
@[simp] theorem State.setFull_cycle (s : State) (k : Nat) (b : Bool) : (s.setFull k b).cycle = s.cycle := rfl
@[simp] theorem State.setFull_podTick (s : State) (k : Nat) (b : Bool) : (s.setFull k b).podTick = s.podTick := rfl
@[simp] theorem State.setFull_threads (s : State) (k : Nat) (b : Bool) : (s.setFull k b).threads = s.threads := rfl
@[simp] theorem State.setFull_cores (s : State) (k : Nat) (b : Bool) : (s.setFull k b).cores = s.cores := rfl
@[simp] theorem State.setFull_clusters (s : State) (k : Nat) (b : Bool) : (s.setFull k b).clusters = s.clusters := rfl
@[simp] theorem State.setFull_mem (s : State) (k : Nat) (b : Bool) : (s.setFull k b).mem = s.mem := rfl
@[simp] theorem State.setFull_poison (s : State) (k : Nat) (b : Bool) : (s.setFull k b).poison = s.poison := rfl
@[simp] theorem State.setFull_tagQueue (s : State) (k : Nat) (b : Bool) : (s.setFull k b).tagQueue = s.tagQueue := rfl
@[simp] theorem State.setFull_awayTags (s : State) (k : Nat) (b : Bool) : (s.setFull k b).awayTags = s.awayTags := rfl
@[simp] theorem State.setFull_peerLoads (s : State) (k : Nat) (b : Bool) : (s.setFull k b).peerLoads = s.peerLoads := rfl
@[simp] theorem State.setFull_net (s : State) (k : Nat) (b : Bool) : (s.setFull k b).net = s.net := rfl
@[simp] theorem State.setFull_loads (s : State) (k : Nat) (b : Bool) : (s.setFull k b).loads = s.loads := rfl
@[simp] theorem State.setFull_stores (s : State) (k : Nat) (b : Bool) : (s.setFull k b).stores = s.stores := rfl
@[simp] theorem State.setFull_mcsts (s : State) (k : Nat) (b : Bool) : (s.setFull k b).mcsts = s.mcsts := rfl
@[simp] theorem State.setFull_transfers (s : State) (k : Nat) (b : Bool) : (s.setFull k b).transfers = s.transfers := rfl
@[simp] theorem State.setFull_tickets (s : State) (k : Nat) (b : Bool) : (s.setFull k b).tickets = s.tickets := rfl
@[simp] theorem State.setFull_reports (s : State) (k : Nat) (b : Bool) : (s.setFull k b).reports = s.reports := rfl
@[simp] theorem State.setFull_capsules (s : State) (k : Nat) (b : Bool) : (s.setFull k b).capsules = s.capsules := rfl
@[simp] theorem State.setFull_worlds (s : State) (k : Nat) (b : Bool) : (s.setFull k b).worlds = s.worlds := rfl
@[simp] theorem State.setFull_routers (s : State) (k : Nat) (b : Bool) : (s.setFull k b).routers = s.routers := rfl
@[simp] theorem State.setFull_codeCache (s : State) (k : Nat) (b : Bool) : (s.setFull k b).codeCache = s.codeCache := rfl
@[simp] theorem State.setFull_scanned (s : State) (k : Nat) (b : Bool) : (s.setFull k b).scanned = s.scanned := rfl
@[simp] theorem State.setFull_keys (s : State) (k : Nat) (b : Bool) : (s.setFull k b).keys = s.keys := rfl
@[simp] theorem State.setFull_queues (s : State) (k : Nat) (b : Bool) : (s.setFull k b).queues = s.queues := rfl
@[simp] theorem State.setFull_windows (s : State) (k : Nat) (b : Bool) : (s.setFull k b).windows = s.windows := rfl
@[simp] theorem State.setFull_portOps (s : State) (k : Nat) (b : Bool) : (s.setFull k b).portOps = s.portOps := rfl
@[simp] theorem State.setFull_mgmt (s : State) (k : Nat) (b : Bool) : (s.setFull k b).mgmt = s.mgmt := rfl
@[simp] theorem State.setFull_outbox (s : State) (k : Nat) (b : Bool) : (s.setFull k b).outbox = s.outbox := rfl

/-! ### wg -/

@[simp] theorem State.wg_who (s : State) (n : Nat) (v : Word) : (s.wg n v).who = s.who := rfl
@[simp] theorem State.wg_agenda (s : State) (n : Nat) (v : Word) : (s.wg n v).agenda = s.agenda := rfl
@[simp] theorem State.wg_steps (s : State) (n : Nat) (v : Word) : (s.wg n v).steps = s.steps := rfl
@[simp] theorem State.wg_nextId (s : State) (n : Nat) (v : Word) : (s.wg n v).nextId = s.nextId := rfl
@[simp] theorem State.wg_cycle (s : State) (n : Nat) (v : Word) : (s.wg n v).cycle = s.cycle := rfl
@[simp] theorem State.wg_podTick (s : State) (n : Nat) (v : Word) : (s.wg n v).podTick = s.podTick := rfl
@[simp] theorem State.wg_cores (s : State) (n : Nat) (v : Word) : (s.wg n v).cores = s.cores := rfl
@[simp] theorem State.wg_clusters (s : State) (n : Nat) (v : Word) : (s.wg n v).clusters = s.clusters := rfl
@[simp] theorem State.wg_mem (s : State) (n : Nat) (v : Word) : (s.wg n v).mem = s.mem := rfl
@[simp] theorem State.wg_poison (s : State) (n : Nat) (v : Word) : (s.wg n v).poison = s.poison := rfl
@[simp] theorem State.wg_tags (s : State) (n : Nat) (v : Word) : (s.wg n v).tags = s.tags := rfl
@[simp] theorem State.wg_tagQueue (s : State) (n : Nat) (v : Word) : (s.wg n v).tagQueue = s.tagQueue := rfl
@[simp] theorem State.wg_awayTags (s : State) (n : Nat) (v : Word) : (s.wg n v).awayTags = s.awayTags := rfl
@[simp] theorem State.wg_peerLoads (s : State) (n : Nat) (v : Word) : (s.wg n v).peerLoads = s.peerLoads := rfl
@[simp] theorem State.wg_net (s : State) (n : Nat) (v : Word) : (s.wg n v).net = s.net := rfl
@[simp] theorem State.wg_loads (s : State) (n : Nat) (v : Word) : (s.wg n v).loads = s.loads := rfl
@[simp] theorem State.wg_stores (s : State) (n : Nat) (v : Word) : (s.wg n v).stores = s.stores := rfl
@[simp] theorem State.wg_mcsts (s : State) (n : Nat) (v : Word) : (s.wg n v).mcsts = s.mcsts := rfl
@[simp] theorem State.wg_transfers (s : State) (n : Nat) (v : Word) : (s.wg n v).transfers = s.transfers := rfl
@[simp] theorem State.wg_tickets (s : State) (n : Nat) (v : Word) : (s.wg n v).tickets = s.tickets := rfl
@[simp] theorem State.wg_reports (s : State) (n : Nat) (v : Word) : (s.wg n v).reports = s.reports := rfl
@[simp] theorem State.wg_capsules (s : State) (n : Nat) (v : Word) : (s.wg n v).capsules = s.capsules := rfl
@[simp] theorem State.wg_worlds (s : State) (n : Nat) (v : Word) : (s.wg n v).worlds = s.worlds := rfl
@[simp] theorem State.wg_routers (s : State) (n : Nat) (v : Word) : (s.wg n v).routers = s.routers := rfl
@[simp] theorem State.wg_codeCache (s : State) (n : Nat) (v : Word) : (s.wg n v).codeCache = s.codeCache := rfl
@[simp] theorem State.wg_scanned (s : State) (n : Nat) (v : Word) : (s.wg n v).scanned = s.scanned := rfl
@[simp] theorem State.wg_keys (s : State) (n : Nat) (v : Word) : (s.wg n v).keys = s.keys := rfl
@[simp] theorem State.wg_queues (s : State) (n : Nat) (v : Word) : (s.wg n v).queues = s.queues := rfl
@[simp] theorem State.wg_windows (s : State) (n : Nat) (v : Word) : (s.wg n v).windows = s.windows := rfl
@[simp] theorem State.wg_portOps (s : State) (n : Nat) (v : Word) : (s.wg n v).portOps = s.portOps := rfl
@[simp] theorem State.wg_mgmt (s : State) (n : Nat) (v : Word) : (s.wg n v).mgmt = s.mgmt := rfl
@[simp] theorem State.wg_outbox (s : State) (n : Nat) (v : Word) : (s.wg n v).outbox = s.outbox := rfl

/-! ### wv -/

@[simp] theorem State.wv_who (s : State) (n : Nat) (v : Vec) : (s.wv n v).who = s.who := rfl
@[simp] theorem State.wv_agenda (s : State) (n : Nat) (v : Vec) : (s.wv n v).agenda = s.agenda := rfl
@[simp] theorem State.wv_steps (s : State) (n : Nat) (v : Vec) : (s.wv n v).steps = s.steps := rfl
@[simp] theorem State.wv_nextId (s : State) (n : Nat) (v : Vec) : (s.wv n v).nextId = s.nextId := rfl
@[simp] theorem State.wv_cycle (s : State) (n : Nat) (v : Vec) : (s.wv n v).cycle = s.cycle := rfl
@[simp] theorem State.wv_podTick (s : State) (n : Nat) (v : Vec) : (s.wv n v).podTick = s.podTick := rfl
@[simp] theorem State.wv_cores (s : State) (n : Nat) (v : Vec) : (s.wv n v).cores = s.cores := rfl
@[simp] theorem State.wv_clusters (s : State) (n : Nat) (v : Vec) : (s.wv n v).clusters = s.clusters := rfl
@[simp] theorem State.wv_mem (s : State) (n : Nat) (v : Vec) : (s.wv n v).mem = s.mem := rfl
@[simp] theorem State.wv_poison (s : State) (n : Nat) (v : Vec) : (s.wv n v).poison = s.poison := rfl
@[simp] theorem State.wv_tags (s : State) (n : Nat) (v : Vec) : (s.wv n v).tags = s.tags := rfl
@[simp] theorem State.wv_tagQueue (s : State) (n : Nat) (v : Vec) : (s.wv n v).tagQueue = s.tagQueue := rfl
@[simp] theorem State.wv_awayTags (s : State) (n : Nat) (v : Vec) : (s.wv n v).awayTags = s.awayTags := rfl
@[simp] theorem State.wv_peerLoads (s : State) (n : Nat) (v : Vec) : (s.wv n v).peerLoads = s.peerLoads := rfl
@[simp] theorem State.wv_net (s : State) (n : Nat) (v : Vec) : (s.wv n v).net = s.net := rfl
@[simp] theorem State.wv_loads (s : State) (n : Nat) (v : Vec) : (s.wv n v).loads = s.loads := rfl
@[simp] theorem State.wv_stores (s : State) (n : Nat) (v : Vec) : (s.wv n v).stores = s.stores := rfl
@[simp] theorem State.wv_mcsts (s : State) (n : Nat) (v : Vec) : (s.wv n v).mcsts = s.mcsts := rfl
@[simp] theorem State.wv_transfers (s : State) (n : Nat) (v : Vec) : (s.wv n v).transfers = s.transfers := rfl
@[simp] theorem State.wv_tickets (s : State) (n : Nat) (v : Vec) : (s.wv n v).tickets = s.tickets := rfl
@[simp] theorem State.wv_reports (s : State) (n : Nat) (v : Vec) : (s.wv n v).reports = s.reports := rfl
@[simp] theorem State.wv_capsules (s : State) (n : Nat) (v : Vec) : (s.wv n v).capsules = s.capsules := rfl
@[simp] theorem State.wv_worlds (s : State) (n : Nat) (v : Vec) : (s.wv n v).worlds = s.worlds := rfl
@[simp] theorem State.wv_routers (s : State) (n : Nat) (v : Vec) : (s.wv n v).routers = s.routers := rfl
@[simp] theorem State.wv_codeCache (s : State) (n : Nat) (v : Vec) : (s.wv n v).codeCache = s.codeCache := rfl
@[simp] theorem State.wv_scanned (s : State) (n : Nat) (v : Vec) : (s.wv n v).scanned = s.scanned := rfl
@[simp] theorem State.wv_keys (s : State) (n : Nat) (v : Vec) : (s.wv n v).keys = s.keys := rfl
@[simp] theorem State.wv_queues (s : State) (n : Nat) (v : Vec) : (s.wv n v).queues = s.queues := rfl
@[simp] theorem State.wv_windows (s : State) (n : Nat) (v : Vec) : (s.wv n v).windows = s.windows := rfl
@[simp] theorem State.wv_portOps (s : State) (n : Nat) (v : Vec) : (s.wv n v).portOps = s.portOps := rfl
@[simp] theorem State.wv_mgmt (s : State) (n : Nat) (v : Vec) : (s.wv n v).mgmt = s.mgmt := rfl
@[simp] theorem State.wv_outbox (s : State) (n : Nat) (v : Vec) : (s.wv n v).outbox = s.outbox := rfl

/-! ### wk -/

@[simp] theorem State.wk_who (s : State) (n : Nat) (v : BitVec 8) : (s.wk n v).who = s.who := rfl
@[simp] theorem State.wk_agenda (s : State) (n : Nat) (v : BitVec 8) : (s.wk n v).agenda = s.agenda := rfl
@[simp] theorem State.wk_steps (s : State) (n : Nat) (v : BitVec 8) : (s.wk n v).steps = s.steps := rfl
@[simp] theorem State.wk_nextId (s : State) (n : Nat) (v : BitVec 8) : (s.wk n v).nextId = s.nextId := rfl
@[simp] theorem State.wk_cycle (s : State) (n : Nat) (v : BitVec 8) : (s.wk n v).cycle = s.cycle := rfl
@[simp] theorem State.wk_podTick (s : State) (n : Nat) (v : BitVec 8) : (s.wk n v).podTick = s.podTick := rfl
@[simp] theorem State.wk_cores (s : State) (n : Nat) (v : BitVec 8) : (s.wk n v).cores = s.cores := rfl
@[simp] theorem State.wk_clusters (s : State) (n : Nat) (v : BitVec 8) : (s.wk n v).clusters = s.clusters := rfl
@[simp] theorem State.wk_mem (s : State) (n : Nat) (v : BitVec 8) : (s.wk n v).mem = s.mem := rfl
@[simp] theorem State.wk_poison (s : State) (n : Nat) (v : BitVec 8) : (s.wk n v).poison = s.poison := rfl
@[simp] theorem State.wk_tags (s : State) (n : Nat) (v : BitVec 8) : (s.wk n v).tags = s.tags := rfl
@[simp] theorem State.wk_tagQueue (s : State) (n : Nat) (v : BitVec 8) : (s.wk n v).tagQueue = s.tagQueue := rfl
@[simp] theorem State.wk_awayTags (s : State) (n : Nat) (v : BitVec 8) : (s.wk n v).awayTags = s.awayTags := rfl
@[simp] theorem State.wk_peerLoads (s : State) (n : Nat) (v : BitVec 8) : (s.wk n v).peerLoads = s.peerLoads := rfl
@[simp] theorem State.wk_net (s : State) (n : Nat) (v : BitVec 8) : (s.wk n v).net = s.net := rfl
@[simp] theorem State.wk_loads (s : State) (n : Nat) (v : BitVec 8) : (s.wk n v).loads = s.loads := rfl
@[simp] theorem State.wk_stores (s : State) (n : Nat) (v : BitVec 8) : (s.wk n v).stores = s.stores := rfl
@[simp] theorem State.wk_mcsts (s : State) (n : Nat) (v : BitVec 8) : (s.wk n v).mcsts = s.mcsts := rfl
@[simp] theorem State.wk_transfers (s : State) (n : Nat) (v : BitVec 8) : (s.wk n v).transfers = s.transfers := rfl
@[simp] theorem State.wk_tickets (s : State) (n : Nat) (v : BitVec 8) : (s.wk n v).tickets = s.tickets := rfl
@[simp] theorem State.wk_reports (s : State) (n : Nat) (v : BitVec 8) : (s.wk n v).reports = s.reports := rfl
@[simp] theorem State.wk_capsules (s : State) (n : Nat) (v : BitVec 8) : (s.wk n v).capsules = s.capsules := rfl
@[simp] theorem State.wk_worlds (s : State) (n : Nat) (v : BitVec 8) : (s.wk n v).worlds = s.worlds := rfl
@[simp] theorem State.wk_routers (s : State) (n : Nat) (v : BitVec 8) : (s.wk n v).routers = s.routers := rfl
@[simp] theorem State.wk_codeCache (s : State) (n : Nat) (v : BitVec 8) : (s.wk n v).codeCache = s.codeCache := rfl
@[simp] theorem State.wk_scanned (s : State) (n : Nat) (v : BitVec 8) : (s.wk n v).scanned = s.scanned := rfl
@[simp] theorem State.wk_keys (s : State) (n : Nat) (v : BitVec 8) : (s.wk n v).keys = s.keys := rfl
@[simp] theorem State.wk_queues (s : State) (n : Nat) (v : BitVec 8) : (s.wk n v).queues = s.queues := rfl
@[simp] theorem State.wk_windows (s : State) (n : Nat) (v : BitVec 8) : (s.wk n v).windows = s.windows := rfl
@[simp] theorem State.wk_portOps (s : State) (n : Nat) (v : BitVec 8) : (s.wk n v).portOps = s.portOps := rfl
@[simp] theorem State.wk_mgmt (s : State) (n : Nat) (v : BitVec 8) : (s.wk n v).mgmt = s.mgmt := rfl
@[simp] theorem State.wk_outbox (s : State) (n : Nat) (v : BitVec 8) : (s.wk n v).outbox = s.outbox := rfl

/-! ### retire -/

@[simp] theorem State.retire_who (s : State) : (s.retire).who = s.who := rfl
@[simp] theorem State.retire_agenda (s : State) : (s.retire).agenda = s.agenda := rfl
@[simp] theorem State.retire_steps (s : State) : (s.retire).steps = s.steps := rfl
@[simp] theorem State.retire_nextId (s : State) : (s.retire).nextId = s.nextId := rfl
@[simp] theorem State.retire_cycle (s : State) : (s.retire).cycle = s.cycle := rfl
@[simp] theorem State.retire_podTick (s : State) : (s.retire).podTick = s.podTick := rfl
@[simp] theorem State.retire_cores (s : State) : (s.retire).cores = s.cores := rfl
@[simp] theorem State.retire_clusters (s : State) : (s.retire).clusters = s.clusters := rfl
@[simp] theorem State.retire_mem (s : State) : (s.retire).mem = s.mem := rfl
@[simp] theorem State.retire_poison (s : State) : (s.retire).poison = s.poison := rfl
@[simp] theorem State.retire_tags (s : State) : (s.retire).tags = s.tags := rfl
@[simp] theorem State.retire_tagQueue (s : State) : (s.retire).tagQueue = s.tagQueue := rfl
@[simp] theorem State.retire_awayTags (s : State) : (s.retire).awayTags = s.awayTags := rfl
@[simp] theorem State.retire_peerLoads (s : State) : (s.retire).peerLoads = s.peerLoads := rfl
@[simp] theorem State.retire_net (s : State) : (s.retire).net = s.net := rfl
@[simp] theorem State.retire_loads (s : State) : (s.retire).loads = s.loads := rfl
@[simp] theorem State.retire_stores (s : State) : (s.retire).stores = s.stores := rfl
@[simp] theorem State.retire_mcsts (s : State) : (s.retire).mcsts = s.mcsts := rfl
@[simp] theorem State.retire_transfers (s : State) : (s.retire).transfers = s.transfers := rfl
@[simp] theorem State.retire_tickets (s : State) : (s.retire).tickets = s.tickets := rfl
@[simp] theorem State.retire_reports (s : State) : (s.retire).reports = s.reports := rfl
@[simp] theorem State.retire_capsules (s : State) : (s.retire).capsules = s.capsules := rfl
@[simp] theorem State.retire_worlds (s : State) : (s.retire).worlds = s.worlds := rfl
@[simp] theorem State.retire_routers (s : State) : (s.retire).routers = s.routers := rfl
@[simp] theorem State.retire_codeCache (s : State) : (s.retire).codeCache = s.codeCache := rfl
@[simp] theorem State.retire_scanned (s : State) : (s.retire).scanned = s.scanned := rfl
@[simp] theorem State.retire_keys (s : State) : (s.retire).keys = s.keys := rfl
@[simp] theorem State.retire_queues (s : State) : (s.retire).queues = s.queues := rfl
@[simp] theorem State.retire_windows (s : State) : (s.retire).windows = s.windows := rfl
@[simp] theorem State.retire_portOps (s : State) : (s.retire).portOps = s.portOps := rfl
@[simp] theorem State.retire_mgmt (s : State) : (s.retire).mgmt = s.mgmt := rfl
@[simp] theorem State.retire_outbox (s : State) : (s.retire).outbox = s.outbox := rfl

/-! ### transfer -/

@[simp] theorem State.transfer_who (s : State) (a : Word) : (s.transfer a).who = s.who := rfl
@[simp] theorem State.transfer_agenda (s : State) (a : Word) : (s.transfer a).agenda = s.agenda := rfl
@[simp] theorem State.transfer_steps (s : State) (a : Word) : (s.transfer a).steps = s.steps := rfl
@[simp] theorem State.transfer_nextId (s : State) (a : Word) : (s.transfer a).nextId = s.nextId := rfl
@[simp] theorem State.transfer_cycle (s : State) (a : Word) : (s.transfer a).cycle = s.cycle := rfl
@[simp] theorem State.transfer_podTick (s : State) (a : Word) : (s.transfer a).podTick = s.podTick := rfl
@[simp] theorem State.transfer_cores (s : State) (a : Word) : (s.transfer a).cores = s.cores := rfl
@[simp] theorem State.transfer_clusters (s : State) (a : Word) : (s.transfer a).clusters = s.clusters := rfl
@[simp] theorem State.transfer_mem (s : State) (a : Word) : (s.transfer a).mem = s.mem := rfl
@[simp] theorem State.transfer_poison (s : State) (a : Word) : (s.transfer a).poison = s.poison := rfl
@[simp] theorem State.transfer_tags (s : State) (a : Word) : (s.transfer a).tags = s.tags := rfl
@[simp] theorem State.transfer_tagQueue (s : State) (a : Word) : (s.transfer a).tagQueue = s.tagQueue := rfl
@[simp] theorem State.transfer_awayTags (s : State) (a : Word) : (s.transfer a).awayTags = s.awayTags := rfl
@[simp] theorem State.transfer_peerLoads (s : State) (a : Word) : (s.transfer a).peerLoads = s.peerLoads := rfl
@[simp] theorem State.transfer_net (s : State) (a : Word) : (s.transfer a).net = s.net := rfl
@[simp] theorem State.transfer_loads (s : State) (a : Word) : (s.transfer a).loads = s.loads := rfl
@[simp] theorem State.transfer_stores (s : State) (a : Word) : (s.transfer a).stores = s.stores := rfl
@[simp] theorem State.transfer_mcsts (s : State) (a : Word) : (s.transfer a).mcsts = s.mcsts := rfl
@[simp] theorem State.transfer_transfers (s : State) (a : Word) : (s.transfer a).transfers = s.transfers := rfl
@[simp] theorem State.transfer_tickets (s : State) (a : Word) : (s.transfer a).tickets = s.tickets := rfl
@[simp] theorem State.transfer_reports (s : State) (a : Word) : (s.transfer a).reports = s.reports := rfl
@[simp] theorem State.transfer_capsules (s : State) (a : Word) : (s.transfer a).capsules = s.capsules := rfl
@[simp] theorem State.transfer_worlds (s : State) (a : Word) : (s.transfer a).worlds = s.worlds := rfl
@[simp] theorem State.transfer_routers (s : State) (a : Word) : (s.transfer a).routers = s.routers := rfl
@[simp] theorem State.transfer_codeCache (s : State) (a : Word) : (s.transfer a).codeCache = s.codeCache := rfl
@[simp] theorem State.transfer_scanned (s : State) (a : Word) : (s.transfer a).scanned = s.scanned := rfl
@[simp] theorem State.transfer_keys (s : State) (a : Word) : (s.transfer a).keys = s.keys := rfl
@[simp] theorem State.transfer_queues (s : State) (a : Word) : (s.transfer a).queues = s.queues := rfl
@[simp] theorem State.transfer_windows (s : State) (a : Word) : (s.transfer a).windows = s.windows := rfl
@[simp] theorem State.transfer_portOps (s : State) (a : Word) : (s.transfer a).portOps = s.portOps := rfl
@[simp] theorem State.transfer_mgmt (s : State) (a : Word) : (s.transfer a).mgmt = s.mgmt := rfl
@[simp] theorem State.transfer_outbox (s : State) (a : Word) : (s.transfer a).outbox = s.outbox := rfl

/-! ### hold -/

@[simp] theorem State.hold_who (s : State) (w : Wait) : (s.hold w).who = s.who := rfl
@[simp] theorem State.hold_agenda (s : State) (w : Wait) : (s.hold w).agenda = s.agenda := rfl
@[simp] theorem State.hold_steps (s : State) (w : Wait) : (s.hold w).steps = s.steps := rfl
@[simp] theorem State.hold_nextId (s : State) (w : Wait) : (s.hold w).nextId = s.nextId := rfl
@[simp] theorem State.hold_cycle (s : State) (w : Wait) : (s.hold w).cycle = s.cycle := rfl
@[simp] theorem State.hold_podTick (s : State) (w : Wait) : (s.hold w).podTick = s.podTick := rfl
@[simp] theorem State.hold_cores (s : State) (w : Wait) : (s.hold w).cores = s.cores := rfl
@[simp] theorem State.hold_clusters (s : State) (w : Wait) : (s.hold w).clusters = s.clusters := rfl
@[simp] theorem State.hold_mem (s : State) (w : Wait) : (s.hold w).mem = s.mem := rfl
@[simp] theorem State.hold_poison (s : State) (w : Wait) : (s.hold w).poison = s.poison := rfl
@[simp] theorem State.hold_tags (s : State) (w : Wait) : (s.hold w).tags = s.tags := rfl
@[simp] theorem State.hold_tagQueue (s : State) (w : Wait) : (s.hold w).tagQueue = s.tagQueue := rfl
@[simp] theorem State.hold_awayTags (s : State) (w : Wait) : (s.hold w).awayTags = s.awayTags := rfl
@[simp] theorem State.hold_peerLoads (s : State) (w : Wait) : (s.hold w).peerLoads = s.peerLoads := rfl
@[simp] theorem State.hold_net (s : State) (w : Wait) : (s.hold w).net = s.net := rfl
@[simp] theorem State.hold_loads (s : State) (w : Wait) : (s.hold w).loads = s.loads := rfl
@[simp] theorem State.hold_stores (s : State) (w : Wait) : (s.hold w).stores = s.stores := rfl
@[simp] theorem State.hold_mcsts (s : State) (w : Wait) : (s.hold w).mcsts = s.mcsts := rfl
@[simp] theorem State.hold_transfers (s : State) (w : Wait) : (s.hold w).transfers = s.transfers := rfl
@[simp] theorem State.hold_tickets (s : State) (w : Wait) : (s.hold w).tickets = s.tickets := rfl
@[simp] theorem State.hold_reports (s : State) (w : Wait) : (s.hold w).reports = s.reports := rfl
@[simp] theorem State.hold_capsules (s : State) (w : Wait) : (s.hold w).capsules = s.capsules := rfl
@[simp] theorem State.hold_worlds (s : State) (w : Wait) : (s.hold w).worlds = s.worlds := rfl
@[simp] theorem State.hold_routers (s : State) (w : Wait) : (s.hold w).routers = s.routers := rfl
@[simp] theorem State.hold_codeCache (s : State) (w : Wait) : (s.hold w).codeCache = s.codeCache := rfl
@[simp] theorem State.hold_scanned (s : State) (w : Wait) : (s.hold w).scanned = s.scanned := rfl
@[simp] theorem State.hold_keys (s : State) (w : Wait) : (s.hold w).keys = s.keys := rfl
@[simp] theorem State.hold_queues (s : State) (w : Wait) : (s.hold w).queues = s.queues := rfl
@[simp] theorem State.hold_windows (s : State) (w : Wait) : (s.hold w).windows = s.windows := rfl
@[simp] theorem State.hold_portOps (s : State) (w : Wait) : (s.hold w).portOps = s.portOps := rfl
@[simp] theorem State.hold_mgmt (s : State) (w : Wait) : (s.hold w).mgmt = s.mgmt := rfl
@[simp] theorem State.hold_outbox (s : State) (w : Wait) : (s.hold w).outbox = s.outbox := rfl

/-! ### enterTrap -/

@[simp] theorem State.enterTrap_who (s : State) (c : Nat) (v : Word) : (s.enterTrap c v).who = s.who := rfl
@[simp] theorem State.enterTrap_agenda (s : State) (c : Nat) (v : Word) : (s.enterTrap c v).agenda = s.agenda := rfl
@[simp] theorem State.enterTrap_steps (s : State) (c : Nat) (v : Word) : (s.enterTrap c v).steps = s.steps := rfl
@[simp] theorem State.enterTrap_nextId (s : State) (c : Nat) (v : Word) : (s.enterTrap c v).nextId = s.nextId := rfl
@[simp] theorem State.enterTrap_cycle (s : State) (c : Nat) (v : Word) : (s.enterTrap c v).cycle = s.cycle := rfl
@[simp] theorem State.enterTrap_podTick (s : State) (c : Nat) (v : Word) : (s.enterTrap c v).podTick = s.podTick := rfl
@[simp] theorem State.enterTrap_cores (s : State) (c : Nat) (v : Word) : (s.enterTrap c v).cores = s.cores := rfl
@[simp] theorem State.enterTrap_clusters (s : State) (c : Nat) (v : Word) : (s.enterTrap c v).clusters = s.clusters := rfl
@[simp] theorem State.enterTrap_mem (s : State) (c : Nat) (v : Word) : (s.enterTrap c v).mem = s.mem := rfl
@[simp] theorem State.enterTrap_poison (s : State) (c : Nat) (v : Word) : (s.enterTrap c v).poison = s.poison := rfl
@[simp] theorem State.enterTrap_tags (s : State) (c : Nat) (v : Word) : (s.enterTrap c v).tags = s.tags := rfl
@[simp] theorem State.enterTrap_tagQueue (s : State) (c : Nat) (v : Word) : (s.enterTrap c v).tagQueue = s.tagQueue := rfl
@[simp] theorem State.enterTrap_awayTags (s : State) (c : Nat) (v : Word) : (s.enterTrap c v).awayTags = s.awayTags := rfl
@[simp] theorem State.enterTrap_peerLoads (s : State) (c : Nat) (v : Word) : (s.enterTrap c v).peerLoads = s.peerLoads := rfl
@[simp] theorem State.enterTrap_net (s : State) (c : Nat) (v : Word) : (s.enterTrap c v).net = s.net := rfl
@[simp] theorem State.enterTrap_loads (s : State) (c : Nat) (v : Word) : (s.enterTrap c v).loads = s.loads := rfl
@[simp] theorem State.enterTrap_stores (s : State) (c : Nat) (v : Word) : (s.enterTrap c v).stores = s.stores := rfl
@[simp] theorem State.enterTrap_mcsts (s : State) (c : Nat) (v : Word) : (s.enterTrap c v).mcsts = s.mcsts := rfl
@[simp] theorem State.enterTrap_transfers (s : State) (c : Nat) (v : Word) : (s.enterTrap c v).transfers = s.transfers := rfl
@[simp] theorem State.enterTrap_tickets (s : State) (c : Nat) (v : Word) : (s.enterTrap c v).tickets = s.tickets := rfl
@[simp] theorem State.enterTrap_reports (s : State) (c : Nat) (v : Word) : (s.enterTrap c v).reports = s.reports := rfl
@[simp] theorem State.enterTrap_capsules (s : State) (c : Nat) (v : Word) : (s.enterTrap c v).capsules = s.capsules := rfl
@[simp] theorem State.enterTrap_worlds (s : State) (c : Nat) (v : Word) : (s.enterTrap c v).worlds = s.worlds := rfl
@[simp] theorem State.enterTrap_routers (s : State) (c : Nat) (v : Word) : (s.enterTrap c v).routers = s.routers := rfl
@[simp] theorem State.enterTrap_codeCache (s : State) (c : Nat) (v : Word) : (s.enterTrap c v).codeCache = s.codeCache := rfl
@[simp] theorem State.enterTrap_scanned (s : State) (c : Nat) (v : Word) : (s.enterTrap c v).scanned = s.scanned := rfl
@[simp] theorem State.enterTrap_keys (s : State) (c : Nat) (v : Word) : (s.enterTrap c v).keys = s.keys := rfl
@[simp] theorem State.enterTrap_queues (s : State) (c : Nat) (v : Word) : (s.enterTrap c v).queues = s.queues := rfl
@[simp] theorem State.enterTrap_windows (s : State) (c : Nat) (v : Word) : (s.enterTrap c v).windows = s.windows := rfl
@[simp] theorem State.enterTrap_portOps (s : State) (c : Nat) (v : Word) : (s.enterTrap c v).portOps = s.portOps := rfl
@[simp] theorem State.enterTrap_mgmt (s : State) (c : Nat) (v : Word) : (s.enterTrap c v).mgmt = s.mgmt := rfl
@[simp] theorem State.enterTrap_outbox (s : State) (c : Nat) (v : Word) : (s.enterTrap c v).outbox = s.outbox := rfl

/-! ### fresh -/

@[simp] theorem State.fresh_who (s : State) : (s.fresh).who = s.who := rfl
@[simp] theorem State.fresh_agenda (s : State) : (s.fresh).agenda = s.agenda := rfl
@[simp] theorem State.fresh_steps (s : State) : (s.fresh).steps = s.steps := rfl
@[simp] theorem State.fresh_cycle (s : State) : (s.fresh).cycle = s.cycle := rfl
@[simp] theorem State.fresh_podTick (s : State) : (s.fresh).podTick = s.podTick := rfl
@[simp] theorem State.fresh_threads (s : State) : (s.fresh).threads = s.threads := rfl
@[simp] theorem State.fresh_cores (s : State) : (s.fresh).cores = s.cores := rfl
@[simp] theorem State.fresh_clusters (s : State) : (s.fresh).clusters = s.clusters := rfl
@[simp] theorem State.fresh_mem (s : State) : (s.fresh).mem = s.mem := rfl
@[simp] theorem State.fresh_poison (s : State) : (s.fresh).poison = s.poison := rfl
@[simp] theorem State.fresh_tags (s : State) : (s.fresh).tags = s.tags := rfl
@[simp] theorem State.fresh_tagQueue (s : State) : (s.fresh).tagQueue = s.tagQueue := rfl
@[simp] theorem State.fresh_awayTags (s : State) : (s.fresh).awayTags = s.awayTags := rfl
@[simp] theorem State.fresh_peerLoads (s : State) : (s.fresh).peerLoads = s.peerLoads := rfl
@[simp] theorem State.fresh_net (s : State) : (s.fresh).net = s.net := rfl
@[simp] theorem State.fresh_loads (s : State) : (s.fresh).loads = s.loads := rfl
@[simp] theorem State.fresh_stores (s : State) : (s.fresh).stores = s.stores := rfl
@[simp] theorem State.fresh_mcsts (s : State) : (s.fresh).mcsts = s.mcsts := rfl
@[simp] theorem State.fresh_transfers (s : State) : (s.fresh).transfers = s.transfers := rfl
@[simp] theorem State.fresh_tickets (s : State) : (s.fresh).tickets = s.tickets := rfl
@[simp] theorem State.fresh_reports (s : State) : (s.fresh).reports = s.reports := rfl
@[simp] theorem State.fresh_capsules (s : State) : (s.fresh).capsules = s.capsules := rfl
@[simp] theorem State.fresh_worlds (s : State) : (s.fresh).worlds = s.worlds := rfl
@[simp] theorem State.fresh_routers (s : State) : (s.fresh).routers = s.routers := rfl
@[simp] theorem State.fresh_codeCache (s : State) : (s.fresh).codeCache = s.codeCache := rfl
@[simp] theorem State.fresh_scanned (s : State) : (s.fresh).scanned = s.scanned := rfl
@[simp] theorem State.fresh_keys (s : State) : (s.fresh).keys = s.keys := rfl
@[simp] theorem State.fresh_queues (s : State) : (s.fresh).queues = s.queues := rfl
@[simp] theorem State.fresh_windows (s : State) : (s.fresh).windows = s.windows := rfl
@[simp] theorem State.fresh_portOps (s : State) : (s.fresh).portOps = s.portOps := rfl
@[simp] theorem State.fresh_mgmt (s : State) : (s.fresh).mgmt = s.mgmt := rfl
@[simp] theorem State.fresh_outbox (s : State) : (s.fresh).outbox = s.outbox := rfl

/-! ### send -/

@[simp] theorem State.send_who (s : State) (m : Msg) : (s.send m).who = s.who := rfl
@[simp] theorem State.send_agenda (s : State) (m : Msg) : (s.send m).agenda = s.agenda := rfl
@[simp] theorem State.send_steps (s : State) (m : Msg) : (s.send m).steps = s.steps := rfl
@[simp] theorem State.send_cycle (s : State) (m : Msg) : (s.send m).cycle = s.cycle := rfl
@[simp] theorem State.send_podTick (s : State) (m : Msg) : (s.send m).podTick = s.podTick := rfl
@[simp] theorem State.send_threads (s : State) (m : Msg) : (s.send m).threads = s.threads := rfl
@[simp] theorem State.send_cores (s : State) (m : Msg) : (s.send m).cores = s.cores := rfl
@[simp] theorem State.send_clusters (s : State) (m : Msg) : (s.send m).clusters = s.clusters := rfl
@[simp] theorem State.send_mem (s : State) (m : Msg) : (s.send m).mem = s.mem := rfl
@[simp] theorem State.send_poison (s : State) (m : Msg) : (s.send m).poison = s.poison := rfl
@[simp] theorem State.send_tags (s : State) (m : Msg) : (s.send m).tags = s.tags := rfl
@[simp] theorem State.send_tagQueue (s : State) (m : Msg) : (s.send m).tagQueue = s.tagQueue := rfl
@[simp] theorem State.send_awayTags (s : State) (m : Msg) : (s.send m).awayTags = s.awayTags := rfl
@[simp] theorem State.send_peerLoads (s : State) (m : Msg) : (s.send m).peerLoads = s.peerLoads := rfl
@[simp] theorem State.send_loads (s : State) (m : Msg) : (s.send m).loads = s.loads := rfl
@[simp] theorem State.send_stores (s : State) (m : Msg) : (s.send m).stores = s.stores := rfl
@[simp] theorem State.send_mcsts (s : State) (m : Msg) : (s.send m).mcsts = s.mcsts := rfl
@[simp] theorem State.send_transfers (s : State) (m : Msg) : (s.send m).transfers = s.transfers := rfl
@[simp] theorem State.send_tickets (s : State) (m : Msg) : (s.send m).tickets = s.tickets := rfl
@[simp] theorem State.send_reports (s : State) (m : Msg) : (s.send m).reports = s.reports := rfl
@[simp] theorem State.send_capsules (s : State) (m : Msg) : (s.send m).capsules = s.capsules := rfl
@[simp] theorem State.send_worlds (s : State) (m : Msg) : (s.send m).worlds = s.worlds := rfl
@[simp] theorem State.send_routers (s : State) (m : Msg) : (s.send m).routers = s.routers := rfl
@[simp] theorem State.send_codeCache (s : State) (m : Msg) : (s.send m).codeCache = s.codeCache := rfl
@[simp] theorem State.send_scanned (s : State) (m : Msg) : (s.send m).scanned = s.scanned := rfl
@[simp] theorem State.send_keys (s : State) (m : Msg) : (s.send m).keys = s.keys := rfl
@[simp] theorem State.send_queues (s : State) (m : Msg) : (s.send m).queues = s.queues := rfl
@[simp] theorem State.send_windows (s : State) (m : Msg) : (s.send m).windows = s.windows := rfl
@[simp] theorem State.send_portOps (s : State) (m : Msg) : (s.send m).portOps = s.portOps := rfl
@[simp] theorem State.send_mgmt (s : State) (m : Msg) : (s.send m).mgmt = s.mgmt := rfl
@[simp] theorem State.send_outbox (s : State) (m : Msg) : (s.send m).outbox = s.outbox := rfl

/-! ### Sparse tables -/

/-- Skipping an erased key changes no read of another key. -/
theorem sget_serase {α : Type} (d : α) (m : Sparse α) (k j : Nat) (h : j ≠ k) : sget d (serase k m) j = sget d m j := by
  induction m with
  | nil => rfl
  | cons e m ih =>
    obtain ⟨k', v⟩ := e
    by_cases hk : k' = k <;> by_cases hj : k' = j <;> simp_all [serase, sget]

/-- An erased key reads as the default. -/
theorem sget_serase_self {α : Type} (d : α) (m : Sparse α) (k : Nat) : sget d (serase k m) k = d := by
  induction m with
  | nil => rfl
  | cons e m ih =>
    obtain ⟨k', v⟩ := e
    by_cases hk : k' = k <;> simp_all [serase, sget]

/-- An inserted pair is read at its key. -/
theorem sget_sinsert_self {α : Type} (d : α) (m : Sparse α) (k : Nat) (v : α) (h : ∀ e ∈ m, e.1 ≠ k) :
    sget d (sinsert k v m) k = v := by
  induction m with
  | nil => simp [sinsert, sget]
  | cons e m ih =>
    obtain ⟨k', v'⟩ := e
    have hk : k' ≠ k := h (k', v') (by simp)
    by_cases hl : k < k'
    · simp [sinsert, sget, hl]
    · simp only [sinsert, hl, if_false, sget, hk]
      exact ih fun e he => h e (by simp [he])

/-- An inserted pair changes no read of another key. -/
theorem sget_sinsert {α : Type} (d : α) (m : Sparse α) (k j : Nat) (v : α) (h : j ≠ k) :
    sget d (sinsert k v m) j = sget d m j := by
  induction m with
  | nil => simp [sinsert, sget, Ne.symm h]
  | cons e m ih =>
    obtain ⟨k', v'⟩ := e
    by_cases hl : k < k'
    · simp [sinsert, sget, hl, Ne.symm h]
    · simp only [sinsert, hl, if_false, sget]; rw [ih]

/-- No entry of an erased table has the erased key. -/
theorem serase_ne {α : Type} (m : Sparse α) (k : Nat) : ∀ e ∈ serase k m, e.1 ≠ k := by
  induction m with
  | nil => simp [serase]
  | cons e m ih =>
    obtain ⟨k', v'⟩ := e
    by_cases hk : k' = k
    · simpa [serase, hk] using ih
    · simp only [serase, hk, if_false, List.mem_cons]
      rintro e (rfl | he)
      · exact hk
      · exact ih e he

/-- Erasing an absent key changes nothing. -/
theorem serase_none {α : Type} (m : Sparse α) (k : Nat) (h : ∀ e ∈ m, e.1 ≠ k) : serase k m = m := by
  induction m with
  | nil => rfl
  | cons e m ih =>
    obtain ⟨k', v'⟩ := e
    have hk : k' ≠ k := h (k', v') (by simp)
    simp only [serase, hk, if_false]
    rw [ih fun e he => h e (by simp [he])]

/-- Read after write at the same key. -/
@[simp] theorem sget_sset_self {α : Type} [DecidableEq α] (d : α) (m : Sparse α) (k : Nat) (v : α) :
    sget d (sset d m k v) k = v := by
  unfold sset
  split
  · next h => rw [sget_serase_self, h]
  · exact sget_sinsert_self d _ k v (serase_ne m k)

/-- Read after write at another key. -/
theorem sget_sset_ne {α : Type} [DecidableEq α] (d : α) (m : Sparse α) (k j : Nat) (v : α) (h : j ≠ k) :
    sget d (sset d m k v) j = sget d m j := by
  unfold sset
  split
  · exact sget_serase d m k j h
  · rw [sget_sinsert d _ k j v h, sget_serase d m k j h]

/-- Read after write, at any key. -/
theorem sget_sset {α : Type} [DecidableEq α] (d : α) (m : Sparse α) (k j : Nat) (v : α) :
    sget d (sset d m k v) j = if j = k then v else sget d m j := by
  split
  · next h => subst h; exact sget_sset_self d m j v
  · next h => exact sget_sset_ne d m k j v h

/-- A write at a key that was erased again. -/
theorem serase_sinsert {α : Type} (m : Sparse α) (k : Nat) (v : α) (h : ∀ e ∈ m, e.1 ≠ k) : serase k (sinsert k v m) = m := by
  induction m with
  | nil => simp [sinsert, serase]
  | cons e m ih =>
    obtain ⟨k', v'⟩ := e
    have hk : k' ≠ k := h (k', v') (by simp)
    have hm : ∀ e ∈ m, e.1 ≠ k := fun e he => h e (by simp [he])
    have hs : serase k m = m := by simp [serase_none m k hm]
    by_cases hl : k < k' <;> simp [sinsert, serase, hl, hk, ih hm, hs]

/-- The later of two writes at one key stands. -/
theorem sset_sset {α : Type} [DecidableEq α] (d : α) (m : Sparse α) (k : Nat) (v w : α) :
    sset d (sset d m k v) k w = sset d m k w := by
  have : serase k (sset d m k v) = serase k m := by
    unfold sset
    split
    · exact serase_none _ _ (serase_ne m k)
    · exact serase_sinsert _ _ _ (serase_ne m k)
  unfold sset at this ⊢
  rw [this]

/-! ### Tables of State -/

theorem State.thr_setThr (s : State) (t n : Nat) (x : Thread) : (s.setThr t x).thr n = if n = t then x else s.thr n :=
  sget_sset _ _ _ _ _
@[simp] theorem State.thr_setThr_self (s : State) (t : Nat) (x : Thread) : (s.setThr t x).thr t = x := sget_sset_self _ _ _ _
theorem State.setThr_setThr (s : State) (t : Nat) (x y : Thread) : (s.setThr t x).setThr t y = s.setThr t y := by
  unfold State.setThr; simp [sset_sset]
theorem State.setMe_setMe (s : State) (x y : Thread) : (s.setMe x).setMe y = s.setMe y := State.setThr_setThr s s.who x y
@[simp] theorem State.me_setMe (s : State) (x : Thread) : (s.setMe x).me = x := sget_sset_self _ _ _ _
theorem State.thr_setMe_ne (s : State) (n : Nat) (x : Thread) (h : n ≠ s.who) : (s.setMe x).thr n = s.thr n :=
  sget_sset_ne _ _ _ _ _ h
theorem State.core_setCore (s : State) (c n : Nat) (x : Core) : (s.setCore c x).core n = if n = c then x else s.core n :=
  sget_sset _ _ _ _ _
@[simp] theorem State.core_setCore_self (s : State) (c : Nat) (x : Core) : (s.setCore c x).core c = x := sget_sset_self _ _ _ _
theorem State.cluster_setCluster (s : State) (c n : Nat) (x : Cluster) :
    (s.setCluster c x).cluster n = if n = c then x else s.cluster n := sget_sset _ _ _ _ _
@[simp] theorem State.cluster_setCluster_self (s : State) (c : Nat) (x : Cluster) : (s.setCluster c x).cluster c = x :=
  sget_sset_self _ _ _ _
theorem State.cap_setCap (s : State) (c n : Nat) (x : Capsule) : (s.setCap c x).cap n = if n = c then x else s.cap n :=
  sget_sset _ _ _ _ _
@[simp] theorem State.cap_setCap_self (s : State) (c : Nat) (x : Capsule) : (s.setCap c x).cap c = x := sget_sset_self _ _ _ _
theorem State.byte_setByte (s : State) (k j : Nat) (b : Byte) : (s.setByte k b).byte j = if j = k then b else s.byte j :=
  sget_sset _ _ _ _ _

@[simp] theorem State.core_setMe (s : State) (x : Thread) (c : Nat) : (s.setMe x).core c = s.core c := rfl
@[simp] theorem State.cluster_setMe (s : State) (x : Thread) (c : Nat) : (s.setMe x).cluster c = s.cluster c := rfl
@[simp] theorem State.cap_setMe (s : State) (x : Thread) (c : Nat) : (s.setMe x).cap c = s.cap c := rfl
@[simp] theorem State.byte_setMe (s : State) (x : Thread) (k : Nat) : (s.setMe x).byte k = s.byte k := rfl
@[simp] theorem State.me_setCore (s : State) (c : Nat) (x : Core) : (s.setCore c x).me = s.me := rfl
@[simp] theorem State.me_setCap (s : State) (n : Nat) (x : Capsule) : (s.setCap n x).me = s.me := rfl
@[simp] theorem State.me_setByte (s : State) (k : Nat) (b : Byte) : (s.setByte k b).me = s.me := rfl

/-! ### Registers of a thread -/

theorem Thread.rg_zero (t : Thread) : t.rg 0 = 0 := rfl
theorem Thread.rk_zero (t : Thread) : t.rk 0 = 0xFF := rfl

theorem Thread.rg_rawG (t : Thread) (n m : Nat) (v : Word) :
    (t.rawG n v).rg m = if m = n ∧ n ≠ 0 then v else t.rg m := by
  unfold Thread.rawG Thread.rg
  by_cases hn : n = 0 <;> by_cases hm : m = 0 <;> by_cases h : m = n <;> simp_all [sget_sset]

@[simp] theorem Thread.rg_cancel (t : Thread) (r : RegName) (m : Nat) : (t.cancel r).rg m = t.rg m := rfl
@[simp] theorem Thread.rv_cancel (t : Thread) (r : RegName) (m : Nat) : (t.cancel r).rv m = t.rv m := rfl
@[simp] theorem Thread.rk_cancel (t : Thread) (r : RegName) (m : Nat) : (t.cancel r).rk m = t.rk m := rfl
theorem Thread.rg_wg (t : Thread) (n m : Nat) (v : Word) : (t.wg n v).rg m = if m = n ∧ n ≠ 0 then v else t.rg m :=
  Thread.rg_rawG t n m v
theorem Thread.rv_rawV (t : Thread) (n m : Nat) (v : Vec) : (t.rawV n v).rv m = if m = n then v else t.rv m :=
  sget_sset _ _ _ _ _
theorem Thread.rv_wv (t : Thread) (n m : Nat) (v : Vec) : (t.wv n v).rv m = if m = n then v else t.rv m :=
  Thread.rv_rawV t n m v
theorem Thread.rk_wk (t : Thread) (n m : Nat) (v : BitVec 8) :
    (t.wk n v).rk m = if m = n ∧ n ≠ 0 then v else t.rk m := by
  unfold Thread.wk Thread.rk
  by_cases hn : n = 0 <;> by_cases hm : m = 0 <;> by_cases h : m = n <;> simp_all [sget_sset]
@[simp] theorem Thread.rv_rawG (t : Thread) (n m : Nat) (v : Word) : (t.rawG n v).rv m = t.rv m := by
  unfold Thread.rawG; split <;> rfl
@[simp] theorem Thread.rk_rawG (t : Thread) (n m : Nat) (v : Word) : (t.rawG n v).rk m = t.rk m := by
  unfold Thread.rawG; split <;> rfl
@[simp] theorem Thread.rg_rawV (t : Thread) (n m : Nat) (v : Vec) : (t.rawV n v).rg m = t.rg m := rfl
@[simp] theorem Thread.rk_rawV (t : Thread) (n m : Nat) (v : Vec) : (t.rawV n v).rk m = t.rk m := rfl

end Sys2Proof.Machine
end

