-- ==== Sys2Proof/Laws/Issue.lean ====
section
/-! SUPPORT. What the completion of an instruction does to a thread, and what issuing one can do. -/

namespace Sys2Proof.Machine

/-! ### Late results that fall due -/

/-- What `deliver` and `settle` leave alone: all but the registers and the pending destinations. -/
structure Settled (t u : Thread) (ps : List Pending) : Prop where
  same : { u with g := t.g, v := t.v, pending := t.pending } = t
  g : ∀ n, (∀ p ∈ ps, p.reg ≠ .g n) → u.rg n = t.rg n
  v : ∀ n, (∀ p ∈ ps, p.reg ≠ .v n) → u.rv n = t.rv n
  zero : u.rg 0 = 0

theorem Thread.land_settled (t : Thread) (r : RegName) (l : Late) (ps : List Pending) (h : ∃ p ∈ ps, p.reg = r) :
    Settled t (t.land r l) ps := by
  obtain ⟨p, hp, rfl⟩ := h
  cases hr : p.reg with
  | g n =>
    simp only [Thread.land]
    refine ⟨?_, fun m hm => ?_, fun m _ => Thread.rv_rawG _ _ _ _, rfl⟩
    · unfold Thread.rawG; split <;> rfl
    · rw [Thread.rg_rawG, if_neg]
      rintro ⟨rfl, -⟩
      exact hm p hp hr
  | v n =>
    simp only [Thread.land]
    refine ⟨rfl, fun m _ => rfl, fun m hm => ?_, rfl⟩
    rw [Thread.rv_rawV, if_neg]
    rintro rfl
    exact hm p hp hr

theorem Settled.trans {t u w : Thread} {ps : List Pending} (a : Settled t u ps) (b : Settled u w ps) : Settled t w ps where
  same := by
    have ha := a.same; have hb := b.same
    cases t; cases u; cases w
    simp_all
  g := fun n h => (b.g n h).trans (a.g n h)
  v := fun n h => (b.v n h).trans (a.v n h)
  zero := rfl

theorem Settled.mono {t u : Thread} {ps qs : List Pending} (a : Settled t u ps) (h : ∀ p ∈ ps, p ∈ qs) : Settled t u qs :=
  ⟨a.same, fun n hn => a.g n fun p hp => hn p (h p hp), fun n hn => a.v n fun p hp => hn p (h p hp), rfl⟩

theorem deliver_settled (ps : List Pending) (t : Thread) : Settled t (deliver ps t).2 ps := by
  induction ps generalizing t with
  | nil => exact ⟨rfl, fun _ _ => rfl, fun _ _ => rfl, rfl⟩
  | cons p ps ih =>
    have rest := fun u => (ih u).mono (qs := p :: ps) fun q hq => by simp [hq]
    unfold deliver
    split
    · split
      · exact (Thread.land_settled t p.reg _ _ ⟨p, by simp, rfl⟩).trans (rest _)
      · exact rest t
    · exact rest t

theorem Thread.settle_settled (t : Thread) : Settled t t.settle t.pending := by
  have h := deliver_settled t.pending t
  unfold Thread.settle
  exact ⟨by have := h.same; cases t; simp_all, h.g, h.v, rfl⟩

/-- What counting an instruction in the open windows does (R39). -/
structure Counted (t u : Thread) : Prop where
  same : { u with g := t.g, v := t.v, pending := t.pending, window := t.window } = t
  g : ∀ n, (∀ p ∈ t.pending, p.reg ≠ .g n) → u.rg n = t.rg n
  v : ∀ n, (∀ p ∈ t.pending, p.reg ≠ .v n) → u.rv n = t.rv n

theorem Thread.count_counted (t : Thread) : Counted t t.count := by
  have h := Thread.settle_settled { t with window := t.window - 1, pending := t.pending.map fun p => { p with left := p.left - 1 } }
  refine ⟨?_, fun n hn => h.g n ?_, fun n hn => h.v n ?_⟩
  · have := h.same
    unfold Thread.count
    cases t
    simp_all
  all_goals
    intro p hp
    simp only [List.mem_map] at hp
    obtain ⟨q, hq, rfl⟩ := hp
    exact hn q hq

/-- What the end test changes (R59). -/
theorem endTest_same (l : Nat) (p : Word) (t : Thread) :
    { endTest l p t with pc := t.pc, lcount := t.lcount, ldepth := t.ldepth } = t := by
  induction l generalizing t with
  | zero => rfl
  | succ l ih =>
    unfold endTest
    split
    · split
      · rfl
      · exact congrArg (fun u => { u with lcount := t.lcount }) (ih { t with lcount := sset 0 t.lcount l 0 })
    · rfl

/-- What the completion of an instruction does to its thread. -/
structure Advanced (t u : Thread) : Prop where
  same : { u with pc := t.pc, g := t.g, v := t.v, lcount := t.lcount, ldepth := t.ldepth, pending := t.pending,
                  window := t.window, wait := t.wait } = t
  g : ∀ n, (∀ p ∈ t.pending, p.reg ≠ .g n) → u.rg n = t.rg n
  v : ∀ n, (∀ p ∈ t.pending, p.reg ≠ .v n) → u.rv n = t.rv n
  k : ∀ n, u.rk n = t.rk n

theorem endTest_g (l : Nat) (p : Word) (t : Thread) : (endTest l p t).g = t.g := (congrArg Thread.g (endTest_same l p t) :)
theorem endTest_v (l : Nat) (p : Word) (t : Thread) : (endTest l p t).v = t.v := (congrArg Thread.v (endTest_same l p t) :)
theorem endTest_k (l : Nat) (p : Word) (t : Thread) : (endTest l p t).k = t.k := (congrArg Thread.k (endTest_same l p t) :)

theorem Thread.advance_advanced (t : Thread) : Advanced t t.advance := by
  have h := Thread.count_counted t
  have he := endTest_same t.count.ldepth.toNat t.count.pc t.count
  refine ⟨?_, fun n hn => ?_, fun n hn => ?_, fun n => ?_⟩
  · have := h.same
    unfold Thread.advance
    generalize t.count = c at *
    cases t; cases c
    simp_all
  · rw [← h.g n hn]; simp [Thread.rg, Thread.advance, endTest_g]
  · rw [← h.v n hn]; simp [Thread.rv, Thread.advance, endTest_v]
  · have := congrArg Thread.k h.same
    simp_all [Thread.rk, Thread.advance, endTest_k]

theorem Thread.jump_advanced (t : Thread) (a : Word) : Advanced t (t.jump a) := by
  have h := Thread.count_counted t
  refine ⟨?_, h.g, h.v, fun n => ?_⟩
  · have := h.same
    unfold Thread.jump
    generalize t.count = c at *
    cases t; cases c
    simp_all
  · have := congrArg Thread.k h.same
    simp_all [Thread.rk, Thread.jump]

theorem Counted.pc {t u : Thread} (h : Counted t u) : u.pc = t.pc := (congrArg Thread.pc h.same :)
theorem Counted.ldepth {t u : Thread} (h : Counted t u) : u.ldepth = t.ldepth := (congrArg Thread.ldepth h.same :)
theorem Counted.lcount {t u : Thread} (h : Counted t u) : u.lcount = t.lcount := (congrArg Thread.lcount h.same :)

theorem Thread.advance_pc (t : Thread) (h : t.ldepth = 0) : t.advance.pc = t.pc + 4 := by
  have hc := Thread.count_counted t
  simp [Thread.advance, hc.ldepth, hc.pc, h, endTest]

theorem Thread.advance_loops (t : Thread) (h : t.ldepth = 0) : t.advance.lcount = t.lcount ∧ t.advance.ldepth = 0 := by
  have hc := Thread.count_counted t
  simp [Thread.advance, hc.ldepth, hc.pc, hc.lcount, h, endTest]

theorem unwind_zero (a : Word) (t : Thread) : unwind 0 a t = 0 := rfl

theorem Thread.jump_loops (t : Thread) (a : Word) (h : t.ldepth = 0) : (t.jump a).lcount = t.lcount ∧ (t.jump a).ldepth = 0 := by
  have hc := Thread.count_counted t
  simp [Thread.jump, hc.ldepth, hc.lcount, h, unwind]

@[simp] theorem Thread.jump_pc (t : Thread) (a : Word) : (t.jump a).pc = a := rfl

/-! ### Frames of completed instructions -/

/-- Only registers of x differ from those of the issuing thread, outside its pending destinations. -/
structure RegsOnly (t x : Thread) (gs vs ks : List Nat) (flags : Bool) : Prop where
  same : { x with g := t.g, v := t.v, k := t.k, fcr := t.fcr, pending := t.pending } = t
  sub : ∀ p ∈ x.pending, p ∈ t.pending
  g : ∀ n, n ∉ gs → x.rg n = t.rg n
  v : ∀ n, n ∉ vs → x.rv n = t.rv n
  k : ∀ n, n ∉ ks → x.rk n = t.rk n
  fcr : flags = false → x.fcr = t.fcr
  rounding : x.fcr.toNat % 4 = t.fcr.toNat % 4

theorem RegsOnly.refl (t : Thread) (flags : Bool) : RegsOnly t t [] [] [] flags :=
  ⟨rfl, fun _ h => h, fun _ _ => rfl, fun _ _ => rfl, fun _ _ => rfl, fun _ => rfl, rfl⟩

theorem RegsOnly.frame {s : State} {x y : Thread} {gs vs ks : List Nat} {flags : Bool} (h : RegsOnly s.me x gs vs ks flags)
    (a : Advanced x y) (l : x.ldepth = 0 → y.lcount = x.lcount ∧ y.ldepth = 0) : RegFrame s (s.setMe y) gs vs ks flags := by
  have hx : x.ldepth = s.me.ldepth := (congrArg Thread.ldepth h.same :)
  have hc : x.lcount = s.me.lcount := (congrArg Thread.lcount h.same :)
  have hf : y.fcr = x.fcr := (congrArg Thread.fcr a.same :)
  refine ⟨rfl, fun n hn => State.thr_setMe_ne s n y hn, ?_, fun n hn hp => ?_, fun n hn hp => ?_, fun n hn => ?_, fun hfl => ?_,
    ?_, fun hl => ?_⟩ <;> rw [State.me_setMe]
  · have h1 := h.same; have h2 := a.same
    generalize s.me = t at *
    cases t; cases x; cases y
    simp_all
  · exact (a.g n fun p hp' => hp p (h.sub p hp')).trans (h.g n hn)
  · exact (a.v n fun p hp' => hp p (h.sub p hp')).trans (h.v n hn)
  · exact (a.k n).trans (h.k n hn)
  · exact hf.trans (h.fcr hfl)
  · rw [hf]; exact h.rounding
  · have := l (hx.trans hl); rw [hc] at this; exact this

@[simp] theorem Thread.pending_rawG (t : Thread) (d : Nat) (v : Word) : (t.rawG d v).pending = t.pending := by
  unfold Thread.rawG; split <;> rfl

theorem Thread.wg_regsOnly (t : Thread) (d : Nat) (v : Word) (flags : Bool) : RegsOnly t (t.wg d v) [d] [] [] flags := by
  refine ⟨?_, fun p hp => Thread.pending_rawG t d v ▸ (List.mem_filter.mp hp).1, fun n hn => ?_, fun n _ => ?_, fun n _ => ?_, fun _ => ?_, ?_⟩
  · unfold Thread.wg Thread.rawG Thread.cancel; split <;> rfl
  · rw [Thread.rg_wg, if_neg]; rintro ⟨rfl, -⟩; simp at hn
  · exact Thread.rv_rawG _ _ _ _
  · exact Thread.rk_rawG _ _ _ _
  · unfold Thread.wg Thread.rawG Thread.cancel; split <;> rfl
  · unfold Thread.wg Thread.rawG Thread.cancel; split <;> rfl

theorem Thread.wg_pending (t : Thread) (d : Nat) (v : Word) : ∀ p ∈ (t.wg d v).pending, p.reg ≠ .g d := by
  intro p hp
  simpa using (List.mem_filter.mp hp).2

/-- A register write and the completion of its instruction. -/
theorem State.writes_retire (s : State) (d : Nat) (v : Word) : Writes s (s.wg d v).retire d v := by
  have hr : RegsOnly s.me (s.me.wg d v) [d] [] [] false := Thread.wg_regsOnly _ _ _ _
  have ha := Thread.advance_advanced (s.me.wg d v)
  have e : (s.wg d v).retire = s.setMe ((s.me.wg d v).advance) := by
    unfold State.retire State.wg
    rw [State.me_setMe]
    exact State.setMe_setMe _ _ _
  rw [e]
  refine ⟨?_, fun h => ?_, hr.frame ha (Thread.advance_loops _)⟩
  · unfold State.rg
    rw [State.me_setMe, ha.g d (Thread.wg_pending _ _ _), Thread.rg_wg]
    by_cases h : d = 0 <;> simp [h, Thread.rg_zero]
  · have hl : (s.me.wg d v).ldepth = 0 := (congrArg Thread.ldepth hr.same :).trans h
    rw [State.me_setMe, Thread.advance_pc _ hl]
    exact congrArg (· + 4) (congrArg Thread.pc hr.same :)

theorem State.passes_retire (s : State) : Passes s s.retire :=
  ⟨fun h => by unfold State.retire; rw [State.me_setMe]; exact Thread.advance_pc _ h,
    (RegsOnly.refl s.me false).frame (Thread.advance_advanced _) (Thread.advance_loops _)⟩

/-! ### Issue -/

/-- The instruction may stand where it stands: no window is open, or it may stand in one (R39). -/
def State.Open (s : State) (u : Use) : Prop := u.barred = true → s.noWindow = true

theorem State.Open.window {s : State} {u : Use} (h : s.Open u) : (u.barred && !decide (s.me.window = 0)) = false := by
  cases hb : u.barred with
  | false => rfl
  | true => have := h hb; unfold State.noWindow at this; simp [this]

theorem State.open_useG (s : State) (w : Nat) (gs : List Nat) : s.Open (useG w gs) := fun h => by simp [useG] at h

/-- A ready thread's instruction has its effect. -/
theorem State.issue_ready {s : State} {u : Use} (h : s.ready u.gs u.vs u.ks = true) (w : s.Open u)
    (i : u.illegal = false) (body : State → Result) : s.issue u body = body s := by
  unfold State.ready at h
  rw [Bool.and_eq_true] at h
  have h1 : s.held u = none := Option.isNone_iff_eq_none.mp h.1
  have h2 : s.inRange u = true := h.2
  unfold State.issue
  rw [h1]
  simp [h2, i, w.window]

theorem State.issueMem_ready {s : State} {u : Use} (h : s.readyMem u.gs u.vs u.ks = true)
    (w : s.Open u) (i : u.illegal = false) (body : State → Result) :
    s.issueMem u body = body s := by
  unfold State.readyMem at h
  simp only [Bool.and_eq_true, Bool.not_eq_true'] at h
  unfold State.issueMem
  rw [if_neg (by simp [h.2])]
  exact State.issue_ready h.1 w i body

theorem State.issueRelease_ready {s : State} {u : Use} (h : s.readyRelease u.gs u.vs u.ks = true)
    (w : s.Open u) (i : u.illegal = false) (body : State → Result) :
    s.issueRelease u body = body s := by
  unfold State.readyRelease at h
  simp only [Bool.and_eq_true, Bool.not_eq_true'] at h
  unfold State.issueRelease
  rw [if_neg (by simp [h.2])]
  exact State.issueMem_ready h.1 w i body

/-- Everything that issuing an instruction can do. -/
theorem State.issue_cases {s t : State} {u : Use} {body : State → Result} (h : s.issue u body = .next t) :
    Waits s t ∨ Traps s t [causeIllegal, causeRegrange] ∨ body s = .next t := by
  unfold State.issue at h
  split at h
  · next r _ => exact .inl ⟨_, (Host.Outcome.next.inj h).symm⟩
  · split at h
    · exact .inr (.inl ⟨_, by simp, _, h⟩)
    · split at h
      · exact .inr (.inl ⟨_, by simp, _, h⟩)
      · exact .inr (.inr h)

theorem State.issueMem_cases {s t : State} {u : Use} {body : State → Result} (h : s.issueMem u body = .next t) :
    Waits s t ∨ Traps s t [causeIllegal, causeRegrange] ∨ body s = .next t := by
  unfold State.issueMem at h
  split at h
  · exact .inl ⟨_, (Host.Outcome.next.inj h).symm⟩
  · exact State.issue_cases h

theorem State.issueRelease_cases {s t : State} {u : Use} {body : State → Result} (h : s.issueRelease u body = .next t) :
    Waits s t ∨ Traps s t [causeIllegal, causeRegrange] ∨ body s = .next t := by
  unfold State.issueRelease at h
  split at h
  · exact .inl ⟨_, (Host.Outcome.next.inj h).symm⟩
  · exact State.issueMem_cases h

/-- A register operand outside the allotment traps (R17). -/
theorem State.issue_regrange {s : State} {u : Use} (h : s.held u = none) (r : s.inRange u = false)
    (w : s.Open u) (i : u.illegal = false) (body : State → Result) :
    s.issue u body = s.takeTrap causeRegrange (BitVec.ofNat 64 u.word) := by
  unfold State.issue
  rw [h]
  simp [r, i, w.window]

end Sys2Proof.Machine
end

