-- ==== Sys2Proof/Laws/Lanes.lean ====
section
/-! SUPPORT. Elements of vector registers, and what the forms that write registers do once they are ready. -/

namespace Sys2Proof.Machine

/-! ### Elements -/

theorem elem_testBit (v : Vec) (w i b : Nat) : (elem v w i).testBit b = (decide (b < w) && v.getLsbD (i * w + b)) := by
  unfold elem
  rw [Nat.testBit_mod_two_pow, Nat.testBit_div_two_pow, BitVec.getLsbD, Nat.add_comm]

theorem elem_lt (v : Vec) (w i : Nat) : elem v w i < 2 ^ w := Nat.mod_lt _ (Nat.two_pow_pos w)

theorem getLsbD_setElem (v : Vec) (w i x n : Nat) (hn : n < 512) :
    (setElem v w i x).getLsbD n = if i * w ≤ n ∧ n < i * w + w then x.testBit (n - i * w) else v.getLsbD n := by
  simp only [setElem, BitVec.getLsbD_or, BitVec.getLsbD_and, BitVec.getLsbD_not, BitVec.getLsbD_shiftLeft, BitVec.getLsbD_ofNat, hn,
    decide_true, Bool.true_and, Nat.testBit_two_pow_sub_one, Nat.testBit_mod_two_pow]
  by_cases h1 : n < i * w
  · have : ¬ (i * w ≤ n ∧ n < i * w + w) := by omega
    simp [h1, this]
  · by_cases h2 : n - i * w < w
    · have a : i * w ≤ n ∧ n < i * w + w := by omega
      have b : n - i * w < 512 := by omega
      simp [h1, h2, a, b]
    · have a : ¬ (i * w ≤ n ∧ n < i * w + w) := by omega
      simp [h1, h2, a]

theorem elem_setElem (v : Vec) (w i x : Nat) (h : i * w + w ≤ 512) : elem (setElem v w i x) w i = x % 2 ^ w := by
  apply Nat.eq_of_testBit_eq
  intro b
  rw [elem_testBit, Nat.testBit_mod_two_pow]
  by_cases hb : b < w
  · rw [getLsbD_setElem _ _ _ _ _ (by omega), if_pos (by omega), Nat.add_sub_cancel_left]
  · simp [hb]

theorem elem_setElem_ne (v : Vec) (w i j x : Nat) (h : j * w + w ≤ 512) (hne : j ≠ i) : elem (setElem v w i x) w j = elem v w j := by
  apply Nat.eq_of_testBit_eq
  intro b
  rw [elem_testBit, elem_testBit]
  by_cases hb : b < w
  · rw [getLsbD_setElem _ _ _ _ _ (by omega), if_neg]
    rintro ⟨h1, h2⟩
    rcases Nat.lt_or_gt_of_ne hne with hl | hl
    · have : (j + 1) * w ≤ i * w := Nat.mul_le_mul_right w hl
      rw [Nat.add_mul] at this
      omega
    · have : (i + 1) * w ≤ j * w := Nat.mul_le_mul_right w hl
      rw [Nat.add_mul] at this
      omega
  · simp [hb]

/-! ### fillElems -/

theorem fillElems_flags (w : Nat) (f : Nat → Nat × Nat) (l : List Nat) (v : Vec) (fl : Nat) :
    (fillElems w f l v fl).2 = l.foldl (fun fl i => fl ||| (f i).2) fl := by
  induction l generalizing v fl with
  | nil => rfl
  | cons i l ih => exact ih _ _

theorem fillElems_idle (w : Nat) (f : Nat → Nat × Nat) (l : List Nat) (v : Vec) (fl j : Nat) (h : j * w + w ≤ 512) (hj : j ∉ l) :
    elem (fillElems w f l v fl).1 w j = elem v w j := by
  induction l generalizing v fl with
  | nil => rfl
  | cons i l ih =>
    simp only [List.mem_cons, not_or] at hj
    exact (ih _ _ hj.2).trans (elem_setElem_ne _ _ _ _ _ h hj.1)

theorem fillElems_active (w : Nat) (f : Nat → Nat × Nat) (l : List Nat) (v : Vec) (fl j : Nat) (h : j * w + w ≤ 512) (hj : j ∈ l) :
    elem (fillElems w f l v fl).1 w j = (f j).1 % 2 ^ w := by
  induction l generalizing v fl with
  | nil => simp at hj
  | cons i l ih =>
    by_cases hm : j ∈ l
    · exact ih _ _ hm
    · have : j = i := by simpa [hm] using hj
      subst this
      exact (fillElems_idle w f l _ _ j h hm).trans (elem_setElem _ _ _ _ h)

theorem mem_actives_lt {s : State} {k w i : Nat} (h : i ∈ s.actives k w) : i < 512 / w :=
  List.mem_range.mp (List.mem_filter.mp h).1

theorem lane_fits {w i : Nat} (h : i < 512 / w) : i * w + w ≤ 512 := by
  have : (i + 1) * w ≤ 512 / w * w := Nat.mul_le_mul_right w h
  rw [Nat.add_mul] at this
  have := Nat.div_mul_le_self 512 w
  omega

/-! ### Register frames -/

theorem Thread.rounding_setFlags (t : Thread) (f : Nat) (h : f % 4 = 0) : (t.setFlags f).fcr.toNat % 4 = t.fcr.toNat % 4 := by
  simp only [Thread.setFlags, BitVec.toNat_or, BitVec.toNat_ofNat]
  rw [show (4 : Nat) = 2 ^ 2 from rfl, Nat.or_mod_two_pow, show f % 2 ^ 64 % 2 ^ 2 = 0 by omega, Nat.or_zero]

theorem RegsOnly.setFlags {t x : Thread} {gs vs ks : List Nat} {flags : Bool} (h : RegsOnly t x gs vs ks flags) (f : Nat)
    (hf : f % 4 = 0) : RegsOnly t (x.setFlags f) gs vs ks true :=
  ⟨h.same, h.sub, h.g, h.v, h.k, fun h => by simp at h, (Thread.rounding_setFlags x f hf).trans h.rounding⟩

theorem Thread.wv_regsOnly (t : Thread) (d : Nat) (v : Vec) (flags : Bool) : RegsOnly t (t.wv d v) [] [d] [] flags := by
  refine ⟨rfl, fun p hp => (List.mem_filter.mp hp).1, fun n _ => rfl, fun n hn => ?_, fun n _ => rfl, fun _ => rfl, rfl⟩
  rw [Thread.rv_wv, if_neg]
  rintro rfl
  simp at hn

theorem Thread.wk_regsOnly (t : Thread) (d : Nat) (v : BitVec 8) (flags : Bool) : RegsOnly t (t.wk d v) [] [] [d] flags := by
  refine ⟨?_, fun p hp => ?_, fun n _ => ?_, fun n _ => ?_, fun n hn => ?_, fun _ => ?_, ?_⟩
  · unfold Thread.wk; split <;> rfl
  · unfold Thread.wk at hp; split at hp <;> exact hp
  · unfold Thread.wk; split <;> rfl
  · unfold Thread.wk; split <;> rfl
  · rw [Thread.rk_wk, if_neg]; rintro ⟨rfl, -⟩; simp at hn
  · unfold Thread.wk; split <;> rfl
  · unfold Thread.wk; split <;> rfl

/-- The next PC after the completion of an instruction on a thread of which only registers have changed. -/
theorem RegsOnly.next {s : State} {x : Thread} {gs vs ks : List Nat} {flags : Bool} (h : RegsOnly s.me x gs vs ks flags)
    (l : s.me.ldepth = 0) : (s.setMe x.advance).me.pc = s.me.pc + 4 := by
  rw [State.me_setMe, Thread.advance_pc x ((congrArg Thread.ldepth h.same :).trans l)]
  exact congrArg (· + 4) (congrArg Thread.pc h.same :)

theorem Thread.advance_fcr (t : Thread) : t.advance.fcr = t.fcr := (congrArg Thread.fcr (Thread.advance_advanced t).same :)

theorem State.putF_next (s : State) (d : Nat) (r : Nat × Nat) :
    s.putF d r = .next (s.setMe (((s.me.wg d (BitVec.ofNat 64 r.1)).setFlags r.2).advance)) := by
  unfold State.putF State.retire State.wg
  simp only [State.me_setMe, State.setMe_setMe]

/-- A scalar result with flags. -/
theorem State.writesF_putF (s : State) (d : Nat) (r : Nat × Nat) (h : r.2 % 4 = 0) :
    ∃ t, s.putF d r = .next t ∧ WritesF s t d (BitVec.ofNat 64 r.1) r.2 := by
  refine ⟨_, s.putF_next d r, ?_⟩
  have hr := (Thread.wg_regsOnly s.me d (BitVec.ofNat 64 r.1) true).setFlags r.2 h
  have ha := Thread.advance_advanced ((s.me.wg d (BitVec.ofNat 64 r.1)).setFlags r.2)
  refine ⟨?_, ?_, hr.next, hr.frame ha (Thread.advance_loops _)⟩
  · unfold State.rg
    rw [State.me_setMe, ha.g d (Thread.wg_pending s.me d _)]
    change ((s.me.wg d _).rg d) = _
    rw [Thread.rg_wg]
    by_cases h : d = 0 <;> simp [h, Thread.rg_zero]
  · rw [State.me_setMe, Thread.advance_fcr]
    have := (Thread.wg_regsOnly s.me d (BitVec.ofNat 64 r.1) false).fcr rfl
    simp [Thread.setFlags, this]

theorem State.putV_next (s : State) (d : Nat) (r : Vec × Nat) :
    s.putV d r = .next (s.setMe (((s.me.wv d r.1).setFlags r.2).advance)) := by
  unfold State.putV State.retire State.wv
  simp only [State.me_setMe, State.setMe_setMe]

/-- A vector result with flags. -/
theorem State.writesV_putV (s : State) (d : Nat) (r : Vec × Nat) (h : r.2 % 4 = 0) :
    ∃ t, s.putV d r = .next t ∧ WritesV s t d r.1 r.2 := by
  refine ⟨_, s.putV_next d r, ?_⟩
  have hr := (Thread.wv_regsOnly s.me d r.1 true).setFlags r.2 h
  have ha := Thread.advance_advanced ((s.me.wv d r.1).setFlags r.2)
  refine ⟨?_, ?_, hr.next, hr.frame ha (Thread.advance_loops _)⟩
  · unfold State.rv
    rw [State.me_setMe, ha.v d]
    · change ((s.me.wv d _).rv d) = _
      rw [Thread.rv_wv, if_pos rfl]
    · intro p hp
      simpa using (List.mem_filter.mp hp).2
  · rw [State.me_setMe, Thread.advance_fcr]
    rfl

/-- A mask result with flags. -/
theorem State.writesK_putK (s : State) (d : Nat) (v : BitVec 8) (fl : Nat) (hd : d ≠ 0) (h : fl % 4 = 0) :
    WritesK s (((s.wk d v).setMe ((s.wk d v).me.setFlags fl)).retire) d v fl := by
  have e : ((s.wk d v).setMe ((s.wk d v).me.setFlags fl)).retire = s.setMe (((s.me.wk d v).setFlags fl).advance) := by
    unfold State.retire State.wk
    simp only [State.me_setMe, State.setMe_setMe]
  rw [e]
  have hr := (Thread.wk_regsOnly s.me d v true).setFlags fl h
  have ha := Thread.advance_advanced ((s.me.wk d v).setFlags fl)
  refine ⟨?_, ?_, hr.next, hr.frame ha (Thread.advance_loops _)⟩
  · unfold State.rk
    rw [State.me_setMe, ha.k d]
    change ((s.me.wk d _).rk d) = _
    rw [Thread.rk_wk, if_pos ⟨rfl, hd⟩]
  · rw [State.me_setMe, Thread.advance_fcr]
    have := (Thread.wk_regsOnly s.me d v false).fcr rfl
    simp [Thread.setFlags, this]

/-- An element-wise instruction that is ready. -/
theorem State.writesLanes (s : State) (d k w : Nat) (f : Nat → Nat × Nat) (h : ∀ i, (f i).2 % 4 = 0) :
    ∃ t, s.putV d (fillElems w f (s.actives k w) (s.rv d) 0) = .next t ∧ WritesLanes s t d k w f := by
  have hz : ∀ (l : List Nat) (a : Nat), a % 4 = 0 → l.foldl (fun fl i => fl ||| (f i).2) a % 4 = 0 := by
    intro l
    induction l with
    | nil => exact fun a ha => ha
    | cons i l ih =>
      intro a ha
      apply ih
      have := h i
      rw [show (4 : Nat) = 2 ^ 2 from rfl, Nat.or_mod_two_pow] at *
      simp_all
  obtain ⟨t, ht, hw⟩ := s.writesV_putV d (fillElems w f (s.actives k w) (s.rv d) 0) (by
    rw [fillElems_flags]; exact hz _ 0 rfl)
  refine ⟨t, ht, ⟨fun i hi => ?_, fun i hl hi => ?_, ?_, hw.next, hw.frame⟩⟩
  · rw [hw.value]
    exact fillElems_active w f _ _ _ i (lane_fits (mem_actives_lt hi)) hi
  · rw [hw.value]
    exact fillElems_idle w f _ _ _ i (lane_fits hl) hi
  · rw [hw.flags, fillElems_flags]

end Sys2Proof.Machine
end

