-- ==== Sys2Proof/Laws/Memory.lean ====
section
/-! SUPPORT. Memory: its canonical form and what keeps it, and reads after writes. -/

namespace Sys2Proof.Machine

/-! ### The canonical form of a table -/

/-- Keys of a canonical table lie above its bound. -/
theorem swfFrom_bound {α : Type} [DecidableEq α] {d : α} {b : Nat} {m : Sparse α} (h : swfFrom d (some b) m = true) :
    ∀ e ∈ m, b < e.1 := by
  induction m generalizing b with
  | nil => simp
  | cons e m ih =>
    obtain ⟨k, v⟩ := e
    simp only [swfFrom, Bool.and_eq_true, decide_eq_true_eq] at h
    rintro e (_ | ⟨_, he⟩)
    · exact h.1.1
    · exact Nat.lt_trans h.1.1 (ih h.2 e he)

/-- A lower bound may be weakened. -/
theorem swfFrom_mono {α : Type} [DecidableEq α] {d : α} {m : Sparse α} {lo lo' : Option Nat}
    (h : swfFrom d lo m = true) (hl : ∀ e ∈ m, ∀ b, lo' = some b → b < e.1) : swfFrom d lo' m = true := by
  cases m with
  | nil => rfl
  | cons e m =>
    obtain ⟨k, v⟩ := e
    simp only [swfFrom, Bool.and_eq_true, decide_eq_true_eq] at h ⊢
    refine ⟨⟨?_, h.1.2⟩, h.2⟩
    cases lo' with
    | none => rfl
    | some b => exact decide_eq_true (hl (k, v) (by simp) b rfl)

/-- What is left of a canonical table by a filter is canonical. -/
theorem swfFrom_filter {α : Type} [DecidableEq α] {d : α} (p : Nat × α → Bool) {m : Sparse α} {lo : Option Nat}
    (h : swfFrom d lo m = true) : swfFrom d lo (m.filter p) = true := by
  induction m generalizing lo with
  | nil => rfl
  | cons e m ih =>
    obtain ⟨k, v⟩ := e
    have hs := h
    simp only [swfFrom, Bool.and_eq_true, decide_eq_true_eq] at h
    by_cases hp : p (k, v) = true
    · simp only [List.filter_cons, hp, if_true, swfFrom, Bool.and_eq_true, decide_eq_true_eq]
      exact ⟨h.1, ih h.2⟩
    · simp only [List.filter_cons, hp]
      refine swfFrom_mono (ih h.2) fun e he b hb => ?_
      subst hb
      exact Nat.lt_trans (of_decide_eq_true h.1.1) (swfFrom_bound h.2 e (List.mem_filter.mp he).1)

theorem serase_eq_filter {α : Type} (k : Nat) (m : Sparse α) : serase k m = m.filter fun e => decide (e.1 ≠ k) := by
  induction m with
  | nil => rfl
  | cons e m ih =>
    obtain ⟨k', v⟩ := e
    by_cases h : k' = k <;> simp_all [serase]

/-- A key above the bound of a table may stand at its head. -/
theorem swfFrom_head {lo : Option Nat} {k : Nat} : (∀ b, lo = some b → b < k) →
    (match lo with
     | none => true
     | some b => decide (b < k)) = true := by
  intro hl
  cases lo with
  | none => rfl
  | some b => exact decide_eq_true (hl b rfl)

/-- Inserting a value that is not the default at a key the table does not hold keeps it canonical. -/
theorem swfFrom_sinsert {α : Type} [DecidableEq α] {d : α} {m : Sparse α} {lo : Option Nat} (k : Nat) (v : α)
    (h : swfFrom d lo m = true) (hv : v ≠ d) (hk : ∀ e ∈ m, e.1 ≠ k) (hl : ∀ b, lo = some b → b < k) :
    swfFrom d lo (sinsert k v m) = true := by
  induction m generalizing lo with
  | nil =>
    simp only [sinsert, swfFrom, Bool.and_true, Bool.and_eq_true, decide_eq_true_eq]
    exact ⟨swfFrom_head hl, hv⟩
  | cons e m ih =>
    obtain ⟨k', v'⟩ := e
    have hne : k' ≠ k := hk (k', v') (by simp)
    simp only [swfFrom, Bool.and_eq_true, decide_eq_true_eq] at h
    by_cases hlt : k < k'
    · simp only [sinsert, hlt, if_true, swfFrom, Bool.and_eq_true, decide_eq_true_eq]
      exact ⟨⟨swfFrom_head hl, hv⟩, ⟨trivial, h.1.2⟩, h.2⟩
    · have hgt : k' < k := by omega
      simp only [sinsert, hlt, if_false, swfFrom, Bool.and_eq_true, decide_eq_true_eq]
      exact ⟨h.1, ih h.2 (fun e he => hk e (by simp [he])) (fun b hb => by cases hb; exact hgt)⟩

/-- A write keeps the canonical form. -/
theorem swf_sset {α : Type} [DecidableEq α] {d : α} {m : Sparse α} (k : Nat) (v : α) (h : swf d m = true) :
    swf d (sset d m k v) = true := by
  have he : swf d (serase k m) = true := by rw [serase_eq_filter]; exact swfFrom_filter _ h
  unfold sset
  split
  · exact he
  · next hv => exact swfFrom_sinsert k v he hv (serase_ne m k) (fun b hb => by simp at hb)

theorem swf_filter {α : Type} [DecidableEq α] {d : α} {m : Sparse α} (p : Nat × α → Bool) (h : swf d m = true) :
    swf d (m.filter p) = true := swfFrom_filter p h

theorem swf_smerge {α : Type} [DecidableEq α] {d : α} {m : Sparse α} (base : Nat) (x : Sparse α) (h : swf d m = true) :
    swf d (smerge d base m x) = true := by
  unfold smerge
  induction x generalizing m with
  | nil => exact h
  | cons e x ih => exact ih (swf_sset _ _ h)

/-! ### Operations on memory that keep its form -/

theorem State.wf_setByte {s : State} (k : Nat) (b : Byte) (h : Memory.wf s.mem = true) : Memory.wf (s.setByte k b).mem = true :=
  swf_sset k b h

theorem State.wf_setBytes {s : State} (n : Nat) (k v : Nat) (h : Memory.wf s.mem = true) :
    Memory.wf (s.setBytes k n v).mem = true := by
  induction n generalizing s k v with
  | zero => exact h
  | succ n ih => exact ih _ _ (State.wf_setByte _ _ h)

theorem State.wf_setByteList {s : State} (l : List Byte) (k : Nat) (h : Memory.wf s.mem = true) :
    Memory.wf (s.setByteList k l).mem = true := by
  induction l generalizing s k with
  | nil => exact h
  | cons b l ih => exact ih _ (State.wf_setByte _ _ h)

theorem State.wf_setMem64 {s : State} (k : Nat) (v : Word) (h : Memory.wf s.mem = true) :
    Memory.wf (s.setMem64 k v).mem = true := State.wf_setBytes 8 k _ h

theorem Memory.wf_filter {m : List Host.Cell} (p : Host.Cell → Bool) (h : Memory.wf m = true) : Memory.wf (m.filter p) = true :=
  swf_filter p h

theorem State.wf_copyIn {s : State} (dst src n : Nat) (h : Memory.wf s.mem = true) :
    Memory.wf (smerge unlisted dst (sclear dst n s.mem) (sslice src n s.mem)) = true :=
  swf_smerge _ _ (swf_filter _ h)

theorem State.wf_reset : Memory.wf State.reset.mem = true := rfl

/-! ### Reads after writes -/

theorem State.byte_setBytes (s : State) (n k v j : Nat) :
    (s.setBytes k n v).byte j = if k ≤ j ∧ j < k + n then BitVec.ofNat 8 (v / 256 ^ (j - k)) else s.byte j := by
  induction n generalizing s k v with
  | zero => rw [if_neg (by omega)]; rfl
  | succ n ih =>
    simp only [State.setBytes]
    rw [ih, State.byte_setByte]
    by_cases h : j = k
    · subst h
      rw [if_neg (by omega), if_pos rfl, if_pos (by omega)]
      simp
    · by_cases hj : k + 1 ≤ j ∧ j < k + 1 + n
      · rw [if_pos hj, if_pos (by omega), Nat.div_div_eq_div_mul, ← Nat.pow_succ', Nat.succ_eq_add_one, show j - (k + 1) + 1 = j - k by omega]
      · rw [if_neg hj, if_neg h, if_neg (by omega)]

theorem State.bytes_congr {s t : State} (n k : Nat) (h : ∀ j, k ≤ j → j < k + n → s.byte j = t.byte j) :
    s.bytes k n = t.bytes k n := by
  induction n generalizing k with
  | zero => rfl
  | succ n ih =>
    simp only [State.bytes]
    rw [h k (by omega) (by omega), ih (k + 1) fun j h1 h2 => h j (by omega) (by omega)]

/-- The bytes just written are read back. -/
theorem State.bytes_setBytes (s : State) (n k v : Nat) : (s.setBytes k n v).bytes k n = v % 256 ^ n := by
  induction n generalizing s k v with
  | zero => simp [State.bytes, Nat.mod_one]
  | succ n ih =>
    have hk : ((s.setByte k (BitVec.ofNat 8 v)).setBytes (k + 1) n (v / 256)).byte k = BitVec.ofNat 8 v := by
      rw [State.byte_setBytes, if_neg (by omega), State.byte_setByte, if_pos rfl]
    simp only [State.setBytes, State.bytes]
    rw [ih, hk, BitVec.toNat_ofNat, Nat.pow_succ' (n := n), Nat.mod_mul]

theorem State.byte_setByteList (s : State) (l : List Byte) (k j : Nat) :
    (s.setByteList k l).byte j = if k ≤ j ∧ j < k + l.length then l.getD (j - k) 0 else s.byte j := by
  induction l generalizing s k with
  | nil => rw [if_neg (by simp)]; rfl
  | cons b l ih =>
    simp only [State.setByteList]
    rw [ih, State.byte_setByte, List.length_cons]
    by_cases h : j = k
    · subst h
      rw [if_neg (by omega), if_pos rfl, if_pos (by omega)]
      simp
    · by_cases hj : k + 1 ≤ j ∧ j < k + 1 + l.length
      · rw [if_pos hj, if_pos (by omega), show j - k = (j - (k + 1)) + 1 by omega]
        rfl
      · rw [if_neg hj, if_neg h, if_neg (by omega)]

/-! ### What a write leaves of a part of memory -/

/-- What a filter keeps is the same after an insertion that it drops. -/
theorem filter_sinsert {α : Type} (p : Nat × α → Bool) (k : Nat) (v : α) (m : Sparse α) (h : p (k, v) = false) :
    (sinsert k v m).filter p = m.filter p := by
  induction m with
  | nil => simp [sinsert, h]
  | cons e m ih => unfold sinsert; split <;> simp [List.filter_cons, h, ih]

/-- What a filter keeps is the same after a write at a key that it drops. -/
theorem filter_sset {α : Type} [DecidableEq α] (d : α) (p : Nat × α → Bool) (k : Nat) (v : α) (m : Sparse α) (h : ∀ x, p (k, x) = false) :
    (sset d m k v).filter p = m.filter p := by
  have he : (serase k m).filter p = m.filter p := by
    rw [serase_eq_filter, List.filter_filter]
    refine List.filter_congr fun e _ => ?_
    by_cases hk : e.1 = k
    · obtain ⟨a, b⟩ := e
      subst hk
      simp [h]
    · simp [hk]
  unfold sset
  split
  · exact he
  · rw [filter_sinsert _ _ _ _ (h v), he]

/-- What a filter keeps of memory is the same after a write of bytes that it drops. -/
theorem State.filter_setBytes (s : State) (p : Host.Cell → Bool) (n k v : Nat) (h : ∀ i x, i < n → p (k + i, x) = false) :
    (s.setBytes k n v).mem.filter p = s.mem.filter p := by
  induction n generalizing s k v with
  | zero => rfl
  | succ n ih =>
    refine (ih _ _ _ fun i x hi => ?_).trans (filter_sset _ _ _ _ _ fun x => h 0 x (by omega))
    rw [Nat.add_right_comm]
    exact h (i + 1) x (by omega)

/-- A part of memory, less a part of it, as one filter. -/
theorem sclear_sslice {α : Type} (a b k n : Nat) (m : Sparse α) :
    sclear a b (sslice k n m) = (m.filter fun e => decide ((e.1 - k < a ∨ a + b ≤ e.1 - k) ∧ k ≤ e.1 ∧ e.1 < k + n)).map fun e => (e.1 - k, e.2) := by
  simp only [sclear, sslice, List.filter_map, List.filter_filter, Function.comp_def, Bool.decide_and]

/-- A write changes memory alone. -/
theorem State.setBytes_eq (s : State) (n k v : Nat) : s.setBytes k n v = { s with mem := (s.setBytes k n v).mem } := by
  induction n generalizing s k v with
  | zero => rfl
  | succ n ih => exact (ih _ _ _).trans rfl

theorem State.mgmt_setBytes (s : State) (n k v : Nat) : (s.setBytes k n v).mgmt = s.mgmt := by rw [State.setBytes_eq]

theorem State.capsules_setBytes (s : State) (n k v : Nat) : (s.setBytes k n v).capsules = s.capsules := by rw [State.setBytes_eq]

theorem State.byteList_setBytes (s : State) (k n a m v : Nat) (h : k + n ≤ a ∨ a + m ≤ k) : (s.setBytes a m v).byteList k n = s.byteList k n := by
  refine List.map_congr_left fun i hi => ?_
  rw [State.byte_setBytes, if_neg]
  have := List.mem_range.1 hi
  omega

end Sys2Proof.Machine
end

