-- ==== Sys2Proof/Laws/Access.lean ====
section
/-! SUPPORT. What the shared endings of loads and stores do. -/

namespace Sys2Proof.Machine

/-! ### Late results -/

theorem lateG_value (v x : Word) :
    ((lateG v).data &&& (lateG v).mask).setWidth 64 ||| (x &&& ~~~((lateG v).mask.setWidth 64)) = v := by
  have h1 : (lateG v).mask.setWidth 64 = BitVec.allOnes 64 := by
    change ((BitVec.allOnes 64).setWidth 512).setWidth 64 = _
    decide
  have h2 : ((lateG v).data &&& (lateG v).mask).setWidth 64 = v := by
    rw [BitVec.setWidth_and, h1, BitVec.and_allOnes]
    simp [lateG]
  rw [h1, h2]
  simp

theorem Thread.land_cancel (t : Thread) (d : Nat) (v : Word) : (t.cancel (.g d)).land (.g d) (lateG v) = t.wg d v := by
  simp only [Thread.land]
  rw [lateG_value]
  unfold Thread.wg Thread.rawG Thread.cancel
  split <;> rfl

theorem State.finishLate_zero (s : State) (d : Nat) (v : Word) (far : Bool) :
    Writes s (s.finishLate (.g d) 0 (lateG v) far) d v := by
  cases d with
  | zero =>
    have e : s.finishLate (.g 0) 0 (lateG v) far = (s.setMe s.me).retire := rfl
    have e2 : (s.setMe s.me).retire = s.retire := by
      unfold State.retire
      rw [State.me_setMe, State.setMe_setMe]
    rw [e, e2]
    have h := (RegsOnly.refl s.me false)
    exact ⟨rfl, fun l => h.next l, by
      have := h.frame (Thread.advance_advanced s.me) (Thread.advance_loops _)
      exact ⟨this.rest, this.others, this.me, fun n _ => this.g n (by simp), this.v, this.k, this.fcr, this.rounding, this.loops⟩⟩
  | succ d =>
    have e : s.finishLate (.g (d + 1)) 0 (lateG v) far = (s.wg (d + 1) v).retire := by
      unfold State.finishLate State.wg
      rw [if_pos rfl, if_pos (show (RegName.g (d + 1)).takes = true from rfl), Thread.land_cancel]
    rw [e]
    exact s.writes_retire (d + 1) v

/-- A thread whose completed instruction has left g[d] waiting for a request behind a window. -/
def awaitThread (t : Thread) (id d la : Nat) : Thread :=
  let u := (t.cancel (.g d)).advance.openWindow la
  { u with pending := if (RegName.g d).takes then u.pending ++ [⟨id, .g d, la, none⟩] else u.pending }

theorem State.finishRequest_eq (s : State) (d la : Nat) :
    s.finishRequest (.g d) la = (s.setMe (awaitThread s.me s.nextId d la)).fresh := by
  unfold State.finishRequest awaitThread
  cases hT : (RegName.g d).takes <;> simp

/-- No earlier late result of g[d] is written as a request for it issues (R39). -/
theorem awaitThread_old (t : Thread) (id d la : Nat) : (awaitThread t id d la).rg d = t.rg d := by
  have h : (t.cancel (.g d)).advance.rg d = (t.cancel (.g d)).rg d :=
    (Thread.advance_advanced _).g d fun p hp => by
      have := (List.mem_filter.mp hp).2
      simpa using this
  exact h

theorem awaitThread_window (t : Thread) (id d la : Nat) : la ≤ (awaitThread t id d la).window := Nat.le_max_right _ _

theorem awaitThread_pending (t : Thread) (id d la : Nat) (h : d ≠ 0) : ⟨id, .g d, la, none⟩ ∈ (awaitThread t id d la).pending := by
  cases d with
  | zero => exact absurd rfl h
  | succ d => exact List.mem_append_right _ (List.mem_singleton.mpr rfl)

theorem awaited_same {t x : Thread}
    (h : { x with pc := t.pc, g := t.g, v := t.v, lcount := t.lcount, ldepth := t.ldepth, pending := t.pending,
                  window := t.window, wait := t.wait } = t) (q : List Pending) (n : Nat) :
    { ({ x with pending := q, window := n } : Thread) with
        pc := t.pc, g := t.g, v := t.v, k := t.k, fcr := t.fcr, lcount := t.lcount, ldepth := t.ldepth, pending := t.pending,
        window := t.window, wait := t.wait } = t := by
  cases t
  cases x
  simp_all

theorem awaitThread_frame (s : State) (id d la : Nat) : RegFrame s (s.setMe (awaitThread s.me id d la)) [d] [] [] false := by
  have ha := Thread.advance_advanced (s.me.cancel (.g d))
  have l := Thread.advance_loops (s.me.cancel (.g d))
  have hf := Thread.advance_fcr (s.me.cancel (.g d))
  have e : ∃ q w, awaitThread s.me id d la = { (s.me.cancel (.g d)).advance with pending := q, window := w } := by
    unfold awaitThread
    generalize (s.me.cancel (.g d)).advance = x
    exact ⟨_, _, rfl⟩
  obtain ⟨q, w, e⟩ := e
  rw [e]
  clear e
  generalize (s.me.cancel (.g d)).advance = x at *
  refine ⟨rfl, fun n hn => State.thr_setMe_ne s n _ hn, ?_, ?_, ?_, ?_, ?_, ?_, ?_⟩ <;> rw [State.me_setMe]
  · exact congrArg (fun y : Thread => { y with pending := s.me.pending }) (awaited_same ha.same q w)
  · exact fun n _ hp => ha.g n fun p hq => hp p (List.mem_filter.mp hq).1
  · exact fun n _ hp => ha.v n fun p hq => hp p (List.mem_filter.mp hq).1
  · exact fun n _ => ha.k n
  · exact fun _ => hf
  · exact congrArg (fun w : Word => w.toNat % 4) hf
  · exact l

/-- A late result of a g register whose value is fixed at issue. -/
theorem State.loadsG (s : State) (d la : Nat) (v : Word) (far : Bool) :
    LoadsG s (s.finishLate (.g d) la (lateG v) far) d la v far := by
  by_cases h0 : la = 0
  · subst h0
    exact ⟨fun _ => s.finishLate_zero d v far, fun h => absurd rfl h, fun h => absurd rfl h, fun h => absurd rfl h,
      fun h => absurd rfl h, fun h => absurd rfl h⟩
  · have e : s.finishLate (.g d) la (lateG v) far =
        { (s.finishRequest (.g d) la) with
          loads := s.loads ++ [⟨s.me.firing, coreOf s.who, s.nextId, .g d, lateG v, far⟩] } := by
      unfold State.finishLate
      rw [if_neg h0]
    rw [e, State.finishRequest_eq]
    refine ⟨fun h => absurd h h0, fun _ => ?_, fun _ hd => ?_, fun _ => rfl, fun _ => ?_, fun _ => awaitThread_frame s s.nextId d la⟩
    rotate_right
    · have h : (s.setMe (awaitThread s.me s.nextId d la)).me.rg d = s.me.rg d := by
        rw [State.me_setMe]
        exact awaitThread_old s.me s.nextId d la
      exact h
    · have h : ((s.setMe (awaitThread s.me s.nextId d la))).me.window = (awaitThread s.me s.nextId d la).window := by
        rw [State.me_setMe]
      exact h ▸ awaitThread_window _ _ _ _
    · have h : ((s.setMe (awaitThread s.me s.nextId d la))).me.pending = (awaitThread s.me s.nextId d la).pending := by
        rw [State.me_setMe]
      exact h ▸ awaitThread_pending _ _ _ _ hd

/-! ### Stores -/

theorem State.setBytes_rest (s : State) (n k v : Nat) : { s.setBytes k n v with mem := s.mem } = s := by rw [State.setBytes_eq]

theorem State.setByteList_rest (s : State) (l : List Byte) (k : Nat) : { s.setByteList k l with mem := s.mem } = s := by
  induction l generalizing s k with
  | nil => rfl
  | cons b l ih => exact congrArg (fun x : State => { x with mem := s.mem }) (ih (s.setByte k b) (k + 1))

/-- What a write at a place changes beside memory. -/
structure Written (s t : State) : Prop where
  rest : { t with mem := s.mem, poison := s.poison, codeCache := s.codeCache, clusters := s.clusters, outbox := s.outbox } = s
  clusters : ∀ c, { t.cluster c with openTiles := (s.cluster c).openTiles } = s.cluster c

theorem Written.trans {s t u : State} (a : Written s t) (b : Written t u) : Written s u where
  rest := (congrArg (fun x : State =>
    { x with mem := s.mem, poison := s.poison, codeCache := s.codeCache, clusters := s.clusters, outbox := s.outbox }) b.rest).trans
    a.rest
  clusters := fun c =>
    (congrArg (fun x : Cluster => { x with openTiles := (s.cluster c).openTiles }) (b.clusters c)).trans (a.clusters c)

theorem Written.ofMem {s t : State} (h : { t with mem := s.mem } = s) : Written s t where
  rest := congrArg (fun x : State =>
    { x with poison := s.poison, codeCache := s.codeCache, clusters := s.clusters, outbox := s.outbox }) h
  clusters := fun c => by
    have : t.clusters = s.clusters := (congrArg State.clusters h :)
    unfold State.cluster
    rw [this]

theorem Written.touched (s : State) (k n : Nat) : Written s (s.touched k n) := ⟨rfl, fun _ => rfl⟩

theorem Written.tiles (s : State) (cl : Nat) (l : List OpenTile) :
    Written s (s.setCluster cl { s.cluster cl with openTiles := l }) where
  rest := rfl
  clusters := fun c => by
    rw [State.cluster_setCluster]
    split
    · next h => subst h; rfl
    · rfl

theorem Written.spoilTile (s : State) (k : Nat) : Written s (s.spoilTile k) := by
  have e : ∃ a bs, s.scramble k = s.setByteList a bs := ⟨_, _, rfl⟩
  obtain ⟨a, bs, e⟩ := e
  have er : { s.scramble k with mem := s.mem } = s := e ▸ State.setByteList_rest s bs a
  unfold State.spoilTile
  clear e
  generalize s.scramble k = u at *
  split
  · have h : Written s u := Written.ofMem er
    have hc : u.cluster (tileAt k).1 = s.cluster (tileAt k).1 := by
      unfold State.cluster
      rw [show u.clusters = s.clusters from (congrArg State.clusters er :)]
    have h2 := Written.tiles u (tileAt k).1
      ((s.cluster (tileAt k).1).openTiles.map fun o => if o.tile = (tileAt k).2 then { o with spoiled := true } else o)
    rw [hc] at h2
    exact h.trans h2
  · exact ⟨rfl, fun _ => rfl⟩

theorem State.writePlace_written (s : State) (p : Place) (n v : Nat) : Written s (s.writePlace p n v) := by
  cases p with
  | peer pk a =>
    simp only [State.writePlace, State.toPod]
    split <;> exact ⟨rfl, fun c => rfl⟩
  | here k e =>
    exact ((Written.ofMem (s.setBytes_rest n k v)).trans (Written.touched _ k n)).trans (Written.spoilTile _ k)

theorem State.tileOpen_setBytes (s : State) (n k v j : Nat) : (s.setBytes k n v).tileOpen j = s.tileOpen j := by
  unfold State.tileOpen State.cluster
  rw [show (s.setBytes k n v).clusters = s.clusters from (congrArg State.clusters (s.setBytes_rest n k v) :)]

/-- Where no tile is open, a write at a place is a write of its bytes. -/
theorem State.writePlace_mem (s : State) (k : Nat) (e : Option Nat) (n v : Nat) (h : s.tileOpen k = false) :
    (s.writePlace (.here k e) n v).mem = (s.setBytes k n v).mem := by
  have h2 : ((s.setBytes k n v).touched k n).tileOpen k = false := (State.tileOpen_setBytes s n k v k).trans h
  simp only [State.writePlace, State.spoilTile, h2]
  rfl

/-- Where no tile is open, a write at a place leaves every cluster. -/
theorem State.writePlace_shut (s : State) (k : Nat) (e : Option Nat) (n v : Nat) (h : s.tileOpen k = false) (c : Nat) :
    (s.writePlace (.here k e) n v).cluster c = s.cluster c := by
  have h2 : ((s.setBytes k n v).touched k n).tileOpen k = false := (State.tileOpen_setBytes s n k v k).trans h
  simp only [State.writePlace, State.spoilTile, h2]
  unfold State.cluster
  exact congrArg (fun m => sget Cluster.reset m c) (congrArg State.clusters (s.setBytes_rest n k v) :)

/-- A write at a place of an open tile leaves the tile's bytes free, its entry spoiled, and every other byte and cluster (R29). -/
theorem State.writePlace_tile (s : State) (k : Nat) (e : Option Nat) (n v : Nat) (h : s.tileOpen k = true) :
    let t := s.writePlace (.here k e) n v
    MemFrame s t (fun x => span k n x ∨ span (accKey (tileAt k).1 ((tileAt k).2 * 4096)) 4096 x) ∧
    (t.cluster (tileAt k).1).openTiles =
      (s.cluster (tileAt k).1).openTiles.map (fun o => if o.tile = (tileAt k).2 then { o with spoiled := true } else o) ∧
    ∀ c, c ≠ (tileAt k).1 → t.cluster c = s.cluster c := by
  have h2 : ((s.setBytes k n v).touched k n).tileOpen k = true := (State.tileOpen_setBytes s n k v k).trans h
  have hc : ∀ c, ((s.setBytes k n v).touched k n).cluster c = s.cluster c := fun c => by
    unfold State.cluster
    exact congrArg (fun m => sget Cluster.reset m c) (congrArg State.clusters (s.setBytes_rest n k v) :)
  have hb : ∀ j, ((s.setBytes k n v).touched k n).byte j = (s.setBytes k n v).byte j := fun _ => rfl
  simp only [State.writePlace, State.spoilTile, h2, if_true]
  obtain ⟨l, hl, e⟩ : ∃ l : List Byte, l.length = 4096 ∧ ((s.setBytes k n v).touched k n).scramble k =
      ((s.setBytes k n v).touched k n).setByteList (accKey (tileAt k).1 ((tileAt k).2 * 4096)) l :=
    ⟨_, by rw [List.length_map, List.length_range], rfl⟩
  rw [e]
  clear e
  generalize (s.setBytes k n v).touched k n = u at *
  have er := State.setByteList_rest u l (accKey (tileAt k).1 ((tileAt k).2 * 4096))
  refine ⟨fun j hj => ?_, ?_, fun c hne => ?_⟩
  · rw [not_or] at hj
    simp only [span] at hj
    change (u.setByteList _ l).byte j = _
    rw [State.byte_setByteList, hl, if_neg hj.2, hb, State.byte_setBytes, if_neg hj.1]
  · rw [State.cluster_setCluster_self, hc]
  · rw [State.cluster_setCluster, if_neg hne, ← hc]
    unfold State.cluster
    exact congrArg (fun m => sget Cluster.reset m c) (congrArg State.clusters er :)

/-! ### The end of a store -/

theorem State.bytes_of_mem {s t : State} (h : s.mem = t.mem) (k n : Nat) : s.bytes k n = t.bytes k n :=
  State.bytes_congr n k fun j _ _ => by unfold State.byte; rw [h]

/-- What a store's thread may show once the store has completed. -/
structure StoreThread (t u : Thread) (la : Nat) : Prop where
  window : la ≤ u.window
  next : t.ldepth = 0 → u.pc = t.pc + 4
  g : ∀ m, (∀ q ∈ t.pending, q.reg ≠ .g m) → u.rg m = t.rg m
  v : ∀ m, (∀ q ∈ t.pending, q.reg ≠ .v m) → u.rv m = t.rv m
  same : { u with pc := t.pc, g := t.g, v := t.v, lcount := t.lcount, ldepth := t.ldepth, pending := t.pending,
                  window := t.window, wait := t.wait, unacked := t.unacked } = t

theorem storeThread (t u : Thread) (n la : Nat) (h : u = { t with unacked := n }) :
    StoreThread t (u.advance.openWindow la) la := by
  have ha := Thread.advance_advanced u
  have hp := Thread.advance_pc u
  generalize u.advance = x at *
  subst h
  refine ⟨Nat.le_max_right _ _, hp, ha.g, ha.v, ?_⟩
  have hs := ha.same
  cases t
  cases x
  simp_all [Thread.openWindow]

/-- Counting a store and completing it touches the thread, the counts of unacknowledged stores and the list of them. -/
theorem State.finish_store (w : State) (la : Nat) :
    ∃ x q, w.noteStore.finishOpen la =
        { (w.setMe x) with stores := w.stores ++ [(w.me.firing, coreOf w.who)], cores := q } ∧
      StoreThread w.me x la ∧ ∀ c, { sget Core.reset q c with unacked := (w.core c).unacked } = w.core c := by
  have hr : ∀ u : State, u.finishOpen la = u.setMe (u.me.advance.openWindow la) := fun u => by
    change (u.setMe u.me.advance).setMe ((u.setMe u.me.advance).me.openWindow la) = _
    rw [State.me_setMe, State.setMe_setMe]
  rw [hr]
  unfold State.noteStore
  by_cases h : w.me.firing = 0
  · refine ⟨w.me.advance.openWindow la,
      sset Core.reset w.cores (coreOf w.who) { w.myCore with unacked := w.myCore.unacked + 1 }, ?_, ?_, fun c => ?_⟩
    · simp only [h, if_pos]
      rfl
    · exact storeThread w.me w.me w.me.unacked la rfl
    · rw [sget_sset]
      split
      · next h => subst h; rfl
      · rfl
  · refine ⟨({ w.me with unacked := w.me.unacked + 1 } : Thread).advance.openWindow la, w.cores, ?_, ?_, fun c => rfl⟩
    · simp only [h, if_false]
      generalize hy : ({ w.me with unacked := w.me.unacked + 1 } : Thread) = y
      have e : ({ w with stores := w.stores ++ [(w.me.firing, coreOf w.who)] } : State).me = w.me := rfl
      rw [e, hy, State.me_setMe, State.setMe_setMe]
      rfl
    · exact storeThread w.me _ _ la rfl

/-- A store that has passed its checks. -/
theorem State.stores_finish (s : State) (p : Place) (n v la : Nat) :
    Stores s ((s.writePlace p n v).noteStore.finishOpen la) p n v la := by
  have hw := s.writePlace_written p n v
  have hp : ∀ pk a, p = .peer pk a →
      (s.writePlace p n v).mem = s.mem ∧ (s.writePlace p n v).outbox = (s.toPod pk 1 (toBytes 8 a ++ toBytes n v)).outbox :=
    fun pk a e => by
      subst e
      refine ⟨?_, rfl⟩
      simp only [State.writePlace, State.toPod]
      split <;> rfl
  have hh : ∀ k e, p = .here k e → s.tileOpen k = false → (s.writePlace p n v).mem = (s.setBytes k n v).mem :=
    fun k e h ho => by subst h; exact s.writePlace_mem k e n v ho
  have hs : ∀ k e, p = .here k e → s.tileOpen k = false → ∀ c, (s.writePlace p n v).cluster c = s.cluster c :=
    fun k e h ho => by subst h; exact s.writePlace_shut k e n v ho
  have hl := fun k e (h : p = .here k e) (ho : s.tileOpen k = true) => h ▸ s.writePlace_tile k e n v ho
  generalize s.writePlace p n v = w at *
  have ht : w.threads = s.threads := (congrArg State.threads hw.rest :)
  have hwho : w.who = s.who := (congrArg State.who hw.rest :)
  have hst : w.stores = s.stores := (congrArg State.stores hw.rest :)
  have hcores : w.cores = s.cores := (congrArg State.cores hw.rest :)
  have hthr : ∀ m, w.thr m = s.thr m := fun m => by unfold State.thr; rw [ht]
  have hcore : ∀ c, w.core c = s.core c := fun c => by unfold State.core; rw [hcores]
  have hme : w.me = s.me := by unfold State.me; rw [hwho]; exact hthr _
  obtain ⟨x, q, e, hx, hq⟩ := w.finish_store la
  rw [e]
  have hxme : (w.setMe x).me = x := State.me_setMe _ _
  rw [hme] at hx
  have hb : ∀ k j, ({ (w.setMe x) with stores := w.stores ++ [(w.me.firing, coreOf w.who)], cores := q } : State).bytes k j =
      w.bytes k j := fun k j =>
    State.bytes_of_mem (s := { (w.setMe x) with stores := w.stores ++ [(w.me.firing, coreOf w.who)], cores := q }) (t := w) rfl k j
  refine ⟨fun k a h ho => ?_, fun k a h ho => hl k a h ho, fun k a h ho => hs k a h ho, fun pk a h => hp pk a h, ?_, ?_, ?_, ?_, ?_, ?_, ?_, ?_, ?_, ?_⟩
  · have hm := hh k a h ho
    refine ⟨?_, fun j hj => ?_⟩
    · rw [hb, State.bytes_of_mem hm]
      exact State.bytes_setBytes _ _ _ _
    · change w.byte j = s.byte j
      have h1 : w.byte j = (s.setBytes k n v).byte j := by unfold State.byte; rw [hm]
      rw [h1, State.byte_setBytes, if_neg (show ¬(k ≤ j ∧ j < k + n) from hj)]
  · rw [hst, hme, hwho]
  · change la ≤ (w.setMe x).me.window
    rw [hxme]
    exact hx.window
  · change _ → (w.setMe x).me.pc = _
    rw [hxme]
    exact hx.next
  · change ∀ m, _ → (w.setMe x).me.rg m = _
    rw [hxme]
    exact hx.g
  · change ∀ m, _ → (w.setMe x).me.rv m = _
    rw [hxme]
    exact hx.v
  · have h := hx.same
    rw [← hxme] at h
    exact h
  · exact fun m hm => (State.thr_setMe_ne w m x (hwho ▸ hm)).trans (hthr m)
  · exact fun c => (hcore c) ▸ hq c
  · exact hw.clusters
  · exact congrArg (fun y : State => { y with threads := s.threads, cores := s.cores, stores := s.stores }) hw.rest

end Sys2Proof.Machine
end

