-- ==== Sys2Proof/Laws/Preempt.lean ====
section
/-! SUPPORT. What a mark in the error log (R237), a withdrawn tag request (R151) and the interrupt of a pre-emption (R175) leave alone. -/

namespace Sys2Proof.Machine

/-- A mark in the error log changes management alone (R237). -/
theorem State.logForgery_rest (s : State) (k n : Nat) : { s.logForgery k n with mgmt := s.mgmt } = s := by
  unfold State.logForgery
  split <;> rfl

/-- A word for a peer changes the outbox alone. -/
theorem State.toPod_rest (s : State) (id what : Nat) (data : List Byte) : { s.toPod id what data with outbox := s.outbox } = s := by
  unfold State.toPod
  split <;> rfl

/-- Withdrawing tag requests changes their queues and the outbox alone (R151). -/
theorem State.withdraw_rest (s : State) (gone : Nat → Bool) :
    { s.withdraw gone with tagQueue := s.tagQueue, awayTags := s.awayTags, outbox := s.outbox } = s := by
  have h : ∀ (l : List AwayTag) (u : State), { u with tagQueue := s.tagQueue, awayTags := s.awayTags, outbox := s.outbox } = s →
      { l.foldl (fun acc a => State.toPod acc a.pod 27 (toBytes 8 a.address ++ toBytes 4 (acc.originOf a.thread).toNat)) u with
        tagQueue := s.tagQueue, awayTags := s.awayTags, outbox := s.outbox } = s := by
    intro l
    induction l with
    | nil => exact fun u hu => hu
    | cons a l ih =>
      intro u hu
      refine ih _ (Eq.trans ?_ hu)
      exact congrArg (fun x : State => { x with tagQueue := s.tagQueue, awayTags := s.awayTags, outbox := s.outbox }) (State.toPod_rest u _ _ _)
  exact h _ _ rfl

/-- What PREEMPT does as it reaches a core, beside the capsule, the core's halt and the queues of tag requests: nothing (R175). -/
theorem State.interrupt_rest (s : State) (core : Nat) :
    { s.interrupt core with tagQueue := s.tagQueue, awayTags := s.awayTags, outbox := s.outbox, cores := s.cores, capsules := s.capsules } = s := by
  have hu : { s.unhalt core with cores := s.cores } = s := by
    cases hk : (s.core core).halted <;> simp only [State.unhalt, hk, if_true, if_false, Bool.false_eq_true] <;> rfl
  simp only [State.interrupt]
  generalize s.unhalt core = u at *
  generalize (u.cap (s.capOf core)).reached.contains core = b
  cases b <;> simp only [if_true, if_false, Bool.false_eq_true]
  rotate_left
  · exact congrArg (fun x : State =>
      { x with tagQueue := s.tagQueue, awayTags := s.awayTags, outbox := s.outbox, cores := s.cores, capsules := s.capsules }) hu
  · have hw := State.withdraw_rest u fun t => decide (coreOf t = core)
    generalize u.withdraw (fun t => decide (coreOf t = core)) = w at *
    exact (congrArg (fun x : State =>
      { x with tagQueue := s.tagQueue, awayTags := s.awayTags, outbox := s.outbox, cores := s.cores, capsules := s.capsules }) hw).trans
      (congrArg (fun x : State =>
      { x with tagQueue := s.tagQueue, awayTags := s.awayTags, outbox := s.outbox, cores := s.cores, capsules := s.capsules }) hu)

/-- Saving a thread changes it, its capsule and the queues of tag requests alone (R175). -/
theorem State.saveThread_rest (s : State) (n t : Nat) :
    { s.saveThread n t with tagQueue := s.tagQueue, awayTags := s.awayTags, outbox := s.outbox, threads := s.threads, capsules := s.capsules } = s := by
  simp only [State.saveThread]
  generalize (!(s.thr t).live) = b
  cases b <;> simp only [if_true, if_false, Bool.false_eq_true]
  · generalize hu : s.setCap n _ = u
    have hc : { u with capsules := s.capsules } = s := hu ▸ rfl
    have hw := State.withdraw_rest u fun r => decide (r = t)
    generalize u.withdraw (fun r => decide (r = t)) = w at *
    exact (congrArg (fun x : State =>
      { x with tagQueue := s.tagQueue, awayTags := s.awayTags, outbox := s.outbox, threads := s.threads, capsules := s.capsules }) hw).trans
      (congrArg (fun x : State =>
      { x with tagQueue := s.tagQueue, awayTags := s.awayTags, outbox := s.outbox, threads := s.threads, capsules := s.capsules }) hc)

end Sys2Proof.Machine
end

