-- ==== Sys2Proof/Laws/Records.lean ====
section
/-! SUPPORT. Resume records: what their MAC covers (R208), and how admission reads one (R195). -/

namespace Sys2Proof.Machine

/-- The MAC of a record does not depend on the bytes that hold it (R208). -/
theorem State.recordMac_setBytes (s : State) (digest k tail v : Nat) :
    (s.setBytes (k + tail) 64 v).recordMac digest k tail = s.recordMac digest k tail := by
  unfold State.recordMac
  rw [State.mgmt_setBytes, sclear_sslice, State.filter_setBytes, ← sclear_sslice]
  intro i x hi
  simp only [decide_eq_false_iff_not]
  omega

theorem mod_pow_byte (x n : Nat) : x % 2 ^ (8 * n) % 256 ^ n = x % 2 ^ (8 * n) := by
  have e : (2 : Nat) ^ (8 * n) = 256 ^ n := Nat.pow_mul 2 8 n
  rw [e, Nat.mod_mod]

/-- A MAC that is written whole is read back. -/
theorem State.bytes_recordMac (s : State) (digest k tail : Nat) :
    (s.setBytes (k + tail) 64 (s.recordMac digest k tail)).bytes (k + tail) 64 = s.recordMac digest k tail :=
  (State.bytes_setBytes _ _ _ _).trans (mod_pow_byte _ 64)

/-- A record that holds its MAC verifies (R208). -/
theorem State.recordVerifies_setBytes (s : State) (digest k tail : Nat) :
    (s.setBytes (k + tail) 64 (s.recordMac digest k tail)).recordVerifies digest k tail = true := by
  refine decide_eq_true ?_
  rw [State.bytes_recordMac, State.recordMac_setBytes]

/-- A record in one extent, that can be read and names an image that can: admission reads the image (R195). -/
theorem State.readEntry_record {s : State} {c : Capsule} {k : Nat} {b : List Byte} (hd : c.derived = false)
    (hk : mappedKey c.mapping c.image.va c.image.length = some k) (hp : s.poisoned k c.image.length = false)
    (hr : isRecord (s.byteList k 64) = true) (hn : 64 ≤ c.image.length)
    (hi : s.imageBytes c.mapping (parseRecord (s.byteList k 64)).imageVa (parseRecord (s.byteList k 64)).imageLength = some b) :
    s.readEntry c = some (b, (parseRecord (s.byteList k 64)).imageVa, (parseRecord (s.byteList k 64)).imageLength,
      some (parseRecord (s.byteList k 64), k, c.image.length)) := by
  simp [State.readEntry, hd, hk, hp, hr, hn, hi]

end Sys2Proof.Machine
end

