-- ==== Sys2Proof/Tests/Slice0.lean ====
section
/-! SUPPORT. Words that the manual writes out, terms that are ill-formed, single steps with results worked out by hand from the manual, and for every
statement a state and operands that meet its hypotheses. -/

open Sys2Proof Sys2Proof.Machine

namespace Sys2Proof.Tests

set_option Elab.async false

/-! ### Small states -/

/-- A machine with one live thread, T0 of core 0 of a capsule of one cluster, with all registers. -/
def machine : State := State.reset.placeWord 0

/-- The machine with registers set. -/
def withG (l : List (Nat × Word)) : State := machine.setMe (l.foldl (fun t p => t.wg p.1 p.2) machine.me)

/-- The machine with the issuing thread changed. -/
def withMe (f : Thread → Thread) : State := machine.setMe (f machine.me)

/-- The machine with its capsule changed. -/
def withCap (f : Capsule → Capsule) : State := machine.setCap 1 (f (machine.cap 1))

/-- A scratchpad address of the thread's own cluster (R30). -/
def spad (o : Nat) : Word := BitVec.ofNat 64 (0x8000000800000000 + o)

/-- A TCM address of the thread's own core. -/
def tcm (o : Nat) : Word := BitVec.ofNat 64 (0x8000000000000000 + o)

/-- What an outcome's state reads as under f, or d where there is none. -/
def look {α : Type} (d : α) (f : State → α) : Host.Outcome State Fault Refusal → α
  | .next t => f t
  | _ => d

/-- A read that succeeds has a value. -/
theorem reads {ε α : Type} {x : Except ε α} (h : (match x with | .ok _ => true | .error _ => false) = true) : ∃ a, x = .ok a := by
  cases x with
  | error e => exact nomatch h
  | ok a => exact ⟨a, rfl⟩

/-- A read that succeeds has a value with the property that its result has. -/
theorem readsWith {ε α : Type} {x : Except ε α} {p : α → Bool} (h : (match x with | .ok a => p a | .error _ => false) = true) :
    ∃ a, x = .ok a ∧ p a = true := by
  cases x with
  | error e => exact nomatch h
  | ok a => exact ⟨a, rfl, h⟩

/-- A place that is reached. -/
theorem reaches {x : Except Nat Place} {p : Place} (h : (match x with | .ok q => decide (q = p) | .error _ => false) = true) : x = .ok p := by
  cases x with
  | error e => exact nomatch h
  | ok q => exact congrArg _ (of_decide_eq_true h)

/-- A read that gives a value. -/
theorem gives {α : Type} [DecidableEq α] {x : Except Nat α} {p : α} (h : (match x with | .ok q => decide (q = p) | .error _ => false) = true) : x = .ok p := by
  cases x with
  | error e => exact nomatch h
  | ok q => exact congrArg _ (of_decide_eq_true h)

/-- A place that is not reached. -/
theorem stops {ε α : Type} [DecidableEq ε] {x : Except ε α} {e : ε} (h : (match x with | .ok _ => false | .error c => decide (c = e)) = true) : x = .error e := by
  cases x with
  | error c => exact congrArg _ (of_decide_eq_true h)
  | ok q => exact nomatch h

/-- What is found has the property that it has. -/
theorem finds {α : Type} {x : Option α} {p : α → Bool} (h : (match x with | some g => p g | none => false) = true) : ∃ g, x = some g ∧ p g = true := by
  cases x with
  | none => exact nomatch h
  | some g => exact ⟨g, rfl, h⟩

/-! ### Words that the manual writes out beside their sources -/

/-- R65, R67, R54. -/
theorem test_manual_words_scalar :
    decodeWord 0x00D0C2AC = some (.stl 6 5 .d .clu 0) ∧
    decodeWord 0x00A8632C = some (.stl 3 6 .w .pod 0) ∧
    decodeWord 0x0040A03D = some (.srw 8 5) ∧
    decodeWord 0x00000002 = some (.addi 0 0 0) := by
  decide +kernel

/-- R95, R96, R101, R102, R104, R106. -/
theorem test_manual_words_float_and_vector :
    decodeWord 0x9038C2D4 = some (.fmsS 5 6 7 8) ∧
    decodeWord 0x1000C2D5 = some (.fcvt 5 6 false .f32 .f64) ∧
    decodeWord 0xE000C2D5 = some (.fcvt 5 6 true .i32 .f64) ∧
    decodeWord 0xC000C0E0 = some (.vld 1 12 0 .d 0) ∧
    decodeWord 0x101CC1E4 = some (.vgth 3 12 7 1 0) ∧
    decodeWord 0x00CC5267 = some (.vfaddS 4 5 6 3) ∧
    decodeWord 0x120620EA = some (.vadds 1 2 3 .h 0) := by
  decide +kernel

/-- R107, R110, R113. -/
theorem test_manual_words_masks_and_moves :
    decodeWord 0x200620EB = some (.vcmp 1 2 3 2 .f64 false 0) ∧
    decodeWord 0x0E06016E = some (.extr 6 2 0 .d) ∧
    decodeWord 0x0A00F171 = some (.kli 2 0x0F) := by
  decide +kernel

/-- R140, R141, R144, R148, R152. -/
theorem test_manual_words_memory_and_messages :
    decodeWord 0x0038C2B0 = some (.amoAdd 5 6 7 0) ∧
    decodeWord 0xE438C031 = some (.amopFaddd 6 7 2) ∧
    decodeWord 0x0038C2B2 = some (.casD 5 6 7 0) ∧
    decodeWord 0x025944B5 = some (.spawn 9 10 11 1) ∧
    decodeWord 0x2001C82D = some (.ldfF 16 14) ∧
    decodeWord 0x2041C02E = some (.fill 14 8) ∧
    decodeWord 0x0029C02F = some (.purge 14 5 0) ∧
    decodeWord 0x2001C22F = some (.probe 4 14 0) := by
  decide +kernel

/-- R153 to R156. -/
theorem test_manual_words_firings_and_waits :
    decodeWord 0x0200A038 = some (.shrink 5) ∧
    decodeWord 0x04698038 = some (.arm 12 13) ∧
    decodeWord 0x06018038 = some (.ready 12) ∧
    decodeWord 0x08012038 = some (.migr 9) ∧
    decodeWord 0x14000039 = some (.fenceRel .clu) ∧
    decodeWord 0x2A000039 = some (.fenceFull .pod) ∧
    decodeWord 0x240A803A = some (.barSync .clu 1 20) ∧
    decodeWord 0x0021803B = some (.waitt 4 12) := by
  decide +kernel

/-- R205; its word for report names g4 by R35 where its source says g20 (log 67). -/
theorem test_manual_words_system :
    decodeWord 0x0000A03E = some (.trap 5) ∧
    decodeWord 0x0200003E = some .eret ∧
    decodeWord 0x0400A03E = some (.bkpt 5) ∧
    decodeWord 0x064A803E = some (.report 20 9) ∧
    decodeWord 0x0648803E = some (.report 4 9) ∧
    decodeWord 0x085944BE = some (.submit 9 10 11) := by
  decide +kernel

/-- R244, R260, R264, R285. -/
theorem test_manual_words_engines :
    decodeWord 0x0002E040 = some (.cpsSrc 23 0) ∧
    decodeWord 0x000002C5 = some (.qstat 5) ∧
    decodeWord 0x020002C5 = some (.qstatClr 5) ∧
    decodeWord 0x000144C2 = some (.btx 9 10 0) ∧
    decodeWord 0x00008546 = some (.setOpen 10 4 0) ∧
    decodeWord 0x20582646 = some (.setPut 12 1 11 0) ∧
    decodeWord 0x600146C6 = some (.setClose 13 10 0) := by
  decide +kernel

/-- R242 and the drain programs of the manual. -/
theorem test_manual_words_glaze :
    decodeGlaze 0x00120101 = some (.gzAdd 1 0 9) ∧
    decodeGlaze 0x00001107 = some (.gzRelu 1 1) ∧
    decodeGlaze 0x00001013 = some (.gzSt 1) ∧
    decodeGlaze 0x02560104 = some (.gzFma 1 0 0x0B 9) ∧
    decodeGlaze 0x00001012 = some (.gzBscl 1) ∧
    decodeGlaze 0x00A2030E = some (.gzSel 0 3 0 0x11 2) ∧
    decodeGlaze 0x0800040F = some (.gzLdr 1 4) ∧
    decodeGlaze 0x20001211 = some (.gzCvt 4 2 1) ∧
    decodeGlaze 0x48001015 = some (.gzRedr 2 1 1) := by
  decide +kernel

/-- R37, R49, R49's unary rows, R155, R242: words that are no instruction. -/
theorem test_words_that_are_no_instruction :
    decodeWord 0 = none ∧
    decodeWord 0x0E000001 = none ∧
    decodeWord (0x60000001 + 2 ^ 19) = none ∧
    decodeWord 0x0000003A = none ∧
    decodeWord 0x0000007F = none ∧
    decodeGlaze 0x0000001F = none ∧ decodeGlaze 0x00001907 = none := by
  decide +kernel

/-- A row's word as the table numbers it reaches the decoder. -/
theorem test_decode_table_word : decodeTableWord 32 0x00412481 = some (.add 9 9 8) := by decide +kernel

/-! ### Well-formed terms and terms that each check refuses -/

/-- R53. -/
theorem test_wf_bit_fields : (Instr.bfx 9 10 63 0 false).wf = true ∧ (Instr.bfx 9 10 63 1 false).wf = false ∧
    (Instr.bfi 9 10 0 63).wf = true ∧ (Instr.bfi 9 10 1 63).wf = false := by decide

/-- R141. -/
theorem test_wf_cas : (Instr.casD 0 6 7 0).wf = true ∧ (Instr.casD 0 6 7 1).wf = false ∧ (Instr.casW 5 6 7 15).wf = true ∧
    (Instr.casW 0 6 7 15).wf = false := by decide

/-- R155. -/
theorem test_wf_barriers : (Instr.barArrive .quad 0 0).wf = true ∧ (Instr.barArrive .core 1 5).wf = false ∧
    (Instr.barArrive .pod 0 5).wf = false ∧ (Instr.barWait .core 0).wf = false ∧ (Instr.barSync .clu 0 1).wf = false ∧
    (Instr.barSync .clu 1 20).wf = true := by decide

/-- R96, R112. -/
theorem test_wf_conversions : (Instr.fcvt 5 6 false .f32 .f64).wf = true ∧ (Instr.fcvt 5 6 false .f32 .f32).wf = false ∧
    (Instr.fcvt 5 6 true .i32 .u64).wf = false ∧ (Instr.vcvt 1 2 false .bf16 .f16 0).wf = true ∧
    (Instr.vcvt 1 2 false .u64 .i64 0).wf = false := by decide

/-- R107. -/
theorem test_wf_compare : (Instr.vcmp 1 2 3 4 .f32 false 0).wf = true ∧ (Instr.vcmp 1 2 3 5 .f32 false 0).wf = false ∧
    (Instr.vcmp 1 2 3 5 .i8 true 0).wf = true ∧ (Instr.vcmp 0 2 3 0 .i8 true 0).wf = false := by decide

/-- R109, R110. -/
theorem test_wf_widths_and_indices : (Instr.vredFadd 1 2 .w 0).wf = true ∧ (Instr.vredFadd 1 2 .h 0).wf = false ∧
    (Instr.vredFmin 1 2 .b 0).wf = false ∧ (Instr.vredFmax 1 2 .b 0).wf = false ∧ (Instr.extr 6 2 7 .d).wf = true ∧
    (Instr.extr 6 2 8 .d).wf = false ∧ (Instr.ins 2 6 15 .w).wf = true ∧ (Instr.ins 2 6 8 .d).wf = false := by decide

/-- R110, R113: k0 is no destination. -/
theorem test_wf_mask_destinations : (Instr.insK 0 5).wf = false ∧ (Instr.kand 0 1 2).wf = false ∧ (Instr.kor 0 1 2).wf = false ∧
    (Instr.kxor 0 1 2).wf = false ∧ (Instr.kandn 0 1 2).wf = false ∧ (Instr.knot 0 1).wf = false ∧ (Instr.kli 0 1).wf = false ∧
    (Instr.kli 7 1).wf = true := by decide

/-- R242, R271: sources, destinations, conditions, formats and reductions of Glaze words. -/
theorem test_wf_glaze : (Instr.gzAdd 8 0x12 0x12).wf = true ∧ (Instr.gzAdd 9 0 0).wf = false ∧ (Instr.gzSub 0 0x13 0).wf = false ∧
    (Instr.gzMul 0 0 0x1F).wf = false ∧ (Instr.gzFma 0 0 0 0x13).wf = false ∧ (Instr.gzSel 3 0 0 0 0).wf = true ∧
    (Instr.gzSel 4 0 0 0 0).wf = false ∧ (Instr.gzCvt 4 0 0).wf = true ∧ (Instr.gzCvt 0 0 0).wf = false ∧ (Instr.gzCvt 5 0 0).wf = false ∧
    (Instr.gzRedr 0 2 0).wf = true ∧ (Instr.gzRedr 0 3 0).wf = false ∧ (Instr.gzSt 0x13).wf = false ∧ (Instr.gzLdr 31 9).wf = false := by
  decide

/-- R49. -/
theorem test_decode_add_to_ror :
    decodeWord 0x009D4281 = some (.add 5 42 19) ∧
    decodeWord 0x02A52301 = some (.sub 6 41 20) ∧
    decodeWord 0x04AD0381 = some (.and 7 40 21) ∧
    decodeWord 0x06B4E281 = some (.or 5 39 22) ∧
    decodeWord 0x089CC301 = some (.xor 6 38 19) ∧
    decodeWord 0x0AA54381 = some (.andn 7 42 20) ∧
    decodeWord 0x0CAD2281 = some (.orn 5 41 21) ∧
    decodeWord 0x10B50301 = some (.sll 6 40 22) ∧
    decodeWord 0x129CE381 = some (.srl 7 39 19) ∧
    decodeWord 0x14A4C281 = some (.sra 5 38 20) ∧
    decodeWord 0x16AD4301 = some (.rol 6 42 21) ∧
    decodeWord 0x18B52381 = some (.ror 7 41 22) := by
  decide +kernel

/-- R49. -/
theorem test_decode_slt_to_mulhsu :
    decodeWord 0x209D0281 = some (.slt 5 40 19) ∧
    decodeWord 0x22A4E301 = some (.sltu 6 39 20) ∧
    decodeWord 0x24ACC381 = some (.seq 7 38 21) ∧
    decodeWord 0x26B54281 = some (.sne 5 42 22) ∧
    decodeWord 0x289D2301 = some (.min 6 41 19) ∧
    decodeWord 0x2AA50381 = some (.max 7 40 20) ∧
    decodeWord 0x2CACE281 = some (.minu 5 39 21) ∧
    decodeWord 0x2EB4C301 = some (.maxu 6 38 22) ∧
    decodeWord 0x409D4381 = some (.mul 7 42 19) ∧
    decodeWord 0x42A52281 = some (.mulh 5 41 20) ∧
    decodeWord 0x44AD0301 = some (.mulhu 6 40 21) ∧
    decodeWord 0x46B4E381 = some (.mulhsu 7 39 22) := by
  decide +kernel

/-- R49. -/
theorem test_decode_div_to_sext_w :
    decodeWord 0x489CC281 = some (.div 5 38 19) ∧
    decodeWord 0x4AA54301 = some (.divu 6 42 20) ∧
    decodeWord 0x4CAD2381 = some (.rem 7 41 21) ∧
    decodeWord 0x4EB50281 = some (.remu 5 40 22) ∧
    decodeWord 0x6004E301 = some (.clz 6 39) ∧
    decodeWord 0x6204C381 = some (.ctz 7 38) ∧
    decodeWord 0x64054281 = some (.popc 5 42) ∧
    decodeWord 0x66052301 = some (.brev 6 41) ∧
    decodeWord 0x68050381 = some (.bswap 7 40) ∧
    decodeWord 0x7004E281 = some (.sextB 5 39) ∧
    decodeWord 0x7204C301 = some (.sextH 6 38) ∧
    decodeWord 0x74054381 = some (.sextW 7 42) := by
  decide +kernel

/-- R49, R50. -/
theorem test_decode_zext_w_to_sltiu :
    decodeWord 0x76052281 = some (.zextW 5 41) ∧
    decodeWord 0xD1AD0302 = some (.addi 6 40 0x1a35) ∧
    decodeWord 0xD1ACE383 = some (.andi 7 39 0x1a35) ∧
    decodeWord 0xD1ACC284 = some (.ori 5 38 0x1a35) ∧
    decodeWord 0xD1AD4305 = some (.xori 6 42 0x1a35) ∧
    decodeWord 0xD1AD2386 = some (.slti 7 41 0x1a35) ∧
    decodeWord 0xD1AD0287 = some (.sltiu 5 40 0x1a35) := by
  decide +kernel

/-- R51, R52. -/
theorem test_decode_slli_to_adpc :
    decodeWord 0x012CE308 = some (.slli 6 39 37) ∧
    decodeWord 0x032CC388 = some (.srli 7 38 37) ∧
    decodeWord 0x052D4288 = some (.srai 5 42 37) ∧
    decodeWord 0x072D2308 = some (.rori 6 41 37) ∧
    decodeWord 0xB4792389 = some (.lui 7 0x5a3c9) ∧
    decodeWord 0xB479228A = some (.adpc 5 0x5a3c9) := by
  decide +kernel

/-- R53, R55. -/
theorem test_decode_bfx_to_mcrd :
    decodeWord 0xAB2CC30B = some (.bfx 6 38 37 21 true) ∧
    decodeWord 0x2B2D438C = some (.bfi 7 42 37 21) ∧
    decodeWord 0x00B5228D = some (.madr 5 41 22) ∧
    decodeWord 0x029D030D = some (.mrel 6 40 19) ∧
    decodeWord 0x0404E38D = some (.mabs 7 39) ∧
    decodeWord 0x0604C28D = some (.mcrd 5 38) := by
  decide +kernel

/-- R56. -/
theorem test_decode_beq_to_bgeu :
    decodeWord 0xD0B55A90 = some (.beq 42 22 0x1a35) ∧
    decodeWord 0xD09D3A91 = some (.bne 41 19 0x1a35) ∧
    decodeWord 0xD0A51A92 = some (.blt 40 20 0x1a35) ∧
    decodeWord 0xD0ACFA93 = some (.bge 39 21 0x1a35) ∧
    decodeWord 0xD0B4DA94 = some (.bltu 38 22 0x1a35) ∧
    decodeWord 0xD09D5A95 = some (.bgeu 42 19 0x1a35) := by
  decide +kernel

/-- R57, R58, R62. -/
theorem test_decode_jal_to_iter_next :
    decodeWord 0xB4792316 = some (.jal 6 0x5a3c9) ∧
    decodeWord 0xD1AD0397 = some (.jalr 7 40 0x1a35) ∧
    decodeWord 0xD1ACE018 = some (.loop 39 0x1a35) ∧
    decodeWord 0xB16B4019 = some (.loopi 0x2c5 0x15a) ∧
    decodeWord 0x0005439A = some (.iterClaim 7 42) ∧
    decodeWord 0x02AD229A = some (.iterNext 5 41 21) := by
  decide +kernel

/-- R63. -/
theorem test_decode_ld_b_to_ld_wu :
    decodeWord 0x9AD50320 = some (.ldB 6 40 0x15a 9) ∧
    decodeWord 0x9AD4E3A1 = some (.ldH 7 39 0x15a 9) ∧
    decodeWord 0x9AD4C2A2 = some (.ldW 5 38 0x15a 9) ∧
    decodeWord 0x9AD54323 = some (.ldD 6 42 0x15a 9) ∧
    decodeWord 0x9AD523A4 = some (.ldBu 7 41 0x15a 9) ∧
    decodeWord 0x9AD502A5 = some (.ldHu 5 40 0x15a 9) ∧
    decodeWord 0x9AD4E326 = some (.ldWu 6 39 0x15a 9) := by
  decide +kernel

/-- R63, R65. -/
theorem test_decode_lda_to_stl :
    decodeWord 0x90ECC3A7 = some (.lda 7 38 .d .pod 9) ∧
    decodeWord 0x9AD550A8 = some (.stB 42 33 0x15a 9) ∧
    decodeWord 0x9AD53129 = some (.stH 41 34 0x15a 9) ∧
    decodeWord 0x9AD511AA = some (.stW 40 35 0x15a 9) ∧
    decodeWord 0x9AD4F0AB = some (.stD 39 33 0x15a 9) ∧
    decodeWord 0x90ACD12C = some (.stl 38 34 .w .pod 9) := by
  decide +kernel

/-- R148, R152. -/
theorem test_decode_ldf_e_to_probe :
    decodeWord 0x000543AD = some (.ldfE 7 42) ∧
    decodeWord 0x200522AD = some (.ldfF 5 41) ∧
    decodeWord 0x00AD002E = some (.ste 40 21) ∧
    decodeWord 0x20B4E02E = some (.fill 39 22) ∧
    decodeWord 0x129CC02F = some (.purge 38 19 9) ∧
    decodeWord 0x3205432F = some (.probe 6 42 9) := by
  decide +kernel

/-- R140. -/
theorem test_decode_amo_add_to_amop_xor :
    decodeWord 0x12AD23B0 = some (.amoAdd 7 41 21 9) ∧
    decodeWord 0x32B502B0 = some (.amoAnd 5 40 22 9) ∧
    decodeWord 0x529CE330 = some (.amoOr 6 39 19 9) ∧
    decodeWord 0x72A4C3B0 = some (.amoXor 7 38 20 9) ∧
    decodeWord 0x92AD42B0 = some (.amoMin 5 42 21 9) ∧
    decodeWord 0xB2B52330 = some (.amoMax 6 41 22 9) ∧
    decodeWord 0xD29D03B0 = some (.amoSwap 7 40 19 9) ∧
    decodeWord 0xF2A4E2B0 = some (.amoFaddd 5 39 20 9) ∧
    decodeWord 0x12ACC031 = some (.amopAdd 38 21 9) ∧
    decodeWord 0x32B54031 = some (.amopAnd 42 22 9) ∧
    decodeWord 0x529D2031 = some (.amopOr 41 19 9) ∧
    decodeWord 0x72A50031 = some (.amopXor 40 20 9) := by
  decide +kernel

/-- R140, R141. -/
theorem test_decode_amop_min_to_cas_w :
    decodeWord 0x92ACE031 = some (.amopMin 39 21 9) ∧
    decodeWord 0xB2B4C031 = some (.amopMax 38 22 9) ∧
    decodeWord 0xD29D4031 = some (.amopSwap 42 19 9) ∧
    decodeWord 0xF2A52031 = some (.amopFaddd 41 20 9) ∧
    decodeWord 0x12AD02B2 = some (.casD 5 40 21 9) ∧
    decodeWord 0x32B4E332 = some (.casW 6 39 22 9) := by
  decide +kernel

/-- R117, R142, R143, R144, R145. -/
theorem test_decode_dec_to_dlg_p :
    decodeWord 0x529CC033 = some (.dec 38 19 2 9) ∧
    decodeWord 0x12A54034 = some (.msg 42 20 9) ∧
    decodeWord 0x32A80034 = some (.msgReply 21 9) ∧
    decodeWord 0x12B503B5 = some (.spawn 7 40 22 9) ∧
    decodeWord 0x129CE2B6 = some (.dlg 5 39 19 9) ∧
    decodeWord 0x32A4C036 = some (.dlgP 38 20 9) := by
  decide +kernel

/-- R146, R153. -/
theorem test_decode_mcst_to_migr :
    decodeWord 0x120543B7 = some (.mcst 7 42 9) ∧
    decodeWord 0x00000038 = some .done ∧
    decodeWord 0x02050038 = some (.shrink 40) ∧
    decodeWord 0x04A4E038 = some (.arm 39 20) ∧
    decodeWord 0x0604C038 = some (.ready 38) ∧
    decodeWord 0x08054038 = some (.migr 42) := by
  decide +kernel

/-- R154, R155. -/
theorem test_decode_fence_acq_to_bar_sync :
    decodeWord 0x04000039 = some (.fenceAcq .clu) ∧
    decodeWord 0x16000039 = some (.fenceRel .die) ∧
    decodeWord 0x28000039 = some (.fenceFull .pkg) ∧
    decodeWord 0x3A000039 = some (.fenceEng .pod) ∧
    decodeWord 0x022D403A = some (.barArrive .quad 5 42) ∧
    decodeWord 0x1428003A = some (.barWait .clu 5) ∧
    decodeWord 0x262D003A = some (.barSync .die 5 40) := by
  decide +kernel

/-- R67, R156, R205. -/
theorem test_decode_waitt_to_bkpt :
    decodeWord 0x002CE03B = some (.waitt 5 39) ∧
    decodeWord 0x0698033C = some (.srr 6 0xd3) ∧
    decodeWord 0x069D403D = some (.srw 0xd3 42) ∧
    decodeWord 0x0005203E = some (.trap 41) ∧
    decodeWord 0x0200003E = some .eret ∧
    decodeWord 0x0404E03E = some (.bkpt 39) := by
  decide +kernel

/-- R118, R205, R244. -/
theorem test_decode_report_to_cps_chan :
    decodeWord 0x06A4C03E = some (.report 38 20) ∧
    decodeWord 0x08AD433E = some (.submit 6 42 21) ∧
    decodeWord 0x12052040 = some (.cpsSrc 41 9) ∧
    decodeWord 0x32050040 = some (.cpsDst 40 9) ∧
    decodeWord 0x5204E040 = some (.cpsSstr 39 9) ∧
    decodeWord 0x7204C040 = some (.cpsDstr 38 9) ∧
    decodeWord 0x92054040 = some (.cpsShape 42 9) ∧
    decodeWord 0xB2052040 = some (.cpsFmt 41 9) ∧
    decodeWord 0xD2050040 = some (.cpsChan 40 9) := by
  decide +kernel

/-- R245, R246, R260, R264, R286. -/
theorem test_decode_cpgo_to_set_open :
    decodeWord 0x120002C1 = some (.cpgo 5 9) ∧
    decodeWord 0x1204C342 = some (.btx 6 38 9) ∧
    decodeWord 0x12054044 = some (.qpush 42 9) ∧
    decodeWord 0x000002C5 = some (.qstat 5) ∧
    decodeWord 0x02000345 = some (.qstatClr 6) ∧
    decodeWord 0x1204E3C6 = some (.setOpen 7 39 9) := by
  decide +kernel

/-- R92, R287, R288, R295, R296. -/
theorem test_decode_set_put_to_fsqrt_d :
    decodeWord 0x329CC2C6 = some (.setPut 5 38 19 9) ∧
    decodeWord 0x52054346 = some (.setTake 6 42 9) ∧
    decodeWord 0x720523C6 = some (.setClose 7 41 9) ∧
    decodeWord 0x920002C6 = some (.setStat 5 9) ∧
    decodeWord 0x009CE350 = some (.faddD 6 39 19) ∧
    decodeWord 0x02A4C3D0 = some (.fsubD 7 38 20) ∧
    decodeWord 0x04AD42D0 = some (.fmulD 5 42 21) ∧
    decodeWord 0x06B52350 = some (.fdivD 6 41 22) ∧
    decodeWord 0x080503D0 = some (.fsqrtD 7 40) := by
  decide +kernel

/-- R92, R93, R94. -/
theorem test_decode_fmin_d_to_fclass_d :
    decodeWord 0x0AA4E2D0 = some (.fminD 5 39 20) ∧
    decodeWord 0x0CACC350 = some (.fmaxD 6 38 21) ∧
    decodeWord 0x10B543D0 = some (.fsgnjD 7 42 22) ∧
    decodeWord 0x129D22D0 = some (.fsgnjnD 5 41 19) ∧
    decodeWord 0x14A50350 = some (.fsgnjxD 6 40 20) ∧
    decodeWord 0x1804E3D0 = some (.fclassD 7 39) := by
  decide +kernel

/-- R92, R93. -/
theorem test_decode_feq_d_to_fsqrt_s :
    decodeWord 0x20B4C2D0 = some (.feqD 5 38 22) ∧
    decodeWord 0x229D4350 = some (.fltD 6 42 19) ∧
    decodeWord 0x24A523D0 = some (.fleD 7 41 20) ∧
    decodeWord 0x00AD02D1 = some (.faddS 5 40 21) ∧
    decodeWord 0x02B4E351 = some (.fsubS 6 39 22) ∧
    decodeWord 0x049CC3D1 = some (.fmulS 7 38 19) ∧
    decodeWord 0x06A542D1 = some (.fdivS 5 42 20) ∧
    decodeWord 0x08052351 = some (.fsqrtS 6 41) := by
  decide +kernel

/-- R92, R93, R94. -/
theorem test_decode_fmin_s_to_fclass_s :
    decodeWord 0x0AB503D1 = some (.fminS 7 40 22) ∧
    decodeWord 0x0C9CE2D1 = some (.fmaxS 5 39 19) ∧
    decodeWord 0x10A4C351 = some (.fsgnjS 6 38 20) ∧
    decodeWord 0x12AD43D1 = some (.fsgnjnS 7 42 21) ∧
    decodeWord 0x14B522D1 = some (.fsgnjxS 5 41 22) ∧
    decodeWord 0x18050351 = some (.fclassS 6 40) := by
  decide +kernel

/-- R93, R95. -/
theorem test_decode_feq_s_to_fms_s :
    decodeWord 0x20A4E3D1 = some (.feqS 7 39 20) ∧
    decodeWord 0x22ACC2D1 = some (.fltS 5 38 21) ∧
    decodeWord 0x24B54351 = some (.fleS 6 42 22) ∧
    decodeWord 0x749D23D3 = some (.fmaD 7 41 19 58) ∧
    decodeWord 0xF8A502D3 = some (.fmsD 5 40 20 60) ∧
    decodeWord 0x76ACE354 = some (.fmaS 6 39 21 59) ∧
    decodeWord 0xF4B4C3D4 = some (.fmsS 7 38 22 58) := by
  decide +kernel

/-- R96, R101, R102. -/
theorem test_decode_fcvt_to_vsct :
    decodeWord 0xE60542D5 = some (.fcvt 5 42 true .i32 .bf16) ∧
    decodeWord 0xA69A9AE0 = some (.vld 21 41 0xa6 .w 9) ∧
    decodeWord 0xE69A8AE1 = some (.vst 21 40 0xa6 .d 9) ∧
    decodeWord 0x595A7AE2 = some (.vlds 21 39 22 5 9) ∧
    decodeWord 0x594E6AE3 = some (.vsts 21 38 19 5 9) ∧
    decodeWord 0x596EAAE4 = some (.vgth 21 42 27 5 9) ∧
    decodeWord 0x59769AE5 = some (.vsct 21 41 29 5 9) := by
  decide +kernel

/-- R104. -/
theorem test_decode_vfadd_d_to_vfadd_s :
    decodeWord 0x0178DAE6 = some (.vfaddD 21 13 28 5) ∧
    decodeWord 0x0376AAE6 = some (.vfsubD 21 10 27 5) ∧
    decodeWord 0x057ABAE6 = some (.vfmulD 21 11 29 5) ∧
    decodeWord 0x0778CAE6 = some (.vfdivD 21 12 28 5) ∧
    decodeWord 0x0940DAE6 = some (.vfsqrtD 21 13 5) ∧
    decodeWord 0x0B7AAAE6 = some (.vfminD 21 10 29 5) ∧
    decodeWord 0x0D78BAE6 = some (.vfmaxD 21 11 28 5) ∧
    decodeWord 0x1176CAE6 = some (.vfsgnjD 21 12 27 5) ∧
    decodeWord 0x137ADAE6 = some (.vfsgnjnD 21 13 29 5) ∧
    decodeWord 0x1578AAE6 = some (.vfsgnjxD 21 10 28 5) ∧
    decodeWord 0x1940BAE6 = some (.vfclassD 21 11 5) ∧
    decodeWord 0x017ACAE7 = some (.vfaddS 21 12 29 5) := by
  decide +kernel

/-- R104. -/
theorem test_decode_vfsub_s_to_vfclass_s :
    decodeWord 0x0378DAE7 = some (.vfsubS 21 13 28 5) ∧
    decodeWord 0x0576AAE7 = some (.vfmulS 21 10 27 5) ∧
    decodeWord 0x077ABAE7 = some (.vfdivS 21 11 29 5) ∧
    decodeWord 0x0940CAE7 = some (.vfsqrtS 21 12 5) ∧
    decodeWord 0x0B76DAE7 = some (.vfminS 21 13 27 5) ∧
    decodeWord 0x0D7AAAE7 = some (.vfmaxS 21 10 29 5) ∧
    decodeWord 0x1178BAE7 = some (.vfsgnjS 21 11 28 5) ∧
    decodeWord 0x1376CAE7 = some (.vfsgnjnS 21 12 27 5) ∧
    decodeWord 0x157ADAE7 = some (.vfsgnjxS 21 13 29 5) ∧
    decodeWord 0x1940AAE7 = some (.vfclassS 21 10 5) := by
  decide +kernel

/-- R105. -/
theorem test_decode_vfma_d_to_vfnms_s :
    decodeWord 0x29B6BAE8 = some (.vfmaD 21 11 27 6 5) ∧
    decodeWord 0x69BACAE8 = some (.vfmsD 21 12 29 6 5) ∧
    decodeWord 0xA9B8DAE8 = some (.vfnmaD 21 13 28 6 5) ∧
    decodeWord 0xE9B6AAE8 = some (.vfnmsD 21 10 27 6 5) ∧
    decodeWord 0x29BABAE9 = some (.vfmaS 21 11 29 6 5) ∧
    decodeWord 0x69B8CAE9 = some (.vfmsS 21 12 28 6 5) ∧
    decodeWord 0xA9B6DAE9 = some (.vfnmaS 21 13 27 6 5) ∧
    decodeWord 0xE9BAAAE9 = some (.vfnmsS 21 10 29 6 5) := by
  decide +kernel

/-- R106. -/
theorem test_decode_vadd_to_vxor :
    decodeWord 0x0578BAEA = some (.vadd 21 11 28 .w 5) ∧
    decodeWord 0x0F76CAEA = some (.vsub 21 12 27 .d 5) ∧
    decodeWord 0x157ADAEA = some (.vadds 21 13 29 .w 5) ∧
    decodeWord 0x1F78AAEA = some (.vaddus 21 10 28 .d 5) ∧
    decodeWord 0x2576BAEA = some (.vsubs 21 11 27 .w 5) ∧
    decodeWord 0x2F7ACAEA = some (.vsubus 21 12 29 .d 5) ∧
    decodeWord 0x3578DAEA = some (.vmul 21 13 28 .w 5) ∧
    decodeWord 0x3F76AAEA = some (.vmulh 21 10 27 .d 5) ∧
    decodeWord 0x457ABAEA = some (.vmulhu 21 11 29 .w 5) ∧
    decodeWord 0x4F78CAEA = some (.vand 21 12 28 .d 5) ∧
    decodeWord 0x5576DAEA = some (.vor 21 13 27 .w 5) ∧
    decodeWord 0x5F7AAAEA = some (.vxor 21 10 29 .d 5) := by
  decide +kernel

/-- R106. -/
theorem test_decode_vsll_to_vabs :
    decodeWord 0x6578BAEA = some (.vsll 21 11 28 .w 5) ∧
    decodeWord 0x6F76CAEA = some (.vsrl 21 12 27 .d 5) ∧
    decodeWord 0x757ADAEA = some (.vsra 21 13 29 .w 5) ∧
    decodeWord 0x7F78AAEA = some (.vmin 21 10 28 .d 5) ∧
    decodeWord 0x8576BAEA = some (.vmax 21 11 27 .w 5) ∧
    decodeWord 0x8F7ACAEA = some (.vminu 21 12 29 .d 5) ∧
    decodeWord 0x9578DAEA = some (.vmaxu 21 13 28 .w 5) ∧
    decodeWord 0x9F40AAEA = some (.vabs 21 10 .d 5) := by
  decide +kernel

/-- R107, R108, R109. -/
theorem test_decode_vcmp_to_vred_minu :
    decodeWord 0xCD7AB36B = some (.vcmp 6 11 29 4 .i32 true 5) ∧
    decodeWord 0x0178CAEC = some (.vsel 21 12 28 5) ∧
    decodeWord 0x0540DAED = some (.vredFadd 21 13 .w 5) ∧
    decodeWord 0x0F40AAED = some (.vredFmin 21 10 .d 5) ∧
    decodeWord 0x1540BAED = some (.vredFmax 21 11 .w 5) ∧
    decodeWord 0x2740CAED = some (.vredAdd 21 12 .d 5) ∧
    decodeWord 0x2D40DAED = some (.vredAnd 21 13 .w 5) ∧
    decodeWord 0x3740AAED = some (.vredOr 21 10 .d 5) ∧
    decodeWord 0x3D40BAED = some (.vredXor 21 11 .w 5) ∧
    decodeWord 0x4740CAED = some (.vredMin 21 12 .d 5) ∧
    decodeWord 0x4D40DAED = some (.vredMax 21 13 .w 5) ∧
    decodeWord 0x5740AAED = some (.vredMinu 21 10 .d 5) := by
  decide +kernel

/-- R109, R110. -/
theorem test_decode_vred_maxu_to_ins_k :
    decodeWord 0x5D40BAED = some (.vredMaxu 21 11 .w 5) ∧
    decodeWord 0x07710AEE = some (.splat 21 49 .d 5) ∧
    decodeWord 0x0C3075EE = some (.extr 48 11 7 .w) ∧
    decodeWord 0x163275EE = some (.ins 11 50 7 .d) ∧
    decodeWord 0x1831036E = some (.extrK 49 6) ∧
    decodeWord 0x1A30036E = some (.insK 6 48) := by
  decide +kernel

/-- R111, R112, R113. -/
theorem test_decode_vperm_to_kli :
    decodeWord 0x057ADAEF = some (.vperm 21 13 29 .w 5) ∧
    decodeWord 0xE740AAF0 = some (.vcvt 21 10 true .i32 .bf16 5) ∧
    decodeWord 0x00043371 = some (.kand 6 3 2) ∧
    decodeWord 0x02043371 = some (.kor 6 3 2) ∧
    decodeWord 0x04043371 = some (.kxor 6 3 2) ∧
    decodeWord 0x06043371 = some (.kandn 6 3 2) ∧
    decodeWord 0x08003371 = some (.knot 6 3) ∧
    decodeWord 0x0A0A6371 = some (.kli 6 0xa6) := by
  decide +kernel

/-- R272. -/
theorem test_decode_gz_add_to_gz_max :
    decodeGlaze 0x00132701 = some (.gzAdd 7 18 9) ∧
    decodeGlaze 0x00132702 = some (.gzSub 7 18 9) ∧
    decodeGlaze 0x00132703 = some (.gzMul 7 18 9) ∧
    decodeGlaze 0x01132704 = some (.gzFma 7 18 9 4) ∧
    decodeGlaze 0x00132705 = some (.gzMin 7 18 9) ∧
    decodeGlaze 0x00132706 = some (.gzMax 7 18 9) := by
  decide +kernel

/-- R243, R272, R273. -/
theorem test_decode_gz_relu_to_gz_rsq :
    decodeGlaze 0x00012707 = some (.gzRelu 7 18) ∧
    decodeGlaze 0x01132708 = some (.gzClamp 7 18 9 4) ∧
    decodeGlaze 0x00012709 = some (.gzAbs 7 18) ∧
    decodeGlaze 0x0001270A = some (.gzNeg 7 18) ∧
    decodeGlaze 0x0001270B = some (.gzExp2 7 18) ∧
    decodeGlaze 0x0001270C = some (.gzRcp 7 18) ∧
    decodeGlaze 0x0001270D = some (.gzRsq 7 18) := by
  decide +kernel

/-- R272, R274. -/
theorem test_decode_gz_sel_to_gz_stt :
    decodeGlaze 0x1913270E = some (.gzSel 3 7 18 9 4) ∧
    decodeGlaze 0x1800070F = some (.gzLdr 3 7) ∧
    decodeGlaze 0x18000710 = some (.gzLdc 3 7) ∧
    decodeGlaze 0x18012711 = some (.gzCvt 3 7 18) ∧
    decodeGlaze 0x00012012 = some (.gzBscl 18) ∧
    decodeGlaze 0x00012013 = some (.gzSt 18) ∧
    decodeGlaze 0x00012014 = some (.gzStt 18) := by
  decide +kernel

/-- R272, R275. -/
theorem test_decode_gz_redr_to_gz_end :
    decodeGlaze 0xB0012015 = some (.gzRedr 5 2 18) ∧
    decodeGlaze 0x00000016 = some .gzEnd := by
  decide +kernel

/-! ### Hypotheses met: encodings, the step, issue, scalar integers -/

theorem meets_RoundTrips : (Instr.addi 63 63 (BitVec.ofInt 13 (-4096))).wf = true ∧ (Instr.addi 63 63 (BitVec.ofInt 13 (-4096))).kind = .core ∧
    (Instr.gzSel 3 8 0x12 0x12 0x12).wf = true ∧ (Instr.gzSel 3 8 0x12 0x12 0x12).kind = .glaze := by decide

/-- The state in which T0 of core 8 issues, the turn at the head of the agenda. -/
noncomputable def turning (s : State) : State := { State.cycleStart { s.tick with agenda := [] } 8 with who := 32 }

/-- A turn of T0 of core 8 that the order picks. -/
theorem issues_of {s : State} {turn : Turn} (h : turn = .issue 32 ∨ turn = .cycle 8) (ha : s.agenda = [turn])
    (hp : decide (((State.cycleStart { s.tick with agenda := [] } 8).picked 8).map Prod.fst = some 32) = true) : IssuesIn s (turning s) 32 := by
  refine ⟨[], _, ?_, rfl, of_decide_eq_true hp, rfl⟩
  rcases h with rfl | rfl
  · exact .inr (.inl ⟨32, rfl, ha⟩)
  · exact .inl ha

theorem meets_StepRunsTheWord : let s := State.reset.placeWord 0x00412481
    IssuesIn s (turning s) 32 ∧ IssuesIn { s with agenda := [.cycle 8] } (turning { s with agenda := [.cycle 8] }) 32 ∧
    (turning s).me.mode = .capsule ∧ roleOf 32 ≠ 2 ∧ (turning s).fetch = .ok 0x00412481 ∧ decodeWord 0x00412481 = some (.add 9 9 8) :=
  ⟨issues_of (.inl rfl) rfl (by decide +kernel), issues_of (.inr rfl) rfl (by decide +kernel), rfl, by decide, gives (by decide +kernel), rfl⟩

theorem meets_StepRunsTheWord_no_instruction : IssuesIn machine (turning machine) 32 ∧ (turning machine).me.mode = .capsule ∧
    (turning machine).fetch = .ok 0 ∧ 0 < 2 ^ 32 ∧ decodeWord 0 = none :=
  ⟨issues_of (.inl rfl) rfl (by decide +kernel), rfl, gives (by decide +kernel), by decide, rfl⟩

/-- A cycle in which T0 issues, brought about by the turn of T1 or of a handler of H, and one in which no thread is ready. -/
theorem meets_StepRunsTheWord_cycles :
    (let s := { machine with agenda := [.issue 33] }
     Cycles s 8 [] ∧ decide (((State.cycleStart { s.tick with agenda := [] } 8).picked 8).map Prod.fst = some 32) = true) ∧
    (let s := { machine with agenda := [.event (.amoHandler 8)] }
     Cycles s 8 [] ∧ decide (((State.cycleStart { s.tick with agenda := [] } 8).picked 8).map Prod.fst = some 32) = true) ∧
    (let s := { machine with agenda := [.cycle 9] }
     Cycles s 9 [] ∧ ((State.cycleStart { s.tick with agenda := [] } 9).picked 9).isNone = true) :=
  ⟨⟨.inr (.inl ⟨33, rfl, rfl⟩), by decide +kernel⟩, ⟨.inr (.inr ⟨_, rfl, rfl⟩), by decide +kernel⟩, .inl rfl, by decide +kernel⟩

/-- What T0 issues in such a cycle has a next state. -/
theorem meets_StepRunsTheWord_picked : let s := State.cycleStart { ({ machine with agenda := [.cycle 8] } : State).tick with agenda := [] } 8
    (match s.picked 8 with | some (32, .next _) => true | _ => false) = true := by decide +kernel

theorem meets_StepRunsTheWord_event : ({ machine with agenda := [.event .fetchFault] } : State).agenda = .event .fetchFault :: [] ∧
    ofThread .fetchFault = true ∧ ofThread (.add 1 2 3) = true ∧ ofThread (.gzEnd) = true := by decide

/-- Both task threads and S ready: S goes first, until 16 cycles are shared; then T0, which did not issue last. -/
theorem meets_StepRunsTheWord_order : let c := { machine.core 8 with shared := 16, lastTask := 1 }
    let s := ((machine.setCore 8 { c with shared := 15 }).setThr 33 machine.me).setThr (sThread 8) machine.me
    (s.readyT 32).isSome = true ∧ (s.readyT 33).isSome = true ∧ (s.readyT (sThread 8)).isSome = true ∧ (s.readyH 8).isSome = false ∧
    (s.picked 8).map Prod.fst = some (sThread 8) ∧ ((s.setCore 8 c).picked 8).map Prod.fst = some 32 := by
  decide +kernel

/-- A thread whose word completes is ready: beq g0, g0, 0, which jumps to itself. -/
theorem meets_StepRunsTheWord_ready : let s := State.reset.placeWord (encode (.beq 0 0 0))
    let t : State := { s with who := 32 }
    t.me.live = true ∧ t.me.mode = .capsule ∧ roleOf 32 ≠ 2 ∧ t.haltHolds = false ∧ t.preempted 32 = false ∧ t.fetch = .ok (encode (.beq 0 0 0)) ∧
    decodeWord (encode (.beq 0 0 0)) = some (.beq 0 0 0) ∧ ∃ u, exec (.beq 0 0 0) t = .next u ∧ (u.thr 32).wait = .nothing ∧ t.overfull u = false :=
  ⟨rfl, rfl, by decide, rfl, rfl, gives (by decide +kernel), rfl, _, rfl, rfl, by decide +kernel⟩

/-- An interface that holds its 4 KiB, 256 messages of 16 bytes, takes no more (R188). -/
theorem meets_StepRunsTheWord_full :
    let m : Msg := { replyMsg 1 8 0 0 0 0 0 with kind := 0, body := [] }
    let s := { machine with net := List.replicate 256 m }
    s.interfaceBytes 1 = 4096 ∧ s.overfull (s.send m) = true ∧ machine.overfull (machine.send m) = false := by
  decide +kernel

theorem meets_StepRunsTheWord_fetch_fault : let s := withMe fun x => { x with pc := 4096 }
    IssuesIn s (turning s) 32 ∧ (turning s).me.mode = .capsule ∧ (turning s).fetch = .error causeExtent :=
  ⟨issues_of (.inl rfl) rfl (by decide +kernel), rfl, rfl⟩

theorem meets_TheRunGoesOn : (let s := { State.reset with mgmt := { State.reset.mgmt with powered := false } }
    s.agenda = [] ∧ s.mgmt.powered = false) ∧ ¬ (State.reset.agenda = [] ∧ State.reset.mgmt.powered = false) := ⟨⟨rfl, rfl⟩, by decide⟩

theorem meets_StepKeepsInvariant : machine.Inv ∧ ∃ t, step { machine with agenda := [.issue 7] } = .next t :=
  ⟨⟨by decide +kernel, by decide, by decide, by decide⟩, _, rfl⟩

theorem meets_IssueChecks_scoreboard : ∃ S r, shapeOf (.add 5 6 7) = some S ∧
    (withMe fun x => { x with pending := [⟨1, .g 6, 0, none⟩] }).held ⟨0, S.gs, S.vs, S.ks, false, false⟩ = some r := ⟨_, .g 6, rfl, rfl⟩

theorem meets_IssueChecks_range : ∃ S, shapeOf (.add 5 6 8) = some S ∧ (Instr.add 5 6 8).wf = true ∧
    let s := withMe fun x => { x with sregs := 8 }
    s.held ⟨0, S.gs, S.vs, S.ks, false, false⟩ = none ∧ s.inRange ⟨0, S.gs, S.vs, S.ks, false, false⟩ = false := ⟨_, rfl, rfl, rfl, rfl⟩

theorem meets_IssueChecks_fields : ∃ S, shapeOf (.bfx 5 6 63 1 false) = some S ∧ (Instr.bfx 5 6 63 1 false).wf = false ∧
    machine.held ⟨0, S.gs, S.vs, S.ks, false, false⟩ = none := ⟨_, rfl, rfl, rfl⟩

theorem meets_IssueChecks_window : let s := withMe fun x => { x with window := 1 }
    windowBarred (.submit 5 6 7) = some [5, 6, 7] ∧ windowBarred .done = some [] ∧ s.me.window ≠ 0 ∧ s.held ⟨0, [5, 6, 7], [], [], false, false⟩ = none ∧
    (s.me.requests.any fun r => r.2) = false ∧ s.atomicBefore s.me.firing s.nextId = false ∧ s.me.syncArrived = false := by decide

theorem meets_EndTestsAndLoops : ∃ S, shapeOf (.vcmp 7 31 30 5 .i64 true 6) = some S ∧ (Instr.vcmp 7 31 30 5 .i64 true 6).wf = true ∧
    machine.ready S.gs S.vs S.ks = true := ⟨_, rfl, rfl, rfl⟩

theorem meets_EndTestsAndLoops_bad : machine.ready [6] [] [] = true ∧
    ((1 : BitVec 13).toInt ≤ 0 ∨ (0 : BitVec 13).toInt ≤ 0) ∧
    (let s := withMe fun x => { x with lend := sset 0 x.lend 0 4, ldepth := 1 }
     0 < s.me.ldepth.toNat ∧ (sget 0 s.me.lend (s.me.ldepth.toNat - 1)).toNat < (s.me.pc + BitVec.ofInt 64 (4 * 2)).toNat) ∧
    (let s := withMe fun x => { x with ldepth := 4 }; s.me.ldepth.toNat = 4 ∧ (BitVec.setWidth 64 (1 : BitVec 10) : Word) ≠ 0) ∧
    roleOf 34 = 2 := by decide

theorem meets_EndTestsAndLoops_open : machine.ready [] [] [] = true ∧
    ¬ ((1 : Int) ≤ 0 ∨ roleOf machine.who = 2 ∨ (0 < machine.me.ldepth.toNat ∧ False) ∨ machine.me.ldepth.toNat = 4) ∧
    (BitVec.setWidth 64 (0 : BitVec 10) : Word) = 0 ∧ (BitVec.setWidth 64 (1023 : BitVec 10) : Word) ≠ 0 ∧ machine.me.ldepth.toNat < 2 ^ 64 - 1 := by
  decide

theorem meets_RegisterFrame : ∃ S t, shapeOf (.add 5 6 7) = some S ∧ exec (.add 5 6 7) machine = .next t := ⟨_, _, rfl, rfl⟩

theorem meets_AluOperations : machine.ready [0, 63, 5] [] [] = true := by decide

theorem meets_ImmediateForms : machine.ready [63] [] [] = true ∧ machine.ready [0] [] [] = true := by decide

theorem meets_ClassMasks : machine.ready [0, 63] [] [] = true := by decide

theorem meets_ConstantRegisters : (1 : Nat) ≠ 0 ∧ (1 : Nat) ≠ 2 := by decide

/-- One thread meets the hypotheses of every statement that only asks it to be ready. -/
theorem meets_ready : machine.ready [0, 63, 5] [0, 31] [0, 7] = true ∧ machine.readyMem [0, 63] [31] [7] = true ∧
    machine.readyRelease [0, 63] [31] [7] = true ∧ machine.noWindow = true := by decide

theorem meets_ConstantsAndBitFields : (63 : Fin 64).val + (0 : Fin 64).val < 64 ∧ 64 ≤ (63 : Fin 64).val + (1 : Fin 64).val ∧
    machine.held ⟨0, [5, 6], [], [], false, false⟩ = none := by decide

theorem meets_MeshAddresses : (let s := withG [(6, 0x7FFFFFFFFFFFFFFF)]; s.ready [5, 6] [] [] = true ∧ (s.rg 6).toNat < 2 ^ 63) ∧
    (let s := withG [(6, 0x8000002800000000)]; 2 ^ 63 ≤ (s.rg 6).toNat ∧ s.resolve (coreOf s.who) (s.rg 6) 1 = none) ∧
    let s := withG [(6, spad 0x3FFFFF)]
    2 ^ 63 ≤ (s.rg 6).toNat ∧ (∃ m, s.resolve (coreOf s.who) (s.rg 6) 1 = some m) ∧ (s.cap s.myCap).image.packages ≤ 4096 ∧
      (s.cap s.myCap).image.dies ≤ 4 := ⟨by decide, by decide, by decide, ⟨_, rfl⟩, by decide, by decide⟩

theorem meets_BranchesAndJumps : (let s := withG [(6, 1), (7, 1)]; s.ready [5, 6, 7] [] [] = true ∧ s.rg 6 = s.rg 7) ∧
    (let s := withG [(6, 0xFFFFFFFFFFFFFFFF), (7, 0)]; s.rg 6 ≠ s.rg 7 ∧ (s.rg 6).toInt < (s.rg 7).toInt ∧ ¬ (s.rg 6).toNat < (s.rg 7).toNat ∧
      (s.rg 7).toNat ≤ (s.rg 6).toNat) ∧
    (let s := withG [(6, 5)]; (s.rg 7).toInt ≤ (s.rg 6).toInt ∧ (s.rg 7).toNat < (s.rg 6).toNat) ∧
    (let s := withG [(6, 8)]; (s.rg 6 + BitVec.ofInt 64 (-4)).toNat % 4 = 0 ∧ (s.rg 6 + BitVec.ofInt 64 (-3)).toNat % 4 ≠ 0) ∧
    (∃ t, exec (.beq 6 7 3) machine = .next t) ∧ (∃ t, exec (.bne 6 7 3) (withG [(6, 1)]) = .next t) ∧
    (∃ t, exec (.jal 0 1) machine = .next t) ∧ ∃ t, exec (.jalr 0 6 0) machine = .next t :=
  ⟨by decide, by decide, by decide, by decide, ⟨_, rfl⟩, ⟨_, rfl⟩, ⟨_, rfl⟩, _, rfl⟩

/-! ### Hypotheses met: addresses, loads and stores, tagged memory, atomics, readiness -/

/-- A word of the thread's own scratchpad in g6, and other places by name. -/
def atWord : State := withG [(6, spad 8), (7, 5)]

/-- The machine with extents of data beside its code: R, W and M; R alone; and a writable one over the code's memory. -/
def paged : State := withCap fun c => { c with image := { c.image with extents :=
  [⟨0x1000, 0x1000, 0x10000, rightR + rightW + rightM, 0⟩, ⟨0x3000, 0x1000, 0x20000, rightR, 0⟩,
   ⟨0x4000, 0x1000, 0, rightR + rightW, 0⟩] ++ c.image.extents } }

theorem meets_MeshResolutionAndAccessChecks_resolution : (let a := spad 0x3FFFFF
    bits a.toNat 62 62 = 0 ∧ bits a.toNat 37 35 = 1 ∧ bits a.toNat 61 50 = 0 ∧ bits a.toNat 49 48 = 0 ∧ bits a.toNat 47 44 = 0 ∧
    bits a.toNat 43 41 = 0 ∧ bits a.toNat 34 0 + 1 ≤ 2 ^ 22 ∧ ¬ bits a.toNat 34 0 + 2 ≤ 2 ^ 22) ∧
    (let c := machine.cap (machine.capOf 8)
     0 < c.image.packages ∧ 0 < c.image.dies ∧ 0 < c.colsOf 0 ∧ 0 < c.image.rows ∧ ¬ 1 < c.image.rows) ∧
    (∃ m, machine.resolve 8 (spad 0x3FFFFF) 1 = some m) ∧ machine.resolve 8 (spad 0x3FFFFF) 2 = none ∧
    (∃ m, machine.resolve 8 (0xC000000000000000 : Word) 8 = some m) ∧ machine.resolve 8 (0xC000020000000000 : Word) 8 = none :=
  ⟨by decide, by decide, ⟨_, rfl⟩, rfl, ⟨_, rfl⟩, rfl⟩

theorem meets_MeshResolutionAndAccessChecks_mesh : (spad 1).toNat % 8 ≠ 0 ∧ (spad 8).toNat % 8 = 0 ∧ 2 ^ 63 ≤ (spad 8).toNat ∧
    machine.resolve 8 (0x8000002800000000 : Word) 8 = none ∧
    (∃ m, machine.resolve 8 (0x8000002000000000 : Word) 8 = some m ∧ m.unit = 4) ∧
    (∃ m, machine.resolve 8 (tcm 0x3D800) 8 = some m ∧ m.unit = 0 ∧ 0x3D800 ≤ m.offset) ∧
    (∃ m, machine.resolve 8 (tcm 0x39800) 8 = some m ∧ m.unit = 0 ∧ 0x39800 ≤ m.offset) ∧
    (∃ m, machine.resolve 8 (0x8000001800000000 : Word) 8 = some m ∧ m.unit = 3 ∧ accAmo.atomic = true) ∧
    accLoad.byH = false ∧ accStore.writes = true :=
  ⟨by decide, by decide, by decide, rfl, ⟨_, rfl, rfl⟩, ⟨_, rfl, rfl, by decide⟩, ⟨_, rfl, rfl, by decide⟩, ⟨_, rfl, rfl, rfl⟩, rfl, rfl⟩

theorem meets_MeshResolutionAndAccessChecks_mesh_passes : ∃ m p, machine.resolve 8 (tcm 0x397F8) 8 = some m ∧ (m.unit = 0 ∧ m.offset < 0x39800) ∧
    m.package = bits (machine.core 8).coord.toNat 23 12 ∧ (machine.cap (machine.capOf 8)).placed[m.die]? = some p :=
  ⟨_, _, rfl, by decide, rfl, rfl⟩

theorem meets_MeshResolutionAndAccessChecks_peer : let s := withCap fun c => { c with image := { c.image with packages := 2 } }
    ∃ m, s.resolve 8 (0x8004000800000000 : Word) 8 = some m ∧ m.unit = 1 ∧ m.package ≠ bits (s.core 8).coord.toNat 23 12 :=
  ⟨_, rfl, rfl, by decide⟩

theorem meets_MeshResolutionAndAccessChecks_virtual : 2 ^ 57 ≤ (BitVec.ofNat 64 (2 ^ 57)).toNat ∧ findExtent (paged.cap 1).image.extents 0x2000 = none ∧
    (let e : Extent := ⟨0x1000, 0x1000, 0x10000, rightR + rightW + rightM, 0⟩
     findExtent (paged.cap 1).image.extents 0x1FFF = some 0 ∧ (paged.cap 1).image.extents[0]? = some e ∧ e.rights &&& accStore.need = accStore.need ∧
      paged.codeLocked (extentKey e 0x1FFF) 1 = false ∧ paged.worldRefuses (paged.cap 1) (extentKey e 0x1FFF) = false) ∧
    (let e : Extent := ⟨0x3000, 0x1000, 0x20000, rightR, 0⟩
     findExtent (paged.cap 1).image.extents 0x3000 = some 1 ∧ (paged.cap 1).image.extents[1]? = some e ∧ e.rights &&& accStore.need ≠ accStore.need) ∧
    let e : Extent := ⟨0x4000, 0x1000, 0, rightR + rightW, 0⟩
    findExtent (paged.cap 1).image.extents 0x4000 = some 2 ∧ (paged.cap 1).image.extents[2]? = some e ∧ e.rights &&& accStore.need = accStore.need ∧
      paged.codeLocked (extentKey e 0x4000) 8 = true := by
  decide

theorem meets_Loads : atWord.readyMem [0, 6] [] [] = true ∧
    atWord.access (coreOf atWord.who) (atWord.rg 6 + BitVec.ofInt 64 (8 * -1)) 8 atWord.loadAcc = .ok (.here (spadKey 1 0) none) ∧
    atWord.poisonedAt (.here (spadKey 1 0) none) 8 = false ∧ atWord.tileOpen (spadKey 1 0) = false ∧
    atWord.access (coreOf atWord.who) (atWord.rg 6 + BitVec.ofInt 64 1) 2 atWord.loadAcc = .error causeAlign ∧
    { atWord with poison := [spadKey 1 0 / 64] }.poisonedAt (.here (spadKey 1 8) none) 8 = true :=
  ⟨by decide, rfl, by decide, by decide, rfl, by decide⟩

theorem meets_StoresWrite : atWord.readyMem [6, 7] [] [] = true ∧ atWord.atomicBefore atWord.me.firing atWord.nextId = false ∧
    atWord.access (coreOf atWord.who) (atWord.rg 6 + BitVec.ofInt 64 0) 8 accStore = .ok (.here (spadKey 1 8) none) ∧
    atWord.tileOpen (spadKey 1 8) = false ∧
    machine.access (coreOf machine.who) (machine.rg 6 + BitVec.ofInt 64 0) 8 accStore = .error causeExtent :=
  ⟨by decide, by decide, rfl, by decide, rfl⟩

/-- A posted atomic of the thread's firing on its way. -/
def posted : Msg := { replyMsg 1 8 0 0 0 0 0 with kind := 0, body := 0x31 :: List.replicate 55 0, firing := machine.me.firing }

theorem meets_StoresWrite_posted : { atWord with net := [posted] }.atomicBefore atWord.me.firing atWord.nextId = true := by decide

/-- The machine with g5 pending. -/
def owed (left : Nat) : State := withMe fun x => { x with pending := [⟨3, .g 5, left, none⟩] }

/-- The late result of g5. -/
def late5 : LoadReply := ⟨machine.me.firing, 8, 3, .g 5, lateG 9, false⟩

theorem meets_LateResultsAndAcknowledgements : (let s := { owed 0 with loads := [late5] }
    s.loads[0]? = some late5 ∧ s.threadOf late5.firing = some 32 ∧ (s.thr 32).pending = [⟨3, .g 5, 0, none⟩]) ∧
    (let s := { owed 2 with loads := [late5] }; (s.thr 32).pending = [⟨3, .g 5, 2, none⟩]) ∧
    (let s := { machine with loads := [late5] }; s.loads[0]? = some late5 ∧ s.threadOf late5.firing = some 32 ∧ (s.thr 32).pending = []) ∧
    (let s := { machine with stores := [(machine.me.firing, 8), (0, 8)] }
     s.stores[0]? = some (machine.me.firing, 8) ∧ (s.thr 32).live = true ∧ (s.thr 32).firing = machine.me.firing ∧ machine.me.firing ≠ 0 ∧ 32 / 4 = 8 ∧ s.stores[1]? = some (0, 8)) := by
  decide

theorem meets_TaggedMemory : (∃ m, atWord.meshOnly (coreOf atWord.who) (atWord.rg 6) 8 tagUnit = .ok m ∧
      atWord.placeOf (coreOf atWord.who) m = .here (spadKey 1 8) none) ∧
    atWord.noWindow = true ∧ atWord.poisoned (spadKey 1 8) 8 = false ∧ atWord.tagQueue = [] ∧ roleOf atWord.who ≠ 2 ∧
    atWord.readyMem [5, 6] [] [] = true ∧ atWord.readyRelease [6, 7] [] [] = true ∧ atWord.full (spadKey 1 8) = false ∧
    (atWord.setFull (spadKey 1 8) true).full (spadKey 1 8) = true :=
  ⟨⟨_, rfl, rfl⟩, by decide, by decide, rfl, by decide, by decide, by decide, by decide, by decide⟩

theorem meets_TaggedMemory_purge : ((0 : Nat) = 0 ∨ 32768 < 0) ∧ 32768 < 32769 ∧ 0 < 5 ∧ 5 ≤ 32768 ∧
    (let s := withG [(6, spad 0x3FFFF8), (7, 2)]
     ∃ m, s.meshOnly (coreOf s.who) (s.rg 6) 8 tagUnit = .ok m ∧ 0x400000 < m.offset + 8 * (s.rg 7).toNat) ∧
    (let s := withG [(6, spad 0x3FFFF8), (7, 1)]
     ∃ m, s.meshOnly (coreOf s.who) (s.rg 6) 8 tagUnit = .ok m ∧ m.offset + 8 * (s.rg 7).toNat ≤ 0x400000) :=
  ⟨by decide, by decide, by decide, by decide, ⟨_, rfl, by decide⟩, _, rfl, by decide⟩

theorem meets_TaggedMemory_queue : spadKey 1 8 % 8 = 0 ∧ machine.who ≠ 33 ∧ machine.full (spadKey 1 8) = false ∧
    (33 : Nat) ≠ 32 := by decide

theorem meets_AtomicsIssue : atWord.readyMem [5, 6, 7] [] [] = true ∧
    atWord.access (coreOf atWord.who) (atWord.rg 6) 8 accAmo = .ok (.here (spadKey 1 8) none) ∧
    atWord.access (coreOf atWord.who) (atWord.rg 6) 8 accAmop = .ok (.here (spadKey 1 8) none) ∧
    atWord.myCore.lastIssued 7 + 1 < 2 ^ 64 ∧
    machine.access (coreOf machine.who) (machine.rg 6) 8 accAmo = .error causeExtent ∧
    ((0 : G).val = 0 ∧ (1 : La).val ≠ 0) ∧ ¬ ((0 : G).val = 0 ∧ (0 : La).val ≠ 0) ∧
    2 * 2 ^ 40 ≤ (BitVec.ofNat 64 (2 * 2 ^ 40)).toNat ∧ (BitVec.ofNat 64 (2 * 2 ^ 40 - 1)).toNat < 2 * 2 ^ 40 :=
  ⟨by decide, rfl, rfl, by decide, rfl, by decide, by decide, by decide, by decide⟩

theorem meets_AtomicsIssue_dec : ((0 : Nat) = 0 ∨ 2047 < 0) ∧ 2047 < 2048 ∧ (tcm 4).toNat % 8 ≠ 0 ∧ (tcm 8).toNat % 8 = 0 ∧
    2 ^ 63 ≤ (tcm 8).toNat ∧ machine.resolve 8 (0x8000002800000000 : Word) 8 = none ∧
    (∃ m, machine.resolve 8 (tcm 0x397F8) 8 = some m ∧ ¬ (m.unit = 0 ∧ m.offset + 16 ≤ 0x39800)) ∧
    ∃ m, machine.resolve 8 (tcm 0x397F0) 8 = some m ∧ m.unit = 0 ∧ m.offset + 16 ≤ 0x39800 ∧ m.package = bits machine.myCore.coord.toNat 23 12 :=
  ⟨by decide, by decide, by decide, by decide, by decide, rfl, ⟨_, rfl, by decide⟩, _, rfl, rfl, by decide, rfl⟩

theorem meets_AtomicsIssue_held : machine.held ⟨0, [63, 64], [], [], false, false⟩ = none ∧ machine.held ⟨0, [64, 63], [], [], false, false⟩ = none ∧
    (63 : Nat) < (machine.allot machine.who).1 ∧ machine.rg 63 = 0 ∧ (machine.allot machine.who).1 ≤ 64 := by decide

/-- A handler's message in the inbox of core 8, with its operation, its function, its size and its operands. -/
def served (op fn size : Nat) (key : Nat) (op1 op2 : Nat) (request : Nat) : Msg :=
  { replyMsg 1 8 0 0 0 request 0 with
    kind := 0, target := 8, key := key
    body := [BitVec.ofNat 8 op, BitVec.ofNat 8 fn, BitVec.ofNat 8 size, 0, 0, 0, 0, 0] ++ toBytes 8 0 ++ toBytes 8 op1 ++ toBytes 8 op2 ++ toBytes 8 0 ++
      toBytes 8 0 ++ toBytes 8 0 }

/-- The machine with a message in core 8's inbox. -/
def serving (m : Msg) : State := machine.setCore 8 { machine.core 8 with inbox := [m] }

/-- What a served message's statement asks beside Serves. -/
abbrev Free (m : Msg) (n : Nat) : Prop := m.words = [] ∧ (serving m).poisoned m.key n = false ∧ (serving m).codeLocked m.key n = false

theorem meets_AtomicsAtHome_amo : let m := served 0x30 7 8 (spadKey 1 8) 1 0 3
    Serves (serving m) 8 m ∧ Free m 8 ∧ m.op = 0x30 ∧ m.fn = 7 :=
  ⟨⟨rfl, rfl, rfl, rfl, rfl, by decide⟩, by decide, by decide, by decide⟩

theorem meets_AtomicsAtHome_amop : let m := served 0x31 0 8 (spadKey 1 8) 1 0 0
    Serves (serving m) 8 m ∧ Free m 8 ∧ m.op = 0x31 ∧ m.request = 0 :=
  ⟨⟨rfl, rfl, rfl, rfl, rfl, by decide⟩, by decide, by decide, by decide⟩

theorem meets_AtomicsAtHome_cas : let m := served 0x32 1 4 (spadKey 1 4) 1 0 3
    Serves (serving m) 8 m ∧ Free m 8 ∧ Free m 4 ∧ m.op = 0x32 ∧ m.size = 4 ∧ (served 0x32 0 8 8 1 0 3).size = 8 :=
  ⟨⟨rfl, rfl, rfl, rfl, rfl, by decide⟩, by decide, by decide, by decide, by decide, by decide⟩

theorem meets_AtomicsAtHome_claim : let m := served 0x1A 0 8 (spadKey 1 8) 0 0 3
    Serves (serving m) 8 m ∧ Free m 24 ∧ m.op = 0x1A ∧
    ((serving m).mem64 (m.key + 8)).toNat % 2 ^ 40 ≤ ((serving m).mem64 m.key).toNat % 2 ^ 40 ∧
    let s := (serving m).setMem64 (m.key + 8) 1
    Serves s 8 m ∧ (s.mem64 m.key).toNat % 2 ^ 40 < (s.mem64 (m.key + 8)).toNat % 2 ^ 40 :=
  ⟨⟨rfl, rfl, rfl, rfl, rfl, by decide⟩, by decide, by decide, by decide, ⟨rfl, rfl, rfl, rfl, rfl, by decide⟩, by decide⟩

theorem meets_ReadinessAtHome_dec : let m := served 0x33 3 8 (tcmKey 8 0) 2047 0 0
    Serves (serving m) 8 m ∧ Free m 16 ∧ m.request = 0 ∧ m.op = 0x33 ∧ m.fn < 4 ∧ m.op1.toNat ≤ 2047 :=
  ⟨⟨rfl, rfl, rfl, rfl, rfl, by decide⟩, by decide, by decide, by decide, by decide, by decide⟩

/-- The lane 3 of the word is at 1 or 0, with rate 0 or 1: below zero without a rate, still above zero, or released. -/
theorem meets_ReadinessAtHome_lanes : (let w : Word := 0; (w.extractLsb' 36 12).toInt - 1 < 0) ∧
    (let w : Word := 2 * 2 ^ 36; 0 < (w.extractLsb' 36 12).toInt - 1) ∧
    (let w : Word := 2 ^ 36; ¬ (w.extractLsb' 36 12).toInt - 1 < 0 ∧ ∀ l : Fin 3, (w.extractLsb' (12 * l) 12).toInt ≤ 0) ∧
    (let s := withCap fun c => { c with image := { c.image with codelets := [⟨0, 8, 0, 0, []⟩] } }
     ((0 : Word) >>> 48).toNat < (s.cap 1).image.codelets.length ∧ (s.core 8).entryCount < 256) ∧
    (machine.cap 1).keyOf (machine.reportBase (machine.cap 1) + 64 * (machine.cap 1).reportIndex) = none := by decide

theorem meets_ReadinessAtHome_arm : (let m := served 0x38 2 8 (tcmKey 8 0) 0 0 0
    Serves (serving m) 8 m ∧ Free m 16 ∧ m.op = 0x38 ∧ m.fn = 2) ∧ let m := served 0x38 3 8 (tcmKey 8 0) 0 0 0
    Serves (serving m) 8 m ∧ Free m 16 ∧ m.fn = 3 :=
  ⟨⟨⟨rfl, rfl, rfl, rfl, rfl, by decide⟩, by decide, by decide, by decide⟩, ⟨rfl, rfl, rfl, rfl, rfl, by decide⟩, by decide, by decide⟩

theorem meets_ReadinessAtHome_waiting : let s := machine.setCore 8 { machine.core 8 with waiting := [⟨0, 0, 0, none⟩] }
    (s.core 8).waiting = ⟨0, 0, 0, none⟩ :: [] ∧ (s.core 8).halted = false ∧ (s.thr (hThread 8)).live = false ∧ (s.core 8).entryCount < 256 ∧
    256 ≤ ({ s.core 8 with ring := List.replicate 256 ⟨0, 0, 0, none⟩ } : Core).entryCount := by decide +kernel

/-! ### Hypotheses met: messages, tasks, firings, waits, special registers, traps -/

/-- A codelet of 8 scalar registers at offset 0x40, with rates 1, 2, 3, 4. -/
def codelet : Codelet := ⟨0x40, 8, 0, 0, [1, 2, 3, 4]⟩

/-- The machine with one codelet in its capsule, a good task packet for it at TCM offset 0x100 and a message image with one inline word at 0x200. -/
def mailbox : State :=
  let s := withCap fun c => { c with image := { c.image with codelets := [codelet] } }
  let s := s.setMem64 (tcmKey 8 0x100) 32
  let s := (s.setMem64 (tcmKey 8 0x200) 0x0000000000180100).setMem64 (tcmKey 8 0x208) 0
  s.setMe (((s.me.wg 6 (tcm 0)).wg 7 (tcm 0x100)).wg 8 (tcm 0x200))

theorem meets_MessagesIssue : mailbox.readyMem [5, 6, 7] [] [] = true ∧
    mailbox.targetCore (coreOf mailbox.who) (mailbox.rg 6) = .ok 8 ∧
    mailbox.readImage (coreOf mailbox.who) (mailbox.rg 7) 0 = .ok (mailbox.byteList (tcmKey 8 0x100) 32) ∧
    packetOk (mailbox.cap mailbox.myCap) (mailbox.byteList (tcmKey 8 0x100) 32) = true ∧
    packetOk (machine.cap 1) (mailbox.byteList (tcmKey 8 0x100) 32) = false ∧
    machine.targetCore 8 (0x1000 : Word) = .error causeExtent ∧ machine.targetCore 8 (0x8000002000000000 : Word) = .error causeRights :=
  ⟨by decide, rfl, rfl, by decide +kernel, by decide +kernel, rfl, rfl⟩

theorem meets_MessagesIssue_msg : mailbox.readImage (coreOf mailbox.who) (mailbox.rg 8) 2 = .ok (mailbox.byteList (tcmKey 8 0x200) 24) ∧
    handleImageOk (mailbox.byteList (tcmKey 8 0x200) 24) = true ∧ dwordB (mailbox.byteList (tcmKey 8 0x200) 24) 8 = 0 ∧
    handleImageOk (List.replicate 8 0) = false ∧ machine.resolve 8 (0x8000002800000000 : Word) 1 = none ∧
    machine.readImage 8 (0 : Word) 0 = .error (causeExtent, 0) :=
  ⟨rfl, by decide +kernel, by decide +kernel, by decide +kernel, rfl, rfl⟩

/-- S of core 8 runs a delegated routine that has not answered. -/
def routine : State :=
  { machine.setThr 35 { machine.me with sregs := 32, vregs := 8, handling := some { replyMsg 1 8 0 0 7 3 0 with kind := 2 } } with who := 35 }

theorem meets_MessagesIssue_reply : roleOf machine.who ≤ 1 ∧ routine.ready [7] [] [] = true ∧ 2 ≤ roleOf routine.who ∧
    routine.me.handling = some { replyMsg 1 8 0 0 7 3 0 with kind := 2 } ∧ routine.me.replied = false := by decide

theorem meets_RepliesArrive : let m := replyMsg 1 8 0 0 machine.me.firing 3 5
    let s := { owed 0 with net := [m] }
    s.net[0]? = some m ∧ m.kind = 4 ∧ m.ofHost = false ∧ (s.cap m.capsule).stage ≠ .ended ∧ m.request ≠ 0 ∧ s.threadOf m.firing = some 32 ∧
    (s.thr 32).pending = [⟨m.request, .g 5, 0, none⟩] := by decide

theorem meets_RepliesArrive_address : let m := replyMsg 1 8 0 (spad 8) 0 0 5
    let s := { machine with net := [m] }
    m.request = 0 ∧ m.ofHost = false ∧ s.access m.sender m.reply 8 accStore = .ok (.here (spadKey 1 8) none) ∧ s.tileOpen (spadKey 1 8) = false ∧
    s.tagQueue = [] ∧ isSpadKey (spadKey 1 8) = true ∧ isSpadKey (tcmKey 8 0) = false :=
  ⟨rfl, rfl, rfl, by decide, rfl, by decide, by decide⟩

/-- A TASK message for core 8 with the good packet. -/
def task : Msg := { replyMsg 1 8 0 0 machine.me.firing 3 0 with kind := 1, target := 8, body := toBytes 32 32 }

theorem meets_TasksArrive : let s := { mailbox with net := [task] }
    s.net[0]? = some task ∧ task.kind = 1 ∧ task.bounce = false ∧ task.target < coreCount ∧ fieldB task.body 2 2 ≠ 0xFFFF ∧ s.heldBehind task = false ∧
    s.atomicBefore task.firing task.serial = false ∧ s.discards task.target task.capsule = false ∧ task.ok = true ∧
    packetOk (s.cap task.capsule) task.body = true ∧ (s.core 8).waiting = [] ∧ (s.core 8).inboxBytes + task.bytesLen ≤ 16384 ∧ (s.core 8).entryCount < 256 := by
  decide +kernel

theorem meets_TasksArrive_full : let c := { machine.core 8 with ring := List.replicate 256 ⟨0, 0, 0, none⟩ }
    ¬ (c.inboxBytes + task.bytesLen ≤ 16384 ∧ c.entryCount < 256) ∧ { task with bounce := true }.bounce = true ∧
    fieldB { task with body := 32 :: 0 :: 0xFF :: 0xFF :: List.replicate 28 0 }.body 2 2 = 0xFFFF := by decide +kernel

theorem meets_Firings_start : let e : Entry := ⟨0, 0, 0, none⟩
    let s := (mailbox.setCore 8 { mailbox.core 8 with ring := [e] }).setThr 32 Thread.reset
    (s.core 8).ring = e :: [] ∧ (s.core 8).halted = false ∧ (s.cap (s.capOf 8)).runs = true ∧ e.source ≠ 2 ∧ (s.thr (8 * 4 + 0)).live = false ∧
    (s.cap (s.capOf 8)).image.codelets[e.codelet]? = some codelet ∧ s.poolHolds 8 (codelet.sregs, codelet.vregs) = true := by decide

theorem meets_Firings_start_second : let e : Entry := ⟨0, 1, 0, some task⟩
    let s := mailbox.setCore 8 { mailbox.core 8 with ring := [e] }
    (s.thr (8 * 4 + 1)).live = false ∧ (s.thr (8 * 4)).live = true ∧ e.source ≠ 2 ∧ e.message = some task ∧
    s.poolHolds 8 (codelet.sregs, codelet.vregs) = true ∧ s.poolHolds 8 (208, 0) = false := by decide

theorem meets_Firings_delegate : let m := { task with kind := 2 }
    let s := mailbox.setCore 8 { mailbox.core 8 with inbox := [m] }
    s.net = [] ∧ (s.core 8).inbox.head? = some m ∧ m.kind = 2 ∧ (s.core 8).halted = false ∧ (s.cap (s.capOf 8)).runs = true ∧
    (s.thr (sThread 8)).live = false ∧ s.atomicBefore m.firing m.serial = false ∧ (s.cap m.capsule).image.codelets[fieldB m.body 2 2]? = some codelet := by
  decide +kernel

theorem meets_Firings_end : machine.noWindow = true ∧ machine.ready [] [] [] = true ∧ roleOf machine.who ≠ 2 ∧ machine.me.handling = none ∧
    machine.me.successors = [] ∧ roleOf 34 = 2 ∧ routine.noWindow = true ∧ routine.ready [] [] [] = true ∧ roleOf routine.who ≠ 2 ∧
    routine.me.successors = [] ∧ (replyMsg 1 8 0 0 7 3 0).request ≠ 0 := by decide

theorem meets_Firings_end_successor : let s := withMe fun x => { x with successors := [tcm 0x397F3, tcm 0x0] }
    ∃ m n, s.me.successors.map (fun h => s.readyTarget (coreOf s.who) (h &&& ~~~7)) = [m, n].map Except.ok ∧
      (∀ x ∈ [m, n], x.package = bits (s.myCore).coord.toNat 23 12) ∧
    (let s := withMe fun x => { x with successors := [tcm 0x397FB] }
     s.me.handling = none ∧ s.readyTarget (coreOf s.who) (tcm 0x397FB &&& ~~~7) = .error causeRights) :=
  ⟨_, _, rfl, by decide, rfl, rfl⟩

theorem meets_Firings_shrink : (let x := 8; bits x 7 0 % 8 = 0 ∧ bits x 15 8 % 8 = 0 ∧ 8 ≤ bits x 7 0 ∧ bits x 7 0 ≤ machine.me.sregs ∧
      bits x 15 8 ≤ machine.me.vregs ∧ x < 2 ^ 16 ∧ roleOf machine.who ≤ 1) ∧ ¬ 8 ≤ bits 7 7 0 ∧ ¬ bits 72 7 0 ≤ machine.me.sregs ∧
    (∃ p ∈ (withMe fun x => { x with pending := [⟨3, .g 8, 0, none⟩] }).me.pending, p.reg = .g 8) ∧ machine.me.pending = [] :=
  ⟨by decide, by decide, by decide, ⟨_, List.mem_singleton.2 rfl, rfl⟩, rfl⟩

theorem meets_ArmReadyMigr : mailbox.noWindow = true ∧ mailbox.ready [6, 5] [] [] = true ∧ roleOf mailbox.who ≠ 2 ∧
    (mailbox.cap mailbox.myCap).image.codelets[(mailbox.rg 5).toNat % 2 ^ 16]? = some codelet ∧
    (mailbox.cap mailbox.myCap).image.codelets.length ≤ 1 ∧
    (∃ m, mailbox.readyTarget (coreOf mailbox.who) (mailbox.rg 6) = .ok m ∧ m.package = bits (mailbox.myCore).coord.toNat 23 12) ∧
    mailbox.targetCore (coreOf mailbox.who) (mailbox.rg 6) = .ok 8 ∧ mailbox.me.vregs ≠ 0 ∧ mailbox.me.barRecs = [] ∧ mailbox.me.shadow.written = false ∧
    (withMe fun x => { x with vregs := 0 }).me.vregs = 0 ∧ machine.targetCore 8 (0 : Word) = .error causeExtent :=
  ⟨by decide, by decide, by decide, by decide, by decide, ⟨_, rfl, rfl⟩, rfl, by decide, rfl, rfl, rfl, rfl⟩

theorem meets_Departures : let s := withMe fun x => { x with wait := .departure 9, vregs := 0 }
    let x := s.thr 32
    x.wait = .departure 9 ∧ x.live = true ∧ x.window = 0 ∧ x.unacked = 0 ∧ s.onlyLoadsOwed x = true ∧ (s.core (coreOf 32)).halted = false ∧
    x.pending = [] ∧ x.ldepth = 0 ∧ x.sregs < 256 ∧ x.successors = [] := by decide

/-- An mcst image at TCM offset 0x400: destination 0x1000, to so many members from one on, with a stride. -/
def line (count stride : Nat) : State :=
  let s := paged.setMem64 (tcmKey 8 0x400) (BitVec.ofNat 64 (count * 2 ^ 16 + stride * 2 ^ 32))
  let s := s.setMem64 (tcmKey 8 0x408) 0x1000
  s.setMe (s.me.wg 6 (tcm 0x400))

set_option maxRecDepth 20000 in
theorem meets_Multicast : (line 1 0).readyMem [5, 6] [] [] = true ∧ (line 1 0).imageKey (coreOf (line 1 0).who) ((line 1 0).rg 6) 272 = .ok (tcmKey 8 0x400) ∧
    (line 1 0).poisoned (tcmKey 8 0x400) 272 = false ∧ (0x1001 : Nat) % 256 ≠ 0 ∧
    (line 1 0).reach (coreOf (line 1 0).who) (0x1000 : Word) 256 { accStore with need := rightW + rightM } = .ok (.here 0x10000 (some 0)) ∧
    (let image := (line 2 0).byteList (tcmKey 8 0x400) 16
     dwordB image 8 = 0x1000 ∧ fieldB image 0 2 = 0 ∧ fieldB image 6 2 = 0 ∧ fieldB image 2 2 = 2 ∧ fieldB image 4 2 = 0) ∧
    (let image := (line 4097 1).byteList (tcmKey 8 0x400) 16; 4096 < fieldB image 2 2) :=
  ⟨by decide, rfl, by decide, by decide, rfl, by decide +kernel, by decide +kernel⟩

/-- A line on its way to its own package. -/
def flying : Mcst := ⟨0, 0x1000, List.replicate 256 7, 32, 5, 1, 3, 1, 1, 0, false⟩

set_option maxRecDepth 20000 in
theorem meets_Multicast_lines : let s := { paged with mcsts := [flying] }
    s.mcsts[0]? = some flying ∧ flying.acked = false ∧ s.lineBehind flying = false ∧ flying.package = bits (s.core (coreOf flying.thread)).coord.toNat 23 12 ∧
    flying.line.length = 256 ∧
    s.reach (coreOf flying.thread) flying.destination 256 { accStore with need := rightW + rightM } = .ok (.here 0x10000 (some 0)) ∧
    { flying with package := 1 }.package ≠ bits (s.core (coreOf flying.thread)).coord.toNat 23 12 ∧
    (∀ q ∈ [{ flying with acked := true }], q.acked = true) ∧
    (let m := { task with target := coreCount + 1 }; m.kind ≠ 4 ∧ m.request ≠ 0 ∧ posted.request = 0) :=
  ⟨rfl, rfl, by decide, by decide, by decide, rfl, by decide, by decide, by decide⟩

theorem meets_FencesAndTimelines : machine.noWindow = true ∧ (machine.cluster (clusterOf (coreOf machine.who))).openTiles = [] ∧
    machine.ready [6] [] [] = true ∧ machine.me.requests = [] ∧ machine.atomicBefore machine.me.firing machine.nextId = false ∧
    { machine with net := [posted] }.atomicBefore machine.me.firing machine.nextId = true ∧ machine.me.issued = [] ∧
    (withMe fun x => { x with requests := [(3, true)] }).me.requests ≠ [] ∧
    (withMe fun x => { x with requests := [(3, false)] }).me.requests.all (fun r => !r.2) = true ∧
    (withMe fun x => { x with issued := [(4, 1)] }).myCore.tlwOf 4 < 1 := by decide

theorem meets_FencesAndTimelines_waitt : (let s := withG [(6, 1)]; s.myCore.lastIssued 4 < (s.rg 6).toNat) ∧
    (machine.rg 6).toNat ≤ machine.myCore.lastIssued 4 ∧ (machine.rg 6).toNat ≤ machine.myCore.tlwOf 4 ∧
    let s := (withG [(6, 1)]).setCore 8 { machine.core 8 with issued := [(4, 1)] }
    (s.rg 6).toNat ≤ s.myCore.lastIssued 4 ∧ s.myCore.tlwOf 4 < (s.rg 6).toNat := by decide

theorem meets_Barriers : (let s := withG [(6, 65535)]
     (7 : Fin 8).val ≠ 0 ∧ s.me.barRec .pod 7 = none ∧ 1 ≤ (s.rg 6).toNat ∧ (s.rg 6).toNat ≤ 65535 ∧ (s.barrier .pod 7).expected = none ∧
      s.readyRelease [6] [] [] = true ∧ s.me.syncArrived = false ∧ roleOf s.who ≠ 2 ∧ s.noWindow = true) ∧
    (let s := withMe fun x => { x with barRecs := [⟨.quad, 1, 0⟩] }
     s.me.barRec .quad 1 = some ⟨.quad, 1, 0⟩ ∧ s.ready [] [] [] = true ∧ (s.barrier .quad 1).phase = 0) ∧
    let s := withMe fun x => { x with barRecs := [⟨.quad, 1, 5⟩] }
    s.me.barRec .quad 1 = some ⟨.quad, 1, 5⟩ ∧ (s.barrier .quad 1).phase ≠ 5 := by decide

theorem meets_SpecialRegisters : machine.ready [63] [] [] = true ∧ machine.noWindow = true ∧ machine.me.mode = .capsule ∧
    (withMe fun x => { x with mode := .firmware }).me.mode = .firmware ∧ (0x057 : BitVec 12).toNat = 0x050 + 7 ∧ (0x073 : BitVec 12).toNat = 0x073 ∧
    (0x081 : BitVec 12).toNat = 0x081 ∧ (0x4 : Word).toNat % 4 = 0 ∧ (511 : Nat) < 512 ∧ bits 499 3 2 = 0 ∧ roleOf machine.who ≤ 1 ∧
    (let s := withG [(6, 64 + 256 * 32)]
     (s.rg 6).toNat = s.me.sregs + 256 * s.me.vregs ∧ s.me.sregs % 8 = 0 ∧ s.me.vregs % 8 = 0 ∧ 8 ≤ s.me.sregs ∧ s.me.sregs ≤ 64 ∧ s.me.vregs ≤ 32 ∧
      s.me.pending = []) := by decide

/-- The machine in an armed halt group that halts on faults. -/
def guarded : State :=
  let s := machine.setCore 8 { machine.core 8 with haltGroup := some 15 }
  { s with mgmt := { s.mgmt with groups := [(15, ⟨true, true, false⟩)] } }

theorem meets_TrapsAndTheResidentHandler : roleOf machine.who ≠ 2 ∧ machine.faultHalts (coreOf machine.who) = none ∧
    guarded.faultHalts (coreOf guarded.who) = some 15 ∧ machine.ready [6] [] [] = true ∧ machine.noWindow = true ∧
    (withMe fun x => { x with pc := 4096 }).fetch = .error causeExtent ∧
    (withMe fun x => { x with mode := .firmware }).me.pending = [] ∧ machine.me.mode = .capsule :=
  ⟨by decide, by decide, by decide, by decide, by decide, rfl, rfl, rfl⟩

theorem meets_TrapsAndTheResidentHandler_handler : let s := withMe fun x => { x with mode := .firmware }
    let t := turning s
    IssuesIn s t 32 ∧ t.me.mode = .firmware ∧ roleOf 32 < 2 ∧ t.me.handling = none ∧
    bits (t.cap t.myCap).image.flags 3 3 = 0 ∧ (t.cap t.myCap).stage = .running ∧
    ¬ (bits 8 3 3 = 0 ∨ t.me.trapCause.toNat = causeMemerr) ∧ (t.cap t.myCap).reportIndex < 63 :=
  ⟨issues_of (.inl rfl) rfl (by decide +kernel), rfl, by decide, rfl, rfl, rfl, by decide, by decide⟩

theorem meets_RecordsAndBreakpoints : machine.noWindow = true ∧ machine.readyRelease [6] [] [] = true ∧ roleOf machine.who ≠ 2 ∧
    guarded.armedGroup (coreOf guarded.who) = some 15 ∧ machine.armedGroup (coreOf machine.who) = none ∧ (machine.cap machine.myCap).reportIndex < 63 ∧
    machine.readyMem [6, 7] [] [] = true ∧
    (let p : PendingReport := ⟨1, 1, 1, machine.recordOf 1 2 0 0 0 0 0 0⟩
     { machine with reports := [p] }.reports[0]? = some p ∧ machine.atomicBefore p.firing p.serial = false) := by decide

/-! ### Hypotheses met: engines, the matrix unit, the Setter -/

/-- The machine with a copy shadow. -/
def shaped (shape fmt chan : Nat) : State := withMe fun x => { x with shadow :=
  ⟨spad 0, spad 64, 0, 0, BitVec.ofNat 64 shape, BitVec.ofNat 64 fmt, BitVec.ofNat 64 chan, true⟩ }

/-- One row of eight bytes. -/
def oneRow : Nat := 8 + 2 ^ 24 + 2 ^ 40

theorem meets_CopiesIssue : (let s := shaped oneRow 0 3
     s.readyRelease [5] [] [] = true ∧ s.noWindow = true ∧ roleOf s.who ≠ 2 ∧ bits s.me.shadow.shape.toNat 23 0 ≠ 0 ∧
      bits s.me.shadow.shape.toNat 39 24 ≠ 0 ∧ bits s.me.shadow.shape.toNat 55 40 ≠ 0 ∧ bits s.me.shadow.shape.toNat 63 56 = 0 ∧
      s.me.shadow.fmt.toNat < 256 ∧ s.me.shadow.chan.toNat < 4 ∧ s.sideFormat (coreOf s.who) s.me.shadow.src 0 = some 0 ∧
      s.sideFormat (coreOf s.who) s.me.shadow.dst 0 = some 0 ∧ blockBad 0 0 8 = false ∧ (s.cluster s.myCluster).copies.length < 32) ∧
    bits (shaped (2 ^ 24 + 2 ^ 40) 0 0).me.shadow.shape.toNat 23 0 = 0 ∧ 256 ≤ (shaped oneRow 256 0).me.shadow.fmt.toNat ∧
    4 ≤ (shaped oneRow 0 4).me.shadow.chan.toNat ∧ roleOf 34 = 2 ∧ machine.ready [6] [] [] = true ∧
    machine.sideFormat 8 (0x8000022800000000 : Word) 0 = some 0 := by decide

/-- A copy of one row in the engine. -/
def copying (moved : Bool) : CopyOp := ⟨(shaped oneRow 0 0).me.shadow, 0, 0, 0, 32, 5, 1, 3, 1, 0, 0, [], moved⟩

theorem meets_CopiesIssue_full : let s := machine.setCluster 1 { machine.cluster 1 with copies := List.replicate 32 (copying false) }
    32 ≤ (s.cluster s.myCluster).copies.length := by decide

theorem meets_CopiesIssue_btx : (let s := withG [(6, spad 0x100)]; (s.rg 6).toNat % 8 = 0 ∧ s.readyRelease [5, 6] [] [] = true) ∧ (spad 1).toNat % 8 ≠ 0 ∧
    (∃ l, machine.readRange 8 accLoad (fun m => unitAllows m accLoad) 32 (spad 0x100) = .ok l) ∧
    (0 % 64 = 0 ∧ 64 ≤ 2 ^ 30 ∧ 2 ^ 30 ≤ 2 ^ 30 ∧ 2 ^ 30 % 64 = 0) ∧ ¬ 64 ≤ 63 ∧ machine.transfers = [] :=
  ⟨by decide, by decide, reads (by decide +kernel), by decide, by decide, rfl⟩

/-- Whether n bytes at a are read at a key and its followers. -/
def reachesAll (s : State) (core n : Nat) (acc : Acc) (allows : Mesh → Bool) (a : Word) (ka : Nat) : Bool :=
  (List.range n).all fun i => match s.reachIf core (a + BitVec.ofNat 64 i) 1 acc allows with
    | .ok (.here k e) => decide (k = ka + i) && !s.tileOpen k && !(acc.writes && s.writeFails (.here k e))
    | _ => false

/-- What the check of every byte says of one. -/
theorem reachesAll_byte {s : State} {core n : Nat} {acc : Acc} {allows : Mesh → Bool} {a : Word} {ka : Nat} (h : reachesAll s core n acc allows a ka = true)
    {i : Nat} (hi : i < n) : ∃ e, s.reachIf core (a + BitVec.ofNat 64 i) 1 acc allows = .ok (.here (ka + i) e) ∧ s.tileOpen (ka + i) = false ∧
      (acc.writes = true → s.writeFails (.here (ka + i) e) = false) := by
  have g := List.all_eq_true.1 h i (List.mem_range.2 hi)
  split at g
  · next k e he =>
      simp only [Bool.and_eq_true, decide_eq_true_eq, Bool.not_eq_true', Bool.and_eq_false_imp] at g
      obtain ⟨⟨rfl, g1⟩, g2⟩ := g
      exact ⟨e, he, g1, g2⟩
  · exact nomatch g

/-- Two ranges that are read and written byte by byte, clean and apart. -/
theorem apart_of {s : State} {core n m : Nat} {allows : Mesh → Bool} {a b : Word} {ka kb : Nat} (hr : reachesAll s core n accLoad allows a ka = true)
    (hw : reachesAll s core m accStore allows b kb = true) (hp : s.poison = []) (hf : s.mgmt.cxlFailed = false) (hd : ka + n ≤ kb ∨ kb + m ≤ ka) :
    Apart s core n m allows a b ka kb where
  source i hi := let ⟨e, he, _, _⟩ := reachesAll_byte hr hi; ⟨e, he⟩
  target i hi := let ⟨e, he, _, _⟩ := reachesAll_byte hw hi; ⟨e, he⟩
  clean i hi := by simp [State.poisoned, hp, hf]
  takes i e hi := by simp [State.writeFails, hf]
  shut := ⟨fun i hi => let ⟨_, _, h, _⟩ := reachesAll_byte hr hi; h, fun i hi => let ⟨_, _, h, _⟩ := reachesAll_byte hw hi; h⟩
  disjoint := hd

/-- A copy of two rows, of eight bytes or elements each, 16 bytes apart. -/
def twoRows : CopyOp :=
  { copying false with shadow := { (copying false).shadow with sstr := 16, dstr := 16, shape := BitVec.ofNat 64 (8 + 2 * 2 ^ 24 + 2 ^ 40) } }

/-- The machine with an operation in its copy engine. -/
def copyEngine (x : CopyOp) : State := machine.setCluster 1 { machine.cluster 1 with copies := [x] }

theorem meets_CopiesMove : let s := copyEngine twoRows
    (s.cluster 1).copies = twoRows :: [] ∧ (s.cap (s.capOf (coreOf twoRows.thread))).runs = true ∧ twoRows.moved = false ∧ twoRows.next = 0 ∧
    twoRows.done = [] ∧ twoRows.sfmt = twoRows.dfmt ∧ bits twoRows.shadow.shape.toNat 39 24 * bits twoRows.shadow.shape.toNat 55 40 = 2 ∧
    (∀ r, r < 2 → Apart s 8 8 8 copyAllows (rowAddress twoRows.shadow.src twoRows.shadow.sstr 2 r) (rowAddress twoRows.shadow.dst twoRows.shadow.dstr 2 r)
      (spadKey 1 (16 * r)) (spadKey 1 (64 + 16 * r))) ∧
    (∀ p r : Fin 2, p ≠ r → (spadKey 1 (64 + 16 * p) + 8 ≤ spadKey 1 (16 * r) ∨ spadKey 1 (16 * r) + 8 ≤ spadKey 1 (64 + 16 * p)) ∧
      (spadKey 1 (64 + 16 * p) + 8 ≤ spadKey 1 (64 + 16 * r) ∨ spadKey 1 (64 + 16 * r) + 8 ≤ spadKey 1 (64 + 16 * p))) :=
  ⟨rfl, by decide, rfl, rfl, rfl, rfl, by decide, fun r hr => by
    obtain rfl | rfl : r = 0 ∨ r = 1 := by omega
    · exact apart_of (by decide +kernel) (by decide +kernel) rfl rfl (by decide)
    · exact apart_of (by decide +kernel) (by decide +kernel) rfl rfl (by decide), by decide⟩

/-- A copy of two rows that converts from one format to another. -/
def converting : CopyOp :=
  { copying false with sfmt := 1, dfmt := 4, shadow :=
    ⟨spad 0, spad 256, 64, 16, BitVec.ofNat 64 (8 + 2 * 2 ^ 24 + 2 ^ 40), 0, 0, true⟩ }

theorem meets_CopiesMove_converting : let x := converting
    let read := rowBytes x.sfmt 8
    let out := fun (r : Nat) => encodeRow x.dfmt (decodeRow x.sfmt 8 ((copyEngine x).byteList (spadKey 1 (64 * r)) read))
    x.moved = false ∧ x.next = 0 ∧ x.done = [] ∧ ¬ (x.sfmt = x.dfmt ∨ x.sfmt = 0 ∨ x.dfmt = 0) ∧ bits x.shadow.shape.toNat 23 0 = 8 ∧
    bits x.shadow.shape.toNat 39 24 = 2 ∧ bits x.shadow.shape.toNat 55 40 = 1 ∧
    (∀ r, r < 2 * 1 → Apart (copyEngine x) 8 read (out r).length copyAllows (rowAddress x.shadow.src x.shadow.sstr 2 r)
      (rowAddress x.shadow.dst x.shadow.dstr 2 r) (spadKey 1 (64 * r)) (spadKey 1 (256 + 16 * r))) ∧
    ∀ p r : Fin 2, p ≠ r →
      (spadKey 1 (256 + 16 * p.val) + (out p.val).length ≤ spadKey 1 (64 * r.val) ∨ spadKey 1 (64 * r.val) + read ≤ spadKey 1 (256 + 16 * p.val)) ∧
      (spadKey 1 (256 + 16 * p.val) + (out p.val).length ≤ spadKey 1 (256 + 16 * r.val) ∨
        spadKey 1 (256 + 16 * r.val) + (out r.val).length ≤ spadKey 1 (256 + 16 * p.val)) :=
  ⟨rfl, rfl, rfl, by decide, by decide, by decide, by decide, fun r h => by
    obtain rfl | rfl : r = 0 ∨ r = 1 := by omega
    · exact apart_of (by decide +kernel) (by decide +kernel) rfl rfl (by decide +kernel)
    · exact apart_of (by decide +kernel) (by decide +kernel) rfl rfl (by decide +kernel), by decide +kernel⟩

theorem meets_CopiesMove_faulting : let x := { twoRows with shadow := { twoRows.shadow with src := 0x1000 } }
    let s := copyEngine x
    (s.cap (s.capOf 8)).stage = .running ∧ s.readRange 8 accLoad copyAllows 8 (rowAddress x.shadow.src x.shadow.sstr 2 0) = .error (causeExtent, 0x1000) ∧
    { copying true with number := 1 }.number = (s.core 8).tlwOf (copying true).chan + 1 ∧ (copying true).moved = true :=
  ⟨by decide, stops (by decide +kernel), by decide, rfl⟩

/-- A block transfer of 64 bytes. -/
def transfer (stage hint : Nat) : Transfer := ⟨spad 0, spad 64, 64, 1, 32, 5, 1, 3, 1, 0, 0, stage, 1, hint, 0, []⟩

theorem meets_CopiesMove_transfers : let s := { machine with transfers := [transfer 0 0, transfer 1 0, transfer 1 9, transfer 2 0] }
    s.transfers[0]? = some (transfer 0 0) ∧ s.olderTickets 0 (sget 0 s.tickets 0 + 1) < s.freeEntries 0 ∧
    s.transfers[1]? = some (transfer 1 0) ∧ (transfer 1 0).hint ≤ s.cycle ∧ s.cycle < (transfer 1 9).hint ∧
    s.transfers[3]? = some (transfer 2 0) ∧ (s.cap (transfer 2 0).capsule).runs = true ∧
    (let s := { machine with transfers := List.replicate 16 (transfer 2 0) }; s.freeEntries 0 ≤ s.olderTickets 0 1) := by decide +kernel

theorem meets_CopiesMove_lines : (∀ r, r < 2 → Apart paged 8 64 64 transferAllows (0x1000 + BitVec.ofNat 64 (64 * r)) (0x1800 + BitVec.ofNat 64 (64 * r))
      (0x10000 + 64 * r) (0x10800 + 64 * r)) ∧
    (∀ p r : Fin 2, p ≠ r → (0x10800 + 64 * p.val + 64 ≤ 0x10000 + 64 * r.val ∨ 0x10000 + 64 * r.val + 64 ≤ 0x10800 + 64 * p.val) ∧
      (0x10800 + 64 * p.val + 64 ≤ 0x10800 + 64 * r.val ∨ 0x10800 + 64 * r.val + 64 ≤ 0x10800 + 64 * p.val)) ∧ (128 : Nat) = 64 * 2 ∧
    (transfer 2 0).next = 0 ∧ (transfer 2 0).done = [] :=
  ⟨fun r hr => by
    obtain rfl | rfl : r = 0 ∨ r = 1 := by omega
    · exact apart_of (by decide +kernel) (by decide +kernel) rfl rfl (by decide)
    · exact apart_of (by decide +kernel) (by decide +kernel) rfl rfl (by decide), by decide, rfl, rfl, rfl⟩

theorem meets_CopiesMove_transient : (15 : Nat) < 16 ∧ (let s := machine.setCluster 1 { machine.cluster 1 with copies := [copying false] }
     (s.cluster 1).copies = copying false :: [] ∧ (s.cap (s.capOf (coreOf 32))).stage = .running) ∧
    { machine with transfers := [transfer 2 0] }.transfers = transfer 2 0 :: [] ∧ (transfer 2 0).engine = 0 ∧ (transfer 2 0).stage = 2 := by decide

/-- A tile command: its operation, its tile, its source and its stride, its drain entry, its count of elements, with accumulator format 1 and one number. -/
def tcw (top tile : Nat) (aaddr : Word) (astride drain k : Nat) : Nat :=
  top + 2 ^ 16 + tile * 2 ^ 24 + drain * 2 ^ 32 + k * 2 ^ 48 + aaddr.toNat * 2 ^ 64 + astride * 2 ^ 192 + 2 ^ 248

/-- A queued slot. -/
def slot (t : Nat) (state : SlotState) : Slot := ⟨t, ⟨0, 0, 0, 0, 0⟩, 0, state, 1, 0, 32⟩

/-- The machine with a tile command first in the queue of core 8. -/
def queued (t : Nat) : State := paged.setCore 8 { machine.core 8 with slots := [slot t .queued], issued := [(4, 1)] }

theorem meets_TileCommands : let s := (withG [(6, spad 0x20)]).setBytes (spadKey 1 0x20) 32 (tcw 3 127 0 0 0 0)
    s.readyRelease [6] [] [] = true ∧ s.noWindow = true ∧ s.access 8 (s.rg 6) 32 accLoad = .ok (.here (spadKey 1 0x20) none) ∧
    s.poisoned (spadKey 1 0x20) 32 = false ∧ s.tileOpen (spadKey 1 0x20) = false ∧ s.bytes (spadKey 1 0x20) 32 = tcw 3 127 0 0 0 0 ∧
    tcwOk (tcw 3 127 0 0 0 0) (s.tcwB 8 (tcw 3 127 0 0 0 0)) = true ∧ tcwOk (tcw 3 127 0 1 0 0) (s.tcwB 8 (tcw 3 127 0 1 0 0)) = false ∧
    tcwOk 8 (s.tcwB 8 8) = true ∧ s.myCore.slots.length < 16 ∧ bits (tcw 3 127 0 0 0 0) 251 248 ≠ 0 :=
  ⟨by decide, by decide, rfl, by decide, by decide, by decide +kernel, by decide +kernel, by decide +kernel, by decide +kernel, by decide, by decide +kernel⟩

theorem meets_TileCommands_slots : (let s := machine.setCore 8 { machine.core 8 with slots := List.replicate 16 (slot 3 .faulted) }
     16 ≤ s.myCore.slots.length ∧ s.myCore.slots.length ≤ 16 ∧ s.ready [5] [] [] = true) ∧
    (let s := machine.setCore 8 { machine.core 8 with slots := [slot (tcw 3 0 0 0 0 0) .finished] }
     (s.core 8).slots = slot (tcw 3 0 0 0 0 0) .finished :: [] ∧ bits (tcw 3 0 0 0 0 0) 251 248 = 1 ∧ 1 = (s.core 8).tlwOf 4 + 1) := by decide +kernel

/-- What every operation of the matrix unit asks. -/
abbrev Picked (s : State) (t : Nat) : Prop := s.pick 1 = some (0, 0, 1) ∧ (s.core 8).slots[0]? = some (slot t .queued) ∧ (s.cap (s.capOf 8)).runs = true ∧
  (s.cluster 1).openTiles.any (fun o => o.spoiled) = false

theorem meets_MatrixOperations : Picked (queued (tcw 3 127 0 0 0 0)) (tcw 3 127 0 0 0 0) ∧ Picked (queued (tcw 7 0 0 0 0 0)) (tcw 7 0 0 0 0 0) ∧
    bits (tcw 3 127 0 0 0 0) 7 0 = 3 ∧ bits (tcw 7 0 0 0 0 0) 7 0 = 7 := by decide +kernel

theorem meets_MatrixOperations_maccld : let t := tcw 4 0 0x1000 128 0 0
    Picked (queued t) t ∧ bits t 7 0 = 4 ∧ ∃ rows, (queued t).readRows 8 (32 * tcwSize t) (tcwAstride t) (tcwRows t) (tcwAaddr t) = .ok rows :=
  ⟨by decide +kernel, by decide +kernel, reads (by decide +kernel)⟩

/-- Bytes 0x0F, which are masks of eight kept positions and elements beside them. -/
def masked (s : State) : State := s.setBytes 0x10000 40 ((256 ^ 40 - 1) / 255 * 15)

theorem meets_MatrixOperations_mma : let t := tcw 1 0 0x1000 0 0xFF 1 + 2 * 2 ^ 8 + 2 * 2 ^ 12 + 0x1000 * 2 ^ 128
    Picked (queued t) t ∧ bits t 7 0 = 1 ∧ bits t 39 32 = 0xFF ∧ tcwAcc t = 0 ∧ tcwTrb t = 0 ∧
    (∃ a, (queued t).readRows 8 (tcwARow t) (tcwAstride t) (tcwRows t) (tcwAaddr t) = .ok a ∧ decide (badMask t a = none) = true) ∧
    ∃ b, (queued t).readRows 8 (rowBytes (tcwBfmt t) (tcwK t)) (tcwBstride t) 32 (tcwBaddr t) = .ok b :=
  ⟨by decide +kernel, by decide +kernel, by decide +kernel, by decide +kernel, by decide +kernel, readsWith (by decide +kernel), reads (by decide +kernel)⟩

theorem meets_MatrixOperations_mmas : let t := tcw 2 0 0x1000 0 0xFF 16 + 2 * 2 ^ 8 + 2 * 2 ^ 12 + 2 ^ 21 + 0x1000 * 2 ^ 128
    Picked (masked (queued t)) t ∧ bits t 7 0 = 2 ∧ ∃ a, (masked (queued t)).readRows 8 (tcwARow t) (tcwAstride t) (tcwRows t) (tcwAaddr t) = .ok a ∧
      decide (badMask t a = none) = true :=
  ⟨by decide +kernel, by decide +kernel, readsWith (by decide +kernel)⟩

theorem meets_MatrixOperations_mdpl : let t := tcw 6 0 (spad 0) 0 5 1 - 2 ^ 16
    let s := (queued t).setMem64 (spadKey 1 0) 0x16
    Picked s t ∧ bits t 7 0 = 6 ∧ (∃ l, s.readRange 8 accLoad pipeAllows (4 * tcwK t) (tcwAaddr t) = .ok l) ∧ tcwK t ≤ 32 ∧ 0 < tcwK t ∧
    bits (s.bytes (spadKey 1 0) 4) 7 0 = 0x16 ∧ glazeValid (s.bytes (spadKey 1 0) 4) = true :=
  ⟨by decide +kernel, by decide +kernel, reads (by decide +kernel), by decide +kernel, by decide +kernel, by decide +kernel, by decide +kernel⟩

theorem meets_MatrixOperations_mdrain : let t := tcw 5 0 0 0 255 0
    let s := (queued t).setCluster 1 { machine.cluster 1 with directory := [255] }
    Picked s t ∧ bits t 7 0 = 5 ∧ (s.cluster 1).directory.contains (tcwDrain t) = true ∧ s.poisoned (tileKey 8 t) (32 * tcwSize t) = false ∧
    (machine.cluster 1).directory.contains (tcwDrain t) = false ∧ (s.cap (s.capOf 8)).stage = .running ∧ (s.cap (s.capOf 8)).onFiring = false := by
  decide +kernel

/-- The machine with session 0 open at scratchpad offset 0x1000 with some shelves, and an operation accepted. -/
def shelving (shelves : List Shelf) (op : SetterOp) : State :=
  machine.setCluster 1 { machine.cluster 1 with sessions := [(0, ⟨1, 0, 0x1000, 0x1000, 1, shelves⟩)], setterOps := [op] }

/-- A set.put of one record, or a set.close. -/
def setterOp (kind : Nat) (begun : Bool) : SetterOp := ⟨kind, 0, 32, 5, 1, 3, 0, 1, spad 0, 1, 0, begun⟩

theorem meets_Setter_open : (let s := withG [(6, spad 8)]
     (s.rg 6).toNat % 8 = 0 ∧ 2 ^ 63 ≤ (s.rg 6).toNat ∧ s.readyMem [5, 6] [] [] = true ∧ ∃ m, s.resolve (coreOf s.who) (s.rg 6) 1 = some m ∧
      m.package = bits s.myCore.coord.toNat 23 12 ∧ (s.cap s.myCap).clusterFor m = s.myCluster ∧ m.unit = 1) ∧
    ((machine.cluster 1).session 0).state = 0 ∧ ((shelving [] (setterOp 1 false)).cluster 1).setterOps.length ≤ 8 ∧ (spad 1).toNat % 8 ≠ 0 ∧
    (let k := { machine.cluster 1 with sessions := [(0, ⟨1, 0, 0, 0, 0, []⟩), (1, ⟨2, 0, 0, 0, 0, []⟩), (2, ⟨1, 0, 0, 0, 0, []⟩), (3, ⟨1, 0, 0, 0, 0, []⟩)] }
     ∀ q : Fin 4, (k.session q).state = 1 ∨ (k.session q).state = 2) ∧ 3 < 4 ∧ 3 ≤ 3 :=
  ⟨⟨by decide, by decide, by decide, _, rfl, rfl, by decide, rfl⟩, by decide, by decide, by decide, by decide, by decide, by decide⟩

theorem meets_Setter_put : (let s := shelving [] (setterOp 1 true)
     s.readyRelease [5, 6, 7] [] [] = true ∧ s.noWindow = true ∧ ((s.cluster 1).session 0).state = 1 ∧ 4096 % 2 ^ 16 ≠ 0 ∧ ¬ 4096 < 4096 % 2 ^ 16 ∧
      bits 4096 17 16 = 0 ∧ (s.cluster 1).setterOps.length < 8) ∧ 2 ^ 18 ≤ 2 ^ 18 ∧ 4096 < 4097 % 2 ^ 16 ∧ (spad 8).toNat % 16 ≠ 0 ∧ (spad 16).toNat % 16 = 0 ∧
    8 ≤ (List.replicate 8 (setterOp 1 true)).length := by decide

theorem meets_Setter_operations : (shelving [] (setterOp 1 false)).setterHead 1 = some (setterOp 1 false) ∧
    (shelving [] (setterOp 1 true)).setterHead 1 = some (setterOp 1 true) ∧
    (∃ l, (shelving [] (setterOp 1 true)).readRange 8 accLoad setterAllows 16 (spad 0 + BitVec.ofNat 64 (16 * 0)) = .ok l) ∧
    (⟨0, [1], [5]⟩ : Shelf).takes [5] = false ∧ (⟨0, [1], [5]⟩ : Shelf).takes [6] = true ∧ (⟨0, [1], [5]⟩ : Shelf).indices.length < 31 ∧
    8 ≤ (List.replicate 8 (⟨0, [1], [5]⟩ : Shelf)).length ∧ 0x1000 + ((⟨0, [1], [5]⟩ : Shelf).bytes 1).length ≤ 0x400000 ∧
    (shelving [] (setterOp 2 false)).setterHead 1 = some (setterOp 2 false) ∧ 0x3FFFF8 + 8 ≤ 0x400000 :=
  ⟨by decide, by decide, reads (by decide +kernel), by decide, by decide, by decide, by decide, by decide +kernel, by decide, by decide⟩

/-! ### Hypotheses met: floating point, vectors, drain programs -/

theorem meets_ScalarFloat : cvtOk .f64 .i32 = true ∧ cvtOk .i32 .u64 = false ∧ cvtOk .f32 .f32 = false ∧ machine.ready [63, 5] [] [] = true ∧
    machine.ready [5, 6, 7, 8] [] [] = true := by decide

theorem meets_FloatRules : 0x7FF8000000000000 < 2 ^ fmt64.width ∧ (fmt64.decode 0x7FF8000000000000).isNan = true ∧ (fmt64.decode 0x7FF0000000000001).isSnan = true ∧
    0x3C00 < 2 ^ fmt16.width ∧ (fmt16.decode 0x3C00).isNan = false ∧ (fmt16.decode 0x3C01).isNan = false ∧
    ((fmt16.decode 0x3C00).isZero && (fmt16.decode 0x3C01).isZero) = false ∧ (flt fmt16 0x3C00 0x3C01).1 = true := by decide +kernel

theorem meets_VectorElements : machine.ready [] [31, 30, 29, 28] [7] = true ∧ machine.ready [63] [0] [0] = true := by decide

theorem meets_VectorWholes : machine.ready [] [31, 30] [7, 6] = true ∧ machine.ready [6] [31] [0] = true ∧
    ((0 : K).val = 0 ∨ (CmpTy.isFloat .i8 = true ∧ False)) ∧ ((1 : K).val = 0 ∨ (CmpTy.isFloat .f64 = true ∧ (5 : Fin 6).val = 5)) ∧
    ¬ ((7 : K).val = 0 ∨ (CmpTy.isFloat .f64 = true ∧ (4 : Fin 6).val = 5)) ∧ ¬ ((7 : K).val = 0 ∨ (CmpTy.isFloat .i64 = true ∧ (5 : Fin 6).val = 5)) ∧
    floatWidth .b = false ∧ floatWidth .w = true ∧ idxOk 15 .w = true ∧ idxOk 7 .d = true ∧ idxOk 8 .d = false ∧
    cvtOk .f32 .bf16 = true ∧ cvtOk .i64 .u32 = false := by decide

/-- The machine with a scratchpad address in g6, a step of 8 in g7, and a length of n. -/
def vectors (n : Nat) (a : Word) : State := withMe fun x => { (x.wg 6 a).wg 7 8 with vl := BitVec.ofNat 64 n }

theorem meets_VectorMemory : (vectors 0 (spad 64)).readyMem [6] [31] [] = true ∧ activeCount (vectors 0 (spad 64)).me.vl.toNat 64 * (64 / 8) = 0 ∧
    activeCount (vectors 8 (spad 64)).me.vl.toNat 64 * (64 / 8) = 64 ∧ ((vectors 8 (spad 4)).rg 6 + BitVec.ofInt 64 (64 * (-1))).toNat % 8 ≠ 0 ∧
    (let s := vectors 8 (spad 64)
     (∀ i, 8 * i < 64 → (∃ e, s.reach 8 (spad 64 + BitVec.ofNat 64 (8 * i)) 8 accLoad = .ok (.here (spadKey 1 64 + 8 * i) e)) ∧
        s.poisoned (spadKey 1 64 + 8 * i) 8 = false ∧ s.tileOpen (spadKey 1 64 + 8 * i) = false) ∧
      (∀ i, 8 * i < 64 → (∃ e, s.reach 8 (spad 64 + BitVec.ofNat 64 (8 * i)) 8 accStore = .ok (.here (spadKey 1 64 + 8 * i) e)))) ∧
    (let s := vectors 8 (spad 0x3FFFF8)
     s.reach 8 (spad 0x3FFFF8 + BitVec.ofNat 64 (8 * 1)) 8 accLoad = .error causeMeshbound ∧
     s.reach 8 (spad 0x3FFFF8 + BitVec.ofNat 64 (8 * 1)) 8 accStore = .error causeMeshbound ∧
     ∀ j, j < 1 → ∃ p, s.reach 8 (spad 0x3FFFF8 + BitVec.ofNat 64 (8 * j)) 8 accLoad = .ok p) :=
  ⟨by decide, by decide, by decide, by decide,
    ⟨fun i h => ⟨⟨none, reaches ((by decide +kernel : ∀ i : Fin 8, (match (vectors 8 (spad 64)).reach 8 (spad 64 + BitVec.ofNat 64 (8 * i)) 8 accLoad with
      | .ok q => decide (q = .here (spadKey 1 64 + 8 * i) none) | .error _ => false) = true) ⟨i, by omega⟩)⟩,
      (by decide +kernel : ∀ i : Fin 8, (vectors 8 (spad 64)).poisoned (spadKey 1 64 + 8 * i) 8 = false ∧
        (vectors 8 (spad 64)).tileOpen (spadKey 1 64 + 8 * i) = false) ⟨i, by omega⟩⟩,
     fun i h => ⟨none, reaches ((by decide +kernel : ∀ i : Fin 8, (match (vectors 8 (spad 64)).reach 8 (spad 64 + BitVec.ofNat 64 (8 * i)) 8 accStore with
      | .ok q => decide (q = .here (spadKey 1 64 + 8 * i) none) | .error _ => false) = true) ⟨i, by omega⟩)⟩⟩,
    stops (by decide +kernel), stops (by decide +kernel), fun j h => by
      obtain rfl : j = 0 := by omega
      exact reads (by decide +kernel)⟩

theorem meets_VectorMemory_lanes : let s := vectors 8 (spad 64)
    s.readyMem [6, 7] [31] [7] = true ∧ s.readyMem [6] [31, 30] [0] = true ∧ s.actives 0 64 = [0, 1, 2, 3, 4, 5, 6, 7] ∧
    (∃ e, s.access 8 (spad 64 + BitVec.ofNat 64 7 * 8) 8 accLoad = .ok (.here (spadKey 1 120) e)) ∧
    (∃ e, s.access 8 (spad 64 + BitVec.ofNat 64 7 * 8) 8 accStore = .ok (.here (spadKey 1 120) e)) ∧
    s.poisoned (spadKey 1 120) 8 = false ∧ s.tileOpen (spadKey 1 120) = false ∧
    s.access 8 (0 : Word) 8 accLoad = .error causeExtent ∧ s.access 8 (0 : Word) 8 accStore = .error causeExtent :=
  ⟨by decide, by decide, by decide, ⟨none, rfl⟩, ⟨none, rfl⟩, by decide, by decide, rfl, rfl⟩

/-- A tile command with a drain in progress: its parameters in the cluster's scratchpad and its output format. -/
def draining (outfmt row : Nat) (latch : Option (List Nat)) : State :=
  let s := machine.setCore 8 { machine.core 8 with slots :=
    [⟨tcw 3 0 0 0 0 0, ⟨spad 0x100, spad 0x8000, spad 0xA000, 256, outfmt⟩, 0, .drain, 1, 0, 32⟩] }
  s.setCluster 1 { s.cluster 1 with drain := some ⟨8, row, 0, List.replicate 32 0, [], latch, [], 0⟩ }

theorem meets_GlazeValuesAndSources : machine.segmentOf machine.myCluster = none ∧ let s := draining 1 0 none
    ∃ g, s.segmentOf s.myCluster = some g ∧ decide ((s.cap (s.capOf g.core)).stage = .running) && decide (sget [] g.d.cache 0 = []) &&
      (match s.source g 0 with | .ok _ => true | .error _ => false) && (match s.source g 10 with | .ok _ => true | .error _ => false) &&
      (match s.readRange g.core accLoad pipeAllows g.size (g.slot.params.rowbase + BitVec.ofNat 64 (g.d.row * g.size)) with | .ok _ => true | .error _ => false) &&
      (match s.readRange g.core accLoad pipeAllows (32 * g.size) g.slot.params.colbase with | .ok _ => true | .error _ => false) = true :=
  ⟨rfl, finds (by decide +kernel)⟩

/-- The machine with an end word at a place of drain memory. -/
def ending (p : Nat) : State := machine.setCluster 1 { machine.cluster 1 with drainMem := sset 0 [] p 0x16 }

theorem meets_GlazeValuesAndSources_constants : ((machine.cluster 1).endAt 0 = none) ∧ ((ending 31).cluster 1).endAt 0 = some 31 ∧
    ((ending 31).cluster 1).drainWord 31 % 256 = 0x16 ∧ ∀ q : Fin 31, ((ending 31).cluster 1).drainWord q % 256 ≠ 0x16 := by decide +kernel

theorem meets_GlazeValuesAndSources_faults : let s := draining 1 0 none
    let g : Segment := ⟨1, 8, 0, ⟨0, ⟨0, 0x1000, 0, 0, 1⟩, 0, .drain, 1, 0, 32⟩, ⟨8, 0, 0, [], [(0, [5])], none, [(32, [7])], 0⟩⟩
    sget [] g.d.w 0 ≠ [] ∧ sget [] g.d.w 7 = [] ∧ sget [] g.d.cache 32 ≠ [] ∧
    (match s.source g 9 with | .ok _ => false | .error e => decide (e = (causeExtent, 0x1000))) = true := by decide +kernel

theorem meets_GlazeStores : (∃ g, (draining 0 0 none).segmentOf 1 = some g ∧ decide (g.slot.params.outfmt = 0) = true) ∧
    (∃ g, (draining 4 0 none).segmentOf 1 = some g ∧ decide (g.slot.params.outfmt = 4 ∧ g.d.row + 1 < tcwRows g.slot.tcw ∧ clusterOf g.core = g.cl ∧
      (draining 4 0 none).poisoned (tileKey g.core g.slot.tcw + (g.d.row + 1) * 32 * g.size) (32 * g.size) = false) = true) ∧
    (∃ g, (draining 5 0 none).segmentOf 1 = some g ∧ decide (5 ≤ g.slot.params.outfmt ∧ g.d.latch = none) = true) ∧
    (∃ g, (draining 5 31 (some [])).segmentOf 1 = some g ∧ decide (5 ≤ g.slot.params.outfmt ∧ g.d.latch ≠ none ∧ tcwRows g.slot.tcw ≤ g.d.row + 1) = true) ∧
    ((draining 1 0 none).cap ((draining 1 0 none).capOf 8)).stage = .running ∧ ((draining 1 0 none).cap ((draining 1 0 none).capOf 8)).onFiring = false :=
  ⟨finds (by decide +kernel), finds (by decide +kernel), finds (by decide +kernel), finds (by decide +kernel), by decide +kernel, by decide +kernel⟩

theorem meets_GlazeStores_reaches : let s := draining 1 0 none
    (∀ i : Fin 256, (match s.reachIf 8 (spad 0x100 + BitVec.ofNat 64 i) 1 accStore pipeAllows with
      | .ok q => decide (q = .here (spadKey 1 0x100 + i) none) | .error _ => false) = true ∧ s.tileOpen (spadKey 1 0x100 + i) = false) ∧
    (∀ i : Fin 4, (match s.reachIf 8 (spad 0x8000 + BitVec.ofNat 64 i) 1 accStore pipeAllows with
      | .ok q => decide (q = .here (spadKey 1 0x8000 + i) none) | .error _ => false) = true ∧ s.tileOpen (spadKey 1 0x8000 + i) = false) ∧
    (∀ i j : Fin 32, i < j → spadKey 1 (0x100 + 256 * i) + 8 ≤ spadKey 1 (0x100 + 256 * j)) ∧ (2 : Fin 4).val ≤ 2 := by decide +kernel

/-! ### Hypotheses met: capsules, the host interface, debug and power -/

/-- A device at work: an owner, an owner key, a queue of 16 slots and a window, over its own memory. -/
def atWork (s : State) : State :=
  { s with
    mgmt := { s.mgmt with
      powered := true, stage := 6, owner := some 1, sessions := [1], ports := [0], usableDies := [0, 1, 2, 3], lastKeepalive := 0,
      sessionKeys := [(1, 9)], table := List.replicate 6 0 ++ [1] }
    keys := [⟨⟨7, List.replicate 57 0, 0, [⟨0, 0x100000, 63⟩], [], 0, some 10, 5⟩, 0, 10, 5, false, none, none⟩]
    queues := [⟨⟨3, 7, 0x80000, 0x90000, 16, 0xA0000, 4, [⟨0x1000, 0x1000, 0x10000, 1, 0⟩]⟩, 0, .run, false⟩]
    windows := [⟨2, 7, 0x40000, 0x1000, rightR + rightW + rightA⟩] }

/-- A derived capsule image of 466 bytes, with codelet and entry, whose last 114 bytes are 0 (R178, R180, R182, R197). -/
def image : List Byte :=
  toBytes 4 0x50435250 ++ toBytes 2 1 ++ toBytes 2 2 ++ toBytes 8 0x1000000000 ++ toBytes 32 0 ++ toBytes 4 4 ++ toBytes 4 0x150 ++
  toBytes 4 0x00010101 ++ toBytes 4 1 ++ toBytes 2 1 ++ toBytes 2 2 ++ toBytes 4 0 ++ toBytes 8 0 ++ toBytes 8 0 ++ toBytes 8 0x1000 ++ toBytes 16 0 ++
  toBytes 4 0 ++ toBytes 4 7 ++ toBytes 8 1 ++ toBytes 128 0 ++
  toBytes 8 0x1000000000 ++ toBytes 8 4096 ++ toBytes 8 0 ++ toBytes 4 5 ++ toBytes 4 0 ++
  toBytes 8 0x1000 ++ toBytes 8 0x1000 ++ toBytes 8 0x10000 ++ toBytes 4 3 ++ toBytes 4 0 ++
  toBytes 4 0 ++ [8, 0, 2, 0] ++ toBytes 8 0 ++ toBytes 4 1 ++ toBytes 4 0 ++ toBytes 2 0 ++ [1, 0] ++ toBytes 4 0 ++ List.replicate 114 0

/-- The device at work with the image at 0x1000 of the placed capsule, which is the owner's, and g6, g7 its range. -/
def submitting : State :=
  let s := atWork paged
  let s := s.setCap 1 { s.cap 1 with image := { (s.cap 1).image with owner := 7 } }
  let s := { s.setByteList 0x10000 image with codeCache := [(7, 0, 4, 0)] }
  s.setMe ((s.me.wg 6 0x1000).wg 7 466)

theorem meets_Submission : submitting.readyRelease [5, 6, 7] [] [] = true ∧ submitting.noWindow = true ∧ roleOf submitting.who ≠ 2 ∧
    (submitting.rg 6).toNat % 8 = 0 ∧ (submitting.rg 7).toNat ≠ 0 ∧
    (let c := submitting.cap submitting.myCap
     findExtent c.image.extents 0x1000 = some 0 ∧ c.image.extents[0]? = some ⟨0x1000, 0x1000, 0x10000, rightR + rightW + rightM, 0⟩ ∧
      submitting.worldRefuses c 0x10000 = false ∧ submitting.poisonVa c.image.extents 0x1000 466 = none ∧
      submitCode (submitting.readVa c.image.extents 0x1000 466) 466 c = 0 ∧ submitCode (submitting.readVa c.image.extents 0x1000 465) 465 c = 2 ∧
      submitting.myCap ≠ submitting.nextCapsule ∧ findExtent c.image.extents 0x8000 = none ∧ (0x1001 : Nat) % 8 ≠ 0) ∧
    hasRights rightW rightR = false := by decide +kernel

/-- The capsule that the image becomes waits for admission. -/
def offered : State :=
  let image := { Image.empty with va := 0x1000, length := 466 }
  submitting.setCap 2 { Capsule.blank with stage := .offered, derived := true, parent := 1, owner := 7, mapping := (submitting.cap 1).image.extents, image }

/-- Steps 6 to 13 on an image. -/
def stepsOf (u : State) (b : List Byte) (i : Image) (k : KeyDesc) : List (Nat × Bool) :=
  [(6, extentsOk u.mgmt.cxlCapacity i.extents), (7, i.extents.all (extentGranted k)), (8, codeOk i), (9, u.digestOk i), (10, tablesOk b i), (11, areasOk i),
    (12, footprintOk u.saggarWidth u.mgmt.usableDies i), (13, sramOk i)]

theorem meets_Admission : (offered.cap 2).stage = .offered ∧ offered.mgmt.stage = 6 ∧ (offered.cap 2).derived = true ∧
    let u := (offered.parents (offered.cap 2)).foldl (fun acc m => State.subCount acc m 1) offered
    ∃ e, u.readEntry (offered.cap 2) = some e ∧ (match e with
      | (b, va, len, record) =>
        let i := parseImage b va
        headerOk b len && recordLengthOk i record && record.isNone && !u.barred i.owner && (match u.ownerKey i 7 with
          | some k => u.sealStep (offered.cap 2) b i k false && !u.macBad b i record && (stepsOf u b i k.desc).all (fun p => p.2) &&
            (u.lateCode i record.isSome).isNone
          | none => false)) = true :=
  ⟨by decide +kernel, by decide +kernel, by decide +kernel, finds (by decide +kernel)⟩

theorem meets_Admission_refused :
    (machine.cap 1).stage ≠ .offered ∧
    headerOk (image.take 465) 465 = false ∧
    (let i := parseImage image 0x1000
     ({ offered with keys := [] }).ownerKey i 7 = none ∧
     ({ offered with keys := offered.keys.map fun k : OwnerKey => { k with guilt := 10 } }).barred 7 = true ∧
     (∀ k, offered.sealStep { offered.cap 2 with parent := 5 } image i k false = false) ∧
     (stepsOf { offered with mgmt := { offered.mgmt with usableDies := [] } } image i ⟨7, [], 0, [⟨0, 0x100000, 63⟩], [], 0, some 10, 5⟩).find? (fun p => !p.2) =
       some (12, false) ∧
     offered.lateCode { i with flags := 4 } false = some 15) ∧
    (let c := { offered.cap 2 with derived := false, mapping := [] }
     offered.readEntry c = none) := by
  refine ⟨by decide +kernel, by decide +kernel, ⟨by decide +kernel, by decide +kernel, fun _ => ?_, by decide +kernel, by decide +kernel⟩, by decide +kernel⟩
  have h : (offered.cap 2).derived = true ∧ derivedOk image (parseImage image 0x1000) (offered.cap 5) = false := by decide +kernel
  simp only [State.sealStep, h, if_true]

/-- The placed capsule with nothing outstanding and a report area. -/
def quietCap (f : Capsule → Capsule) : State :=
  let image := { (paged.cap 1).image with reportVa := 0x1000, owner := 7, deadline := 9 }
  paged.setCap 1 (f { paged.cap 1 with outstanding := 0, started := some 0, image })

theorem meets_CapsulesEnd : (let s := quietCap id; let c := s.cap 1
     c.stage = .running ∧ c.image.packages = 1 ∧ c.outstanding = 0 ∧ (∀ core ∈ c.cores, (∀ ch, ch < 8 → (s.core core).tlwOf ch = (s.core core).lastIssued ch) ∧
      (s.core core).unacked = 0 ∧ ∀ r, r < 4 → (s.thr (core * 4 + r)).unacked = 0) ∧ c.keyOf (s.reportBase c + 64 * min c.reportIndex 63) = some 0x10000 ∧
      0x10000 + 64 ≤ 2 ^ 44 ∧ c.placed ≠ [] ∧ c.image.deadline ≠ 0 ∧ s.podTick < c.image.deadline ∧ c.image.deadline ≤ { s with podTick := 9 }.podTick ∧
      ¬ (machine.cap 1).outstanding = 0) ∧
    (let s := { atWork (quietCap id) with podTick := 6 }
     ∃ k, s.key? 7 = some k ∧ decide (k.runLimit ≠ 0 ∧ k.runLimit < (s.cap 1).runTime + (s.podTick - 0)) = true) ∧
    (let s := quietCap fun c => { c with image := { c.image with packages := 2, members := [0] } }
     (s.cap 1).image.packages ≠ 1 ∧ s.peersQuiet (s.cap 1) = true ∧ s.packageOf (s.cap 1) = 0) ∧
    (let s := quietCap fun c => { c with image := { c.image with packages := 2, members := [5, 0] } }
     s.packageOf (s.cap 1) ≠ 0) :=
  ⟨by decide +kernel, finds (by decide +kernel), by decide +kernel, by decide +kernel⟩

/-- The placed capsule being killed. -/
def killing (swept : List Nat) : State := withCap fun c =>
  { c with stage := .killing, kill := some ⟨⟨4, causeKilled, 1, 0, 0, 0, 0, 0, 0, 0⟩, 0, swept⟩ }

theorem meets_CapsulesEnd_kill : ((killing []).cap ((killing []).capOf 8)).stage = .killing ∧ ((killing []).cap 1).kill.isSome = true ∧
    (∀ core ∈ ((killing (List.range 16)).cap 1).cores, core ∈ List.range 16) ∧ ¬ (∀ core ∈ ((killing []).cap 1).cores, core ∈ ([] : List Nat)) ∧
    (let m := { replyMsg 1 8 0 0 0 0 0 with kind := 0 }
     { machine with net := [m] }.net[0]? = some m ∧ (atWork machine).intoColumn { m with target := 0 } = true ∧ (atWork machine).intoColumn { m with target := 8 } = false) := by decide +kernel

/-- The device at work with an entry in its queue and a write index of 1. -/
def queueing (entry : List Byte) : State := (atWork machine).setByteList 0x90000 entry |>.setBytes 0x80000 4 1

/-- A queue entry: type, length, value at 8 and value at 16. -/
def queueEntry (type length a b : Nat) : List Byte := toBytes 1 type ++ toBytes 3 0 ++ toBytes 4 length ++ toBytes 8 a ++ toBytes 8 b

theorem meets_QueueScanner : (∀ e ∈ [queueEntry 0 8 0 0, queueEntry 1 24 0x1000 466, queueEntry 2 24 0 5, queueEntry 2 24 0 0, queueEntry 3 24 0 5],
      let s := queueing e
      ∃ q, s.queue? 3 = some q ∧ decide (q.desc.number = 3 ∧ q.state = .run ∧ s.bytes 0x80010 4 = 0 ∧ s.barred 7 = false ∧ s.bytes 0x80000 4 < 16 ∧
        q.read ≠ s.bytes 0x80000 4 ∧ (q.read + 1) % 16 = s.bytes 0x80000 4 ∧ entryError q.desc (s.byteList 0x90000 64) = 0) = true) ∧
    (∃ q, (queueing (queueEntry 4 8 0 0)).queue? 3 = some q ∧ decide (entryError q.desc ((queueing (queueEntry 4 8 0 0)).byteList 0x90000 64) = 1) = true) ∧
    ((atWork machine).bytes 0x80000 4 = 0 ∧ 16 ≤ ((atWork machine).setBytes 0x80000 4 16).bytes 0x80000 4) := by
  refine ⟨fun e h => finds ?_, finds (by decide +kernel), by decide +kernel⟩
  revert e
  decide +kernel

theorem meets_QueueScanner_error : let s := { atWork machine with queues := (atWork machine).queues.map fun q : Queue => { q with state := .error } }
    let r := fun (v : Nat) => s.setBytes 0x80010 4 v
    (∃ q, s.queue? 3 = some q ∧ decide (q.state = .error) = true) ∧ s.bytes 0x80010 4 = 0 ∧ (r 1).bytes 0x80010 4 = 1 ∧ (r 2).bytes 0x80010 4 = 2 ∧
    (r 1).barred 7 = false ∧ (r 1).bytes 0x80004 4 = 0 ∧ ((r 1).setBytes 0x80004 4 16).bytes 0x80004 4 = 16 ∧ (0x10 : Nat) ≠ 0 :=
  ⟨finds (by decide +kernel), by decide +kernel, by decide +kernel, by decide +kernel, by decide +kernel, by decide +kernel, by decide +kernel, by decide⟩

/-- The device at work with a capsule that waits for placement. -/
def placing (f : Capsule → Capsule) : State :=
  let image := { Image.empty with cols := 1, rows := 1, dies := 1, packages := 1, cls := 1, deadline := 9, owner := 7 }
  (atWork machine).setCap 2 (f { Capsule.blank with stage := .placing, image })

theorem meets_PlacementAndStart : (let s := placing id; let c := s.cap 2
     c.stage = .placing ∧ s.tooLate c = false ∧ s.turnOf 2 = true ∧ s.placementOf c = some [⟨1, 0, 1, 0, 0⟩] ∧ c.continuation = false ∧
      bits c.image.flags 2 2 = 0 ∧ ((s.footprint { c with placed := [⟨1, 0, 1, 0, 0⟩] }).map Prod.fst).Nodup ∧ c.image.readiness = [] ∧ c.image.cls ≠ 0) ∧
    (let s := { placing id with mgmt := { (placing id).mgmt with usableDies := [] } }; s.placementOf (s.cap 2) = none ∧ s.turnOf 2 = true) ∧
    (let s := { placing (fun c => { c with image := { c.image with cls := 0 } }) with podTick := 9 }; let c := s.cap 2
     c.stage = .placing ∧ c.image.cls = 0 ∧ c.image.deadline ≠ 0 ∧ c.image.deadline ≤ s.podTick) ∧
    (let s := placing fun c => { c with stage := .loaded, image := { c.image with flags := 4, packages := 2, members := [0, 5], gangStart := 30000 } }
     (s.cap 2).stage = .loaded ∧ 0 ∉ (s.cap 2).notices ∧ s.packageOf (s.cap 2) = 0 ∧ (s.cap 2).go = false ∧ s.podTick ≤ 30000 - 20000 ∧
      (s.cap 2).notices.length ≠ 2 ∧ s.podTick < 30000 ∧ 30000 ≤ { s with podTick := 30000 }.podTick ∧ ({ s.cap 2 with notices := [0, 1] }).notices.length = 2) ∧
    (let s := placing fun c => { c with stage := .loaded, image := { c.image with packages := 2, members := [5, 0] } }
     s.packageOf (s.cap 2) = 1 ∧ 1 < (s.cap 2).image.packages) := by decide +kernel

/-- The placed capsule being pre-empted. -/
def leaving (answered : List Nat) : State := withCap fun c => { c with stage := .preempting, answered }

theorem meets_Preemption : (let s := leaving []
     (s.cap (s.capOf 8)).stage = .preempting ∧ 8 ∉ (s.cap 1).answered ∧ (∀ r ∈ [0, 1, 3], s.atBoundary 1 (s.thr (8 * 4 + r)) = true) ∧
      (s.thr (hThread 8)).live = false ∧ s.recordReady 1 = false ∧
      (let t := s.setMe { s.me with window := 2 }; ∃ r ∈ [0, 1, 3], t.atBoundary 1 (t.thr (8 * 4 + r)) = false)) ∧
    (leaving (List.range 16)).recordReady 1 = true ∧
    (let s := (atWork machine).setCap 2 { Capsule.blank with stage := .saved, home := 3, image := { Image.empty with owner := 7, resumeVa := 0x1000 } }
     let lock := 0xA0000 + 8 * 3
     (s.cap 2).stage = .saved ∧ (∃ q, s.queue? (s.cap 2).home = some q ∧ decide (q.desc.owner = (s.cap 2).image.owner ∧ handleKey q.desc.timelines = 0xA0000 ∧
        q.desc.timelineCount = 4 ∧ handleKey q.desc.control = 0x80000 ∧ handleKey q.desc.slotsBase = 0x90000) = true) ∧
      s.mem64 lock = 0 ∧ (s.bytes 0x80000 4 + 1) % 16 ≠ s.bytes 0x80004 4 ∧ s.bytes 0x80000 4 < 16 ∧ 0x80000 + 4 ≤ 0x90000 ∧
      (s.setMem64 lock 1).mem64 lock ≠ 0 ∧ { s with queues := [] }.queue? 3 = none ∧ ((s.setCap 2 { s.cap 2 with stage := .publishing, started := some 0 }).cap 2).started = some 0 ∧
      0 + 1000 ≤ { s with podTick := 1000 }.podTick) :=
  ⟨by decide +kernel, by decide +kernel, by decide +kernel, finds (by decide +kernel), by decide +kernel, by decide +kernel, by decide +kernel, by decide,
    by decide +kernel, by decide +kernel, by decide +kernel, by decide⟩

theorem meets_HostOperations : State.reset.mgmt.ports = [] ∧ (let s := atWork machine
    s.mgmt.ports ≠ [] ∧ s.windowKey 1 2 8 8 rightR false = some 0x40008 ∧ s.poisoned 0x40008 8 = false ∧ { s with poison := [0x40008 / 64] }.poisoned 0x40008 8 = true ∧
      s.windowKey 9 2 8 8 rightR false = none ∧ s.windowKey 1 2 8 4 rightW true = some 0x40008 ∧ s.windowKey 1 2 0xFFC 8 rightW true = none ∧
      s.window? 5 = none ∧ 0 ∈ s.mgmt.ports ∧ 1 ∉ s.mgmt.ports ∧ s.windowKey 1 2 8 8 rightA true = some 0x40008 ∧ s.portOps = []) ∧
    (∃ d, (atWork machine).window? 2 = some d ∧ decide (hasRights d.rights rightSA = false ∧ d.length < 0xFFC + 8 ∧ hasRights (d.rights + rightSA) rightSA = true) = true) :=
  ⟨rfl, by decide +kernel, finds (by decide +kernel)⟩

theorem meets_OwnerCommands : let s := atWork machine
    2 ≤ s.mgmt.stage ∧ (∃ k, s.key? 7 = some k ∧ decide (k.revoked = false ∧ keyOk 0 k.desc = true) = true) ∧ s.key? 8 = none ∧ s.keys.length < 256 ∧
    256 ≤ (List.replicate 256 s.keys).flatten.length ∧ keyOk 0 ⟨8, [], 0, [], [], 0, some 1, 0⟩ = false ∧ (1 : Word) ∈ s.mgmt.sessions ∧ (2 : Word) ∉ s.mgmt.sessions ∧
    (∀ e ∈ s.capsules, e.2.image.owner ≠ 7) ∧ (s.key? 7 ≠ none ∧ 3 < 2 ^ 32 ∧ 1 ≤ 4 ∧ 4 < 2 ^ 32) ∧ powerIn 16 4096 32 = true ∧ powerIn 16 4096 33 = false ∧
    (s.queue? 3).isSome = true ∧ s.queue? 4 = none ∧ (s.window? 2).isSome = true ∧ s.window? 3 = none ∧
    (1, s.cap 1) ∈ s.capsules ∧ (s.cap 1).stage = .running ∧ (∀ e ∈ s.capsules, e.2.id = (5 : Word) → e.2.stage = .ended ∨ e.2.stage = .offered) :=
  ⟨by decide +kernel, finds (by decide +kernel), by decide +kernel, by decide +kernel, by decide +kernel, by decide +kernel, by decide +kernel, by decide +kernel,
    by decide +kernel, ⟨by decide +kernel, by decide, by decide, by decide⟩, by decide +kernel, by decide +kernel, by decide +kernel, by decide +kernel,
    by decide +kernel, by decide +kernel, List.mem_cons_self .., by decide +kernel, by decide +kernel⟩

theorem meets_OwnerCommands_descriptors :
    (∃ q, (atWork machine).queues.head? = some q ∧ (match (atWork machine).key? 7 with
      | some k => queueOk 0 q.desc k.desc && !queueOk 0 { q.desc with slots := 5 } k.desc
      | none => false) = true) ∧
    (∃ w, (atWork machine).windows.head? = some w ∧ (match (atWork machine).key? 7 with
      | some k => windowOk 0 w k.desc && !windowOk 0 { w with length := 5 } k.desc
      | none => false) = true) ∧
    (let d : DebugSession := ⟨0, 1, 2, 7, 1⟩
     let s := { atWork machine with mgmt := { (atWork machine).mgmt with debugSessions := [d] } }
     s.mgmt.debugSessions.find? (fun x => decide (x.number = 0)) = some d ∧ s.scopeFree d = true ∧ s.scopeFree { d with die := 0 } = false ∧ s.debugCovers 2 = true ∧
      s.debugCovers 1 = false ∧ (1 ≤ 1 ∧ 1 ≤ 3 ∧ 2 ≤ 3 ∧ s.key? 7 ≠ none) ∧ ¬ (∃ d ∈ (atWork machine).mgmt.debugSessions, d.die = 2) ∧ ∀ d ∈ s.mgmt.debugSessions, d.number ≠ 9) ∧
    ((5 : Nat) ≤ 4095 ∧ ¬ (4096 : Nat) ≤ 4095 ∧ (atWork machine).mgmt.staged = none) := by
  refine ⟨finds (by decide +kernel), finds (by decide +kernel), ?_, by decide +kernel⟩
  decide +kernel

theorem meets_SessionsAndOwnership : (let m := (atWork machine).mgmt
     2 ≤ m.stage ∧ m.sessions.contains (1 : Word) = true ∧ m.sessions.contains (2 : Word) = false ∧ m.handover = none ∧ m.owner = some (1 : Word) ∧
      m.lastKeepalive + 5000000000 ≤ { atWork machine with podTick := 5000000000 }.podTick ∧ (atWork machine).podTick < m.lastKeepalive + 5000000000) ∧
    State.reset.mgmt.stage ≤ 1 ∧ State.reset.mgmt.owner = none ∧
    (let m := { (atWork machine).mgmt with handover := some ((2 : Word), 0), claims := [(5, (2 : Word), 1)], claimOpen := true, claimTick := 0 }
     let s := { atWork machine with podTick := 10000000, mgmt := m }
     m.handover = some ((2 : Word), 0) ∧ s.podTick ≤ 0 + 1000000000 ∧ m.claimOpen = true ∧ m.claimTick + 10000000 ≤ s.podTick ∧ m.claims ≠ [] ∧
      ¬ (0xFFFF = 5) ∧ (List.replicate 32 (0 : Byte)).length = 32) := by decide +kernel

/-- A debug session that die 2 has been asked for. -/
def asked : DebugSession := ⟨0, 1, 2, 7, 0⟩

/-- The device at work with a debug session and two halt groups. -/
def debugged : State := { atWork machine with mgmt :=
  { (atWork machine).mgmt with debugSessions := [asked], groups := [(3, (⟨true, false, false⟩ : HaltGroup)), (4, ⟨true, false, true⟩)] } }

theorem meets_DebugAndHalt : debugged.mgmt.debugSessions.find? (fun d => decide (d.number = 0 ∧ d.stage = 0)) = some asked ∧ debugged.scopeFree asked = true ∧
    debugged.scopeFree { asked with die := 0 } = false ∧
    (sget (⟨false, false, false⟩ : HaltGroup) debugged.mgmt.groups 3).armed = true ∧ (sget (⟨false, false, false⟩ : HaltGroup) debugged.mgmt.groups 4).halted = true ∧
    (∃ d ∈ [({ asked with stage := 1 } : DebugSession)], d.stage = 1) ∧ (sget (⟨false, false, false⟩ : HaltGroup) debugged.mgmt.groups 5).armed = false ∧
    (∀ d ∈ debugged.mgmt.debugSessions, ¬ (d.number = 1 ∧ d.stage = 0)) := by decide +kernel

theorem meets_BringUpAndPower : let at_ := fun (n : Nat) => { State.reset.mgmt with stage := n }
    (State.reset.mgmt.powered = true ∧ { State.reset.mgmt with powered := false }.powered = false) ∧ State.reset.mgmt.stage = 1 ∧ (at_ 2).stage = 2 ∧
    (at_ 2).powered = true ∧ ([0, 1, 2, 3, 4, 5, 6, 7].filter fun p => p ∈ [0, 9]) ≠ [] ∧ ([0, 1, 2, 3, 4, 5, 6, 7].filter fun p => p ∈ [9]) = [] ∧
    3 ∈ { at_ 6 with cxlPorts := [3] }.cxlPorts ∧ 3 ∉ (at_ 6).cxlPorts := by decide +kernel

/-- A message with inline words: its payload is an address and a value. -/
def inline (w : BitVec 32) (rest : List (BitVec 32)) : Msg :=
  { served 0x30 0 8 0 0 0 0 with words := w :: rest, body := toBytes 8 (spad 8).toNat ++ toBytes 8 5 }

/-- The word of st.d g2, 0(g1). -/
def inlineStore : BitVec 32 := BitVec.ofNat 32 (encode (.stD 1 2 0 0))

theorem meets_InlineWords : Serves (serving (inline inlineStore [])) 8 (inline inlineStore []) ∧ (inline inlineStore []).words = inlineStore :: [] ∧
    (inline inlineStore []).request = 0 ∧ inlineDecode inlineStore.toNat = some (.stD 1 2 0 0) ∧ inlineLa inlineStore.toNat = false ∧
    dwordB (inline inlineStore []).body (8 * (1 - 1)) = spad 8 ∧
    (serving (inline inlineStore [])).access 8 (spad 8 + BitVec.ofInt 64 (8 * 0)) 8 accStore = .ok (.here (spadKey 1 8) none) ∧
    (serving (inline inlineStore [])).tileOpen (spadKey 1 8) = false ∧ inlineDecode 0 = none ∧
    inlineLa (encode (.ldD 1 2 0 3)) = true :=
  ⟨⟨rfl, rfl, rfl, rfl, rfl, by decide⟩, rfl, rfl, by decide +kernel, by decide +kernel, by decide +kernel, reaches (by decide +kernel), by decide +kernel,
    by decide +kernel, by decide +kernel⟩

/-! ### Hypotheses met: the clauses that answer the review -/

/-- The machine with an extent in CXL memory, whose set has failed. -/
def failedSet : State :=
  let s := withCap fun c => { c with image := { c.image with extents :=
    [⟨0x1000, 0x1000, 2 ^ 62 + 0x1000, rightR + rightW, 0⟩] ++ c.image.extents } }
  { s.setMe (s.me.wg 6 0x1000) with mgmt := { s.mgmt with cxlFailed := true } }

theorem meets_StoresWrite_failedSet : failedSet.readyMem [6, 7] [] [] = true ∧
    ∃ p, failedSet.access (coreOf failedSet.who) (failedSet.rg 6 + BitVec.ofInt 64 0) 8 accStore = .ok p ∧ failedSet.postedAt p 8 = false ∧
      failedSet.writeFails p = true :=
  ⟨by decide, .here (2 ^ 43 + 0x1000) (some 0), reaches (by decide +kernel), by decide +kernel, by decide +kernel⟩

/-- A posted atomic of the thread's firing on its way to a word of its scratchpad. -/
def postedThere : State := { atWord with net := [{ posted with key := spadKey 1 8, target := 8 }] }

theorem meets_Loads_posted : postedThere.readyMem [5, 6] [] [] = true ∧
    postedThere.access (coreOf postedThere.who) (postedThere.rg 6 + BitVec.ofInt 64 0) 8 postedThere.loadAcc = .ok (.here (spadKey 1 8) none) ∧
    postedThere.postedAt (.here (spadKey 1 8) none) 8 = true ∧ postedThere.postedAt (.here (spadKey 1 16) none) 8 = false := ⟨by decide, rfl, by decide, by decide⟩

theorem meets_TaggedMemory_two : (let k := spadKey 1 8
    let p := spad 8
    k % 8 = 0 ∧ machine.poisoned k 8 = false ∧ machine.who ≠ 33 ∧ machine.who ≠ 34 ∧ (33 : Nat) ≠ 34 ∧
    ({ machine with tagQueue := [⟨k, 1, 33, 5, 0, none, p⟩, ⟨k, 0, 34, 6, 0, none, p⟩] }).tagQueue = [⟨k, 1, 33, 5, 0, none, p⟩, ⟨k, 0, 34, 6, 0, none, p⟩] ∧
    ({ machine with tagQueue := [⟨k, 0, 33, 5, 0, none, p⟩, ⟨k, 2, 34, 0, 9, none, p⟩] }).tagQueue = [⟨k, 0, 33, 5, 0, none, p⟩, ⟨k, 2, 34, 0, 9, none, p⟩] ∧
    { machine with poison := [k / 64] }.poisoned k 8 = true ∧ (1 : Nat) < 2) ∧
    (machine.ready [6] [] [] = true ∧ machine.noWindow = true ∧ machine.postedTo machine.me.firing (spadKey 1 8) 8 = false) := by decide

/-- Core 8 with a full ring. -/
def fullRing (c : Core) : Core := { c with ring := List.replicate 256 ⟨0, 0, 0, none⟩ }

/-- A release step of ready or dec on a full ring, and one of a codelet that the capsule does not have. -/
theorem meets_ReadinessAtHome_full : ∀ op ∈ [0x33, 0x38], let m := served op 3 8 (tcmKey 8 0) 0 0 0
    let s := (withCap fun c => { c with image := { c.image with codelets := [⟨0, 8, 0, 0, []⟩] } }).setCore 8 (fullRing { machine.core 8 with inbox := [m] })
    Serves s 8 m ∧ m.words = [] ∧ m.request = 0 ∧ s.poisoned m.key 16 = false ∧ s.codeLocked m.key 16 = false ∧ m.op = op ∧ m.fn = 3 ∧ m.op1.toNat ≤ 2047 ∧
      ((s.mem64 m.key) >>> 48).toNat < (s.cap m.capsule).image.codelets.length ∧ ¬ ((s.core 8).entryCount < 256 ∧ (s.core 8).waiting = []) ∧
      (s.cap m.capsule).stage ≠ .preempting ∧ (∀ l : Fin 4, ((s.mem64 m.key).extractLsb' (12 * l) 12).toInt ≤ 0) ∧
      let t := s.setCap 1 { s.cap 1 with image := { (s.cap 1).image with codelets := [] } }
      Serves t 8 m ∧ ¬ ((t.mem64 m.key) >>> 48).toNat < (t.cap m.capsule).image.codelets.length ∧
        (t.cap 1).keyOf (t.reportBase (t.cap 1) + 64 * (t.cap 1).reportIndex) = none := by
  intro op h
  have h : op = 0x33 ∨ op = 0x38 := by simpa using h
  rcases h with rfl | rfl <;> exact ⟨⟨rfl, rfl, rfl, rfl, rfl, by decide⟩, rfl, by decide, by decide +kernel, by decide +kernel, by decide, by decide, by decide,
    by decide +kernel, by decide +kernel, by decide +kernel, by decide +kernel, ⟨rfl, rfl, rfl, rfl, rfl, by decide⟩, by decide +kernel, by decide +kernel⟩

theorem meets_ReadinessAtHome_append : let m := served 0x38 3 8 (tcmKey 8 0) 0 0 0
    let e : Entry := ⟨0, 0, 0, none⟩
    let s := (machine.setCore 8 { machine.core 8 with waiting := [e] }).setThr (hThread 8) { Thread.reset with live := true, handling := some m }
    (s.core 8).waiting = e :: [] ∧ (s.core 8).halted = false ∧ (s.thr (hThread 8)).live = true ∧ (s.thr (hThread 8)).handling = some m ∧ e.source = 0 ∧
    m.request = 0 ∧ (s.core 8).entryCount < 256 := by decide

theorem meets_RepliesArrive_discarded : let m := replyMsg 1 8 0 0 machine.me.firing 3 5
    let s := { owed 0 with net := [m], routers := [(1, 1, 1)] }
    s.net[0]? = some m ∧ m.kind = 4 ∧ m.ofHost = false ∧ s.replyDiscarded m = true ∧ (owed 0).replyDiscarded m = false := by decide

/-- The machine's capsule with two packages, this one the first. -/
def paired : State := withCap fun c => { c with image := { c.image with packages := 2, members := [] } }

theorem meets_RepliesArrive_leaves : let m := replyMsg 1 8 0 (0x8004000800000000 : Word) 0 0 5
    m.request = 0 ∧ m.ofHost = false ∧ paired.replyDiscarded m = false ∧ paired.replyPackage m = some 1 ∧ machine.replyPackage m = none := by decide

theorem meets_TasksArrive_peers : let m := { task with bounce := true, target := coreCount + 1 }
    m.bounce = true ∧ coreCount ≤ m.target ∧ { machine with net := [m] }.net[0]? = some m ∧
    (let c := { machine.core 8 with inbox := List.replicate 500 task }; ¬ (c.inboxBytes + task.bytesLen ≤ 16384 ∧ c.entryCount < 256)) := by decide +kernel

/-- A register context of 8 scalar registers, no successor. -/
def arriving : Msg := { task with body := toBytes 8 (18 * 8 + 64 + 0xFFFF * 2 ^ 16 + 8 * 2 ^ 40) ++ List.replicate 200 0 }

theorem meets_Firings_context : let e : Entry := ⟨0xFFFF, 2, 0, some arriving⟩
    let s := mailbox.setCore 8 { mailbox.core 8 with ring := [e] }
    (s.core 8).ring = e :: [] ∧ (s.core 8).halted = false ∧ (s.cap (s.capOf 8)).runs = true ∧ e.source = 2 ∧ e.message = some arriving ∧
    (s.thr (8 * 4 + 1)).live = false ∧ (s.thr (8 * 4)).live = true ∧ fieldB arriving.body 5 1 = 8 ∧
    s.poolHolds 8 (fieldB arriving.body 5 1, fieldB arriving.body 6 1) = true := by decide +kernel

theorem meets_Firings_posted : let m := { task with kind := 2, request := 0, number := 1, sender := 8 }
    let s := { machine.setThr 35 { machine.me with sregs := 32, vregs := 8, handling := some m } with who := 35 }
    s.noWindow = true ∧ s.ready [] [] [] = true ∧ roleOf s.who ≠ 2 ∧ s.me.handling = some m ∧ s.me.successors = [] ∧ m.request = 0 ∧ m.number ≠ 0 ∧
    m.sender < coreCount := by decide

theorem meets_Departures_whole : let s := { (withMe fun x => { x with
      wait := .departure 9, vregs := 0, successors := [1, 2, 3, 4], pending := [⟨3, .g 5, 0, none⟩], ldepth := 2, lstart := [(1, 8)], lend := [(1, 16)] }) with loads := [late5] }
    let x := s.thr 32
    x.wait = .departure 9 ∧ x.live = true ∧ x.window = 0 ∧ x.unacked = 0 ∧ s.onlyLoadsOwed x = true ∧ (s.core (coreOf 32)).halted = false ∧
    (∀ p ∈ x.pending, p.value = none) ∧ 1 ≤ x.sregs ∧ x.sregs < 256 ∧ x.successors.length ≤ 4 ∧ coreCount ≤ coreCount + 1 := by decide

/-- The paired machine with power and a host port. -/
def gang : State := { paired with mgmt := { paired.mgmt with powered := true, ports := [0] } }

theorem meets_Multicast_member : gang.gangWith 1 1 = true ∧ (List.replicate 256 (7 : Byte)).length = 256 ∧ gang.mgmt.powered = true ∧ gang.reachable = true ∧
    gang.reach (gang.cap 1).door (0x100000 : Word) 256 { accStore with need := rightW + rightM } = .error causeExtent ∧
    (let s := { paged.setCap 1 { paged.cap 1 with image := { (paged.cap 1).image with packages := 2 } } with mgmt := gang.mgmt }
     s.reach (s.cap 1).door (0x1000 : Word) 256 { accStore with need := rightW + rightM } = .ok (.here 0x10000 (some 0))) :=
  ⟨by decide, List.length_replicate, by decide, by decide, stops (by decide +kernel), reaches (by decide +kernel)⟩

theorem meets_Barriers_zero : machine.noWindow = true ∧ machine.readyRelease [0] [] [] = true ∧ machine.me.syncArrived = false ∧ roleOf machine.who ≠ 2 ∧
    machine.me.barRec .clu 0 = none ∧ (0 : Fin 8).val = 0 ∧ (0 : G).val = 0 ∧ (machine.cap machine.myCap).image.packages = 1 ∧
    bits machine.myCore.coord.toNat 23 12 = 0 := by decide

theorem meets_Barriers_illegal : (let s := { machine.setThr 34 { Thread.reset with sregs := 24 } with who := 34 }; s.readyRelease [0] [] [] = true ∧ roleOf s.who = 2) ∧
    (let s := withMe fun x => { x with barRecs := [⟨.quad, 1, 0⟩] }; s.readyRelease [6] [] [] = true ∧ s.me.barRec .quad 1 ≠ none) ∧
    (5 : G).val ≠ 0 ∧ (withG [(6, 65536)]).readyRelease [6] [] [] = true ∧ 65535 < ((withG [(6, 65536)]).rg 6).toNat ∧
    (let s := (withG [(6, 2)]).setCap 1 { machine.cap 1 with barriers := sset Barrier.reset [] (machine.barKey .quad 1) ⟨some 3, 1, 0⟩ }
     (s.barrier .quad 1).expected = some 3 ∧ 3 ≠ (s.rg 6).toNat) := by decide

theorem meets_Barriers_peer : gang.mgmt.powered = true ∧ gang.reachable = true ∧ (gang.cap 1).placed ≠ [] ∧ 1 < (gang.cap 1).image.packages ∧
    (sget Barrier.reset (gang.cap 1).barriers (barrierKey 8 .pod 7)).expected = none := by decide

theorem meets_SpecialRegisters_allot : (let v := 8 + 0 * 256
     roleOf machine.who ≤ 1 ∧ v < 2 ^ 16 ∧ bits v 7 0 % 8 = 0 ∧ bits v 15 8 % 8 = 0 ∧ 8 ≤ bits v 7 0 ∧ bits v 7 0 ≤ machine.me.sregs ∧
      bits v 15 8 ≤ machine.me.vregs) ∧ ¬ 8 ≤ bits 0 7 0 ∧ ¬ bits 7 7 0 % 8 = 0 ∧
    (∃ p ∈ (withMe fun x => { x with pending := [⟨3, .g 63, 0, none⟩] }).me.pending, p.reg = .g 63) ∧ machine.me.pending = [] ∧
    (0x072 : BitVec 12).toNat = 0x072 ∧ machine.held ⟨0, [64], [], [], false, false⟩ = none ∧ (machine.allot machine.who).1 ≤ 64 :=
  ⟨by decide, by decide, by decide, ⟨_, List.mem_singleton.2 rfl, rfl⟩, rfl, rfl, by decide, by decide⟩

theorem meets_TrapsAndTheResidentHandler_killing : let s := (withMe fun x => { x with mode := .firmware }).setCap 1 { machine.cap 1 with
        stage := .killing, kill := some ⟨machine.recordOf 1 1 0 0 0 0 0 0, 0, []⟩ }
    IssuesIn s (turning s) 32 ∧ (turning s).me.mode = .firmware ∧ roleOf 32 < 2 ∧ (turning s).me.handling = none ∧
      ((turning s).cap (turning s).myCap).stage = .killing :=
  ⟨issues_of (.inl rfl) rfl (by decide +kernel), rfl, by decide, rfl, rfl⟩

theorem meets_TrapsAndTheResidentHandler_routine : let m := { task with kind := 2 }
    let s := ((machine.setCap 1 { machine.cap 1 with image := { (machine.cap 1).image with flags := 8 } }).setThr 35
      { machine.me with mode := .firmware, handling := some m }).setCore 8 { machine.core 8 with shared := 0 }
    let t : State := { State.cycleStart { s.tick with agenda := [] } 8 with who := 35 }
    IssuesIn { s with agenda := [.issue 35] } t 35 ∧
      t.me.mode = .firmware ∧ roleOf 35 = 3 ∧ t.me.handling = some m ∧ bits (t.cap t.myCap).image.flags 3 3 = 1 ∧
      t.me.trapCause.toNat ≠ causeMemerr ∧ m.request ≠ 0 :=
  ⟨⟨[], _, .inr (.inl ⟨35, rfl, rfl⟩), rfl, of_decide_eq_true (by decide +kernel), rfl⟩, rfl, by decide, rfl, by decide, by decide, by decide⟩

theorem meets_CopiesMove_transient_matrix : (∃ g, (draining 1 0 none).segmentOf 1 = some g ∧ decide (((draining 1 0 none).cap ((draining 1 0 none).capOf g.core)).stage = .running) = true) ∧
    (let s := queued (tcw 3 0 0 0 0 0); s.segmentOf 1 = none ∧ s.inMultiply 1 = none ∧ s.pick 1 = some (0, 0, 1)) ∧
    (let s := paged.setCore 8 { machine.core 8 with slots := [slot (tcw 3 0 0 0 0 0) .multiply] }
     s.segmentOf 1 = none ∧ s.inMultiply 1 = some (0, 0) ∧ (s.core (1 * 8 + 0)).slots[0]? = some (slot (tcw 3 0 0 0 0 0) .multiply) ∧
      (s.cap (s.capOf (1 * 8 + 0))).stage = .running) :=
  ⟨finds (by decide +kernel), by decide +kernel, by decide +kernel⟩

theorem meets_TileCommands_later : let x := { slot (tcw 3 0 0 0 0 0 + 2 ^ 248) .finished with first := 1 }
    let front := [slot (tcw 1 0 0 0 0 0) .drain, slot 0 .faulted]
    let s := machine.setCore 8 { machine.core 8 with slots := front ++ x :: [slot 0 .queued] }
    (s.core 8).slots = front ++ x :: [slot 0 .queued] ∧ (∀ y ∈ front, y.state ≠ .finished) ∧ x.state = .finished ∧ 8 < coreCount ∧ bits x.tcw 251 248 = 2 ∧
    x.first = (s.core 8).tlwOf 4 + 1 := by decide +kernel

theorem meets_MatrixOperations_waits : let t := tcw 3 127 0 0 0 0
    let s := (queued t).setCluster 1 { machine.cluster 1 with drain := some ⟨9, 0, 0, [], [], none, [], 0⟩ }
    Picked s t ∧ bits t 7 0 = 3 ∧ (s.cluster 1).drain ≠ none := by decide +kernel

theorem meets_MatrixOperations_drains : let t := tcw 1 0 0x1000 0 5 1 + 2 * 2 ^ 8 + 2 * 2 ^ 12 + 0x1000 * 2 ^ 128
    let s := (queued t).setCluster 1 { machine.cluster 1 with directory := [5] }
    Picked s t ∧ bits t 39 32 ≠ 0xFF ∧ (s.cluster 1).directory.contains (bits t 39 32) = true ∧ (slot t .queued).rowProgress = 0 := by decide +kernel

theorem meets_MatrixOperations_kStep : let t := tcw 1 0 0x1000 0 0xFF 2 + 2 * 2 ^ 8 + 2 * 2 ^ 12 + 0x1000 * 2 ^ 128
    Picked (queued t) t ∧ (∃ a, (queued t).readRows 8 (tcwARow t) (tcwAstride t) (tcwRows t) (tcwAaddr t) = .ok a ∧ decide (badMask t a = none) = true) ∧
    (∃ b, (queued t).readRows 8 (rowBytes (tcwBfmt t) (tcwK t)) (tcwBstride t) 32 (tcwBaddr t) = .ok b) ∧ stepSize (tcwAfmtc t) < tcwK t :=
  ⟨by decide +kernel, readsWith (by decide +kernel), reads (by decide +kernel), by decide +kernel⟩

/-- The shelving machine with a record at the head of its operation: its index, its flags and its eight bodies. -/
def recorded (shelves : List Shelf) (flags : Nat) : State := (shelving shelves (setterOp 1 true)).setBytes (spadKey 1 0) 16 (5 + flags * 2 ^ 112)

theorem meets_Setter_records : (∃ l, (recorded [] 1).readRange 8 accLoad setterAllows 16 (spad 0 + BitVec.ofNat 64 (16 * 0)) = .ok l ∧
      decide (fieldB (l.map Prod.snd) 14 2 ≠ 0) = true) ∧
    (∃ l, (recorded [⟨0, [1], [5]⟩, ⟨1, [2], [6]⟩] 0).readRange 8 accLoad setterAllows 16 (spad 0 + BitVec.ofNat 64 (16 * 0)) = .ok l ∧
      (decide (fieldB (l.map Prod.snd) 14 2 = 0) && decide ((⟨0, [1], recordBodies (l.map Prod.snd)⟩ : Shelf).takes (recordBodies (l.map Prod.snd)) = false) &&
        (⟨1, [2], [60000]⟩ : Shelf).takes (recordBodies (l.map Prod.snd))) = true) ∧
    (List.replicate 31 0).length = 31 ∧ (∀ g ∈ [(⟨0, [1], [5]⟩ : Shelf)], g.number ≠ 1) ∧
    0x1000 + ((⟨1, List.replicate 32 2, List.replicate 60 9⟩ : Shelf).bytes 2).length ≤ 0x400000 :=
  ⟨readsWith (by decide +kernel), readsWith (by decide +kernel), by decide, by decide, by decide +kernel⟩

theorem meets_Setter_ends : (let op := { setterOp 1 true with address := 0x1000 }
     (shelving [] op).setterHead 1 = some op ∧ op.kind = 1 ∧ op.begun = true ∧ ((shelving [] op).cap ((shelving [] op).capOf 8)).stage = .running ∧
      (match (shelving [] op).readRange 8 accLoad setterAllows 16 (op.address + BitVec.ofNat 64 (16 * op.next)) with
        | .ok _ => false | .error e => decide (e = (causeExtent, 0x1000))) = true) ∧
    (let s := shelving [⟨0, [1], [5]⟩, ⟨1, [2], [6]⟩] (setterOp 2 false)
     let x := (s.cluster 1).session 0
     s.setterHead 1 = some (setterOp 2 false) ∧ x.shelves ≠ [] ∧ x.position + (x.shelves.flatMap (fun (h : Shelf) => h.bytes 3) ++ List.replicate 8 0).length ≤ 0x400000) := by
  decide +kernel

/-- The vectors at words that a posted atomic will write, on poisoned lines, and in CXL memory whose set has failed. -/
theorem meets_VectorMemory_waits : let s := { vectors 1 (spad 8) with net := [{ posted with key := spadKey 1 8, target := 8 }] }
    s.readyMem [6] [31] [] = true ∧ min 64 (activeCount s.me.vl.toNat 64 * (64 / 8)) = 8 ∧ s.reach 8 (spad 8 + BitVec.ofNat 64 (8 * 0)) 8 accLoad = .ok (.here (spadKey 1 8) none) ∧
    s.postedAt (.here (spadKey 1 8) none) 8 = true ∧ s.actives 0 64 = [0] ∧ s.access 8 (spad 8) 8 accLoad = .ok (.here (spadKey 1 8) none) :=
  ⟨by decide, by decide, reaches (by decide +kernel), by decide, by decide, reaches (by decide +kernel)⟩

theorem meets_VectorMemory_fails : (let s := { vectors 1 (spad 8) with poison := [spadKey 1 8 / 64] }
     s.postedAt (.here (spadKey 1 8) none) 8 = false ∧ s.poisonedAt (.here (spadKey 1 8) none) 8 = true) ∧
    failedSet.reach 8 (0x1000 : Word) 8 accStore = .ok (.here (2 ^ 43 + 0x1000) (some 0)) ∧ failedSet.access 8 (0x1000 : Word) 8 accStore = .ok (.here (2 ^ 43 + 0x1000) (some 0)) ∧
    failedSet.postedAt (.here (2 ^ 43 + 0x1000) (some 0)) 8 = false ∧ failedSet.writeFails (.here (2 ^ 43 + 0x1000) (some 0)) = true ∧
    machine.writeFails (.here (spadKey 1 8) none) = false ∧ machine.postedTo machine.me.firing (spadKey 1 8) 8 = false :=
  ⟨by decide, reaches (by decide +kernel), reaches (by decide +kernel), by decide +kernel, by decide +kernel, by decide +kernel, by decide⟩

theorem meets_GlazeStores_column : let s := (draining 1 0 none).setCluster 1 { machine.cluster 1 with
      drain := some ⟨8, 0, 0, List.replicate 32 0, [], none, [], 7⟩ }
    (∃ g, s.segmentOf 1 = some g ∧ decide (g.d.column = 7 ∧ g.d.column ≤ 32) = true) ∧
    ∃ e, s.reachIf 8 (spad 0x100 + BitVec.ofNat 64 8) 1 accStore pipeAllows = .ok (.here (spadKey 1 0x108) e) ∧ s.writeFails (.here (spadKey 1 0x108) e) = false :=
  ⟨finds (by decide +kernel), none, reaches (by decide +kernel), by decide +kernel⟩

/-! ### Hypotheses met: capsules and the outside, further clauses -/

theorem meets_Submission_short : (submitting.rg 6).toNat % 8 = 0 ∧ (0 : Nat) = 0 ∧ (let c := submitting.cap submitting.myCap
    0x1000 + 0x1000 < 0x1000 + 0x1001 ∧ findExtent c.image.extents 0x2000 = none ∧ hasRights (rightR + rightW + rightM) rightR = true) := by decide +kernel

/-- The owner's report ring of 16 slots, with room or full. -/
def ringed (full : Bool) : State :=
  let s := { submitting with keys := submitting.keys.map fun k : OwnerKey => { k with ring := some ⟨0xB0000, 16⟩ } }
  if full then s.setBytes 0xB0000 4 15 else s

theorem meets_Submission_record : (∃ k, (ringed false).key? 7 = some k ∧ decide (k.ring = some ⟨0xB0000, 16⟩) = true) ∧
    ((ringed false).bytes 0xB0000 4 + 1) % 16 ≠ (ringed false).bytes 0xB0004 4 ∧ ((ringed true).bytes 0xB0000 4 + 1) % 16 = (ringed true).bytes 0xB0004 4 ∧
    handleKey 0xB0000 = 0xB0000 ∧ ((ringed false).cap 1).image.owner = 7 :=
  ⟨finds (by decide +kernel), by decide +kernel, by decide +kernel, by decide +kernel, by decide +kernel⟩

/-- A member of a gang of two packages, at its place in the list, running and quiet. -/
def member (list : List Nat) (waves : Nat) : State :=
  let s := quietCap fun c => { c with waves, image := { c.image with packages := 2, members := list } }
  { s with mgmt := { s.mgmt with powered := true, ports := [0], peers := [(5, 9)] } }

theorem meets_CapsulesEnd_member : (let s := member [5, 0] 0
     (s.cap 1).image.packages ≠ 1 ∧ s.packageOf (s.cap 1) ≠ 0 ∧ s.mgmt.powered = true ∧ s.reachable = true ∧
      (s.members (s.cap 1).id fun x => decide (x.stage = .running ∧ s.packageOf x ≠ 0)) = [1] ∧
      (s.members (s.cap 1).id fun x => decide (x.stage ≠ .ended ∧ x.stage ≠ .offered)) = [1] ∧ (1 ≤ 1 ∧ (1 = 1 ↔ (s.cap 1).outstanding = 0)) ∧
      s.mgmt.peers.find? (fun e => decide (e.1 = 5)) = some (5, 9)) ∧
    (let s := member [0] 1
     (s.cap 1).waves ≠ 0 ∧ (s.cap 1).received = 0 ∧ s.peersStill (s.cap 1) = true ∧ s.peersQuiet (s.cap 1) = true ∧ s.packageOf (s.cap 1) = 0) ∧
    ((member [0] 0).cap 1).waves = 0 := by decide +kernel

theorem meets_PlacementAndStart_missed : (let s := { placing (fun c => { c with image := { c.image with flags := 4, gangStart := 5, packages := 2, members := [0, 5] } }) with podTick := 5 }
     (s.cap 2).stage = .placing ∧ s.startMissed (s.cap 2) = true) ∧
    (let s := placing id; (s.cap 2).stage = .placing ∧ s.startMissed (s.cap 2) = false) ∧
    (let s := placing fun c => { c with stage := .loaded, image := { c.image with flags := 4, packages := 2, members := [5, 0] } }
     let t := { s with mgmt := { s.mgmt with peers := [(5, 9)] } }
     1 ∉ (s.cap 2).notices ∧ s.mgmt.peers.find? (fun e => decide (e.1 = (s.cap 2).podOf 0)) = none ∧
      t.mgmt.peers.find? (fun e => decide (e.1 = (t.cap 2).podOf 0)) = some (5, 9)) := by decide +kernel

/-- A continuation that waits for placement, whose record is a header without clusters of its own. -/
def continuing (snap : Option Snapshot) : State :=
  placing fun c => { c with continuation := true, mapping := [⟨0x1000, 0x10000, 0x10000, 3, 0⟩], recordVa := 0x1000, recordLength := 8192, snap }

theorem meets_PlacementAndStart_continuation : (∃ l, (continuing none).placementOf ((continuing none).cap 2) = some l ∧ decide (((continuing none).cap 2).continuation = true ∧ l.length = 1) = true) ∧
    (∃ h, (continuing none).recordHead ((continuing none).cap 2) = some h ∧ decide (h.2 = 0x10000 ∧ ((continuing none).cap 2).image.dies = 1) = true) ∧
    (continuing none).snapshotFor ((continuing none).cap 2).id 0 = none ∧
    (let s := placing fun c => { c with continuation := true }; s.recordHead (s.cap 2) = none) :=
  ⟨finds (by decide +kernel), finds (by decide +kernel), by decide +kernel, by decide +kernel⟩

/-- A DEADLINE capsule that waits for the whole of die 0, where a RESEARCH capsule runs. -/
def crowded : State :=
  let image := { Image.empty with cols := 11, rows := 8, dies := 1, packages := 1, cls := 0, deadline := 9, owner := 7 }
  let s := (atWork machine).setCap 2 { Capsule.blank with stage := .placing, image }
  let s := s.setCap 1 { s.cap 1 with image := { (s.cap 1).image with cls := 2 } }
  { s with mgmt := { s.mgmt with usableDies := [0] } }

theorem meets_PlacementAndStart_preempts : crowded.turnOf 2 = true ∧ ((crowded.cap 2).stage = .placing ∧ (crowded.cap 2).image.cls = 0) ∧ crowded.victims = [1] ∧
    crowded.placementOf (crowded.cap 2) = none ∧ ((crowded.vacate 1).placementOf (crowded.cap 2)).isSome = true ∧
    (crowded.capsules.filter fun e => e.2.stage = .preempting) = [] := by decide +kernel

theorem meets_Preemption_halted : (let s := ((leaving []).setCore 8 { (leaving []).core 8 with halted := true, haltGroup := some 3 }).setMe { (leaving []).me with mode := .firmware }
     (s.core 8).halted = true ∧ ∃ r ∈ [0, 1, 3], (s.thr (8 * 4 + r)).live = true ∧ (s.thr (8 * 4 + r)).mode = .firmware) ∧
    (let s := (leaving []).setThr (hThread 8) { Thread.reset with live := true, words := [0] }
     s.midInline 8 = true ∧ ¬ (s.core 8).halted = true) ∧
    (let s := (leaving []).setCore 8 { (leaving []).core 8 with waiting := [⟨0xFFFF, 2, 0, some task⟩, ⟨0, 0, 0, none⟩] }
     ((s.core 8).waiting.filter fun e => e.source = 0) = [⟨0, 0, 0, none⟩] ∧ (s.thr (hThread 8)).live = false) := by
  refine ⟨⟨by decide, 0, by decide, by decide, by decide⟩, by decide, by decide⟩

theorem meets_HostOperations_failed : (let s := atWork machine
     let t := { s with windows := [⟨2, 7, 2 ^ 62 + 0x40000, 0x1000, rightR + rightW⟩], mgmt := { s.mgmt with cxlFailed := true } }
     t.windowKey 1 2 8 4 rightW true = some (2 ^ 43 + 0x40008) ∧ t.writeFails (.here (2 ^ 43 + 0x40008) none) = true) ∧
    (atWork machine).writeFails (.here 0x40008 none) = false ∧ (atWork machine).ownerNow = some 1 ∧ ({ atWork machine with podTick := 5000000000 }).ownerNow = none := by
  decide +kernel

/-- A command's header. -/
def header (host : Word) (body : Nat) : MgmtHeader := ⟨host, 1, [], 0, body, 0⟩

theorem meets_OwnerCommands_headers : (let h := header 1 16; h.status = 0 ∧ h.bodyLength ≤ 4016 ∧ h.reserved = 0) ∧
    ¬ (header 1 4017).bodyLength ≤ 4016 ∧ (header 1 16).host ∈ (atWork machine).mgmt.sessions ∧ (header 2 16).host ∉ (atWork machine).mgmt.sessions ∧
    (atWork machine).mgmt.sessionKey 1 = some 9 ∧ (atWork machine).ownerNow = some (header 1 16).host ∧
    fineHandleOk 0xB0000 (64 + 64 * 16) 0 = true ∧ fineHandleOk (2 ^ 63) (64 + 64 * 16) 0 = false ∧
    (let s := debugged.mgmt; ¬ (∃ d ∈ s.debugSessions, d.stage = 1)) := by decide +kernel

theorem meets_OwnerCommands_sessions : (let d : DebugSession := ⟨0, 2, 2, 7, 1⟩
    let s := { atWork machine with mgmt := { (atWork machine).mgmt with debugSessions := [d] } }
    (∃ x ∈ s.mgmt.debugSessions, x.die = 0 ∨ 2 ≤ x.tier ∨ 2 ≤ 1) ∧ (∃ x ∈ s.mgmt.debugSessions, x.stage = 1) ∧
      (∀ c ∈ [0, 767], c < coreCount ∧ ∃ x ∈ s.mgmt.debugSessions, x.stage = 1 ∧ (x.die = dieOf (clusterOf c) ∨ 2 ≤ x.tier)) ∧ s.scopeFree d = false) :=
  ⟨⟨_, List.mem_singleton.2 rfl, by decide⟩, ⟨_, List.mem_singleton.2 rfl, rfl⟩, fun c h => ⟨by revert c; decide, _, List.mem_singleton.2 rfl, rfl, .inr (by decide)⟩,
    by decide +kernel⟩

theorem meets_SessionsAndOwnership_claims : (let h := header 2 200; h.status = 0 ∧ h.bodyLength ≤ 4016 ∧ h.reserved = 0 ∧ h.host ∉ (atWork machine).mgmt.sessions) ∧
    (atWork machine).mgmt.claimOpen = false ∧ (5 : Nat) ≠ 0xFFFF ∧ (atWork machine).mgmt.stage = 6 ∧ ({ atWork machine with podTick := 5000000000 }).ownerNow = none ∧
    (atWork machine).ownerNow ≠ none := by decide +kernel

theorem meets_BringUpAndPower_boundaries : State.reset.mgmt.powered = true ∧ (State.reset.mgmt.stage < 5) ∧
    (let m := { State.reset.mgmt with stage := 6, podOffset := 0 }; m.stage = 6 ∧ ((20 : Int) - 0).natAbs ≤ 20 ∧ ¬ ((21 : Int) - 0).natAbs ≤ 20) := by decide

theorem meets_InlineWords_writes : (serving (inline inlineStore [])).writeFails (.here (spadKey 1 8) none) = false ∧ ((1 : G).val < 16 ∧ (2 : G).val < 16) := by
  decide +kernel

/-! ### Hypotheses met: the clauses that answer the second review -/

/-- The gang's machine with g6 at a scratchpad word of the other package, and 1 in g7. -/
def far : State := gang.setMe ((gang.me.wg 6 0x8004000800000008).wg 7 1)

theorem meets_TaggedMemory_peer : (∃ m, far.meshOnly (coreOf far.who) (far.rg 6) 8 tagUnit = .ok m ∧
      far.placeOf (coreOf far.who) m = .peer 4096 0x8004000800000008 ∧ m.offset + 8 * 1 ≤ 0x400000) ∧
    far.noWindow = true ∧ roleOf far.who ≠ 2 ∧ far.awayTags = [] ∧ far.readyMem [5, 6] [] [] = true ∧ far.readyRelease [6, 7] [] [] = true ∧
    far.rg 7 = 1 := ⟨⟨_, rfl, rfl, by decide⟩, by decide, by decide, rfl, by decide, by decide, by decide⟩

theorem meets_TaggedMemory_heard : gang.mgmt.powered = true ∧ gang.reachable = true ∧ gang.gangWith 1 1 = true ∧
    (∃ m, gang.meshOnly (gang.cap 1).door (spad 8) 8 tagUnit = .ok m ∧ gang.placeOf (gang.cap 1).door m = .here (spadKey 1 8) none ∧
      m.offset + 8 * 2 ≤ 0x400000) ∧
    gang.poisoned (spadKey 1 8) 8 = false ∧ gang.tagQueue = [] ∧ gang.full (spadKey 1 8) = false ∧ (gang.setFull (spadKey 1 8) true).full (spadKey 1 8) = true ∧
    ({ gang with awayTags := [⟨32, 0, 5, 0x8004000800000008, 4096⟩] } : State).awayTags = [⟨32, 0, 5, 0x8004000800000008, 4096⟩] ∧
    (gang.thr 32).pending = [] ∧ (gang.thr 32).ldepth = 0 :=
  ⟨by decide, by decide, by decide, ⟨_, rfl, rfl, by decide⟩, by decide, rfl, by decide, by decide, rfl, rfl, rfl⟩

/-- The late result of v9, in its lower half. -/
def lateV : LoadReply := ⟨machine.me.firing, 8, 3, .v 9, ⟨7, BitVec.ofNat 512 (2 ^ 256 - 1)⟩, false⟩

theorem meets_LateResultsAndAcknowledgements_vector : ∀ left ∈ [0, 2],
    let s := { (withMe fun x => { x with pending := [⟨3, .v 9, left, none⟩] }) with loads := [lateV] }
    s.loads[0]? = some lateV ∧ s.threadOf lateV.firing = some 32 ∧ lateV.reg = .v 9 ∧ (s.thr 32).pending = [⟨lateV.request, .v 9, left, none⟩] := by decide +kernel

/-- A release step on a full ring while the capsule is pre-empted, and one behind an entry that waits. -/
theorem meets_ReadinessAtHome_preempted : let m := served 0x38 3 8 (tcmKey 8 0) 0 0 0
    let c := { machine.cap 1 with image := { (machine.cap 1).image with codelets := [⟨0, 8, 0, 0, []⟩] }, stage := Stage.preempting }
    let s := (machine.setCap 1 c).setCore 8 (fullRing { machine.core 8 with inbox := [m] })
    let t := (machine.setCap 1 c).setCore 8 { machine.core 8 with inbox := [m], waiting := [⟨0, 0, 0, none⟩] }
    Serves s 8 m ∧ (s.cap m.capsule).stage = .preempting ∧ 256 ≤ (s.core 8).entryCount ∧ ((s.mem64 m.key) >>> 48).toNat < (s.cap m.capsule).image.codelets.length ∧
    Serves t 8 m ∧ (t.core 8).waiting ≠ [] :=
  ⟨⟨rfl, rfl, rfl, rfl, rfl, by decide⟩, rfl, by decide +kernel, by decide +kernel, ⟨rfl, rfl, rfl, rfl, rfl, by decide⟩, by decide⟩

/-- Entries that wait: with room for the one that the handler waits with, with room for one of two, and with no handler. -/
theorem meets_ReadinessAtHome_appends : let m := served 0x38 3 8 (tcmKey 8 0) 0 0 0
    let e : Entry := ⟨0, 0, 0, none⟩
    let s := (machine.setCore 8 { machine.core 8 with waiting := [e] }).setThr (hThread 8) { Thread.reset with live := true, handling := some m }
    let t := machine.setCore 8 { machine.core 8 with ring := List.replicate 255 e, waiting := [e, e] }
    (s.core 8).halted = false ∧ s.appends 8 = true ∧ (s.thr (hThread 8)).handling = some m ∧ m.request = 0 ∧ (s.core 8).waiting ≠ [] ∧
      s.poisoned m.key 16 = false ∧ { s with poison := [tcmKey 8 0 / 64] }.poisoned m.key 16 = true ∧ (s.cap m.capsule).stage = .running ∧
      min (s.core 8).waiting.length (256 - (s.core 8).entryCount) = (s.core 8).waiting.length ∧
    t.appends 8 = false ∧ (t.core 8).halted = false ∧ min (t.core 8).waiting.length (256 - (t.core 8).entryCount) = 1 := by decide +kernel

/-- Both the target and the image fail: the image's misaligned address comes first, and the target before an image of its own rank. -/
theorem meets_MessagesIssue_both : (let s := withG [(6, 0x8000002800000000), (7, spad 1)];
      s.readyRelease [5, 6, 7] [] [] = true ∧ s.targetCore (coreOf s.who) (s.rg 6) = .error causeMeshbound ∧
      s.readImage (coreOf s.who) (s.rg 7) 0 = .error (causeAlign, spad 1)) ∧
    (let s := withG [(6, 0x8000002800000000), (7, 0)];
      s.targetCore (coreOf s.who) (s.rg 6) = .error causeMeshbound ∧ s.readImage (coreOf s.who) (s.rg 7) 0 = .error (causeExtent, 0)) ∧
    paged.targetCore 8 (0x1000 : Word) = .error causeRights :=
  ⟨⟨by decide, rfl, rfl⟩, ⟨rfl, rfl⟩, rfl⟩

/-- A gang that waits for placement while the package is locked or not. -/
def gangPlacing (locked : Bool) : State :=
  let s := placing fun c => { c with image := { c.image with flags := 4, gangStart := 5, packages := 2, members := [0, 5] } }
  { s with mgmt := { s.mgmt with locked } }

theorem meets_PlacementAndStart_unlocked : (let s := gangPlacing false;
     let c := s.cap 2
     c.stage = .placing ∧ s.tooLate c = false ∧ s.startMissed c = false ∧ bits c.image.flags 2 2 = 1 ∧ s.mgmt.locked = false) ∧
    let s := gangPlacing true;
    let c := s.cap 2
    c.stage = .placing ∧ s.tooLate c = false ∧ s.startMissed c = false ∧ bits c.image.flags 2 2 = 1 ∧ s.mgmt.locked = true ∧ s.turnOf 2 = true := by decide +kernel

/-- The machine leaving with a handler on H that waits to append. -/
theorem meets_Preemption_appends : let m := served 0x38 3 8 (tcmKey 8 0) 0 0 0
    let s := ((leaving []).setCore 8 (fullRing { machine.core 8 with waiting := [⟨0, 0, 0, none⟩] })).setThr (hThread 8)
      { Thread.reset with live := true, handling := some m }
    (s.cap (s.capOf 8)).stage = .preempting ∧ 8 ∉ (s.cap (s.capOf 8)).answered ∧ s.appends 8 = true ∧ (s.thr (hThread 8)).handling = some m ∧
    m.ofHost = false ∧ s.poisoned m.key 16 = false ∧ (s.core 8).halted = false ∧ (leaving []).appends 8 = false := by decide +kernel

/-- The leaving capsule with a resume area in bonded memory, every core of it at rest. -/
def recording : State :=
  let c := (leaving (List.range' 8 8)).cap 1
  let s := (leaving (List.range' 8 8)).setCap 1 { c with image := { c.image with extents := [⟨0x1000, 2 ^ 24, 0x10000, rightR + rightW, 0⟩], resumeVa := 0x1000 } }
  s.setThr 32 Thread.reset

theorem meets_Preemption_record : (recording.cap 1).stage = .preempting ∧ recording.recordReady 1 = true ∧
    (recording.cap 1).keyOf (recording.resumeVaOf (recording.cap 1)) = some 0x10000 ∧
    recording.codeLocked 0x10000 0x701000 = false ∧
    (∀ i, i < 0x701000 → (recording.cap 1).holdsKey (0x10000 + i) = false ∧ recording.writeFails (.here (0x10000 + i) none) = false) ∧
    (recording.cap 1).clusters ≠ [] ∧
    0x700000 * (recording.cap 1).clusters.length + (recording.cap 1).image.dsramKib * 1024 * (recording.cap 1).image.dies + 4096 = 0x701000 := by
  refine ⟨by decide +kernel, by decide +kernel, by decide +kernel, by decide +kernel, fun i h => ⟨?_, ?_⟩, by decide +kernel, by decide +kernel⟩
  · have : 0x10000 + i < 2 ^ 44 := by omega
    exact if_pos this
  · have : recording.mgmt.cxlFailed = false := by decide +kernel
    simp [State.writeFails, this]

/-- The device's own writes meet no locked code and no failed set. -/
theorem takes_of {s : State} {k n : Nat} (hc : s.codeLocked k n = false) (hf : s.mgmt.cxlFailed = false) : s.takes k n :=
  ⟨hc, fun i _ => by simp [State.writeFails, hf]⟩

theorem meets_CapsulesEnd_final : (quietCap id).takes 0x10000 64 := takes_of (by decide +kernel) (by decide +kernel)

theorem meets_QueueScanner_takes : (queueing (queueEntry 3 24 0 5)).takes 0x80000 28 ∧ (queueing (queueEntry 3 24 0 5)).takes 0xA0000 8 :=
  ⟨takes_of (by decide +kernel) (by decide +kernel), takes_of (by decide +kernel) (by decide +kernel)⟩

theorem meets_Submission_takes : ∀ full, (ringed full).takes 0xB0000 12 ∧ (ringed full).takes (0xB0040 + 64 * 15) 64 ∧ (ringed full).takes 0xB0040 64 := by
  intro full
  cases full <;> exact ⟨takes_of (by decide +kernel) (by decide +kernel), takes_of (by decide +kernel) (by decide +kernel), takes_of (by decide +kernel) (by decide +kernel)⟩

theorem meets_Preemption_takes : (atWork machine).takes 0x90000 24 ∧ (atWork machine).takes 0x80000 4 :=
  ⟨takes_of (by decide +kernel) (by decide +kernel), takes_of (by decide +kernel) (by decide +kernel)⟩

theorem meets_TrapsAndTheResidentHandler_takes : (quietCap id).takes ((quietCap id).reportBase ((quietCap id).cap 1) + 0xF000) 64 :=
  takes_of (by decide +kernel) (by decide +kernel)

theorem meets_OwnerCommands_takes : (atWork machine).takes (0x80000 + 8) 16 ∧ (atWork machine).takes (0x80000 + 8) 4 :=
  ⟨takes_of (by decide +kernel) (by decide +kernel), takes_of (by decide +kernel) (by decide +kernel)⟩

/-- The key's capsules: one that waits for placement, one that is loaded, and one that runs. -/
theorem meets_OwnerCommands_revoked : (2, (placing id).cap 2) ∈ (placing id).capsules ∧ ((placing id).cap 2).image.owner = 7 ∧ ((placing id).cap 2).stage = .placing ∧
    (let s := placing fun c => { c with stage := .loaded, placed := [⟨1, 0, 1, 0, 0⟩] };
      (2, s.cap 2) ∈ s.capsules ∧ (s.cap 2).image.owner = 7 ∧ (s.cap 2).stage = .loaded ∧ (s.cap 2).clusters ≠ []) ∧
    (((placing id).cap 1).stage ≠ .placing ∧ ((placing id).cap 1).stage ≠ .loaded) ∧ ∃ k, (placing id).key? 7 = some k :=
  ⟨by decide +kernel, by decide +kernel, by decide +kernel, by decide +kernel, by decide +kernel, _, rfl⟩

/-- A line that the window reads: poisoned alone, or after its MAC failed. -/
theorem meets_HostOperations_forged : let s := { atWork machine with poison := [0x40008 / 64] };
    s.poisoned 0x40008 8 = true ∧ (∀ j, j < 8 → s.forgedAt (0x40008 + j) = false) ∧
    { s with mgmt := { s.mgmt with forged := [0x40008 / 64] } }.forgedAt 0x40008 = true := by decide +kernel

/-- A converting copy of a row that is no whole number of blocks. -/
theorem meets_CopiesIssue_block : let s := withMe fun x => { x with shadow := ⟨0x1000, 0x1800, 0, 0, BitVec.ofNat 64 oneRow, 0x15, 3, true⟩ };
    s.sideFormat (coreOf s.who) s.me.shadow.src (bits s.me.shadow.fmt.toNat 3 0) = some 5 ∧
    s.sideFormat (coreOf s.who) s.me.shadow.dst (bits s.me.shadow.fmt.toNat 7 4) = some 1 ∧ blockBad 5 1 (bits s.me.shadow.shape.toNat 23 0) = true := by decide +kernel

/-- A peer's line for a failed set. -/
theorem meets_Multicast_fails : let s := { failedSet.setCap 1 { failedSet.cap 1 with image :=
      { (failedSet.cap 1).image with packages := 2, members := [], extents := [⟨0x1000, 0x1000, 2 ^ 62 + 0x1000, rightR + rightW + rightM, 0⟩] } } with
      mgmt := { gang.mgmt with cxlFailed := true } };
    s.gangWith 1 1 = true ∧ s.reach (s.cap 1).door (0x1000 : Word) 256 { accStore with need := rightW + rightM } = .ok (.here (2 ^ 43 + 0x1000) (some 0)) ∧
    s.writeFails (.here (2 ^ 43 + 0x1000) (some 0)) = true ∧ (s.cap 1).stage = .running :=
  ⟨by decide +kernel, reaches (by decide +kernel), by decide +kernel, by decide +kernel⟩

/-- 1 and −2.5 in binary16 are finite numbers. -/
theorem meets_FloatRules_values : (0 : Nat) < 4 ∧ (fmt16.decode 0x3C00).Is 1 ∧ (fmt16.decode 0xC100).Is (-5 / 2) ∧ (1 : ℝ) + -5 / 2 ≠ 0 := by
  have a : fmt16.decode 0x3C00 = .fin false 1024 (-10) := by decide
  have b : fmt16.decode 0xC100 = .fin true 1280 (-9) := by decide
  refine ⟨by decide, ?_, ?_, by norm_num⟩ <;> simp only [a, b, Num.Is] <;> norm_num

/-- A register context for an inbox and a ring with room. -/
theorem meets_TasksArrive_context : let m := { arriving with bounce := false, target := 8 };
    let s := { mailbox with net := [m] };
    s.net[0]? = some m ∧ m.kind = 1 ∧ m.target < coreCount ∧ fieldB m.body 2 2 = 0xFFFF ∧ s.discards m.target m.capsule = false ∧ (s.core 8).waiting = [] ∧
    (s.core 8).inboxBytes + m.bytesLen ≤ 16384 ∧ (s.core 8).entryCount < 256 := by decide +kernel

/-! ### Hypotheses met: the clauses that answer the third review -/

/-- The pair's machine with g6 at a word of the other package's core, which an atomic reaches there. -/
def away : State := paired.setMe ((paired.me.wg 6 0x8004000800000000).wg 7 1)

theorem meets_AtomicsIssue_peer : away.readyMem [5, 6, 7] [] [] = true ∧
    away.access (coreOf away.who) (away.rg 6) 8 accAmo = .ok (.peer 4096 0x8004000800000000) ∧
    away.access (coreOf away.who) (away.rg 6) 8 accAmop = .ok (.peer 4096 0x8004000800000000) ∧
    away.myCore.lastIssued 7 + 1 < 2 ^ 64 ∧ away.net = [] ∧ { away with net := [posted] }.atomicBefore away.me.firing away.nextId = true :=
  ⟨by decide, reaches (by decide +kernel), reaches (by decide +kernel), by decide, rfl, by decide⟩

theorem meets_RepliesArrive_peer : let q : Msg := { replyMsg 1 8 0 0x8000000000000005 machine.me.firing 3 0 with kind := 0, target := coreCount + 1 }
    let x : Msg := replyMsg 1 8 0 0x8000000000000005 0 3 5
    let s := { gang with net := [q] }
    s.mgmt.powered = true ∧ s.reachable = true ∧ s.gangWith q.capsule 1 = true ∧ s.net = [q] ∧ q.target = coreCount + 1 ∧ q.kind ≠ 4 ∧ q.held = false ∧
    q.request ≠ 0 ∧ q.reply ≠ 0 ∧ x.kind = 4 ∧ x.bounce = false ∧ x.ok = true ∧ x.capsule = q.capsule ∧ x.reply = q.reply ∧ x.request = q.request := by
  decide +kernel

/-- A task's issuer: a firing here with its register pending, a firing that is carried, or a peer's. -/
theorem meets_TasksArrive_answered : task.sender < coreCount ∧
    (let s := owed 0; s.threadOf task.firing = some 32 ∧ (5 : Nat) ≠ 0 ∧ (s.thr 32).pending = [⟨task.request, .g 5, 0, none⟩]) ∧
    (let m := { task with firing := 77 }; machine.threadOf m.firing = none) ∧
    let m := { task with sender := coreCount + 1, reply := 7 }
    coreCount ≤ m.sender ∧ m.reply ≠ 0 := by decide

theorem meets_LateResultsAndAcknowledgements_departed : let f : Forward := ⟨77, coreCount + 1, 5, 512, [3]⟩
    let r : LoadReply := ⟨77, 8, 3, .g 5, lateG 9, false⟩
    let s := { (machine.setCore 8 { machine.core 8 with forwarding := [f] }) with loads := [r, { r with request := 4 }] }
    s.loads[0]? = some r ∧ s.threadOf r.firing = none ∧ s.departed r.firing = some f ∧ r.request ∈ f.owed ∧
    s.loads[1]? = some { r with request := 4 } ∧ ({ r with request := 4 } : LoadReply).request ∉ f.owed := by decide +kernel

theorem meets_LateResultsAndAcknowledgements_heard : let l : PeerLoad := ⟨1, 1, 77, 5, 6, 3⟩
    let s := { gang with peerLoads := [l] }
    s.mgmt.powered = true ∧ s.reachable = true ∧ s.peerLoads = [l] ∧ (l.capsule = 1 ∧ l.package = 1 ∧ l.theirs = 77 ∧ l.reg = 6) ∧
    ¬ (l.capsule = 1 ∧ l.package = 1 ∧ l.theirs = 78 ∧ l.reg = 6) := by decide +kernel

/-- A departure to a peer, with a posted atomic of the firing still on its way or not. -/
theorem meets_Departures_peer : let s := withMe fun x => { x with wait := .departure (coreCount + 1), vregs := 0 }
    (s.thr 32).wait = .departure (coreCount + 1) ∧ s.onlyLoadsOwed (s.thr 32) = true ∧ coreCount ≤ coreCount + 1 ∧
    s.atomicBefore (s.thr 32).firing s.nextId = false ∧ { s with net := [posted] }.atomicBefore (s.thr 32).firing s.nextId = true := by decide

set_option maxRecDepth 20000 in
/-- A line for an address that no extent covers. -/
theorem meets_Multicast_unreached : let s := (line 1 0).setMem64 (tcmKey 8 0x408) 0x8000
    let image := s.byteList (tcmKey 8 0x400) 272
    s.readyRelease [5, 6] [] [] = true ∧ s.imageKey (coreOf s.who) (s.rg 6) 272 = .ok (tcmKey 8 0x400) ∧ s.poisoned (tcmKey 8 0x400) 272 = false ∧
    dwordB image 8 = 0x8000 ∧ (fieldB image 0 2 = 0 ∧ fieldB image 2 2 = 1) ∧
    s.reach (coreOf s.who) (0x8000 : Word) 256 { accStore with need := rightW + rightM } = .error causeExtent :=
  ⟨by decide, rfl, by decide +kernel, by decide +kernel, by decide +kernel, rfl⟩

theorem meets_Multicast_answered : let m := { task with target := coreCount + 1 }
    let s := { machine with net := [m] }
    s.net = m :: [] ∧ m.target = coreCount + 1 ∧ m.kind ≠ 4 ∧ m.held = false ∧ m.request ≠ 0 ∧ posted.request = 0 := by decide

theorem meets_SpecialRegisters_trapCause : (BitVec.ofNat 64 (2 ^ 16 - 1) : Word).toNat < 2 ^ 16 ∧ 2 ^ 16 ≤ (BitVec.ofNat 64 (2 ^ 16) : Word).toNat ∧
    (withMe fun x => { x with mode := .firmware }).me.mode = .firmware := by decide

/-- The firing's capsule with two extents apart, the second without R or with it. -/
def apartExtents (rights : Nat) : State :=
  let s := submitting
  s.setCap 1 { s.cap 1 with image := { (s.cap 1).image with extents :=
    [⟨0x1000, 0x1000, 0x10000, rightR, 0⟩, ⟨0x2000, 0x1000, 0x30000, rights, 0⟩] } }

/-- An image over two extents: the last byte in the second, without R or with it; outside both; and a first extent that may not be read. -/
theorem meets_Submission_crossing : (let s := apartExtents rightW; let c := s.cap s.myCap
      findExtent c.image.extents 0x1FF8 = some 0 ∧ findExtent c.image.extents 0x2008 = some 1 ∧
      c.image.extents[1]? = some ⟨0x2000, 0x1000, 0x30000, rightW, 0⟩ ∧ 0x1000 + 0x1000 < 0x1FF8 + 17 ∧ 0x1FF8 + 17 ≤ 0x2000 + 0x1000 ∧
      hasRights rightR rightR = true ∧ s.worldRefuses c (extentKey ⟨0x1000, 0x1000, 0x10000, rightR, 0⟩ 0x1FF8) = false ∧
      ¬ (hasRights rightW rightR = true ∧ s.worldRefuses c (extentKey ⟨0x2000, 0x1000, 0x30000, rightW, 0⟩ 0x2008) = false) ∧
      findExtent c.image.extents 0x3000 = none) ∧
    let s := { submitting with poison := [0x10100 / 64] }; let c := s.cap s.myCap
    s.poisonVa c.image.extents 0x1000 466 = some 0x1100 := by decide +kernel

theorem meets_QueueScanner_poisoned : let s := queueing (queueEntry 3 24 0 5)
    (s.poisoned 0x80000 32 = false ∧ s.poisoned 0x90000 64 = false ∧ s.poisoned 0xA0000 8 = false) ∧
    { s with poison := [0x80000 / 64] }.poisoned 0x80000 32 = true ∧ { s with poison := [0x90000 / 64] }.poisoned 0x90000 64 = true ∧
    { s with poison := [0xA0000 / 64] }.poisoned 0xA0000 8 = true := by decide +kernel

theorem meets_Preemption_boundary : let c := { (leaving []).core 8 with halted := true, haltGroup := some 3 }
    let s := ((leaving []).setMe { (leaving []).me with window := 2 }).setCore 8 c
    (s.cap (s.capOf 8)).stage = .preempting ∧ 8 ∉ (s.cap 1).answered ∧ (s.core 8).halted = true ∧ ((leaving []).core 8).halted = false ∧
    ∃ r ∈ [0, 1, 3], s.atBoundary 1 (s.thr (8 * 4 + r)) = false := by decide +kernel

theorem meets_Preemption_publish : let s := atWork machine
    s.poisoned (0xA0000 + 8 * 3) 8 = false ∧ s.poisoned 0x80000 32 = false ∧
    { s with poison := [(0xA0000 + 8 * 3) / 64] }.poisoned (0xA0000 + 8 * 3) 8 = true ∧ { s with poison := [0x80000 / 64] }.poisoned 0x80000 32 = true := by
  decide +kernel

/-- The write of a port's unit: to plain memory, to write-locked code, and to a failed set. -/
theorem meets_HostOperations_portWrite : let p : PortOp := ⟨0, 1, 0x40008, 0, some 5, 0⟩
    p.value = some 5 ∧ (atWork machine).codeLocked p.key 8 = false ∧ (atWork machine).writeFails (.here p.key none) = false ∧
    failedSet.codeLocked (2 ^ 43 + 0x1000) 8 = false ∧ failedSet.writeFails (.here (2 ^ 43 + 0x1000) none) = true ∧
    (let s := withCap fun c => { c with image := { c.image with extents := [⟨0x1000, 0x1000, 0x40000, rightR, 0⟩], codeVa := 0x1000, codeLength := 64 } }
     s.codeLocked 0x40008 8 = true) := by decide +kernel

theorem meets_OwnerCommands_poisoned : let s := atWork machine
    s.poisoned 0x80000 32 = false ∧ { s with poison := [0x80000 / 64] }.poisoned 0x80000 32 = true := by decide

/-- A copy whose destination lies outside the footprint. -/
theorem meets_CopiesIssue_destination : let s := withMe fun x => { x with shadow := ⟨0x1000, 0x8000B00800000000, 0, 0, BitVec.ofNat 64 oneRow, 0xF1, 3, true⟩ }
    s.sideFormat (coreOf s.who) s.me.shadow.src (bits s.me.shadow.fmt.toNat 3 0) = some 1 ∧
    s.sideFormat (coreOf s.who) s.me.shadow.dst (bits s.me.shadow.fmt.toNat 7 4) = none := by decide +kernel

/-- A close that has a shelf to write and room for it. -/
theorem meets_Setter_shelf : let h : Shelf := ⟨0, [1], [5]⟩
    let s := shelving [h] (setterOp 2 true)
    s.setterHead 1 = some (setterOp 2 true) ∧ (setterOp 2 true).kind = 2 ∧ ((s.cluster 1).session 0).shelves = h :: [] ∧
    ((s.cluster 1).session 0).position + (h.bytes 3).length ≤ 0x400000 := by decide +kernel

theorem meets_PlacementAndStart_unreadable : (continuing none).poisoned 0x10000 8192 = false ∧
    { continuing none with poison := [0x11000 / 64] }.poisoned 0x10000 8192 = true := by decide +kernel

/-! ### Hypotheses met: the clauses that answer the fourth review -/

/-- A store into an accumulator tile that a TCW writes. -/
theorem meets_StoresWrite_tile : let s := atWord.setCluster 1 { atWord.cluster 1 with openTiles := [⟨3, 8, 1, false⟩] }
    s.readyMem [6, 7] [] [] = true ∧ s.tileOpen (accKey 1 (3 * 4096 + 8)) = true ∧ s.tileOpen (accKey 1 (4 * 4096)) = false ∧
    machine.access 8 (0x8000001800003008 : Word) 8 accStore = .ok (.here (accKey 1 (3 * 4096 + 8)) none) :=
  ⟨by decide, by decide +kernel, by decide +kernel, reaches (by decide +kernel)⟩

/-- A dec of a peer's word, the posted atomics of its firing performed or not. -/
theorem meets_AtomicsIssue_decPeer : let a : Word := 0x8004000000000000
    away.readyMem [6, 7] [] [] = true ∧ (∃ m, away.resolve 8 a 8 = some m ∧ m.unit = 0 ∧ m.offset + 16 ≤ 0x39800 ∧ m.package ≠ bits away.myCore.coord.toNat 23 12) ∧
    away.myCore.lastIssued 7 + 1 < 2 ^ 64 ∧ (∀ n, away.atomicBefore away.me.firing n = false) ∧
    { away with net := [posted] }.atomicBefore away.me.firing away.nextId = true :=
  ⟨by decide, ⟨_, rfl, rfl, by decide, by decide⟩, by decide, fun _ => rfl, by decide⟩

/-- A readiness word on a poisoned line, of a capsule that runs and of one that is being killed. -/
theorem meets_ReadinessAtHome_poisoned : let m := served 0x33 3 8 (tcmKey 8 0) 1 0 0
    let s := { serving m with poison := [tcmKey 8 0 / 64] }
    Serves s 8 m ∧ m.words = [] ∧ m.request = 0 ∧ m.op = 0x33 ∧ s.poisoned m.key 16 = true ∧ (s.cap m.capsule).stage = .running ∧
    (let t := s.setCap 1 { s.cap 1 with stage := .killing, kill := some ⟨machine.recordOf 1 1 0 0 0 0 0 0, 0, []⟩ }
     Serves t 8 m ∧ t.poisoned m.key 16 = true ∧ (t.cap m.capsule).stage = .killing) ∧ machine.poisoned m.key 16 = false :=
  ⟨⟨rfl, rfl, rfl, rfl, rfl, by decide⟩, by decide, by decide, by decide, by decide, by decide,
    ⟨⟨rfl, rfl, rfl, rfl, rfl, by decide⟩, by decide, by decide⟩, by decide⟩

/-- A gang member that has loaded and not started, and one that runs. -/
theorem meets_TasksArrive_loaded : let s := { (withCap fun c => { c with stage := .loaded }) with net := [task, arriving] }
    task.bounce = false ∧ task.target < coreCount ∧ (s.cap task.capsule).stage = .loaded ∧ s.discards task.target task.capsule = false ∧
    fieldB task.body 2 2 ≠ 0xFFFF ∧ fieldB arriving.body 2 2 = 0xFFFF ∧ (machine.cap task.capsule).stage ≠ .loaded := by decide +kernel

/-- A thread that PREEMPT has taken at its migr, and one of a core that it has not reached. -/
theorem meets_Departures_preempted : let s := withMe fun x => { x with wait := .departure 9, vregs := 0 }
    let t := s.setCap 1 { s.cap 1 with stage := .preempting, reached := [8] }
    t.preempted 32 = true ∧ (t.thr 32).wait = .departure 9 ∧ t.onlyLoadsOwed (t.thr 32) = true ∧ s.preempted 32 = false := by decide

set_option maxRecDepth 20000 in
/-- A member that the footprint lacks; one that it has, with a mesh destination or a virtual one; and no member but the thread's own package. -/
theorem meets_Multicast_members : let members := fun (s : State) (first count : Nat) =>
      ((List.range count).map fun i => first + i * 0).filter fun p => p ≠ bits s.myCore.coord.toNat 23 12
    ((members machine 1 1).find? fun p => (machine.cap machine.myCap).image.packages ≤ p) = some 1 ∧
    (∀ p ∈ members paired 1 1, p < (paired.cap paired.myCap).image.packages) ∧ members machine 0 1 = [] ∧
    2 ^ 63 ≤ (spad 0).toNat ∧ (spad 0).toNat % 256 = 0 ∧
    ∃ q, paired.reach (coreOf paired.who) (spad 0) 256 { accStore with need := rightW + rightM } = .ok q :=
  ⟨by decide, by decide, by decide, by decide, by decide, reads (by decide +kernel)⟩

theorem meets_RecordsAndBreakpoints_full : let s := withCap fun c => { c with reportIndex := 63 }
    s.noWindow = true ∧ s.readyRelease [6] [] [] = true ∧ s.armedGroup (coreOf s.who) = none ∧ 63 ≤ (s.cap s.myCap).reportIndex := by decide

/-- A drain whose row has been poisoned, or not. -/
theorem meets_CopiesMove_poisoned : let s := draining 1 0 none
    (∃ g, s.segmentOf 1 = some g ∧ decide ((s.cap (s.capOf g.core)).stage = .running ∧ g.cl = 1 ∧
      s.poisoned (accKey g.cl (bits g.slot.tcw 30 24 * 4096 + g.d.row * 32 * tcwSize g.slot.tcw)) (32 * tcwSize g.slot.tcw) = false) = true) ∧
    let t := { s with poison := [accKey 1 0 / 64] }
    ∃ g, t.segmentOf 1 = some g ∧ decide ((t.cap (t.capOf g.core)).stage = .running ∧
      t.poisoned (accKey g.cl (bits g.slot.tcw 30 24 * 4096 + g.d.row * 32 * tcwSize g.slot.tcw)) (32 * tcwSize g.slot.tcw) = true) = true :=
  ⟨finds (by decide +kernel), finds (by decide +kernel)⟩

/-- A group of two positions, of which the mask keeps the first: 1 + 2 · 3. -/
theorem meets_MatrixOperations_group : let two : Machine.Num := .fin false 2 0
    let three : Machine.Num := .fin false 3 0
    let p : List (Option Machine.Num × Machine.Num) := [(some two, three), (none, three)]
    let v : Option Machine.Num × Machine.Num → ℝ := fun e => match e.1 with | none => 0 | some _ => 6
    (fmt32.decode 0x3F800000).Is 1 ∧ p.length ≤ 2 ∧ (∀ e ∈ p, e.1 = none ∧ v e = 0 ∨ ∃ a x y, e.1 = some a ∧ a.Is x ∧ e.2.Is y ∧ v e = x * y) ∧
    (1 : ℝ) + (p.map v).sum ≠ 0 := by
  have a : fmt32.decode 0x3F800000 = .fin false 8388608 (-23) := by decide
  refine ⟨?_, by decide, ?_, by norm_num⟩
  · simp only [a, Num.Is]
    norm_num
  · intro e h
    simp only [List.mem_cons, List.not_mem_nil, or_false] at h
    rcases h with rfl | rfl
    · exact .inr ⟨_, 2, 3, rfl, by simp [Num.Is], by simp [Num.Is], by norm_num⟩
    · exact .inl ⟨rfl, rfl⟩

theorem meets_MatrixOperations_shapes : (31 : Nat) < 32 ∧ tcwTrb (tcw 1 0 0 0 0 1) = 0 ∧ tcwTrb (tcw 1 0 0 0 0 1 + 2 ^ 23) ≠ 0 ∧ tcwTop (tcw 2 0 0 0 0 16) = 2 ∧
    tcwTop (tcw 1 0 0 0 0 1) ≠ 2 ∧ ([[1, 2], [3]] : List (List Byte))[1]? = some [3] ∧ (256 : Nat) < 2 ^ fmt32.width := by decide

theorem meets_Setter_laws : let h : Shelf := ⟨7, [1, 65535], [5, 6]⟩
    h.takes [8, 9] = true ∧ h.takes [6] = false ∧ (3 : Nat) ≤ 3 ∧ h.indices.length ≤ 32 ∧ h.bodies.length ≤ 128 ∧ (∀ v ∈ h.indices, v < 2 ^ 16) ∧
    h.indices[1]? = some 65535 ∧ 8 + 2 * 2 ≤ (h.bytes 3).length := by decide

/-- The patterns of half precision: ∞, a NaN, a zero, a subnormal and a normal number, each with its sign. -/
theorem meets_FloatRules_patterns : (0xFC00 / 2 ^ 15 = 1 ∧ 0xFC00 / 2 ^ 10 % 2 ^ 5 = 2 ^ 5 - 1 ∧ 0xFC00 % 2 ^ 10 = 0) ∧
    (0x7C01 / 2 ^ 10 % 2 ^ 5 = 2 ^ 5 - 1 ∧ 0x7C01 % 2 ^ 10 ≠ 0) ∧ (0x8001 / 2 ^ 10 % 2 ^ 5 = 0 ∧ 0x8001 / 2 ^ 15 = 1) ∧
    (0x3C00 / 2 ^ 10 % 2 ^ 5 ≠ 0 ∧ 0x3C00 / 2 ^ 10 % 2 ^ 5 ≠ 2 ^ 5 - 1) ∧ fmt16.eb = 5 ∧ fmt16.fb = 10 ∧ (0xFFFF : Nat) < 2 ^ fmt16.width := by decide

/-- Infinities beside infinities, zeros and other numbers; a negative number and a zero under the root; zero operands and results. -/
theorem meets_FloatRules_corners : fmt16.decode 0x7C00 = .inf false ∧ fmt16.decode 0xFC00 = .inf true ∧ (fmt16.decode 0).Is 0 ∧ (fmt16.decode 0x3C00).Is 1 ∧
    (fmt16.decode 0xBC00).Is (-1) ∧ (fmt16.decode 0).isNan = false ∧ ((-1 : ℝ) < 0) ∧ (1 : ℝ) + -1 = 0 ∧ (1 : ℝ) - 1 = 0 ∧ (1 : ℝ) * 0 = 0 ∧ (1 : ℝ) ≠ 0 := by
  have z : fmt16.decode 0 = .fin false 0 (-24) := by decide
  have a : fmt16.decode 0x3C00 = .fin false 1024 (-10) := by decide
  have b : fmt16.decode 0xBC00 = .fin true 1024 (-10) := by decide
  refine ⟨by decide, by decide, ?_, ?_, ?_, by decide, by norm_num, by norm_num, by norm_num, by norm_num, by norm_num⟩ <;>
    simp only [z, a, b, Num.Is] <;> norm_num

/-- The operands of a conversion: a float that is a NaN, an infinity, or a number; and an integer, below or above zero. -/
theorem meets_FloatRules_conversions : (numRead .f16 0x7E00).isNan = true ∧ numRead .f16 0xFC00 = .inf true ∧ (numRead .f16 0x3C00).Is 1 ∧
    (numRead .i32 0xFFFFFFFF).Is (-1) ∧ (numRead .u32 0xFFFFFFFF).Is 4294967295 ∧ (1 : ℝ) ≠ 0 ∧ ((1 : Int) : ℝ) = 1 ∧ ((1 : Int) : ℝ) ≠ 3 / 2 ∧
    (2 ^ 31 - 1 : Int) < 4294967295 ∧ (-1 : Int) < 0 := by
  have a : numRead .f16 0x3C00 = .fin false 1024 (-10) := by decide
  have b : numRead .i32 0xFFFFFFFF = .fin true 1 0 := by decide
  have c : numRead .u32 0xFFFFFFFF = .fin false 4294967295 0 := by decide
  refine ⟨by decide, by decide, ?_, ?_, ?_, by norm_num, by norm_num, by norm_num, by decide, by decide⟩ <;> simp only [a, b, c, Num.Is] <;> norm_num

theorem meets_VectorWholes_cmpElem : CmpTy.isFloat .i8 = false ∧ 0xFF < 2 ^ CmpTy.bitsOf .i8 ∧ CmpTy.isFloat .f32 = true ∧ (fmt32.decode 0x7F800001).isSnan = true := by
  decide

/-- An owner report ring whose header can be read, or not. -/
theorem meets_Submission_ring : (atWork machine).poisoned 0x60000 12 = false ∧ { atWork machine with poison := [0x60000 / 64] }.poisoned 0x60000 12 = true := by
  decide

/-- A poisoned line beside the control block is none of it. -/
theorem meets_QueueScanner_beside : { atWork machine with poison := [0x80040 / 64] }.poisoned 0x80000 32 = false := by decide

theorem meets_PlacementAndStart_notices : let s := placing fun c => { c with image := { c.image with packages := 2, members := [0, 5] } }
    (s.cap 2).stage = .placing ∧ 1 < (s.cap 2).image.packages ∧ 1 ∉ (s.cap 2).notices ∧ s.packageOf (s.cap 2) = 0 := by decide

/-- A core of a capsule that is being pre-empted, halted: its one firing at a boundary, within a window, or in firmware; and H between two inline words. -/
theorem meets_Preemption_interrupt : let s := (leaving []).setCore 8 { (leaving []).core 8 with halted := true, haltGroup := some 3 }
    (s.cap (s.capOf 8)).stage = .preempting ∧ 8 ∉ (s.cap 1).answered ∧ 8 ∉ (s.cap 1).reached ∧ s.appends 8 = false ∧ (s.core 8).halted = true ∧
    (s.thr 32).live = true ∧ ((s.thr 32).window = 0 ∧ (s.thr 32).mode = .capsule ∧ (s.thr 32).unacked = 0 ∧ (s.thr 32).pending = [] ∧ (s.thr 32).requests = []) ∧
    s.loads = [] ∧ s.net = [] ∧ (∀ q ∈ [8 * 4, 8 * 4 + 1, 8 * 4 + 3], q ≠ 32 → (s.thr q).live = false) ∧ (s.interrupt 8).atBoundary 1 (s.thr 32) = true ∧
    (let t := s.setMe { s.me with window := 2 }; (t.interrupt 8).atBoundary 1 (t.thr 32) = false) ∧ s.midInline 8 = false ∧
    (let t := s.setThr (hThread 8) { s.thr (hThread 8) with live := true, words := [0] }; t.midInline 8 = true ∧ t.appends 8 = false) ∧
    (let t := s.setCap 1 { s.cap 1 with reached := [8] }; t.preempted 32 = true) := by decide +kernel

/-- A resume record's header: its image at 0x1000, of 466 bytes, and one cluster (R206). -/
def recordHeader : List Byte := toBytes 4 0x53525250 ++ toBytes 12 0 ++ toBytes 8 0x1000 ++ toBytes 4 466 ++ toBytes 8 0 ++ toBytes 2 1 ++ toBytes 26 0

/-- The image and a record of it, whose MAC is yet to be written, in one mapping extent; the record's entry waits for admission. -/
def recordOffered : State :=
  let image := { Image.empty with va := 0x2000, length := 0x701000 }
  (submitting.setByteList 0x11000 recordHeader).setCap 2
    { Capsule.blank with stage := .offered, owner := 7, mapping := [⟨0x1000, 2 ^ 24, 0x10000, 1, 0⟩], image }

/-- The MAC of the record. -/
noncomputable def offeredMac : Nat := recordOffered.recordMac (capsuleDigest image) 0x11000 0x700000

/-- The record whole. -/
noncomputable def recordWhole : State := recordOffered.setBytes (0x11000 + 0x700000) 64 offeredMac

set_option maxRecDepth 20000 in
theorem meets_Admission_record : let c := recordOffered.cap 2
    recordWhole.capsules = recordOffered.capsules ∧ c.stage = .offered ∧ recordWhole.mgmt.stage = 6 ∧ c.derived = false ∧
    ∃ h : RecordHeader, recordWhole.readEntry c = some (image, 0x1000, 466, some (h, 0x11000, 0x701000)) ∧
      let i := parseImage image 0x1000
      headerOk image 466 = true ∧ recordLengthOk i (some (h, 0x11000, 0x701000)) = true ∧ recordWhole.barred i.owner = false ∧
      ∃ k, recordWhole.ownerKey i c.owner = some k ∧ recordWhole.sealStep c image i k true = true ∧
        recordWhole.macBad image i (some (h, 0x11000, 0x701000)) = false ∧
        (stepsOf recordWhole image i k.desc).find? (fun p => !p.2) = none ∧ recordWhole.lateCode i true = none := by
  have e : recordWhole = { recordOffered with mem := recordWhole.mem } := State.setBytes_eq _ _ _ _
  have hh : recordWhole.byteList 0x11000 64 = recordHeader := (State.byteList_setBytes _ _ _ _ _ _ (by decide)).trans (by decide +kernel)
  have hb : recordWhole.byteList 0x10000 466 = image := (State.byteList_setBytes _ _ _ _ _ _ (by decide)).trans (by decide +kernel)
  have hm : recordWhole.macBad image (parseImage image 0x1000) (some (parseRecord recordHeader, 0x11000, 0x701000)) = false := by
    have := State.recordVerifies_setBytes recordOffered (capsuleDigest image) 0x11000 0x700000
    have t : recordTail (parseImage image 0x1000) (parseRecord recordHeader).clusters = 0x700000 := by decide +kernel
    unfold State.macBad
    simp only [t]
    exact congrArg (!·) this
  have hi : recordWhole.imageBytes (recordOffered.cap 2).mapping 0x1000 466 = some image := by
    have k : mappedKey (recordOffered.cap 2).mapping 0x1000 466 = some 0x10000 := by decide +kernel
    have p : recordWhole.poisoned 0x10000 466 = false := by rw [e]; decide +kernel
    simp [State.imageBytes, k, p, hb]
  have hr := State.readEntry_record (s := recordWhole) (c := recordOffered.cap 2) (k := 0x11000) (b := image) (by decide +kernel) (by decide +kernel)
    (by rw [e]; decide +kernel) (by rw [hh]; decide +kernel) (by decide +kernel)
    (by rw [hh, show (parseRecord recordHeader).imageVa = 0x1000 from by decide +kernel, show (parseRecord recordHeader).imageLength = 466 from by decide +kernel]; exact hi)
  rw [hh, show (parseRecord recordHeader).imageVa = 0x1000 from by decide +kernel, show (parseRecord recordHeader).imageLength = 466 from by decide +kernel] at hr
  refine ⟨by rw [e], by decide +kernel, by rw [e]; decide +kernel, by decide +kernel, parseRecord recordHeader, hr, by decide +kernel, by decide +kernel, by rw [e]; decide +kernel, ?_⟩
  refine ⟨_, by rw [e]; rfl, by rw [e]; decide +kernel, hm, by rw [e]; decide +kernel, by rw [e]; decide +kernel⟩

/-- The MAC of the continuation's record. -/
noncomputable def continuingMac : Nat := (continuing none).recordMac ((continuing none).cap 2).digest 0x10000 4096

/-- The continuation, its record whole. -/
noncomputable def continued : State := (continuing (some (machine.snapshot 1 continuingMac))).setBytes (0x10000 + 4096) 64 continuingMac

theorem continued_snapshot (mac : Nat) :
    (continuing (some (machine.snapshot 1 mac))).snapshotFor ((continuing none).cap 2).id mac = some (machine.snapshot 1 mac) := by
  have h : (continuing (some (machine.snapshot 1 mac))).capsules =
    [(1, (continuing none).cap 1), (2, { (continuing none).cap 2 with snap := some (machine.snapshot 1 mac) })] := rfl
  have t : (machine.snapshot 1 mac).tag = mac := rfl
  have a : ((continuing none).cap 1).snap = none := rfl
  simp only [State.snapshotFor, h, List.findSome?_cons, a]
  simp [t]

theorem meets_PlacementAndStart_sound : let c := continued.cap 2
    c.stage = .placing ∧ c.continuation = true ∧ continued.poisoned 0x10000 c.recordLength = false ∧
    (∃ y, continued.snapshotFor c.id (continued.bytes (0x10000 + (c.recordLength - 4096)) 64) = some y) ∧
    continued.recordVerifies c.digest 0x10000 (c.recordLength - 4096) = true := by
  have hb : continued.bytes (0x10000 + 4096) 64 = continuingMac :=
    (State.bytes_setBytes _ _ _ _).trans (mod_pow_byte (Config.resumeMac (continuing none).mgmt.powerCount ((continuing none).cap 2).digest
      (sclear 4096 64 (sslice 0x10000 (4096 + 4096) (continuing none).mem)) (4096 + 4096)) 64)
  have hv : continued.recordVerifies ((continuing none).cap 2).digest 0x10000 4096 = true :=
    State.recordVerifies_setBytes (continuing (some (machine.snapshot 1 continuingMac))) _ _ _
  have hc : continued.capsules = (continuing (some (machine.snapshot 1 continuingMac))).capsules := State.capsules_setBytes _ _ _ _
  have hs : continued.snapshotFor ((continuing none).cap 2).id continuingMac = some (machine.snapshot 1 continuingMac) := by
    unfold State.snapshotFor
    rw [hc]
    exact continued_snapshot _
  have h2 : continued.cap 2 = { (continuing none).cap 2 with snap := some (machine.snapshot 1 continuingMac) } := by
    unfold State.cap
    rw [hc]
    rfl
  rw [h2]
  exact ⟨rfl, rfl, rfl, ⟨_, (congrArg _ hb).trans hs⟩, hv⟩

/-! ### Single steps, with results worked out by hand from the manual -/

/-- What an instruction leaves in a register. -/
def gOf (n : Nat) (i : Instr) (s : State) : Word := look 0 (fun t => t.rg n) (exec i s)

/-- Two operands in g6 and g7, of which an instruction writes g5. -/
def two (a b : Word) : State := withG [(6, a), (7, b)]

/-- The program counter that an instruction leaves. -/
def pcOf (i : Instr) (s : State) : Word := look 1 (fun t => t.me.pc) (exec i s)

/-- The trap registers that an instruction leaves. -/
def trapOf (i : Instr) (s : State) : Word × Word × Word × Mode :=
  look (0, 0, 0, .capsule) (fun t => (t.me.trapCause, t.me.trapPc, t.me.trapVal, t.me.mode)) (exec i s)

/-- Fetching and running a placed word: addi g8, g0, 5. -/
theorem test_step_runs_a_word : look (0, 0) (fun t => (t.rg 8, t.me.pc)) (step (State.reset.withFetchWord 32 (encode (.addi 8 0 5)))) = (5, 4) := by decide +kernel

-- R49
theorem test_add_wraps : gOf 5 (.add 5 6 7) (two 0xFFFFFFFFFFFFFFFF 2) = 1 := by decide +kernel
theorem test_sub_order : gOf 5 (.sub 5 6 7) (two 3 5) = 0xFFFFFFFFFFFFFFFE := by decide +kernel
theorem test_andn : gOf 5 (.andn 5 6 7) (two 0b1100 0b1010) = 0b0100 := by decide +kernel
theorem test_orn : gOf 5 (.orn 5 6 7) (two 0 5) = 0xFFFFFFFFFFFFFFFA := by decide +kernel
theorem test_sll_takes_six_bits : gOf 5 (.sll 5 6 7) (two 1 65) = 2 := by decide +kernel
theorem test_sra_floors : gOf 5 (.sra 5 6 7) (two 0xFFFFFFFFFFFFFFFD 1) = 0xFFFFFFFFFFFFFFFE := by decide +kernel
theorem test_rol : gOf 5 (.rol 5 6 7) (two 0x8000000000000001 4) = 0x18 := by decide +kernel
theorem test_ror : gOf 5 (.ror 5 6 7) (two 0x18 4) = 0x8000000000000001 := by decide +kernel
theorem test_slt_is_signed : gOf 5 (.slt 5 6 7) (two 0xFFFFFFFFFFFFFFFF 0) = 1 := by decide +kernel
theorem test_sltu_is_unsigned : gOf 5 (.sltu 5 6 7) (two 0xFFFFFFFFFFFFFFFF 0) = 0 := by decide +kernel
theorem test_max_is_signed : gOf 5 (.max 5 6 7) (two 0xFFFFFFFFFFFFFFFF 1) = 1 := by decide +kernel
theorem test_mulh : gOf 5 (.mulh 5 6 7) (two 0xFFFFFFFFFFFFFFFF 1) = 0xFFFFFFFFFFFFFFFF := by decide +kernel
theorem test_mulhu : gOf 5 (.mulhu 5 6 7) (two 0xFFFFFFFFFFFFFFFF 0xFFFFFFFFFFFFFFFF) = 0xFFFFFFFFFFFFFFFE := by decide +kernel
theorem test_mulhsu : gOf 5 (.mulhsu 5 6 7) (two 0xFFFFFFFFFFFFFFFF 0xFFFFFFFFFFFFFFFF) = 0xFFFFFFFFFFFFFFFF := by decide +kernel
theorem test_div_by_zero : gOf 5 (.div 5 6 7) (two 9 0) = 0xFFFFFFFFFFFFFFFF := by decide +kernel
theorem test_div_corner : gOf 5 (.div 5 6 7) (two 0x8000000000000000 0xFFFFFFFFFFFFFFFF) = 0x8000000000000000 := by decide +kernel
theorem test_clz_of_zero : gOf 5 (.clz 5 6) (two 0 0) = 64 := by decide +kernel
theorem test_bswap : gOf 5 (.bswap 5 6) (two 0x0102030405060708 0) = 0x0807060504030201 := by decide +kernel
theorem test_brev : gOf 5 (.brev 5 6) (two 3 0) = 0xC000000000000000 := by decide +kernel
theorem test_sext_h : gOf 5 (.sextH 5 6) (two 0x18000 0) = 0xFFFFFFFFFFFF8000 := by decide +kernel
theorem test_g0_takes_nothing : gOf 0 (.add 0 6 7) (two 1 2) = 0 := by decide +kernel
theorem test_source_is_destination : gOf 6 (.sub 6 7 6) (two 3 5) = 2 := by decide +kernel

-- R50 to R53
theorem test_sltiu_extends : gOf 5 (.sltiu 5 6 (BitVec.ofInt 13 (-1))) (two 0xFFFFFFFFFFFFFFFE 0) = 1 := by decide +kernel
theorem test_rori : gOf 5 (.rori 5 6 63) (two 0x8000000000000000 0) = 1 := by decide +kernel
theorem test_bfx : gOf 9 (.bfx 9 10 4 7 false) (withG [(10, 0xABC)]) = 0xAB := by decide +kernel
theorem test_bfx_signed : gOf 9 (.bfx 9 10 4 7 true) (withG [(10, 0xABC)]) = 0xFFFFFFFFFFFFFFAB := by decide +kernel
theorem test_bfi_keeps_the_rest : gOf 9 (.bfi 9 10 4 3) (withG [(9, 0xFFF), (10, 0x30)]) = 0xF0F := by decide +kernel

-- R55: madr with the coordinates and the address of the manual's own example
theorem test_mabs_of_absolute : gOf 5 (.mabs 5 6) (two (spad 16) 0) = spad 16 := by decide +kernel
theorem test_madr : gOf 5 (.madr 5 6 7) (two 0xCA 0x2000) = 0x8000328000002000 := by decide +kernel
theorem test_mcrd : gOf 5 (.mcrd 5 6) (two 0x1234 0) = 0xFFFFFFFFFFFFFFFF := by decide +kernel

-- R56 to R59
theorem test_blt_is_signed : pcOf (.blt 6 7 (BitVec.ofInt 13 3)) (two 0xFFFFFFFFFFFFFFFF 0) = 12 := by decide +kernel
theorem test_bltu_falls_through : pcOf (.bltu 6 7 (BitVec.ofInt 13 3)) (two 0xFFFFFFFFFFFFFFFF 0) = 4 := by decide +kernel
theorem test_jalr_reads_before_it_writes : (gOf 6 (.jalr 6 6 4) (two 0x100 0), pcOf (.jalr 6 6 4) (two 0x100 0)) = (4, 0x104) := by decide +kernel
theorem test_jalr_misaligned : trapOf (.jalr 5 6 2) (two 0x100 0) = (3, 0, 0x102, .firmware) := by decide +kernel
theorem test_loopi : look (0, 0, 0, 0) (fun t => (sget 0 t.me.lstart 0, sget 0 t.me.lend 0, sget 0 t.me.lcount 0, t.me.ldepth)) (exec (.loopi 4 4) machine) =
    (4, 0x10, 4, 1) := by decide +kernel

-- R62 to R65: little-endian loads and stores
theorem test_ld_b_extends : gOf 5 (.ldB 5 6 1 0) ((withG [(6, spad 8)]).setMem64 (spadKey 1 8) 0x8000) = 0xFFFFFFFFFFFFFF80 := by decide +kernel
theorem test_ld_hu : gOf 5 (.ldHu 5 6 1 0) ((withG [(6, spad 8)]).setMem64 (spadKey 1 8) 0xFEDC0000) = 0xFEDC := by decide +kernel
theorem test_st_w : look 0 (fun t => (t.mem64 (spadKey 1 8)).toNat) (exec (.stW 6 7 1 0) ((withG [(6, spad 8), (7, 0x1122334455667788)]).setMem64 (spadKey 1 8) 1)) =
    0x5566778800000001 := by decide +kernel
theorem test_st_misaligned : trapOf (.stH 6 7 0 0) (two (spad 9) 0) = (3, 0, spad 9, .firmware) := by decide +kernel

-- R67 to R70, R91 to R97: 1.0 + 2.0, 1.0 / 0.0 (DZ), 0.0 / 0.0 (NV), round to nearest even, conversions
theorem test_fadd_d : gOf 5 (.faddD 5 6 7) (two 0x3FF0000000000000 0x4000000000000000) = 0x4008000000000000 := by decide +kernel
theorem test_fdiv_by_zero : gOf 5 (.fdivD 5 6 7) (two 0x3FF0000000000000 0) = 0x7FF0000000000000 := by decide +kernel
theorem test_fdiv_invalid : gOf 5 (.fdivS 5 6 7) (two 0 0) = 0x7FC00000 := by decide +kernel
theorem test_fmul_s : gOf 5 (.fmulS 5 6 7) (two 0x40400000 0xC0000000) = 0xC0C00000 := by decide +kernel
theorem test_fsqrt_d : gOf 5 (.fsqrtD 5 6) (two 0x4010000000000000 0) = 0x4000000000000000 := by decide +kernel
theorem test_fmin_of_zeros : gOf 5 (.fminD 5 6 7) (two 0 0x8000000000000000) = 0x8000000000000000 := by decide +kernel
theorem test_fle_of_nan : gOf 5 (.fleD 5 6 7) (two 0x7FF8000000000000 0) = 0 := by decide +kernel
theorem test_fma_rounds_once : gOf 5 (.fmaD 5 6 6 7) (two 0x3FF0000000000001 0xBFF0000000000002) = 0x3970000000000000 := by decide +kernel
theorem test_fclass : gOf 5 (.fclassS 5 6) (two 0x80000001 0) = 4 := by decide +kernel
theorem test_fcvt_saturates : gOf 5 (.fcvt 5 6 true .i32 .f64) (two 0x41F0000000000000 0) = 0x7FFFFFFF := by decide +kernel

/-- Two vectors of 16-bit elements in v2 and v3, with VL at 8. -/
def vecs (a b : Nat) : State := withMe fun x => { x with vl := 8, v := [(2, BitVec.ofNat 512 a), (3, BitVec.ofNat 512 b)] }

/-- An element of a vector register that an instruction leaves. -/
def elemOf (n w j : Nat) (i : Instr) (s : State) : Nat := look 0 (fun t => elem (t.rv n) w j) (exec i s)

-- R106, whose examples these are
theorem test_vadds_high : elemOf 1 16 0 (.vadds 1 2 3 .h 0) (vecs 0x7FF0 0x20) = 0x7FFF := by decide +kernel
theorem test_vadds_low : elemOf 1 16 1 (.vadds 1 2 3 .h 0) (vecs 0x80010000 0xFFFE0000) = 0x8000 := by decide +kernel
theorem test_vabs_saturates : elemOf 1 8 0 (.vabs 1 2 .b 0) (vecs 0x80 0) = 0x7F := by decide +kernel
theorem test_vsra : elemOf 1 8 1 (.vsra 1 2 3 .b 0) (vecs 0x8000 0x0900) = 0xC0 := by decide +kernel
-- R107 to R110
theorem test_vcmp_all : look 0 (fun t => t.rk 1) (exec (.vcmp 1 2 3 0 .i32 false 0) (vecs 0x0000000100000002 0x0000000100000003)) = 0x0E := by decide +kernel
theorem test_vcmp_any : look 0 (fun t => t.rk 1) (exec (.vcmp 1 2 3 0 .i32 true 0) (vecs 0x0000000100000002 0x0000000100000003)) = 0x0F := by decide +kernel
theorem test_vsel : elemOf 1 64 0 (.vsel 1 2 3 1) ((vecs 5 7).setMe { (vecs 5 7).me with k := [(1, 0xFE)] }) = 7 := by decide +kernel
theorem test_vredadd : elemOf 1 64 0 (.vredAdd 1 2 .d 0) (vecs (3 + 4 * 2 ^ 64) 0) = 7 := by decide +kernel
theorem test_extr_k0 : gOf 5 (.extrK 5 0) machine = 0xFF := by decide +kernel
theorem test_knot : look 0 (fun t => t.rk 1) (exec (.knot 1 2) machine) = 0xFF := by decide +kernel

-- R174, R176, R177: trap with a value, a word that is no instruction
theorem test_trap : trapOf (.trap 6) (two 0x77 0) = (0x0B, 0, 0x77, .firmware) := by decide +kernel
theorem test_bad_word : look (0, 0) (fun t => (t.me.trapCause, t.me.trapVal)) (step (State.reset.withFetchWord 32 0)) = (1, 0) := by decide +kernel

/-- The dword that a handler at core 8 leaves at scratchpad offset 8, which held old. -/
def served8 (op fn : Nat) (old a b : Word) (i : Instr) : Word :=
  let m := served op fn 8 (spadKey 1 8) a.toNat b.toNat 3
  look 0 (fun t => t.mem64 (spadKey 1 8)) (exec i ((serving m).setMem64 (spadKey 1 8) old))

-- R139 to R146
theorem test_amo_add : served8 0x30 0 0xFFFFFFFFFFFFFFFF 2 0 (.amoHandler 8) = 1 := by decide +kernel
theorem test_amo_max_is_signed : served8 0x30 5 0xFFFFFFFFFFFFFFFF 2 0 (.amoHandler 8) = 2 := by decide +kernel
theorem test_cas_writes : served8 0x32 0 5 5 9 (.casHandler 8) = 9 := by decide +kernel
theorem test_cas_leaves : served8 0x32 0 6 5 9 (.casHandler 8) = 6 := by decide +kernel

/-- The first value of e that a Glaze word leaves. -/
def eOf (i : Instr) (s : State) : Word := look 0 (fun t => (((t.cluster 1).drain.map fun d => d.e).getD []).headD 0) (exec i s)

-- R242, R270: source 0x12 is one, 0x11 zero; fp32
theorem test_gz_add : eOf (.gzAdd 0 0x12 0x12) (draining 1 0 none) = 0x40000000 := by decide +kernel
theorem test_gz_exp2 : eOf (.gzExp2 0 0x12) (draining 1 0 none) = 0x40000000 := by decide +kernel
theorem test_gz_neg : eOf (.gzNeg 0 0x12) (draining 1 0 none) = 0xBF800000 := by decide +kernel
theorem test_gz_sel_gt : eOf (.gzSel 0 0 0x12 0x11 0x11) (draining 1 0 none) = 0 := by decide +kernel

-- R219: a host writes the window at offset 8, and may not write past its end
theorem test_rma_write : look 0 (fun t => t.byte 0x40009) (exec (.rmaWrite 1 2 8 [1, 2]) (atWork machine)) = 2 := by decide +kernel
theorem test_rma_write_outside : look [] (fun t => t.outbox) (exec (.rmaWrite 1 2 0xFFF [1, 2]) (atWork machine)) = [.rma 1 2 []] := by decide +kernel

-- R231: power is on in stage 1, and training takes stage 2 to stage 3
theorem test_die_links : look 0 (fun t => t.mgmt.stage) (exec (.dieLinkTraining [0, 1]) { State.reset with mgmt := { State.reset.mgmt with stage := 2 } }) = 3 := by
  decide +kernel

end Sys2Proof.Tests
end

section
/-! SUPPORT. What tables built from numbered values, little-endian fields of byte lists, and issue by a thread that is ready do. -/

namespace Sys2Proof.Machine

/-! ### Tables of numbered values -/

/-- A table to which n numbered values are written from key o on. -/
theorem sget_foldl_range {α : Type} [DecidableEq α] (d : α) (f : Nat → α) (o n : Nat) (m : Sparse α) (j : Nat) :
    sget d ((List.range n).foldl (fun acc i => sset d acc (i + o) (f i)) m) j =
      if o ≤ j ∧ j < o + n then f (j - o) else sget d m j := by
  induction n with
  | zero => rw [if_neg (by omega)]; rfl
  | succ n ih =>
    rw [List.range_succ, List.foldl_append, List.foldl_cons, List.foldl_nil, sget_sset, ih]
    by_cases hj : j = n + o
    · rw [if_pos hj, if_pos (by omega), show j - o = n by omega]
    · rw [if_neg hj]
      exact if_congr (by omega) rfl rfl

theorem zipIdx_eq_map_range {α : Type} (d : α) (l : List α) :
    l.zipIdx = (List.range l.length).map fun i => (l.getD i d, i) := by
  refine List.ext_getElem (by simp) fun i h _ => ?_
  have hi : i < l.length := by simpa using h
  simp [List.getElem?_eq_getElem hi]

/-- A table to which the values of a list are written from key o on. -/
theorem sget_foldl_zipIdx {α : Type} [DecidableEq α] (d : α) (l : List α) (o j : Nat) :
    sget d (l.zipIdx.foldl (fun acc e => sset d acc (e.2 + o) e.1) []) j = if o ≤ j then l.getD (j - o) d else d := by
  rw [zipIdx_eq_map_range d, List.foldl_map, sget_foldl_range]
  by_cases hj : o ≤ j ∧ j < o + l.length
  · rw [if_pos hj, if_pos hj.1]
  · rw [if_neg hj]
    split
    · exact (List.getD_eq_default _ _ (by omega)).symm
    · rfl

theorem sget_wordTable (l : List Word) (i : Nat) : sget 0 (wordTable l) i = l.getD i 0 :=
  sget_foldl_zipIdx (0 : Word) l 0 i

/-- Entries with keys at or above a bound that are dropped change no read below it. -/
theorem sget_filter_lt {α : Type} (d : α) (m : Sparse α) (b n : Nat) (h : n < b) :
    sget d (m.filter fun e => decide (e.1 < b)) n = sget d m n := by
  induction m with
  | nil => rfl
  | cons e m ih =>
    obtain ⟨k, v⟩ := e
    by_cases hk : k < b
    · simp only [List.filter_cons, hk, decide_true, if_true, sget, ih]
    · have : k ≠ n := by omega
      simp [hk, sget, this, ih]

/-! ### Fields of byte lists (R2) -/

theorem length_toBytes (n v : Nat) : (toBytes n v).length = n := by
  induction n generalizing v with
  | zero => rfl
  | succ n ih => rw [toBytes, List.length_cons, ih]

theorem ofBytes_toBytes (n v : Nat) : ofBytes (toBytes n v) = v % 256 ^ n := by
  induction n generalizing v with
  | zero => simp [toBytes, ofBytes, Nat.mod_one]
  | succ n ih => rw [toBytes, ofBytes, ih, BitVec.toNat_ofNat, Nat.pow_succ' (n := n), Nat.mod_mul]

/-- One byte of a little-endian number. -/
theorem ofBytes_div_mod (l : List Byte) (i : Nat) : ofBytes l / 256 ^ i % 256 = (l.getD i 0).toNat := by
  induction i generalizing l with
  | zero =>
    cases l with
    | nil => rfl
    | cons b l => have := b.isLt; simp only [ofBytes, List.getD_cons_zero]; omega
  | succ i ih =>
    cases l with
    | nil => simp [ofBytes]
    | cons b l =>
      have := b.isLt
      have hd : (b.toNat + 256 * ofBytes l) / 256 = ofBytes l := by omega
      rw [ofBytes, Nat.pow_succ', ← Nat.div_div_eq_div_mul, hd, ih, List.getD_cons_succ]

/-- One byte of a field is the field of that byte. -/
theorem fieldB_byte (b : List Byte) (o n i : Nat) (h : i < n) : fieldB b o n / 256 ^ i % 256 = fieldB b (o + i) 1 := by
  have one : fieldB b (o + i) 1 = (b.getD (o + i) 0).toNat := by
    have := ofBytes_div_mod ((b.drop (o + i)).take 1) 0
    have hl : ofBytes ((b.drop (o + i)).take 1) < 256 := by
      cases b.drop (o + i) with
      | nil => decide
      | cons c r => simpa [ofBytes] using c.isLt
    rw [Nat.pow_zero, Nat.div_one, Nat.mod_eq_of_lt hl] at this
    rw [fieldB, this]
    simp [List.getD_eq_getElem?_getD]
  rw [one, fieldB, ofBytes_div_mod]
  simp [List.getD_eq_getElem?_getD, h]

/-- The field that a little-endian number fills behind other bytes. -/
theorem fieldB_toBytes {p : List Byte} {o : Nat} (h : p.length = o) (r : List Byte) (n v : Nat) :
    fieldB (p ++ (toBytes n v ++ r)) o n = v % 256 ^ n := by
  rw [fieldB, List.drop_left' h, List.take_left' (length_toBytes n v), ofBytes_toBytes]

/-- The dword that fills its field behind other bytes. -/
theorem dwordB_toBytes {p : List Byte} {o : Nat} (h : p.length = o) (r : List Byte) (v : Word) :
    dwordB (p ++ (toBytes 8 v.toNat ++ r)) o = v := by
  rw [dwordB, fieldB_toBytes h, Nat.mod_eq_of_lt (show v.toNat < 256 ^ 8 from v.isLt), BitVec.ofNat_toNat, BitVec.setWidth_eq]

/-! ### Issue by a ready thread -/

theorem State.held_of_ready {s : State} {gs vs ks : List Nat} (h : s.ready gs vs ks = true) (w : Nat) (b i : Bool) :
    s.held ⟨w, gs, vs, ks, b, i⟩ = none := by
  unfold State.ready at h
  rw [Bool.and_eq_true] at h
  exact Option.isNone_iff_eq_none.mp h.1

/-- A ready thread's instruction that breaks its own rule traps ILLEGAL (R38). -/
theorem State.issue_illegal {s : State} {u : Use} (h : s.ready u.gs u.vs u.ks = true) (i : u.illegal = true) (body : State → Result) :
    s.issue u body = s.takeTrap causeIllegal (BitVec.ofNat 64 u.word) := by
  unfold State.issue
  rw [State.held_of_ready h u.word u.barred u.illegal]
  simp [i]

theorem State.hasG_of_ready {s : State} {a : G} (h : s.ready [a] [] [] = true) : s.hasG a = true := by
  simp only [State.ready, State.inRange, Bool.and_eq_true, List.all_cons] at h
  exact h.2.1.1.1

/-! ### Reads of the tables that an update does not touch -/

@[simp] theorem State.thr_fresh (s : State) (n : Nat) : s.fresh.thr n = s.thr n := rfl
@[simp] theorem State.core_fresh (s : State) (c : Nat) : s.fresh.core c = s.core c := rfl
@[simp] theorem State.fresh_nextId (s : State) : s.fresh.nextId = s.nextId + 1 := rfl
@[simp] theorem State.core_setThr (s : State) (t : Nat) (x : Thread) (c : Nat) : (s.setThr t x).core c = s.core c := rfl
@[simp] theorem State.thr_setCore (s : State) (c : Nat) (x : Core) (n : Nat) : (s.setCore c x).thr n = s.thr n := rfl
@[simp] theorem State.cap_setCore (s : State) (c : Nat) (x : Core) (n : Nat) : (s.setCore c x).cap n = s.cap n := rfl
@[simp] theorem State.cap_setThr (s : State) (t : Nat) (x : Thread) (n : Nat) : (s.setThr t x).cap n = s.cap n := rfl
@[simp] theorem State.core_setCap (s : State) (n : Nat) (x : Capsule) (c : Nat) : (s.setCap n x).core c = s.core c := rfl
@[simp] theorem State.thr_setCap (s : State) (n : Nat) (x : Capsule) (t : Nat) : (s.setCap n x).thr t = s.thr t := rfl

end Sys2Proof.Machine
end

section
/-! SUPPORT. The start of firings and of delegated routines (R123, R126, R145). -/

namespace Sys2Proof.Machine

/-! ### A thread at its first instruction -/

/-- What a firing or a routine starts with (R10, R123): its allotment, its code offset, its arguments from g1 on, and zero in every other register. -/
def Thread.Begun (x : Thread) (sregs vregs code firing : Nat) (g : List Word) : Prop :=
  x.live = true ∧ x.mode = .capsule ∧
    x.pc = BitVec.ofNat 64 code ∧ x.sregs = sregs ∧ x.vregs = vregs ∧ x.firing = firing ∧ x.fcr = 0 ∧ x.vl = 0 ∧ x.ldepth = 0 ∧
    (∀ i, i < g.length → i + 1 < sregs → x.rg (i + 1) = g.getD i 0) ∧ (∀ i, g.length ≤ i → x.rg (i + 1) = 0) ∧
    (∀ i, x.rv i = 0) ∧ (∀ i, i ≠ 0 → x.rk i = 0)

/-- A thread that starts holds in g1 on the arguments that its allotment has room for. -/
theorem startThread_rg (old : Thread) (sregs vregs : Nat) (pc : Word) (g hs : List Word) (firing codelet i : Nat) :
    (startThread old sregs vregs pc g hs firing codelet).rg (i + 1) = (g.take (sregs - 1)).getD i 0 := by
  have h := sget_foldl_zipIdx (0 : Word) (g.take (sregs - 1)) 1 (i + 1)
  rw [if_pos (by omega), Nat.add_sub_cancel] at h
  exact h

theorem startThread_begun (old : Thread) (sregs vregs code : Nat) (g hs : List Word) (firing codelet : Nat) :
    (startThread old sregs vregs (BitVec.ofNat 64 code) g hs firing codelet).Begun sregs vregs code firing g := by
  refine ⟨rfl, rfl, rfl, rfl, rfl, rfl, rfl, rfl, rfl, fun i _ hs => ?_, fun i hi => ?_, fun _ => rfl, fun i hi => if_neg hi⟩
  · rw [startThread_rg, List.getD_eq_getElem?_getD, List.getElem?_take_of_lt (by omega), List.getD_eq_getElem?_getD]
  · rw [startThread_rg]
    exact List.getD_eq_default _ _ (by rw [List.length_take]; omega)

/-- The same for a routine, which also holds the message that it answers (R145). -/
theorem routineThread_begun (old : Thread) (c : Capsule) (m : Msg) (firing : Nat) (d : Codelet)
    (h : c.image.codelets[fieldB m.body 2 2]? = some d) : (routineThread old c m firing).Begun 32 8 d.code firing (packetPayload m.body) := by
  have e := startThread_begun old 32 8 d.code (packetPayload m.body) (packetHandles m.body) firing (fieldB m.body 2 2)
  simp only [routineThread, h]
  exact e

/-! ### A context (R126) -/

theorem contextThread_rg (old : Thread) (b : List Byte) (i : Nat) (h : i + 1 < fieldB b 5 1) :
    (contextThread old b).rg (i + 1) = dwordB b (8 + 8 * fieldB b 4 1 + 8 * (18 + i)) := by
  have e := sget_foldl_range (0 : Word) (fun i => dwordB b (8 + 8 * fieldB b 4 1 + 8 * (18 + i))) 1 (fieldB b 5 1 - 1) [] (i + 1)
  rw [if_pos (by omega), Nat.add_sub_cancel] at e
  exact e

theorem contextThread_rk (old : Thread) (b : List Byte) (i : Nat) (h : i < 7) :
    (contextThread old b).rk (i + 1) = BitVec.ofNat 8 (fieldB b (8 + 8 * fieldB b 4 1 + 8 * 16 + i) 1) := by
  have e := sget_foldl_range (0 : BitVec 8)
    (fun i => BitVec.ofNat 8 (fieldB b (8 + 8 * fieldB b 4 1 + 8 * 16) 7 / 2 ^ (8 * i))) 1 7 [] (i + 1)
  rw [if_pos (by omega), Nat.add_sub_cancel] at e
  refine e.trans (BitVec.eq_of_toNat_eq ?_)
  rw [BitVec.toNat_ofNat, BitVec.toNat_ofNat, ← fieldB_byte b _ 7 i h, Nat.pow_mul, Nat.mod_mod]

/-- The loop registers of a context, level by level. -/
theorem contextThread_loops (old : Thread) (b : List Byte) (l : Nat) (h : l < 4) :
    let w := fun (i : Nat) => dwordB b (8 + 8 * fieldB b 4 1 + 8 * i)
    let x := contextThread old b
    sget 0 x.lstart l = w (3 + l) ∧ sget 0 x.lend l = w (7 + l) ∧ sget 0 x.lcount l = w (11 + l) := by
  simp only [contextThread, sget_wordTable]
  interval_cases l <;> exact ⟨rfl, rfl, rfl⟩

/-! ### FIRING_START (R123) -/

theorem coreOf_task (core k : Nat) (h : k < 2) : coreOf (core * 4 + k) = core := by unfold coreOf; omega

theorem roleOf_task (core k : Nat) (h : k < 2) : roleOf (core * 4 + k) = k := by unfold roleOf; omega

/-- Task thread k of a core may start the head entry: the core runs and is not halted, and the thread is the first that is free. -/
structure State.MayStart (s : State) (core k : Nat) : Prop where
  task : k < 2
  halted : (s.core core).halted = false
  runs : (s.cap (s.capOf core)).runs = true
  free : (s.thr (core * 4 + k)).live = false
  first : k = 1 → (s.thr (core * 4)).live = true

/-- The state in which a thread has taken the head entry and starts it. -/
def State.started (s : State) (core t : Nat) (rest : List Entry) (x : Thread) : State :=
  ((s.setCore core { s.core core with ring := rest, ringHead := ((s.core core).ringHead + 1) % 256 }).setThr t x).fresh

/-- A free task thread takes the head entry once the pool holds its allotment. -/
theorem firingStart_next {s : State} {core k : Nat} (h : s.MayStart core k) {e : Entry} {rest : List Entry}
    (hr : (s.core core).ring = e :: rest) {a : Nat × Nat} (ha : entryAllot (s.cap (s.capOf core)) e = some a) (hp : s.poolHolds core a = true) :
    exec (.firingStart (core * 4 + k)) s =
      .next (s.started core (core * 4 + k) rest (s.entryThread (s.capOf core) core (core * 4 + k) e a)) := by
  have hc := coreOf_task core k h.task
  have hk := roleOf_task core k h.task
  have hno : ¬ (2 ≤ k ∨ (s.thr (core * 4 + k)).live = true ∨ (s.core core).halted = true ∨ (!(s.cap (s.capOf core)).runs) = true ∨
      (k = 1 ∧ (!(s.thr (core * 4)).live) = true)) := by
    simp only [h.free, h.halted, h.runs]
    rintro (h2 | h2 | h2 | h2 | ⟨h1, h2⟩)
    · exact absurd h.task (by omega)
    · cases h2
    · cases h2
    · cases h2
    · rw [h.first h1] at h2; cases h2
  change execFiringStart _ s = _
  simp only [execFiringStart, hc, hk, if_neg hno, hr, ha, hp, if_true]
  rfl

/-- The first task thread waits while the pool does not hold the allotment of the head entry. -/
theorem firingStart_waits {s : State} {core : Nat} {e : Entry} {rest : List Entry} {a : Nat × Nat} (hr : (s.core core).ring = e :: rest)
    (ha : entryAllot (s.cap (s.capOf core)) e = some a) (hp : s.poolHolds core a = false) : exec (.firingStart (core * 4)) s = .next s := by
  have hc : coreOf (core * 4) = core := coreOf_task core 0 (by omega)
  change execFiringStart _ s = _
  simp only [execFiringStart, hc, hr, ha, hp]
  split <;> rfl

/-- What a start leaves alone. -/
theorem State.started_frame (s : State) (core t : Nat) (rest : List Entry) (x : Thread) :
    let u := s.started core t rest x
    (u.core core).ring = rest ∧ (u.core core).waiting = (s.core core).waiting ∧ u.mem = s.mem ∧ u.nextId = s.nextId + 1 ∧
      u.thr t = x ∧ ∀ n, n ≠ t → u.thr n = s.thr n := by
  unfold State.started
  exact ⟨by simp, by simp, rfl, rfl, State.thr_setThr_self _ _ _, fun n hn => (State.thr_setThr _ _ _ _).trans (if_neg hn)⟩

theorem entryAllot_codelet {c : Capsule} {e : Entry} {d : Codelet} (hs : e.source ≠ 2) (hd : c.image.codelets[e.codelet]? = some d) :
    entryAllot c e = some (d.sregs, d.vregs) := by
  rw [entryAllot, if_neg hs, hd]
  rfl

theorem entryAllot_context {c : Capsule} {e : Entry} {m : Msg} (hs : e.source = 2) (hm : e.message = some m) :
    entryAllot c e = some (fieldB m.body 5 1, fieldB m.body 6 1) := by
  rw [entryAllot, if_pos hs, hm]
  rfl

/-- An entry's or a readiness word's firing has the capsule's arguments, a task packet's its payload (R123). -/
theorem entryThread_codelet {s : State} {cap : Nat} (core t : Nat) {e : Entry} {d : Codelet} (hs : e.source ≠ 2)
    (hd : (s.cap cap).image.codelets[e.codelet]? = some d) :
    let x := s.entryThread cap core t e (d.sregs, d.vregs)
    (e.message = none → x.Begun d.sregs d.vregs d.code s.nextId ((s.cap cap).image.args.take 8) ∧ x.successors = []) ∧
      ∀ m, e.message = some m → x.Begun d.sregs d.vregs d.code s.nextId (packetPayload m.body) ∧ x.successors = packetHandles m.body := by
  refine ⟨fun hm => ?_, fun m hm => ?_⟩
  · simp only [State.entryThread, hm, hd]
    exact ⟨startThread_begun _ _ _ _ _ _ _ _, rfl⟩
  · simp only [State.entryThread, hm, hd, if_neg hs]
    exact ⟨startThread_begun _ _ _ _ _ _ _ _, rfl⟩

/-- A context's thread is what its bytes say, with the firing that it carries and what that is owed. -/
theorem entryThread_eq {s : State} {cap : Nat} (core t : Nat) {e : Entry} {m : Msg} (a : Nat × Nat) (hs : e.source = 2)
    (hm : e.message = some m) : ∃ barRecs pending requests, s.entryThread cap core t e a =
      { contextThread (s.thr t) m.body with firing := if m.firing = 0 then s.nextId else m.firing, barRecs, pending, requests } := by
  simp only [State.entryThread, hm, if_pos hs]
  exact ⟨_, _, _, rfl⟩

/-- A context's firing goes on at its PC with its registers (R126). -/
theorem entryThread_context {s : State} {cap : Nat} (core t : Nat) {e : Entry} {m : Msg} (a : Nat × Nat) (hs : e.source = 2)
    (hm : e.message = some m) :
    let n := fieldB m.body 4 1
    let w := fun (i : Nat) => dwordB m.body (8 + 8 * n + 8 * i)
    let x := s.entryThread cap core t e a
    x.live = true ∧ x.mode = .capsule ∧ x.sregs = fieldB m.body 5 1 ∧ x.vregs = fieldB m.body 6 1 ∧ x.pc = w 0 ∧ x.fcr = w 1 ∧ x.vl = w 2 ∧
      x.ldepth = w 15 ∧ x.firing = (if m.firing = 0 then s.nextId else m.firing) ∧
      x.successors = (List.range n).map (fun i => dwordB m.body (8 + 8 * i)) ∧
      (∀ l, l < 4 → sget 0 x.lstart l = w (3 + l) ∧ sget 0 x.lend l = w (7 + l) ∧ sget 0 x.lcount l = w (11 + l)) ∧
      (∀ i, i < 7 → x.rk (i + 1) = BitVec.ofNat 8 (fieldB m.body (8 + 8 * n + 8 * 16 + i) 1)) ∧
      ∀ i, i + 1 < x.sregs → x.rg (i + 1) = w (18 + i) := by
  obtain ⟨barRecs, pending, requests, hx⟩ := entryThread_eq (s := s) (cap := cap) core t a hs hm
  rw [hx]
  exact ⟨rfl, rfl, rfl, rfl, rfl, rfl, rfl, rfl, rfl, rfl, contextThread_loops (s.thr t) _,
    contextThread_rk (s.thr t) _, contextThread_rg (s.thr t) _⟩

/-! ### DELEGATE (R145) -/

/-- Where no message is on its way, none arrives. -/
theorem State.arriveAt_quiet {s : State} (core : Nat) (h : s.net = []) : s.arriveAt core = s := by
  rw [State.arriveAt, h, deliverInbox, ← h]

/-- A message that stands first is the first of its kind. -/
theorem find_head {l : List Msg} {m : Msg} (h : l.head? = some m) (p : Msg → Bool) (hp : p m = true) :
    l.find? p = some m ∧ l.erase m = l.tail := by
  cases l with
  | nil => cases h
  | cons a l =>
    obtain rfl : a = m := Option.some.inj h
    exact ⟨List.find?_cons_of_pos hp, List.erase_cons_head a l⟩

/-- S starts the routine of the DELEGATE message that stands first in its inbox. -/
theorem delegate_next {s : State} {core : Nat} {m : Msg} (hn : s.net = []) (hm : (s.core core).inbox.head? = some m) (hk : m.kind = 2)
    (hh : (s.core core).halted = false) (hr : (s.cap (s.capOf core)).runs = true) (hf : (s.thr (sThread core)).live = false)
    (ha : s.atomicBefore m.firing m.serial = false) :
    exec (.delegate core) s = .next ((s.setCore core { s.core core with inbox := (s.core core).inbox.tail }).setThr (sThread core)
      (routineThread (s.thr (sThread core)) (s.cap m.capsule) m s.nextId)).fresh := by
  obtain ⟨hfind, htail⟩ := find_head hm (fun m => decide (m.kind = 2)) (decide_eq_true hk)
  change execDelegate core s = _
  simp [execDelegate, s.arriveAt_quiet core hn, hf, hh, hr, hfind, ha, htail]

end Sys2Proof.Machine
end

section
/-! SUPPORT. Operation messages on readiness words (R135, R153), and what posting them leaves alone (R147). -/

namespace Sys2Proof.Machine

/-! ### Posted operations -/

/-- A message that leaves its thread stands in the network, whether or not it is for a peer. -/
theorem State.sendOut_eq (s : State) (m : Msg) : ∃ held, { s.sendOut m with outbox := s.outbox } = s.send { m with held } := by
  unfold State.sendOut
  split
  · exact ⟨m.held, rfl⟩
  · split
    · exact ⟨true, rfl⟩
    · exact ⟨m.held, State.toPod_rest (s.send m) _ _ _⟩

/-- From s to t the issuing thread has posted the operations gs without completing an instruction: they stand in the network, each has a number and a
unit, and nothing else of threads, cores, capsules and memory has changed (R129, R147). -/
structure Sent (s t : State) (gs : List Msg) : Prop where
  who : t.who = s.who
  me : { t.me with issued := s.me.issued } = s.me
  others : ∀ n, n ≠ s.who → t.thr n = s.thr n
  cores : ∀ c, { t.core c with issued := (s.core c).issued } = s.core c
  caps : ∀ n, { t.cap n with outstanding := (s.cap n).outstanding } = s.cap n
  net : t.net = s.net ++ gs
  mem : t.mem = s.mem
  last : t.myCore.lastIssued 7 = s.myCore.lastIssued 7 + gs.length
  count : (t.cap s.myCap).outstanding = (s.cap s.myCap).outstanding + gs.length

theorem Sent.capOf {s t : State} {gs : List Msg} (h : Sent s t gs) (c : Nat) : t.capOf c = s.capOf c :=
  (congrArg (fun x : Core => x.capsule.getD 0) (h.cores c) :)

theorem Sent.coord {s t : State} {gs : List Msg} (h : Sent s t gs) (c : Nat) : (t.core c).coord = (s.core c).coord :=
  (congrArg Core.coord (h.cores c) :)

theorem Sent.myCap {s t : State} {gs : List Msg} (h : Sent s t gs) : t.myCap = s.myCap := by
  rw [State.myCap, h.who, h.capOf, State.myCap]

theorem Sent.refl (s : State) : Sent s s [] :=
  ⟨rfl, rfl, fun _ _ => rfl, fun _ => rfl, fun _ => rfl, (List.append_nil _).symm, rfl, rfl, rfl⟩

theorem Sent.trans {s t u : State} {gs hs : List Msg} (a : Sent s t gs) (b : Sent t u hs) : Sent s u (gs ++ hs) where
  who := b.who.trans a.who
  me := (congrArg (fun x : Thread => { x with issued := s.me.issued }) b.me).trans a.me
  others := fun n hn => (b.others n (a.who ▸ hn)).trans (a.others n hn)
  cores := fun c => (congrArg (fun x : Core => { x with issued := (s.core c).issued }) (b.cores c)).trans (a.cores c)
  caps := fun n => (congrArg (fun x : Capsule => { x with outstanding := (s.cap n).outstanding }) (b.caps n)).trans (a.caps n)
  net := by rw [b.net, a.net, List.append_assoc]
  mem := b.mem.trans a.mem
  last := by rw [b.last, a.last, List.length_append, Nat.add_assoc]
  count := by rw [← a.myCap, b.count, a.myCap, a.count, List.length_append, Nat.add_assoc]

theorem State.thr_takeNumbers (s : State) (ch n t : Nat) : (s.takeNumbers ch n).thr t =
    if t = s.who then { s.me with issued := sset 0 s.me.issued ch (s.myCore.lastIssued ch + n) } else s.thr t :=
  State.thr_setThr _ _ _ _

theorem State.core_takeNumbers (s : State) (ch n c : Nat) : (s.takeNumbers ch n).core c =
    if c = coreOf s.who then { s.myCore with issued := sset 0 s.myCore.issued ch (s.myCore.lastIssued ch + n) } else s.core c :=
  State.core_setCore _ _ _ _

theorem State.cap_addCount (s : State) (n k c : Nat) : (s.addCount n k).cap c =
    if c = n then { s.cap n with outstanding := (s.cap n).outstanding + k } else s.cap c :=
  State.cap_setCap _ _ _ _

/-- The issuing thread has taken a number and a unit for a message that then leaves. -/
theorem Sent.ofSend {s u : State} {m : Msg} {out : List Response}
    (e : { u with outbox := out } = ((s.takeNumbers 7 1).addCount s.myCap 1).send m) : Sent s u [{ m with serial := s.nextId }] := by
  have hwho : u.who = s.who := (congrArg State.who e :)
  have hthr : ∀ n, u.thr n = _ := fun n => (congrArg (fun x : State => x.thr n) e :).trans (s.thr_takeNumbers 7 1 n)
  have hcore : ∀ c, u.core c = _ := fun c => (congrArg (fun x : State => x.core c) e :).trans (s.core_takeNumbers 7 1 c)
  have hcap : ∀ n, u.cap n = _ := fun n => (congrArg (fun x : State => x.cap n) e :).trans ((s.takeNumbers 7 1).cap_addCount s.myCap 1 n)
  refine ⟨hwho, ?_, fun n hn => (hthr n).trans (if_neg hn), fun c => ?_, fun n => ?_, (congrArg State.net e :), (congrArg State.mem e :), ?_, ?_⟩
  · rw [State.me, hwho, hthr, if_pos rfl]
  · rw [hcore]
    split
    · next h => subst h; rfl
    · rfl
  · rw [hcap]
    split
    · next h => subst h; rfl
    · rfl
  · rw [State.myCore, hwho, hcore, if_pos rfl]
    exact sget_sset_self (0 : Nat) s.myCore.issued 7 (s.myCore.lastIssued 7 + 1)
  · rw [hcap, if_pos rfl]
    rfl

/-- One posted operation. -/
theorem State.postNow_sent (s : State) (f : Nat → Msg) (hc : (f (s.myCore.lastIssued 7 + 1)).capsule = s.myCap) :
    ∃ serial held, Sent s (s.postNow f)
      [{ f (s.myCore.lastIssued 7 + 1) with number := s.myCore.lastIssued 7 + 1, serial, held }] := by
  obtain ⟨held, e⟩ := ((s.takeNumbers 7 1).addCount s.myCap 1).sendOut_eq
    { f (s.myCore.lastIssued 7 + 1) with number := s.myCore.lastIssued 7 + 1, capsule := s.myCap }
  simp only [State.postNow, State.sendCounted, hc]
  exact ⟨s.nextId, held, Sent.ofSend e⟩

/-! ### What resolution reads (R31) -/

theorem Sent.resolve {s t : State} {gs : List Msg} (h : Sent s t gs) (core : Nat) (a : Word) (n : Nat) :
    t.resolve core a n = s.resolve core a n := by
  have hi : ∀ n, (t.cap n).image = (s.cap n).image := fun n => (congrArg Capsule.image (h.caps n) :)
  have hc : ∀ n, (t.cap n).colsIn = (s.cap n).colsIn := fun n => (congrArg Capsule.colsIn (h.caps n) :)
  have hu : ∀ n, unitSize (t.cap n) = unitSize (s.cap n) := fun n => (congrArg unitSize (h.caps n) :)
  simp only [State.resolve, h.capOf, h.coord, hi, hc, hu]

theorem Sent.readyTarget {s t : State} {gs : List Msg} (h : Sent s t gs) (core : Nat) (a : Word) :
    t.readyTarget core a = s.readyTarget core a := by
  have hi : ∀ n, (t.cap n).image = (s.cap n).image := fun n => (congrArg Capsule.image (h.caps n) :)
  simp only [State.readyTarget, State.meshOnly, State.virtualCause, h.resolve, h.capOf, hi]

theorem Sent.coreFor {s t : State} {gs : List Msg} (h : Sent s t gs) (n : Nat) (m : Mesh) : (t.cap n).coreFor m = (s.cap n).coreFor m :=
  (congrArg (fun c : Capsule => c.coreFor m) (h.caps n) :)

theorem Sent.issuer {s t : State} {gs : List Msg} (h : Sent s t gs) {g : Msg} (f : From t g) : From s g where
  capsule := f.capsule.trans h.myCap
  issuer := by
    obtain ⟨hs, hf, hc⟩ := f.issuer
    exact ⟨hs.trans (congrArg coreOf h.who), hf.trans (congrArg Thread.firing h.me :), hc.trans (congrArg Thread.pc h.me :)⟩
  origin := by rw [f.origin, h.who, State.originOf, State.originOf, h.coord]

/-- An access of fewer bytes resolves as the longer one does. -/
theorem State.resolve_shorter {s : State} {core : Nat} {a : Word} {n k : Nat} {m : Mesh} (h : s.resolve core a n = some m) (hk : k ≤ n) :
    s.resolve core a k = some m := by
  revert h
  simp only [State.resolve]
  split
  · intro h; cases h
  split
  · intro h; cases h
  split
  · intro h; cases h
  split
  · intro h; cases h
  split
  · intro h; cases h
  next hn =>
    rw [if_neg (by omega)]
    exact id

/-! ### Operations on readiness words -/

/-- The target of an operation on a readiness word is a word of a TCM that the issuer names by a mesh address (R117). -/
theorem State.readyTarget_ok {s : State} {core : Nat} {a : Word} {m : Mesh} (h : s.readyTarget core a = .ok m) :
    2 ^ 63 ≤ a.toNat ∧ s.resolve core a 8 = some m ∧ m.unit = 0 := by
  unfold State.readyTarget at h
  split at h
  · cases h
  unfold State.meshOnly at h
  split at h
  · cases h
  split at h
  · cases h
  next hv =>
    split at h
    · cases h
    next x hx =>
      split at h
      · next hok =>
        cases h
        exact ⟨Nat.le_of_not_lt hv, hx, (of_decide_eq_true hok).1⟩
      · cases h

/-- What an operation payload says (R135). -/
theorem carries_opPayload {m : Msg} {op fn size : Nat} {code target op1 op2 : Word} {number : Nat} (located : Word)
    (hk : m.kind = 0 ∧ m.words = [] ∧ m.bounce = false) (hb : m.body = opPayload op fn size code located op1 op2 number)
    (hw : m.wrote = target) (ho : op < 256) (hf : fn < 256) (hs : size < 256) : Carries m op fn size target op1 op2 := by
  obtain ⟨hkind, hwords, hbounce⟩ := hk
  refine ⟨⟨hkind, hwords, ?_, hbounce⟩, ⟨?_, ?_, ?_⟩, hw, ?_, ?_⟩
  · simp [hb, opPayload, length_toBytes]
  · simpa [Msg.op, hb, opPayload, fieldB, ofBytes] using ho
  · simpa [Msg.fn, hb, opPayload, fieldB, ofBytes] using hf
  · simpa [Msg.size, hb, opPayload, fieldB, ofBytes] using hs
  · rw [Msg.op1, hb, opPayload, List.append_assoc, List.append_assoc, List.append_assoc]
    exact dwordB_toBytes (by simp [length_toBytes]) _ op1
  · rw [Msg.op2, hb, opPayload, List.append_assoc, List.append_assoc]
    exact dwordB_toBytes (by simp [length_toBytes]) _ op2

/-- The operation message of dec, arm and ready on a readiness word of this package (R135, R153). -/
theorem State.readyMsg_spec {s : State} {a : Word} {m : Mesh} (h : s.readyTarget (coreOf s.who) a = .ok m)
    (hp : m.package = bits s.myCore.coord.toNat 23 12) {op fn : Nat} (ho : op < 256) (hf : fn < 256) (op1 op2 : Word) (number : Nat) :
    let g := s.readyMsg op fn a m op1 op2 number
    Carries g op fn 8 a op1 op2 ∧ From s g ∧ g.target = (s.cap s.myCap).coreFor m := by
  obtain ⟨ha, hm, hu⟩ := State.readyTarget_ok h
  have hplace : s.placeOf (coreOf s.who) m = .here (tcmKey ((s.cap s.myCap).coreFor m) m.offset) none := by
    rw [State.placeOf, Capsule.placeFor, if_neg (fun hne => hne hp), if_pos hu]
    rfl
  have hhome : ∀ k, s.homeOf (coreOf s.who) a k = (s.cap s.myCap).coreFor m := fun k => by
    rw [State.homeOf, if_neg (Nat.not_lt.mpr ha), State.resolve_shorter hm (by omega)]
    exact if_pos hu
  simp only [State.readyMsg, hplace, State.opMsg]
  exact ⟨carries_opPayload _ ⟨rfl, rfl, rfl⟩ rfl rfl ho hf (by omega), ⟨rfl, ⟨rfl, rfl, rfl⟩, rfl⟩, hhome _⟩

end Sys2Proof.Machine
end

section
/-! SUPPORT. The end of firings and of delegated routines (R125, R129, R145, R153). -/

namespace Sys2Proof.Machine

/-! ### Units, numbers and reports at an end -/

theorem State.subCount_cap (s : State) (n k : Nat) :
    (s.subCount n k).cap n = { s.cap n with outstanding := (s.cap n).outstanding - k } := State.cap_setCap_self _ _ _

/-- The completion of a number changes its core's record of numbers alone (R266). -/
theorem State.completeNumber_rest (s : State) (core ch n : Nat) : { s.completeNumber core ch n with cores := s.cores } = s := by
  unfold State.completeNumber
  split <;> rfl

theorem State.completeNumber_unacked (s : State) (core ch n c : Nat) : ((s.completeNumber core ch n).core c).unacked = (s.core c).unacked := by
  unfold State.completeNumber
  split
  · rfl
  · dsimp only
    rw [State.core_setCore]
    split
    · next h => subst h; rfl
    · rfl

/-- A number that completes lies at or below TLW, or is kept among the complete ones above it (R266). -/
theorem State.completeNumber_complete (s : State) (core ch n : Nat) (hn : n ≠ 0) (hc : core < coreCount) :
    let c := (s.completeNumber core ch n).core core
    n ≤ c.tlwOf ch ∨ (ch, n) ∈ c.completed := by
  unfold State.completeNumber
  rw [if_neg (by omega)]
  simp only [State.core_setCore_self, Core.tlwOf, sget_sset_self, List.mem_filter, List.mem_cons, true_or, true_and, ne_eq,
    not_true_eq_false, false_or, decide_eq_true_eq]
  exact (Nat.lt_or_ge _ _).symm

/-- A write of the device's own changes memory and what tells of it alone. -/
theorem State.putVa_rest (s : State) (c : Capsule) (va : Nat) (l : List Byte) :
    { s.putVa c va l with mem := s.mem, poison := s.poison, codeCache := s.codeCache } = s := by
  unfold State.putVa
  split
  · rfl
  · next k _ =>
    unfold State.ownWrite
    split
    · rfl
    · exact congrArg (fun x : State => { x with poison := s.poison, codeCache := s.codeCache }) (State.setByteList_rest s l k)

/-- A report enters the error log and the report area, and changes of its capsule the counts of records alone (R177, R212). -/
theorem State.report_spec (s : State) (n : Nat) (r : Record) :
    let t := s.report n r
    { t with mgmt := s.mgmt, mem := s.mem, poison := s.poison, codeCache := s.codeCache, capsules := s.capsules } = s ∧
      t.mgmt.errorLog = s.mgmt.errorLog ++ [(redact (s.cap n) r, (s.cap n).world)] ∧
      (t.cap n).outstanding = (s.cap n).outstanding := by
  simp only [State.report]
  split
  · have h := State.putVa_rest (s.logRecord (s.cap n) r) (s.cap n)
      ((s.logRecord (s.cap n) r).reportBase (s.cap n) + 64 * (s.cap n).reportIndex) (r.bytes 0)
    generalize State.putVa _ _ _ _ = u at *
    have hm : u.mgmt = (s.logRecord (s.cap n) r).mgmt := (congrArg State.mgmt h :)
    refine ⟨(congrArg (fun x : State => { x with mgmt := s.mgmt, capsules := s.capsules }) h :), ?_, ?_⟩
    · exact (congrArg Mgmt.errorLog hm).trans rfl
    · rw [State.cap_setCap_self]
  · exact ⟨rfl, rfl, by rw [State.cap_setCap_self]⟩

/-! ### Successors (R125) -/

/-- g is the dec of one token on lane h[1:0] that readies successor h, whose handle names the readiness word at m, with channel-7 number n. -/
def SuccessorOf (s : State) (h : Word) (m : Mesh) (n : Nat) (g : Msg) : Prop :=
  Carries g 0x33 (h.toNat % 4) 8 (h &&& ~~~7) 1 0 ∧ From s g ∧ g.number = n ∧ g.target = (s.cap s.myCap).coreFor m

theorem Sent.successorOf {s t : State} {gs : List Msg} (h : Sent s t gs) {a : Word} {m : Mesh} {n : Nat} {g : Msg}
    (hg : SuccessorOf t a m n g) : SuccessorOf s a m n g := by
  obtain ⟨hc, hf, hn, ht⟩ := hg
  exact ⟨hc, h.issuer hf, hn, by rw [ht, h.coreFor, h.myCap]⟩

/-- A handle names the dword that it lies in. -/
theorem handle_word (h : Word) : BitVec.ofNat 64 (h.toNat / 8 * 8) = h &&& ~~~7 := by
  refine BitVec.eq_of_getLsbD_eq fun i hi => ?_
  have h7 : (7 : Word).getLsbD i = decide (i < 3) := by
    change (BitVec.ofNat 64 7).getLsbD i = _
    rw [BitVec.getLsbD_ofNat, decide_eq_true hi, Bool.true_and, show (7 : Nat) = 2 ^ 3 - 1 from rfl, Nat.testBit_two_pow_sub_one]
  rw [BitVec.getLsbD_and, BitVec.getLsbD_not, h7, BitVec.getLsbD_ofNat, show (8 : Nat) = 2 ^ 3 from rfl, Nat.testBit_mul_two_pow,
    Nat.testBit_div_two_pow]
  by_cases h3 : 3 ≤ i
  · simp [hi, h3, Nat.sub_add_cancel h3, BitVec.getLsbD, show ¬ i < 3 by omega]
  · simp [h3, show i < 3 by omega]

theorem sendSuccessor_sent {s : State} {h : Word} {m : Mesh} (hok : s.readyTarget (coreOf s.who) (h &&& ~~~7) = .ok m)
    (hp : m.package = bits s.myCore.coord.toNat 23 12) :
    ∃ g, Sent s (s.sendSuccessor h) [g] ∧ SuccessorOf s h m (s.myCore.lastIssued 7 + 1) g := by
  obtain ⟨hc, hf, ht⟩ := State.readyMsg_spec hok hp (op := 0x33) (fn := h.toNat % 4) (by omega) (by omega) 1 0 (s.myCore.lastIssued 7 + 1)
  obtain ⟨serial, held, hs⟩ := s.postNow_sent (fun n => s.readyMsg 0x33 (h.toNat % 4) (h &&& ~~~7) m 1 0 n) hf.capsule
  have e : s.sendSuccessor h = s.postNow fun n => s.readyMsg 0x33 (h.toNat % 4) (h &&& ~~~7) m 1 0 n := by
    simp only [State.sendSuccessor, handle_word, hok]
  rw [e]
  exact ⟨_, hs, ⟨hc.kind, hc.what, hc.target, hc.operands⟩, ⟨hf.capsule, hf.issuer, hf.origin⟩, rfl, ht⟩

/-- A handle that fails its check is reported (R125). -/
theorem sendSuccessor_report {s : State} {h : Word} {c : Nat} (he : s.readyTarget (coreOf s.who) (h &&& ~~~7) = .error c) :
    s.sendSuccessor h =
      s.report s.myCap (s.recordOf s.myCap 1 c s.me.pc h (extentIndex (s.cap s.myCap) c h) (s.originOf s.who) 0) := by
  simp only [State.sendSuccessor, handle_word, he]

/-- The successors of a firing leave in order, with consecutive numbers. -/
theorem sendSuccessors_sent (hs : List Word) (ms : List Mesh) (s : State)
    (hok : hs.map (fun h => s.readyTarget (coreOf s.who) (h &&& ~~~7)) = ms.map Except.ok)
    (hp : ∀ m ∈ ms, m.package = bits s.myCore.coord.toNat 23 12) :
    ∃ gs, Sent s (hs.foldl State.sendSuccessor s) gs ∧ gs.length = ms.length ∧
      ∀ (i : Nat) (h : Word) (m : Mesh) (g : Msg), hs[i]? = some h → ms[i]? = some m → gs[i]? = some g →
        SuccessorOf s h m (s.myCore.lastIssued 7 + 1 + i) g := by
  induction hs generalizing ms s with
  | nil =>
    obtain rfl : ms = [] := by simpa using hok.symm
    exact ⟨[], Sent.refl s, rfl, fun i h _ _ hi => by simp at hi⟩
  | cons h hs ih =>
    cases ms with
    | nil => simp at hok
    | cons m ms =>
      rw [List.map_cons, List.map_cons, List.cons.injEq] at hok
      obtain ⟨g, hg, hsucc⟩ := sendSuccessor_sent hok.1 (hp m (List.mem_cons_self ..))
      have hcoord : (s.sendSuccessor h).myCore.coord = s.myCore.coord := by rw [State.myCore, hg.who, hg.coord, State.myCore]
      obtain ⟨gs, hgs, hlen, hall⟩ := ih ms (s.sendSuccessor h) (by simpa only [hg.who, hg.readyTarget] using hok.2)
        (fun m' hm' => by rw [hcoord]; exact hp m' (List.mem_cons_of_mem _ hm'))
      refine ⟨g :: gs, hg.trans hgs, by rw [List.length_cons, hlen, List.length_cons], fun i h' m' g' hh hm' hg' => ?_⟩
      cases i with
      | zero =>
        obtain rfl : h = h' := Option.some.inj hh
        obtain rfl : m = m' := Option.some.inj hm'
        obtain rfl : g = g' := Option.some.inj hg'
        exact hsucc
      | succ i =>
        have := hg.successorOf (hall i h' m' g' hh hm' hg')
        rw [hg.last, List.length_singleton, Nat.add_assoc _ 1 i, Nat.add_comm 1 i] at this
        exact this

/-! ### The end of a thread's work (R153) -/

theorem State.thr_endThread (s : State) (t n : Nat) : (s.endThread t).thr n = if n = t then (s.thr t).ended else s.thr n :=
  State.thr_setThr _ _ _ _

theorem State.core_endThread (s : State) (t : Nat) : ((s.endThread t).core (coreOf t)).unacked = (s.core (coreOf t)).unacked + (s.thr t).unacked :=
  congrArg Core.unacked (State.core_setCore_self s (coreOf t) _)

/-- A thread ends in a state in which only cores, capsules and the network have changed, and no store has been counted. -/
theorem State.freed_endThread {s w : State}
    (hr : { w with cores := s.cores, capsules := s.capsules, net := s.net, nextId := s.nextId } = s)
    (hu : (w.core (coreOf s.who)).unacked = s.myCore.unacked) : Freed s (w.endThread w.who) := by
  have hwho : w.who = s.who := (congrArg State.who hr :)
  have hthr : ∀ n, w.thr n = s.thr n := fun n => (congrArg (fun x : State => x.thr n) hr :)
  rw [hwho]
  refine ⟨?_, ?_, fun n hn => ?_, (congrArg State.mem hr :), (congrArg State.tags hr :), (congrArg State.stores hr :),
    (congrArg State.loads hr :)⟩
  · have hw : (w.endThread s.who).who = s.who := hwho
    rw [State.me, hw, State.thr_endThread, if_pos rfl, hthr, State.me]
  · rw [State.core_endThread, hu, hthr, State.me]
  · rw [State.thr_endThread, if_neg hn, hthr]

/-! ### done (R153) -/

/-- What done uses: no register; it may not stand in an open window, and H may not issue it. -/
def doneUse (s : State) : Use := (useG (encR 0x38 0 0 0 0) []).bar.ill (decide (s.role = 2))

theorem exec_done (s : State) : exec .done s = s.issue (doneUse s) fun s =>
    match s.me.handling with
    | some m => .next (s.endRoutine m)
    | none => .next s.endFiring := by
  change execDone s = _
  rfl

theorem done_illegal {s : State} (h : s.ready [] [] [] = true) (hr : roleOf s.who = 2) :
    exec .done s = s.takeTrap causeIllegal (BitVec.ofNat 64 (encode .done)) := by
  rw [exec_done, State.issue_illegal (u := doneUse s) h (by simp [doneUse, Use.ill, State.role, hr])]
  rfl

theorem doneUse_legal {s : State} (hr : roleOf s.who ≠ 2) : (doneUse s).illegal = false := by
  simp [doneUse, useG, Use.bar, Use.ill, State.role, hr]

theorem done_firing {s : State} (hw : s.noWindow = true) (h : s.ready [] [] [] = true) (hr : roleOf s.who ≠ 2)
    (hm : s.me.handling = none) : exec .done s = .next s.endFiring := by
  rw [exec_done, State.issue_ready (u := doneUse s) h (fun _ => hw) (doneUse_legal hr), hm]

theorem done_routine {s : State} (hw : s.noWindow = true) (h : s.ready [] [] [] = true) (hr : roleOf s.who ≠ 2) {m : Msg}
    (hm : s.me.handling = some m) : exec .done s = .next (s.endRoutine m) := by
  rw [exec_done, State.issue_ready (u := doneUse s) h (fun _ => hw) (doneUse_legal hr), hm]

/-- A firing without successors frees its allotment and its unit. -/
theorem endFiring_alone {s : State} (h : s.me.successors = []) :
    Freed s s.endFiring ∧ s.endFiring.net = s.net ∧ (s.endFiring.cap s.myCap).outstanding = (s.cap s.myCap).outstanding - 1 := by
  rw [State.endFiring, h, List.foldl_nil]
  exact ⟨State.freed_endThread rfl rfl, rfl, congrArg Capsule.outstanding (State.subCount_cap s s.myCap 1)⟩

/-- A firing whose successors all pass their checks sends a dec for each. -/
theorem endFiring_successors {s : State} (ms : List Mesh)
    (hok : s.me.successors.map (fun h => s.readyTarget (coreOf s.who) (h &&& ~~~7)) = ms.map Except.ok)
    (hp : ∀ m ∈ ms, m.package = bits s.myCore.coord.toNat 23 12) :
    ∃ gs, s.endFiring.me = { s.me with issued := s.endFiring.me.issued }.ended ∧ s.endFiring.net = s.net ++ gs ∧ gs.length = ms.length ∧
      (s.endFiring.cap s.myCap).outstanding = (s.cap s.myCap).outstanding + ms.length - 1 ∧ s.endFiring.mem = s.mem ∧
      ∀ (i : Nat) (h : Word) (m : Mesh) (g : Msg), s.me.successors[i]? = some h → ms[i]? = some m → gs[i]? = some g →
        SuccessorOf s h m (s.myCore.lastIssued 7 + 1 + i) g := by
  obtain ⟨gs, hs, hlen, hall⟩ := sendSuccessors_sent s.me.successors ms s hok hp
  rw [State.endFiring]
  generalize s.me.successors.foldl State.sendSuccessor s = w at *
  have hme : ((w.subCount w.myCap 1).endThread w.who).me = w.me.ended := State.thr_setThr_self _ _ _
  refine ⟨gs, ?_, hs.net, hlen, ?_, hs.mem, hall⟩
  · have hi : (w.me.ended).issued = w.me.issued := rfl
    have hw : w.me = { s.me with issued := w.me.issued } := by
      have := congrArg (fun x : Thread => { x with issued := w.me.issued }) hs.me
      exact this
    refine hme.trans ?_
    rw [show ((w.subCount w.myCap 1).endThread w.who).me.issued = w.me.issued from (congrArg Thread.issued hme).trans hi]
    exact congrArg Thread.ended hw
  · rw [← hs.myCap]
    refine (congrArg Capsule.outstanding (State.subCount_cap w w.myCap 1)).trans ?_
    change (w.cap w.myCap).outstanding - 1 = _
    rw [hs.myCap, hs.count, hlen]

/-- A firing whose one successor fails its check reports it. -/
theorem endFiring_report {s : State} {h : Word} {c : Nat} (hs : s.me.successors = [h])
    (he : s.readyTarget (coreOf s.who) (h &&& ~~~7) = .error c) :
    ∃ r : Record, s.endFiring.me = s.me.ended ∧ s.endFiring.net = s.net ∧ r.kind = 1 ∧ r.cause = c ∧ r.value = h ∧ r.code = s.me.pc ∧
      s.endFiring.mgmt.errorLog = s.mgmt.errorLog ++ [(redact (s.cap s.myCap) r, (s.cap s.myCap).world)] ∧
      (s.endFiring.cap s.myCap).outstanding = (s.cap s.myCap).outstanding - 1 := by
  rw [State.endFiring, hs, List.foldl_cons, List.foldl_nil, sendSuccessor_report he]
  generalize hr : s.recordOf s.myCap 1 c s.me.pc h (extentIndex (s.cap s.myCap) c h) (s.originOf s.who) 0 = r
  obtain ⟨hrest, hlog, hcount⟩ := s.report_spec s.myCap r
  generalize s.report s.myCap r = w at *
  have hme : w.me = s.me := (congrArg State.me hrest :)
  have hcap : w.myCap = s.myCap := (congrArg State.myCap hrest :)
  refine ⟨r, (State.thr_setThr_self _ _ _).trans (congrArg Thread.ended hme), (congrArg State.net hrest :), by rw [← hr]; rfl,
    by rw [← hr]; rfl, by rw [← hr]; rfl, by rw [← hr]; rfl, hlog, ?_⟩
  rw [← hcap]
  refine (congrArg Capsule.outstanding (State.subCount_cap w w.myCap 1)).trans ?_
  change (w.cap w.myCap).outstanding - 1 = _
  rw [hcap, hcount]

/-- dlg.p's routine ends with its unit and its number (R145). -/
theorem endRoutine_posted {s : State} {m : Msg} (hs : s.me.successors = []) (hq : m.request = 0) :
    Freed s (s.endRoutine m) ∧ (s.endRoutine m).net = s.net ∧
      ((s.endRoutine m).cap m.capsule).outstanding = (s.cap m.capsule).outstanding - 1 ∧
      (m.number ≠ 0 → m.sender < coreCount →
        m.number ≤ ((s.endRoutine m).core m.sender).tlwOf 7 ∨ (7, m.number) ∈ ((s.endRoutine m).core m.sender).completed) := by
  rw [State.endRoutine, hs, List.foldl_nil, if_pos hq]
  have hrest := (s.subCount m.capsule 1).completeNumber_rest m.sender 7 m.number
  have hunacked := (s.subCount m.capsule 1).completeNumber_unacked m.sender 7 m.number
  have hdone := (s.subCount m.capsule 1).completeNumber_complete m.sender 7 m.number
  generalize (s.subCount m.capsule 1).completeNumber m.sender 7 m.number = w at *
  refine ⟨State.freed_endThread ?_ (hunacked _), (congrArg State.net hrest :), ?_, fun hn hc => ?_⟩
  · exact (congrArg (fun x : State => { x with cores := s.cores, capsules := s.capsules, net := s.net, nextId := s.nextId }) hrest :)
  · have hcap : (w.endThread w.who).cap m.capsule = (s.subCount m.capsule 1).cap m.capsule := (congrArg (fun x : State => x.cap m.capsule) hrest :)
    rw [hcap, State.subCount_cap]
  · have hend : ((w.endThread w.who).core m.sender).tlwOf 7 = (w.core m.sender).tlwOf 7 ∧
        ((w.endThread w.who).core m.sender).completed = (w.core m.sender).completed := by
      unfold State.endThread
      simp only [State.core_setThr, State.core_setCore]
      split
      · next h => rw [h]; exact ⟨rfl, rfl⟩
      · exact ⟨rfl, rfl⟩
    rw [hend.1, hend.2]
    exact hdone hn hc

/-- dlg's routine ends with a REPLY that carries g1 (R145). -/
theorem endRoutine_replies {s : State} {m : Msg} (hs : s.me.successors = []) (hq : m.request ≠ 0) :
    Freed s (s.endRoutine m) ∧ (s.endRoutine m).net =
      s.net ++ [{ replyMsg m.capsule (coreOf s.who) (s.originOf s.who) m.reply m.firing m.request (s.rg 1) with serial := s.nextId }] := by
  rw [State.endRoutine, hs, List.foldl_nil, if_neg hq]
  exact ⟨State.freed_endThread rfl rfl, rfl⟩

end Sys2Proof.Machine
end

section
/-! SUPPORT. shrink (R19, R153), and what is claimed of firings. -/

namespace Sys2Proof.Machine

/-! ### shrink (R19, R153) -/

theorem State.allotOk_iff (s : State) (v : Word) : s.allotOk v = true ↔
    roleOf s.who ≤ 1 ∧ v.toNat < 2 ^ 16 ∧ bits v.toNat 7 0 % 8 = 0 ∧ bits v.toNat 15 8 % 8 = 0 ∧ 8 ≤ bits v.toNat 7 0 ∧
      bits v.toNat 7 0 ≤ s.me.sregs ∧ bits v.toNat 15 8 ≤ s.me.vregs :=
  decide_eq_true_iff

/-- What shrink uses: g[a]; it may not stand in an open window, and only a task thread may issue it, with a value that ALLOT takes. -/
def shrinkUse (a : G) (s : State) : Use :=
  (useG (encR 0x38 1 0 a 0) [a]).bar.ill (decide (2 ≤ s.role) || (s.hasG a && !s.allotOk (s.rg a)))

theorem exec_shrink (a : G) (s : State) : exec (.shrink a) s = s.issue (shrinkUse a s) fun s => s.shrinkTo (s.rg a) := by
  change execShrink a s = _
  rfl

/-- Of a ready thread, shrink refuses what ALLOT refuses. -/
theorem shrinkUse_illegal {a : G} {s : State} (h : s.ready [a] [] [] = true) : (shrinkUse a s).illegal = !s.allotOk (s.rg a) := by
  have hi : (shrinkUse a s).illegal = (decide (2 ≤ s.role) || !s.allotOk (s.rg a)) := by
    simp [shrinkUse, useG, Use.bar, Use.ill, State.hasG_of_ready h]
  rw [hi]
  cases hok : s.allotOk (s.rg a) with
  | false => simp
  | true =>
    have hrole : s.role ≤ 1 := ((s.allotOk_iff _).mp hok).1
    simp [show ¬ 2 ≤ s.role by omega]

theorem shrink_illegal {a : G} {s : State} (h : s.ready [a] [] [] = true) (hok : s.allotOk (s.rg a) ≠ true) :
    exec (.shrink a) s = s.takeTrap causeIllegal (BitVec.ofNat 64 (encode (.shrink a))) := by
  rw [exec_shrink, State.issue_illegal (u := shrinkUse a s) h (by rw [shrinkUse_illegal h]; simpa using hok)]
  rfl

theorem shrink_next {a : G} {s : State} (hw : s.noWindow = true) (h : s.ready [a] [] [] = true) (hok : s.allotOk (s.rg a) = true) :
    exec (.shrink a) s = s.shrinkTo (s.rg a) := by
  rw [exec_shrink, State.issue_ready (u := shrinkUse a s) h (fun _ => hw) (by rw [shrinkUse_illegal h, hok]; rfl)]

/-- A late result that is owed to a register at or above these bounds. -/
def Pending.above (p : Pending) (sregs vregs : Nat) : Prop :=
  match p.reg with
  | .g n => sregs ≤ n
  | .v n => vregs ≤ n

theorem Thread.pendingAbove_isSome (t : Thread) (sregs vregs : Nat) :
    (t.pendingAbove sregs vregs).isSome = true ↔ ∃ p ∈ t.pending, p.above sregs vregs := by
  unfold Thread.pendingAbove
  rw [Option.isSome_map, List.find?_isSome]
  refine exists_congr fun p => and_congr_right fun _ => ?_
  unfold Pending.above
  cases p.reg <;> exact decide_eq_true_iff

/-- shrink waits for a late result above the new bounds. -/
theorem State.shrinkTo_waits {s : State} {v : Word} (h : ∃ p ∈ s.me.pending, p.above (bits v.toNat 7 0) (bits v.toNat 15 8)) :
    ∃ w, s.shrinkTo v = .next (s.setMe { s.me with wait := w }) := by
  obtain ⟨r, hr⟩ := Option.isSome_iff_exists.mp ((s.me.pendingAbove_isSome _ _).mpr h)
  exact ⟨.scoreboard r, by simp only [State.shrinkTo, hr]; rfl⟩

/-- A thread with the registers above its new bounds released. -/
def Thread.shrunk (t : Thread) (sregs vregs : Nat) : Thread :=
  { t with sregs, vregs, g := t.g.filter (fun e => decide (e.1 < sregs)), v := t.v.filter (fun e => decide (e.1 < vregs)) }

theorem Thread.shrunk_rg (t : Thread) (sregs vregs n : Nat) (h : n < sregs) : (t.shrunk sregs vregs).rg n = t.rg n :=
  congrArg (fun x => if n = 0 then 0 else x) (sget_filter_lt (0 : Word) t.g sregs n h)

theorem Thread.shrunk_rv (t : Thread) (sregs vregs n : Nat) (h : n < vregs) : (t.shrunk sregs vregs).rv n = t.rv n :=
  sget_filter_lt (0 : Vec) t.v vregs n h

theorem State.shrinkTo_next {s : State} {v : Word} (h : ∀ p ∈ s.me.pending, ¬ p.above (bits v.toNat 7 0) (bits v.toNat 15 8)) :
    s.shrinkTo v = .next (s.setMe (s.me.shrunk (bits v.toNat 7 0) (bits v.toNat 15 8)).advance) := by
  have hn : s.me.pendingAbove (bits v.toNat 7 0) (bits v.toNat 15 8) = none := by
    rw [← Option.not_isSome_iff_eq_none, Thread.pendingAbove_isSome]
    rintro ⟨p, hp, ha⟩
    exact h p hp ha
  simp only [State.shrinkTo, hn, State.retire, State.me_setMe, State.setMe_setMe]
  rfl

/-- What a completed shrink leaves: the new bounds, and every register below them but where a late result falls due. -/
theorem Thread.shrunk_advance (t : Thread) (sregs vregs : Nat) :
    let u := (t.shrunk sregs vregs).advance
    u.sregs = sregs ∧ u.vregs = vregs ∧ (t.ldepth = 0 → u.pc = t.pc + 4) ∧
      (∀ n, n < sregs → (∀ p ∈ t.pending, p.reg ≠ .g n) → u.rg n = t.rg n) ∧
      ∀ n, n < vregs → (∀ p ∈ t.pending, p.reg ≠ .v n) → u.rv n = t.rv n := by
  have ha := Thread.advance_advanced (t.shrunk sregs vregs)
  exact ⟨(congrArg Thread.sregs ha.same :), (congrArg Thread.vregs ha.same :), Thread.advance_pc (t.shrunk sregs vregs),
    fun n hn hp => (ha.g n hp).trans (t.shrunk_rg sregs vregs n hn), fun n hn hp => (ha.v n hp).trans (t.shrunk_rv sregs vregs n hn)⟩

/-! ### What is claimed of firings -/

/-- Settles O27: each start is the model's own thread, read field by field; the end of a firing sends its successors one by one, each of which
changes nothing that the next one's check reads; shrink keeps what lies below its bounds. -/
theorem firings : Obligations.Firings := by
  unfold Obligations.Firings
  refine ⟨fun s core => ⟨?codelet, ?context, ?waits, ?routine⟩, fun a s hw => ⟨fun h => ⟨?byH, ?alone, ?successors, ?refused, ?posted, ?replies⟩,
    fun h => ⟨?illegal, ?owed, ?shrunk⟩⟩⟩
  case codelet =>
    intro e rest d k hk hring hhalted hruns hsource hfree hfirst hd hpool
    have hmay : s.MayStart core k := ⟨hk, hhalted, hruns, hfree, hfirst⟩
    obtain ⟨hr, hwait, hmem, hid, hthr, hothers⟩ := s.started_frame core (core * 4 + k) rest
      (s.entryThread (s.capOf core) core (core * 4 + k) e (d.sregs, d.vregs))
    refine ⟨_, firingStart_next hmay hring (entryAllot_codelet hsource hd) hpool, hr, hwait, hmem, hid, hothers, ?_⟩
    rw [hthr]
    exact entryThread_codelet core (core * 4 + k) hsource hd
  case context =>
    intro e rest m k hk hring hhalted hruns hsource hm hfree hfirst hpool
    have hmay : s.MayStart core k := ⟨hk, hhalted, hruns, hfree, hfirst⟩
    obtain ⟨hr, -, hmem, -, hthr, hothers⟩ := s.started_frame core (core * 4 + k) rest
      (s.entryThread (s.capOf core) core (core * 4 + k) e (fieldB m.body 5 1, fieldB m.body 6 1))
    refine ⟨_, firingStart_next hmay hring (entryAllot_context hsource hm) hpool, hr, hmem, hothers, ?_⟩
    rw [hthr]
    exact entryThread_context core (core * 4 + k) _ hsource hm
  case waits =>
    intro e rest a hring ha hpool
    exact firingStart_waits hring ha hpool
  case routine =>
    intro m d hnet hm hkind hhalted hruns hfree hbefore hd
    refine ⟨_, delegate_next hnet hm hkind hhalted hruns hfree hbefore, ?_, rfl, hnet, ?_, ?_, ?_, fun x hx => ?_⟩
    · exact congrArg Core.inbox (State.core_setCore_self s core _)
    · rw [State.thr_fresh, State.thr_setThr_self]; rfl
    · rw [State.thr_fresh, State.thr_setThr_self]; rfl
    · rw [State.thr_fresh, State.thr_setThr_self]
      exact routineThread_begun _ _ _ _ _ hd
    · rw [State.thr_fresh, State.thr_setThr, if_neg hx, State.thr_setCore]
  case byH => exact done_illegal h
  case alone =>
    intro hr hm hs
    exact ⟨_, done_firing hw h hr hm, endFiring_alone hs⟩
  case successors =>
    intro ms hr hm hok hp
    obtain ⟨gs, hme, hnet, hlen, hcount, hmem, hall⟩ := endFiring_successors ms hok hp
    exact ⟨_, gs, done_firing hw h hr hm, hme, hnet, hlen, hcount, hmem, hall⟩
  case refused =>
    intro a c hr hm hs he
    obtain ⟨r, hspec⟩ := endFiring_report hs he
    exact ⟨_, r, done_firing hw h hr hm, hspec⟩
  case posted =>
    intro m hr hm hs hq
    exact ⟨_, done_routine hw h hr hm, endRoutine_posted hs hq⟩
  case replies =>
    intro m hr hm hs hq
    exact ⟨_, done_routine hw h hr hm, endRoutine_replies hs hq⟩
  case illegal =>
    intro hok
    exact shrink_illegal h fun hv => hok ((s.allotOk_iff _).mp hv)
  case owed =>
    intro hok hp
    rw [shrink_next hw h ((s.allotOk_iff _).mpr hok)]
    exact State.shrinkTo_waits hp
  case shrunk =>
    intro hok hp
    obtain ⟨hs, hv, hpc, hg, hvec⟩ := s.me.shrunk_advance (bits (s.rg a).toNat 7 0) (bits (s.rg a).toNat 15 8)
    refine ⟨_, (shrink_next hw h ((s.allotOk_iff _).mpr hok)).trans (State.shrinkTo_next hp), ?_⟩
    simp only [State.rg, State.rv, State.me_setMe]
    exact ⟨hs, hv, hpc, rfl, hg, hvec, fun n hn => State.thr_setMe_ne s n _ hn⟩

end Sys2Proof.Machine
end

section
/-! SUPPORT. The words that the manual writes out, decoded. -/

namespace Sys2Proof.Machine

/-- Settles O2: the decoder is a function of closed words here, and each is evaluated. -/
theorem manualWordsDecode : Obligations.ManualWordsDecode :=
  ⟨rfl, rfl, rfl, rfl, rfl, rfl, rfl, rfl, rfl, rfl, rfl⟩

end Sys2Proof.Machine
end


section
/-! SUPPORT. The values of the ALU group, the immediate and shift forms and the bit-field instructions in terms of the library's bit vectors (R49 to R53). -/

namespace Sys2Proof.Machine

/-! ### Shift distances and truth values -/

theorem toNat_and_63 (y : Word) : (y &&& 63).toNat = shamt y := Nat.and_two_pow_sub_one_eq_mod y.toNat 6

theorem shamt_lt (y : Word) : shamt y < 64 := Nat.mod_lt _ (by decide)

theorem toNat_64_sub_and_63 (y : Word) : ((64 : Word) - (y &&& 63)).toNat = 64 - shamt y := by
  have h := shamt_lt y
  rw [BitVec.toNat_sub_of_le (by rw [BitVec.le_def, toNat_and_63]; exact Nat.le_of_lt h), toNat_and_63]
  rfl

theorem flagW_iff {b : Bool} {p : Prop} [Decidable p] (h : b = true ↔ p) : flagW b = if p then 1 else 0 := if_congr h rfl rfl

theorem slt_iff (x y : Word) : x.slt y = true ↔ x.toInt < y.toInt := by rw [BitVec.slt_eq_decide, decide_eq_true_iff]

theorem ult_iff (x y : Word) : x.ult y = true ↔ x.toNat < y.toNat := by rw [BitVec.ult_eq_decide, decide_eq_true_iff]

/-- Between two words that are equal as integers it makes no difference which one is taken. -/
theorem ite_slt (x y : Word) : (if x.slt y then x else y) = (if x.toInt ≤ y.toInt then x else y) ∧
    (if x.slt y then y else x) = (if x.toInt ≤ y.toInt then y else x) := by
  simp only [slt_iff]
  rcases Int.lt_trichotomy x.toInt y.toInt with h | h | h
  · simp [h, Int.le_of_lt h]
  · obtain rfl := BitVec.eq_of_toInt_eq h
    simp
  · simp [Int.not_lt.mpr (Int.le_of_lt h), Int.not_le.mpr h]

theorem ite_ult (x y : Word) : (if x.ult y then x else y) = (if x.toNat ≤ y.toNat then x else y) ∧
    (if x.ult y then y else x) = (if x.toNat ≤ y.toNat then y else x) := by
  simp only [ult_iff]
  rcases Nat.lt_trichotomy x.toNat y.toNat with h | h | h
  · simp [h, Nat.le_of_lt h]
  · obtain rfl := BitVec.eq_of_toNat_eq h
    simp
  · simp [Nat.not_lt.mpr (Nat.le_of_lt h), Nat.not_le.mpr h]

/-! ### Sums, shifts and rotations -/

theorem add_eq_ofNat (x y : Word) : x + y = BitVec.ofNat 64 (x.toNat + y.toNat) := rfl

theorem sub_eq_ofInt (x y : Word) : x - y = BitVec.ofInt 64 ((x.toNat : Int) - y.toNat) := by
  apply BitVec.eq_of_toNat_eq
  have := x.isLt
  have := y.isLt
  rw [BitVec.toNat_sub, BitVec.toNat_ofInt]
  omega

theorem shiftLeft_shamt (x y : Word) : x <<< shamt y = x <<< (y &&& 63) := by rw [BitVec.shiftLeft_eq', toNat_and_63]

theorem ushiftRight_shamt (x y : Word) : x >>> shamt y = x >>> (y &&& 63) := by rw [BitVec.ushiftRight_eq', toNat_and_63]

theorem shiftLeft_eq_ofNat (x : Word) (n : Nat) : x <<< n = BitVec.ofNat 64 (x.toNat * 2 ^ n) :=
  BitVec.eq_of_toNat_eq (by rw [BitVec.toNat_shiftLeft, Nat.shiftLeft_eq, BitVec.toNat_ofNat])

theorem ushiftRight_eq_ofNat (x : Word) (n : Nat) : x >>> n = BitVec.ofNat 64 (x.toNat / 2 ^ n) := by
  rw [← Nat.shiftRight_eq_div_pow, ← BitVec.toNat_ushiftRight, BitVec.ofNat_toNat, BitVec.setWidth_eq]

theorem sshiftRight_eq_ofInt (x : Word) (n : Nat) : x.sshiftRight n = BitVec.ofInt 64 (x.toInt / 2 ^ n) := by
  rw [BitVec.sshiftRight, Int.shiftRight_eq_div_pow]
  norm_cast

theorem sshiftRight_shamt (x y : Word) : x.sshiftRight (shamt y) = BitVec.ofInt 64 (x.toInt / 2 ^ (y &&& 63).toNat) := by
  rw [toNat_and_63, sshiftRight_eq_ofInt]

theorem rotateLeft_shamt (x y : Word) : x.rotateLeft (shamt y) = x <<< (y &&& 63) ||| x >>> ((64 : Word) - (y &&& 63)) := by
  rw [BitVec.shiftLeft_eq', BitVec.ushiftRight_eq', toNat_and_63, toNat_64_sub_and_63, BitVec.rotateLeft,
    Nat.mod_eq_of_lt (shamt_lt y), BitVec.rotateLeftAux]

theorem rotateRight_shamt (x y : Word) : x.rotateRight (shamt y) = x >>> (y &&& 63) ||| x <<< ((64 : Word) - (y &&& 63)) := by
  rw [BitVec.shiftLeft_eq', BitVec.ushiftRight_eq', toNat_and_63, toNat_64_sub_and_63, BitVec.rotateRight,
    Nat.mod_eq_of_lt (shamt_lt y), BitVec.rotateRightAux]

/-- A rotation as the sum of its two parts, of which the upper one wraps. -/
theorem rotateRight_eq_ofNat (x : Word) (n : Nat) (h : n < 64) :
    x.rotateRight n = BitVec.ofNat 64 (x.toNat / 2 ^ n + x.toNat * 2 ^ (64 - n)) := by
  have hp : 2 ^ n * 2 ^ (64 - n) = 2 ^ 64 := by rw [← Nat.pow_add]; congr 1; omega
  have hlow : x.toNat / 2 ^ n < 2 ^ (64 - n) := Nat.div_lt_of_lt_mul (hp ▸ x.isLt)
  have hup : x.toNat * 2 ^ (64 - n) % 2 ^ 64 = (x.toNat % 2 ^ n) <<< (64 - n) := by
    rw [Nat.shiftLeft_eq, ← hp, Nat.mul_mod_mul_right]
  have hsum : (x.toNat % 2 ^ n) <<< (64 - n) + x.toNat / 2 ^ n < 2 ^ 64 := by
    have hn : x.toNat % 2 ^ n + 1 ≤ 2 ^ n := Nat.mod_lt _ (Nat.two_pow_pos n)
    have := Nat.mul_le_mul_right (2 ^ (64 - n)) hn
    rw [Nat.shiftLeft_eq]
    lia
  apply BitVec.eq_of_toNat_eq
  rw [BitVec.toNat_rotateRight, Nat.mod_eq_of_lt h, Nat.shiftRight_eq_div_pow, Nat.shiftLeft_eq, hup, Nat.lor_comm,
    ← Nat.shiftLeft_add_eq_or_of_lt hlow, BitVec.toNat_ofNat, Nat.add_comm (x.toNat / 2 ^ n), ← Nat.mod_add_mod, hup, Nat.mod_eq_of_lt hsum]

/-! ### Products and quotients -/

/-- The upper half of a product that is exact modulo 2^128. -/
theorem highW_eq_extract (p : Int) : highW p = (BitVec.ofInt 128 p).extractLsb' 64 64 := by
  apply BitVec.eq_of_toNat_eq
  rw [highW, BitVec.extractLsb'_toNat, BitVec.toNat_ofInt, BitVec.toNat_ofInt, Nat.shiftRight_eq_div_pow]
  omega

theorem mul_eq_ofNat (x y : Word) : x * y = BitVec.ofNat 64 (x.toNat * y.toNat) := rfl

theorem setWidth_eq_ofInt (x : Word) : x.setWidth 128 = BitVec.ofInt 128 x.toNat := by
  rw [BitVec.ofInt_natCast, BitVec.ofNat_toNat]

theorem highW_signed (x y : Word) : highW (x.toInt * y.toInt) = (x.signExtend 128 * y.signExtend 128).extractLsb' 64 64 := by
  rw [highW_eq_extract, BitVec.ofInt_mul]
  rfl

theorem highW_unsigned (x y : Word) : highW ((x.toNat : Int) * y.toNat) = (x.setWidth 128 * y.setWidth 128).extractLsb' 64 64 := by
  rw [highW_eq_extract, BitVec.ofInt_mul, setWidth_eq_ofInt, setWidth_eq_ofInt]

theorem highW_mixed (x y : Word) : highW (x.toInt * y.toNat) = (x.signExtend 128 * y.setWidth 128).extractLsb' 64 64 := by
  rw [highW_eq_extract, BitVec.ofInt_mul, setWidth_eq_ofInt]
  rfl

theorem divW_eq (x y : Word) : divW x y = if y = 0 then BitVec.allOnes 64 else x.sdiv y := by
  unfold divW
  congr 1
  apply BitVec.eq_of_toInt_eq
  rw [BitVec.toInt_ofInt, BitVec.toInt_sdiv]

theorem remW_eq (x y : Word) : remW x y = if y = 0 then x else x.srem y := by
  rw [remW, ← BitVec.toInt_srem, BitVec.ofInt_toInt]

theorem divuW_eq (x y : Word) : divuW x y = if y = 0 then BitVec.allOnes 64 else x / y := by
  rw [divuW, ← BitVec.toNat_udiv, BitVec.ofNat_toNat, BitVec.setWidth_eq]

theorem remuW_eq (x y : Word) : remuW x y = if y = 0 then x else x % y := by
  rw [remuW, ← BitVec.toNat_umod, BitVec.ofNat_toNat, BitVec.setWidth_eq]

/-! ### Counts of bits -/

/-- The leading zero bits of a number of n bits stand above its highest one. -/
theorem clzN_eq (n v : Nat) (h : v < 2 ^ n) : clzN n v = if v = 0 then n else n - 1 - v.log2 := by
  induction n with
  | zero => simp [clzN]
  | succ n ih =>
    rw [clzN]
    by_cases hb : 2 ^ n ≤ v
    · have hv : v ≠ 0 := by have := Nat.two_pow_pos n; omega
      rw [if_pos (Nat.testBit_of_two_pow_le_and_two_pow_add_one_gt hb h), if_neg hv, (Nat.log2_eq_iff hv).mpr ⟨hb, h⟩]
      omega
    · have hlt : v < 2 ^ n := by omega
      rw [if_neg (by simp [Nat.testBit_lt_two_pow hlt]), ih hlt]
      split
      · omega
      · next hv => have := (Nat.log2_lt hv).mpr hlt; omega

theorem ofNat_clzN (x : Word) : BitVec.ofNat 64 (clzN 64 x.toNat) = BitVec.ofNat 64 (if x = 0 then 64 else 63 - x.toNat.log2) := by
  rw [clzN_eq 64 _ x.isLt]
  exact congrArg _ (if_congr (BitVec.toNat_inj (y := 0)) rfl rfl)

/-- The trailing zero bits of a number of n bits stand below its lowest one. -/
theorem ctzN_spec (n v : Nat) : ctzN n v ≤ n ∧ (∀ i < ctzN n v, v.testBit i = false) ∧ (ctzN n v < n → v.testBit (ctzN n v) = true) := by
  induction n generalizing v with
  | zero => simp [ctzN]
  | succ n ih =>
    rw [ctzN]
    split
    · next h => simp [h]
    · next h =>
      obtain ⟨hle, hlow, hbit⟩ := ih (v / 2)
      rw [Nat.add_comm 1]
      refine ⟨by omega, fun i hi => ?_, fun hn => ?_⟩
      · cases i with
        | zero => simp [h]
        | succ i => rw [Nat.testBit_succ]; exact hlow i (by omega)
      · rw [Nat.testBit_succ]; exact hbit (by omega)

theorem ofNat_ctzN (x : Word) : BitVec.ofNat 64 (ctzN 64 x.toNat) = x.ctz := by
  obtain ⟨hle, hlow, hbit⟩ := ctzN_spec 64 x.toNat
  generalize ctzN 64 x.toNat = c at *
  apply BitVec.eq_of_toNat_eq
  rw [BitVec.toNat_ofNat, Nat.mod_eq_of_lt (by omega)]
  by_cases hx : x = 0#64
  · subst hx
    have : ¬ c < 64 := fun h => by simpa using hbit h
    rw [BitVec.ctz_eq_reverse_clz, BitVec.clz_eq_iff_eq_zero.mpr (BitVec.reverse_eq_zero_iff.mpr rfl)]
    simp; omega
  · have hone := BitVec.getLsbD_true_ctz_of_ne_zero hx
    rcases Nat.lt_trichotomy c x.ctz.toNat with h | h | h
    · have hz := BitVec.getLsbD_false_of_lt_ctz h
      have : x.ctz.toNat < 64 := BitVec.lt_def.mp (BitVec.ctz_lt_iff_ne_zero.mpr hx)
      rw [BitVec.getLsbD, hbit (by omega)] at hz
      cases hz
    · exact h
    · rw [BitVec.getLsbD, hlow _ h] at hone
      cases hone

theorem popN_eq (n v : Nat) : popN n v = (List.range n).countP fun i => v.testBit i := by
  induction n generalizing v with
  | zero => rfl
  | succ n ih =>
    rw [popN, ih, List.range_succ_eq_map, List.countP_cons, List.countP_map, Nat.add_comm]
    congr 1
    · exact congrArg (List.countP · _) (funext fun i => (Nat.testBit_succ v i).symm)
    · have := Nat.mod_two_eq_zero_or_one v
      rcases this with h | h <;> simp [h]

/-! ### Bits and bytes in reversed order -/

theorem brevN_lt (n v : Nat) : brevN n v < 2 ^ n := by
  induction n generalizing v with
  | zero => simp [brevN]
  | succ n ih =>
    have := ih (v / 2)
    rcases Nat.mod_two_eq_zero_or_one v with h | h <;> rw [brevN, h, Nat.pow_succ] <;> omega

theorem testBit_brevN (n v i : Nat) (h : i < n) : (brevN n v).testBit i = v.testBit (n - 1 - i) := by
  induction n generalizing v with
  | zero => omega
  | succ n ih =>
    rw [brevN, Nat.mul_comm, Nat.testBit_two_pow_mul_add _ (brevN_lt n _)]
    split
    · next hi => rw [ih _ hi, ← Nat.testBit_succ]; congr 1; omega
    · have : i = n := by omega
      simp [this]

theorem ofNat_brevN (x : Word) : BitVec.ofNat 64 (brevN 64 x.toNat) = x.reverse := by
  refine BitVec.eq_of_getLsbD_eq fun i hi => ?_
  rw [BitVec.getLsbD_reverse, BitVec.getLsbD_ofNat, testBit_brevN _ _ _ hi, BitVec.getMsbD, BitVec.getLsbD]

theorem bswapN_lt (n v : Nat) : bswapN n v < 256 ^ n := by
  induction n generalizing v with
  | zero => simp [bswapN]
  | succ n ih =>
    have hrest := ih (v / 256)
    have hbyte : v % 256 + 1 ≤ 256 := Nat.mod_lt _ (by decide)
    have := Nat.mul_le_mul_right (256 ^ n) hbyte
    rw [bswapN, Nat.pow_succ]
    lia

theorem toNat_append_add {n k : Nat} (a : BitVec n) (b : BitVec k) : (a ++ b).toNat = a.toNat * 2 ^ k + b.toNat := by
  rw [BitVec.toNat_append, ← Nat.shiftLeft_add_eq_or_of_lt b.isLt, Nat.shiftLeft_eq]

theorem ofNat_bswapN (x : Word) : BitVec.ofNat 64 (bswapN 8 x.toNat) =
    x.extractLsb' 0 8 ++ x.extractLsb' 8 8 ++ x.extractLsb' 16 8 ++ x.extractLsb' 24 8 ++ x.extractLsb' 32 8 ++
      x.extractLsb' 40 8 ++ x.extractLsb' 48 8 ++ x.extractLsb' 56 8 := by
  have hlt : bswapN 8 x.toNat < 2 ^ 64 := bswapN_lt 8 _
  apply BitVec.eq_of_toNat_eq
  rw [BitVec.toNat_ofNat, Nat.mod_eq_of_lt hlt, toNat_append_add, toNat_append_add, toNat_append_add, toNat_append_add,
    toNat_append_add, toNat_append_add, toNat_append_add]
  simp only [bswapN, BitVec.extractLsb'_toNat, Nat.shiftRight_eq_div_pow, Nat.div_div_eq_div_mul]
  norm_num
  ring

/-! ### Extensions and fields -/

theorem sext_eq (n : Nat) (x : Word) : sext n x.toNat = (x.setWidth n).signExtend 64 := by rw [sext, BitVec.ofNat_toNat]

theorem zextW_eq (x : Word) : (x.setWidth 32).setWidth 64 = x &&& 0xFFFFFFFF := by
  apply BitVec.eq_of_toNat_eq
  rw [BitVec.toNat_setWidth, BitVec.toNat_setWidth]
  exact (Nat.mod_eq_of_lt (by omega)).trans (Nat.and_two_pow_sub_one_eq_mod x.toNat 32).symm

theorem slt_signExtend_iff (x : Word) (imm : BitVec 13) : x.slt (imm.signExtend 64) = true ↔ x.toInt < imm.toInt := by
  rw [slt_iff, BitVec.toInt_signExtend_of_le (by decide)]

/-- A signed immediate in units of 2^k bytes. -/
theorem signExtend_shiftLeft {n : Nat} (imm : BitVec n) (k : Nat) : imm.signExtend 64 <<< k = BitVec.ofInt 64 (imm.toInt * 2 ^ k) := by
  have hpow : BitVec.twoPow 64 k = BitVec.ofInt 64 (2 ^ k) := by
    rw [show ((2 : Int) ^ k) = ((2 ^ k : Nat) : Int) by norm_cast, BitVec.ofInt_natCast]
    exact BitVec.eq_of_toNat_eq (by rw [BitVec.toNat_twoPow, BitVec.toNat_ofNat])
  rw [BitVec.shiftLeft_eq_mul_twoPow, BitVec.ofInt_mul, BitVec.signExtend, hpow]

theorem fieldW_eq (x : Word) (lsb w : Nat) : fieldW x lsb w = (x.extractLsb' lsb w).toNat := by
  rw [fieldW, BitVec.extractLsb'_toNat, Nat.shiftRight_eq_div_pow]

theorem ofNat_fieldW (x : Word) (lsb w : Nat) : BitVec.ofNat 64 (fieldW x lsb w) = (x.extractLsb' lsb w).setWidth 64 := by
  rw [fieldW_eq, BitVec.ofNat_toNat]

theorem sext_fieldW (x : Word) (lsb w : Nat) : sext w (fieldW x lsb w) = (x.extractLsb' lsb w).signExtend 64 := by
  rw [fieldW_eq, sext, BitVec.ofNat_toNat, BitVec.setWidth_eq]

/-- The bits of a replaced field. -/
theorem getLsbD_insertW (x y : Word) (lsb w j : Nat) (hj : j < 64) :
    (insertW x y lsb w).getLsbD j = if lsb ≤ j ∧ j < lsb + w then y.getLsbD (j - lsb) else x.getLsbD j := by
  have hmask : ((2 ^ w - 1) * 2 ^ lsb).testBit j = decide (lsb ≤ j ∧ j < lsb + w) := by
    rw [Nat.testBit_mul_two_pow, Nat.testBit_two_pow_sub_one, ← Bool.decide_and]
    exact decide_eq_decide.mpr (by omega)
  simp only [insertW, BitVec.getLsbD_or, BitVec.getLsbD_and, BitVec.getLsbD_not, BitVec.getLsbD_shiftLeft, BitVec.getLsbD_ofNat, hj,
    hmask]
  by_cases h : lsb ≤ j ∧ j < lsb + w
  · simp [h, Nat.not_lt.mpr h.1]
  · simp [h]

end Sys2Proof.Machine
end

section
/-! SUPPORT. What the instructions that write a value to a scalar register do (R49 to R53), and the obligations about them. -/

namespace Sys2Proof.Machine

/-! ### The forms that write a scalar register -/

/-- A ready thread's instruction that writes f to g[d] and breaks no rule of its own completes with any value equal to f's. -/
theorem gives_issue {i : Instr} {word d : Nat} {gs : List Nat} {ill : Bool} {f v : State → Word}
    (hi : ∀ s, exec i s = s.issue ((useG word gs).ill ill) fun s => .next (s.wg d (f s)).retire) (hill : ill = false)
    (h : ∀ s, f s = v s) : Gives i gs d v := fun s hr =>
  ⟨_, (hi s).trans (State.issue_ready (u := (useG word gs).ill ill) hr (s.open_useG word gs) hill _), h s ▸ s.writes_retire d (f s)⟩

theorem gives_putG {i : Instr} {word d : Nat} {gs : List Nat} {f v : State → Word} (hi : ∀ s, exec i s = s.putG word gs d f)
    (h : ∀ s, f s = v s) : Gives i (d :: gs) d v := gives_issue (ill := false) hi rfl h

/-- An instruction that breaks its own rule traps ILLEGAL once no operand waits for a late result, also where one lies outside the allotment (R38). -/
theorem State.issue_illegal_of_held {s : State} {word : Nat} {gs : List Nat} {ill : Bool} (h : s.held ⟨0, gs, [], [], false, false⟩ = none)
    (hill : ill = true) (body : State → Result) :
    s.issue ((useG word gs).ill ill) body = s.takeTrap causeIllegal (BitVec.ofNat 64 word) := by
  have hheld : s.held ((useG word gs).ill ill) = none := h
  have hu : ((useG word gs).ill ill).illegal = true := hill
  unfold State.issue
  rw [hheld]
  simp only [hu, Bool.or_true, if_true]
  rfl

/-! ### The ALU group (R49) -/

/-- Settles O10: each row is the form g[d] ← f, and f is the row's value. -/
theorem aluOperations : Obligations.AluOperations := by
  unfold Obligations.AluOperations
  refine ⟨fun d a b => ?binary, fun d a => ?unary⟩
  case binary =>
    exact ⟨
      gives_putG (fun _ => rfl) fun _ => add_eq_ofNat _ _,
      gives_putG (fun _ => rfl) fun _ => sub_eq_ofInt _ _,
      gives_putG (fun _ => rfl) fun _ => rfl,
      gives_putG (fun _ => rfl) fun _ => rfl,
      gives_putG (fun _ => rfl) fun _ => rfl,
      gives_putG (fun _ => rfl) fun _ => rfl,
      gives_putG (fun _ => rfl) fun _ => rfl,
      gives_putG (fun _ => rfl) fun _ => shiftLeft_shamt _ _,
      gives_putG (fun _ => rfl) fun _ => ushiftRight_shamt _ _,
      gives_putG (fun _ => rfl) fun _ => sshiftRight_shamt _ _,
      gives_putG (fun _ => rfl) fun _ => rotateLeft_shamt _ _,
      gives_putG (fun _ => rfl) fun _ => rotateRight_shamt _ _,
      gives_putG (fun _ => rfl) fun _ => flagW_iff (slt_iff _ _),
      gives_putG (fun _ => rfl) fun _ => flagW_iff (ult_iff _ _),
      gives_putG (fun _ => rfl) fun _ => flagW_iff beq_iff_eq,
      gives_putG (fun _ => rfl) fun _ => flagW_iff bne_iff_ne,
      gives_putG (fun _ => rfl) fun _ => (ite_slt _ _).1,
      gives_putG (fun _ => rfl) fun _ => (ite_slt _ _).2,
      gives_putG (fun _ => rfl) fun _ => (ite_ult _ _).1,
      gives_putG (fun _ => rfl) fun _ => (ite_ult _ _).2,
      gives_putG (fun _ => rfl) fun _ => mul_eq_ofNat _ _,
      gives_putG (fun _ => rfl) fun _ => highW_signed _ _,
      gives_putG (fun _ => rfl) fun _ => highW_unsigned _ _,
      gives_putG (fun _ => rfl) fun _ => highW_mixed _ _,
      gives_putG (fun _ => rfl) fun _ => divW_eq _ _,
      gives_putG (fun _ => rfl) fun _ => divuW_eq _ _,
      gives_putG (fun _ => rfl) fun _ => remW_eq _ _,
      gives_putG (fun _ => rfl) fun _ => remuW_eq _ _⟩
  case unary =>
    exact ⟨
      gives_putG (fun _ => rfl) fun _ => ofNat_clzN _,
      gives_putG (fun _ => rfl) fun _ => ofNat_ctzN _,
      gives_putG (fun _ => rfl) fun _ => congrArg _ (popN_eq 64 _),
      gives_putG (fun _ => rfl) fun _ => ofNat_brevN _,
      gives_putG (fun _ => rfl) fun _ => ofNat_bswapN _,
      gives_putG (fun _ => rfl) fun _ => sext_eq 8 _,
      gives_putG (fun _ => rfl) fun _ => sext_eq 16 _,
      gives_putG (fun _ => rfl) fun _ => sext_eq 32 _,
      gives_putG (fun _ => rfl) fun _ => zextW_eq _⟩

/-! ### Immediate forms and shift immediates (R50, R51) -/

theorem encI_eq (op imm d a : Nat) : encI op imm d a = op + d * 2 ^ 7 + a * 2 ^ 13 + imm * 2 ^ 19 + 0 * 2 ^ 25 := by
  unfold encI
  omega

theorem encR_eq (op fn d a b : Nat) : encR op fn d a b = op + d * 2 ^ 7 + a * 2 ^ 13 + b * 2 ^ 19 + fn * 2 ^ 25 := by
  unfold encR
  omega

/-- Settles O11: an immediate form is the ALU row with the sign-extended immediate for y, a shift immediate the one with a fixed distance. -/
theorem immediateForms : Obligations.ImmediateForms := by
  unfold Obligations.ImmediateForms
  intro d a imm n
  exact ⟨
    gives_putG (fun _ => rfl) fun _ => rfl,
    gives_putG (fun _ => rfl) fun _ => rfl,
    gives_putG (fun _ => rfl) fun _ => rfl,
    gives_putG (fun _ => rfl) fun _ => rfl,
    gives_putG (fun _ => rfl) fun _ => flagW_iff (slt_signExtend_iff _ _),
    gives_putG (fun _ => rfl) fun _ => flagW_iff (ult_iff _ _),
    gives_putG (fun _ => rfl) fun _ => shiftLeft_eq_ofNat _ _,
    gives_putG (fun _ => rfl) fun _ => ushiftRight_eq_ofNat _ _,
    gives_putG (fun _ => rfl) fun _ => sshiftRight_eq_ofInt _ _,
    gives_putG (fun _ => rfl) fun _ => rotateRight_eq_ofNat _ _ n.isLt,
    encI_eq _ _ _ _, encI_eq _ _ _ _, encI_eq _ _ _ _, encI_eq _ _ _ _, encI_eq _ _ _ _, encI_eq _ _ _ _,
    encR_eq _ _ _ _ _, encR_eq _ _ _ _ _, encR_eq _ _ _ _ _, encR_eq _ _ _ _ _⟩

/-! ### Constants and bit fields (R52, R53) -/

theorem fetchVa_add (s : State) (imm : BitVec 19) : s.fetchVa + imm.signExtend 64 <<< 13 =
    BitVec.ofInt 64 ((s.cap s.myCap).image.codeVa + s.me.pc.toNat + imm.toInt * 2 ^ 13) := by
  rw [signExtend_shiftLeft, BitVec.ofInt_add, BitVec.ofInt_add, BitVec.ofInt_natCast, BitVec.ofInt_natCast, BitVec.ofNat_toNat,
    BitVec.setWidth_eq]
  rfl

/-- Settles O12: the field of bfx is the library's extraction, the bits of bfi are those of insertW; a field beyond bit 63 is their own ILLEGAL. -/
theorem constantsAndBitFields : Obligations.ConstantsAndBitFields := by
  unfold Obligations.ConstantsAndBitFields
  intro d a imm lsb wm1
  refine ⟨gives_putG (fun _ => rfl) fun _ => signExtend_shiftLeft imm 13, gives_putG (fun _ => rfl) fun s => fetchVa_add s imm,
    fun h => ?fits, fun h s sx hheld => ?beyond⟩
  case fits =>
    have hill : decide (64 < lsb.val + wm1.val + 1) = false := decide_eq_false (by omega)
    refine ⟨gives_issue (fun _ => rfl) hill fun _ => ofNat_fieldW _ _ _, gives_issue (fun _ => rfl) hill fun _ => sext_fieldW _ _ _,
      fun s hr => ?_⟩
    obtain ⟨t, ht, hw⟩ := gives_issue (i := .bfi d a lsb wm1) (fun _ => rfl) hill (fun _ => rfl) s hr
    refine ⟨t, _, ht, hw, fun j hj => ?_⟩
    rw [getLsbD_insertW _ _ _ _ _ hj]
    exact if_congr (by omega) rfl rfl
  case beyond =>
    have hill : decide (64 < lsb.val + wm1.val + 1) = true := decide_eq_true (by omega)
    have hx : execBfx d a lsb wm1 sx s = _ := State.issue_illegal_of_held hheld hill _
    have hi : execBfi d a lsb wm1 s = _ := State.issue_illegal_of_held hheld hill _
    exact ⟨hx, hi⟩

end Sys2Proof.Machine
end

section
/-! SUPPORT. The mesh address instructions (R55). -/

namespace Sys2Proof.Machine

/-! ### Mesh addresses and their fields (R30, R31) -/

theorem buildMesh_absolute (x y : Word) : buildMesh false x y = (2 : BitVec 2) ++ x.setWidth 24 ++ y.setWidth 38 := by
  apply BitVec.eq_of_toNat_eq
  rw [buildMesh, toNat_append_add, toNat_append_add, BitVec.toNat_ofNat, BitVec.toNat_setWidth, BitVec.toNat_setWidth]
  simp
  omega

theorem buildMesh_relative (x y : Word) : buildMesh true x y = (3 : BitVec 2) ++ x.setWidth 24 ++ y.setWidth 38 := by
  apply BitVec.eq_of_toNat_eq
  rw [buildMesh, toNat_append_add, toNat_append_add, BitVec.toNat_ofNat, BitVec.toNat_setWidth, BitVec.toNat_setWidth]
  simp
  omega

/-- Every field of a resolved address fits its place in the layout of R30; package and die lie in the capsule's footprint. -/
structure Mesh.Fits (m : Mesh) (c : Capsule) : Prop where
  package : m.package < c.image.packages
  die : m.die < c.image.dies
  col : m.col < 16
  row : m.row < 8
  core : m.core < 8
  unit : m.unit < 8
  offset : m.offset < 2 ^ 35

theorem State.resolve_fits {s : State} {core n : Nat} {a : Word} {m : Mesh} (h : s.resolve core a n = some m) :
    m.Fits (s.cap (s.capOf core)) := by
  simp only [State.resolve, Option.ite_none_left_eq_some] at h
  obtain ⟨hunit, hdie, -, -, -, h⟩ := h
  simp only [Bool.not_eq_true', Bool.not_eq_false, Bool.and_eq_true, decide_eq_true_eq] at hdie
  obtain ⟨⟨hp0, hp⟩, hd0, hd⟩ := hdie
  obtain rfl := Option.some.inj h
  refine ⟨?_, ?_, ?_, ?_, ?_, ?_, Nat.mod_lt _ (Nat.two_pow_pos 35)⟩ <;> dsimp only <;> omega

/-- The absolute address of a location holds the location's fields where R30 places them. -/
theorem Mesh.word_fields {m : Mesh} {c : Capsule} (h : m.Fits c) (hp : c.image.packages ≤ 4096) (hd : c.image.dies ≤ 4) :
    bits m.word.toNat 63 62 = 2 ∧ bits m.word.toNat 61 50 = m.package ∧ bits m.word.toNat 49 48 = m.die ∧ bits m.word.toNat 47 44 = m.col ∧
      bits m.word.toNat 43 41 = m.row ∧ bits m.word.toNat 40 38 = m.core ∧ bits m.word.toNat 37 35 = m.unit ∧
      bits m.word.toNat 34 0 = m.offset := by
  obtain ⟨package, die, hcol, hrow, hcore, hunit, hoffset⟩ := h
  simp only [Mesh.word, bits, BitVec.toNat_ofNat]
  refine ⟨?_, ?_, ?_, ?_, ?_, ?_, ?_, ?_⟩ <;> omega

/-- The unit and the coordinates of a location in the layout of COORD. -/
theorem Mesh.coords_fields {m : Mesh} {c : Capsule} (h : m.Fits c) (hp : c.image.packages ≤ 4096) (hd : c.image.dies ≤ 4) :
    bits m.coords.toNat 63 27 = 0 ∧ bits m.coords.toNat 26 24 = m.unit ∧ bits m.coords.toNat 23 12 = m.package ∧
      bits m.coords.toNat 11 10 = m.die ∧ bits m.coords.toNat 9 6 = m.col ∧ bits m.coords.toNat 5 3 = m.row ∧ bits m.coords.toNat 2 0 = m.core := by
  obtain ⟨package, die, hcol, hrow, hcore, hunit, hoffset⟩ := h
  simp only [Mesh.coords, bits, BitVec.toNat_ofNat]
  refine ⟨?_, ?_, ?_, ?_, ?_, ?_, ?_⟩ <;> omega

/-! ### mabs and mcrd -/

section
variable {s : State} {d a : G} (word : Nat) (virtual : Word → Word) (f : Mesh → Word) (h : s.ready [d, a] [] [] = true)
include h

theorem State.meshQuery_virtual (hv : (s.rg a).toNat < 2 ^ 63) :
    ∃ t, s.meshQuery word d a virtual f = .next t ∧ Writes s t d (virtual (s.rg a)) := by
  refine ⟨_, ?_, s.writes_retire d _⟩
  rw [State.meshQuery, State.issue_ready (u := useG word [d, a]) h (s.open_useG word [d, a]) rfl]
  exact if_pos hv

theorem State.meshQuery_traps (hv : 2 ^ 63 ≤ (s.rg a).toNat) (hm : s.resolve (coreOf s.who) (s.rg a) 1 = none) :
    s.meshQuery word d a virtual f = s.takeTrap causeMeshbound (s.rg a) := by
  rw [State.meshQuery, State.issue_ready (u := useG word [d, a]) h (s.open_useG word [d, a]) rfl]
  dsimp only
  rw [if_neg (Nat.not_lt.mpr hv), hm]

theorem State.meshQuery_resolves (hv : 2 ^ 63 ≤ (s.rg a).toNat) {m : Mesh} (hm : s.resolve (coreOf s.who) (s.rg a) 1 = some m) :
    ∃ t, s.meshQuery word d a virtual f = .next t ∧ Writes s t d (f m) := by
  refine ⟨_, ?_, s.writes_retire d _⟩
  rw [State.meshQuery, State.issue_ready (u := useG word [d, a]) h (s.open_useG word [d, a]) rfl]
  dsimp only
  rw [if_neg (Nat.not_lt.mpr hv), hm]

end

theorem exec_mabs (d a : G) (s : State) : exec (.mabs d a) s = s.meshQuery (encR 0x0D 2 d a 0) d a id Mesh.word := rfl

theorem exec_mcrd (d a : G) (s : State) :
    exec (.mcrd d a) s = s.meshQuery (encR 0x0D 3 d a 0) d a (fun _ => 0xFFFFFFFFFFFFFFFF) Mesh.coords := rfl

/-- Settles O14: mabs and mcrd are one query with two readings of the location, and a resolved location's fields fit both layouts. -/
theorem meshAddresses : Obligations.MeshAddresses := by
  unfold Obligations.MeshAddresses
  refine fun d a b => ⟨gives_putG (fun _ => rfl) fun _ => buildMesh_absolute _ _, gives_putG (fun _ => rfl) fun _ => buildMesh_relative _ _,
    fun s h => ?queries⟩
  case queries =>
    rw [exec_mabs, exec_mcrd]
    refine ⟨fun hv => ?virtual, fun hv hm => ?traps, fun m hv hm hp hd => ?resolves⟩
    case virtual => exact ⟨s.meshQuery_virtual _ _ _ h hv, s.meshQuery_virtual _ _ _ h hv⟩
    case traps => exact ⟨s.meshQuery_traps _ _ _ h hv hm, s.meshQuery_traps _ _ _ h hv hm⟩
    case resolves =>
      obtain ⟨t, ht, hw⟩ := s.meshQuery_resolves (encR 0x0D 2 d a 0) id Mesh.word h hv hm
      obtain ⟨u, hu, hc⟩ := s.meshQuery_resolves (encR 0x0D 3 d a 0) (fun _ => 0xFFFFFFFFFFFFFFFF) Mesh.coords h hv hm
      have hfits := State.resolve_fits hm
      exact ⟨⟨t, m.word, ht, hw, Mesh.word_fields hfits hp hd⟩, u, m.coords, hu, hc, Mesh.coords_fields hfits hp hd⟩

end Sys2Proof.Machine
end

section
/-! SUPPORT. The loop registers (R58, R59): the end test of a completed instruction and the unwinding of a taken transfer. -/

namespace Sys2Proof.Machine

/-! ### The PC and the loop registers -/

/-- Two threads have one PC and the same loop registers. -/
structure SameLoops (t x : Thread) : Prop where
  pc : x.pc = t.pc
  lstart : x.lstart = t.lstart
  lend : x.lend = t.lend
  lcount : x.lcount = t.lcount
  ldepth : x.ldepth = t.ldepth

theorem SameLoops.trans {t x y : Thread} (a : SameLoops t x) (b : SameLoops x y) : SameLoops t y :=
  ⟨b.pc.trans a.pc, b.lstart.trans a.lstart, b.lend.trans a.lend, b.lcount.trans a.lcount, b.ldepth.trans a.ldepth⟩

theorem RegsOnly.sameLoops {t x : Thread} {gs vs ks : List Nat} {flags : Bool} (h : RegsOnly t x gs vs ks flags) : SameLoops t x :=
  ⟨(congrArg Thread.pc h.same :), (congrArg Thread.lstart h.same :), (congrArg Thread.lend h.same :), (congrArg Thread.lcount h.same :),
    (congrArg Thread.ldepth h.same :)⟩

theorem Counted.sameLoops {t x : Thread} (h : Counted t x) : SameLoops t x :=
  ⟨(congrArg Thread.pc h.same :), (congrArg Thread.lstart h.same :), (congrArg Thread.lend h.same :), (congrArg Thread.lcount h.same :),
    (congrArg Thread.ldepth h.same :)⟩

theorem SameLoops.setFlags {t x : Thread} (h : SameLoops t x) (f : Nat) : SameLoops t (x.setFlags f) :=
  ⟨h.pc, h.lstart, h.lend, h.lcount, h.ldepth⟩

/-! ### The unwinding of a taken transfer -/

theorem Thread.within_iff (t : Thread) (l : Nat) (a : Word) :
    t.within l a ↔ ¬ (a.toNat < (sget 0 t.lstart l).toNat ∨ (sget 0 t.lend l).toNat < a.toNat) := by
  unfold Thread.within
  omega

/-- Of n levels the unwinding leaves those up to the innermost one whose body contains the target. -/
theorem unwind_spec (n : Nat) (a : Word) (t : Thread) : unwind n a t ≤ n ∧ (∀ l, unwind n a t ≤ l → l < n → ¬ t.within l a) ∧
    (0 < unwind n a t → t.within (unwind n a t - 1) a) := by
  induction n with
  | zero => exact ⟨Nat.le_refl _, fun l _ hl => absurd hl (Nat.not_lt_zero l), fun h => absurd h (Nat.lt_irrefl 0)⟩
  | succ n ih =>
    obtain ⟨hle, hout, hin⟩ := ih
    rw [unwind]
    split
    · next h =>
      refine ⟨by omega, fun l hl hn => ?_, hin⟩
      by_cases he : l = n
      · exact he ▸ fun hw => (t.within_iff n a).mp hw h
      · exact hout l hl (by omega)
    · next h => exact ⟨Nat.le_refl _, fun l hl hn => by omega, fun _ => (t.within_iff n a).mpr h⟩

/-- A taken transfer unwinds the loop levels that its target leaves. -/
theorem SameLoops.unwound {t x : Thread} (h : SameLoops t x) (a : Word) : Unwound t (x.jump a) a := by
  have hc : SameLoops t x.count := h.trans x.count_counted.sameLoops
  have hwithin : ∀ l, t.within l a ↔ x.count.within l a := fun l => by rw [Thread.within, Thread.within, hc.lstart, hc.lend]
  obtain ⟨hle, hout, hin⟩ := unwind_spec x.count.ldepth.toNat a x.count
  have hdepth : (x.jump a).ldepth.toNat = unwind x.count.ldepth.toNat a x.count := by
    rw [Thread.jump, BitVec.toNat_ofNat, Nat.mod_eq_of_lt (Nat.lt_of_le_of_lt hle x.count.ldepth.isLt)]
  rw [← hdepth, hc.ldepth] at hle hout
  rw [← hdepth] at hin
  exact ⟨hle, fun l h1 h2 hw => hout l h1 h2 ((hwithin l).mp hw), fun h0 => (hwithin _).mpr (hin h0), hc.lstart, hc.lend,
    fun l => congrArg (sget 0 · l) hc.lcount⟩

/-! ### The end test -/

theorem EndTested.of_sameLoops {t x y : Thread} (h : SameLoops t x) (e : EndTested x y) : EndTested t y := by
  obtain ⟨pc, lstart, lend, lcount, ldepth⟩ := h
  obtain ⟨less, finished, again, onward, start, last, inner, outer⟩ := e
  rw [lstart] at start
  rw [lend] at last
  simp only [pc, lstart, lend, lcount, ldepth] at less finished again onward inner outer
  exact ⟨less, finished, again, onward, start, last, inner, outer⟩

/-- Outside a loop, or where the innermost level does not end here, the next word follows. -/
theorem endTested_onward (t : Thread) (p : Word) (d : Word) (h : 0 < d.toNat → sget 0 t.lend (d.toNat - 1) ≠ p) :
    EndTested { t with pc := p, ldepth := d } { t with pc := p + 4, ldepth := d } where
  less := Nat.le_refl _
  finished := fun _ h1 h2 => absurd h2 (Nat.not_lt.mpr h1)
  again := fun h0 he => absurd he (h h0)
  onward := fun _ => rfl
  start := rfl
  last := rfl
  inner := fun _ _ => rfl
  outer := fun _ _ => rfl

/-- Where the innermost level l ends here with iterations left, its next one starts. -/
theorem endTested_again (t : Thread) (p : Word) (l : Nat) (hl : l + 1 < 2 ^ 64) (hend : sget 0 t.lend l = p)
    (hcount : 1 < (sget 0 t.lcount l).toNat) :
    EndTested { t with pc := p, ldepth := BitVec.ofNat 64 (l + 1) }
      { t with lcount := sset 0 t.lcount l (sget 0 t.lcount l - 1), pc := sget 0 t.lstart l, ldepth := BitVec.ofNat 64 (l + 1) } := by
  have hn : (BitVec.ofNat 64 (l + 1)).toNat = l + 1 := by rw [BitVec.toNat_ofNat, Nat.mod_eq_of_lt hl]
  refine ⟨Nat.le_refl _, fun _ h1 h2 => absurd h2 (Nat.not_lt.mpr h1), fun _ _ => ?again, fun h => ?onward, rfl, rfl, fun k hk => ?inner,
    fun k hk => ?outer⟩ <;> dsimp only at *
  case again => rw [hn]; exact ⟨hcount, rfl, sget_sset_self _ _ _ _⟩
  case onward =>
    rw [hn] at h
    rcases h with h | h
    · have h0 := congrArg BitVec.toNat h
      rw [hn] at h0
      exact absurd h0 (Nat.succ_ne_zero l)
    · exact absurd hend h
  case inner => rw [hn] at hk; exact sget_sset_ne _ _ _ _ _ (by omega)
  case outer => rw [hn] at hk; exact sget_sset_ne _ _ _ _ _ (by omega)

/-- Where the innermost level l ends here without an iteration left, it ends with the count 0, and the test goes on one level outward. -/
theorem endTested_finished {t y : Thread} {p : Word} {l : Nat} (hl : l + 1 < 2 ^ 64) (hend : sget 0 t.lend l = p)
    (hcount : (sget 0 t.lcount l).toNat ≤ 1)
    (h : EndTested { t with lcount := sset 0 t.lcount l 0, pc := p, ldepth := BitVec.ofNat 64 l } y) :
    EndTested { t with pc := p, ldepth := BitVec.ofNat 64 (l + 1) } y := by
  obtain ⟨less, finished, again, onward, start, last, inner, outer⟩ := h
  have hn : ∀ k, k ≤ l + 1 → (BitVec.ofNat 64 k).toNat = k := fun k hk => by
    rw [BitVec.toNat_ofNat, Nat.mod_eq_of_lt (Nat.lt_of_le_of_lt hk hl)]
  have hne : ∀ k, k ≠ l → sget 0 (sset 0 t.lcount l 0) k = sget 0 t.lcount k := fun k hk => sget_sset_ne _ _ _ _ _ hk
  have hself : sget 0 (sset 0 t.lcount l (0 : Word)) l = 0 := sget_sset_self _ _ _ _
  dsimp only at *
  rw [hn l (Nat.le_succ l)] at less finished inner
  refine ⟨?_, fun k h1 h2 => ?_, fun h0 he => ?_, onward, start, last, fun k hk => ?_, fun k hk => ?_⟩ <;> dsimp only at *
  · rw [hn _ (Nat.le_refl _)]; omega
  · rw [hn _ (Nat.le_refl _)] at h2
    by_cases hk : k = l
    · subst hk
      exact ⟨hend, hcount, (inner k (Nat.le_refl k)).trans hself⟩
    · rw [← hne k hk]
      exact finished k h1 (by omega)
  · rw [← hne _ (by omega)]
    exact again h0 he
  · rw [hn _ (Nat.le_refl _)] at hk
    rw [← hne k (by omega)]
    exact inner k (by omega)
  · rw [← hne k (by omega)]
    exact outer k hk

/-- The end test over the n innermost levels after the instruction at p. -/
theorem endTest_endTested (n : Nat) (p : Word) (t : Thread) (hn : n < 2 ^ 64) :
    EndTested { t with pc := p, ldepth := BitVec.ofNat 64 n } (endTest n p t) := by
  induction n generalizing t with
  | zero => exact endTested_onward t p 0 fun h => absurd h (Nat.lt_irrefl 0)
  | succ n ih =>
    unfold endTest
    split
    · next hend =>
      split
      · next hcount => exact endTested_again t p n hn hend.symm hcount
      · next hcount => exact endTested_finished hn hend.symm (Nat.not_lt.mp hcount) (ih { t with lcount := sset 0 t.lcount n 0 } (by omega))
    · next hend =>
      refine endTested_onward t p _ fun _ => ?_
      rw [BitVec.toNat_ofNat, Nat.mod_eq_of_lt hn]
      exact Ne.symm hend

theorem SameLoops.endTested {t x : Thread} (h : SameLoops t x) : EndTested t x.advance := by
  have hc : SameLoops t x.count := h.trans x.count_counted.sameLoops
  have e := endTest_endTested x.count.ldepth.toNat x.count.pc x.count x.count.ldepth.isLt
  rw [BitVec.ofNat_toNat, BitVec.setWidth_eq] at e
  obtain ⟨less, finished, again, onward, start, last, inner, outer⟩ := e
  exact EndTested.of_sameLoops hc ⟨less, finished, again, onward, start, last, inner, outer⟩

/-! ### Instructions on registers alone -/

/-- The instruction completes, and until then neither the PC nor a loop register has changed. -/
def Completes (s : State) (r : Result) : Prop := ∃ x, SameLoops s.me x ∧ r = .next (s.setMe x.advance)

theorem Completes.endTested {s : State} {r : Result} (h : Completes s r) : ∃ t, r = .next t ∧ EndTested s.me t.me := by
  obtain ⟨x, hx, rfl⟩ := h
  exact ⟨_, rfl, (s.me_setMe x.advance).symm ▸ hx.endTested⟩

theorem completes_wg (s : State) (d : Nat) (v : Word) : Completes s (.next (s.wg d v).retire) :=
  ⟨s.me.wg d v, (Thread.wg_regsOnly s.me d v false).sameLoops, by rw [State.retire, State.wg, State.me_setMe, State.setMe_setMe]⟩

theorem completes_wv (s : State) (d : Nat) (v : Vec) : Completes s (.next (s.wv d v).retire) :=
  ⟨s.me.wv d v, (Thread.wv_regsOnly s.me d v false).sameLoops, by rw [State.retire, State.wv, State.me_setMe, State.setMe_setMe]⟩

theorem completes_wk (s : State) (d : Nat) (v : BitVec 8) : Completes s (.next (s.wk d v).retire) :=
  ⟨s.me.wk d v, (Thread.wk_regsOnly s.me d v false).sameLoops, by rw [State.retire, State.wk, State.me_setMe, State.setMe_setMe]⟩

theorem completes_wk_flags (s : State) (d : Nat) (v : BitVec 8) (f : Nat) :
    Completes s (.next ((s.wk d v).setMe ((s.wk d v).me.setFlags f)).retire) :=
  ⟨(s.me.wk d v).setFlags f, (Thread.wk_regsOnly s.me d v false).sameLoops.setFlags f, by
    simp only [State.retire, State.wk, State.me_setMe, State.setMe_setMe]⟩

theorem completes_putF (s : State) (d : Nat) (r : Nat × Nat) : Completes s (s.putF d r) :=
  ⟨_, (Thread.wg_regsOnly s.me d _ false).sameLoops.setFlags r.2, s.putF_next d r⟩

theorem completes_putV (s : State) (d : Nat) (r : Vec × Nat) : Completes s (s.putV d r) :=
  ⟨_, (Thread.wv_regsOnly s.me d r.1 false).sameLoops.setFlags r.2, s.putV_next d r⟩

/-- A ready thread's instruction that no window and no rule of its own bars completes where its effect does. -/
theorem completes_issue {s : State} {u : Use} {body : State → Result} (h : s.ready u.gs u.vs u.ks = true) (hw : u.barred = false)
    (hi : u.illegal = false) (hb : Completes s (body s)) : Completes s (s.issue u body) := by
  rw [State.issue_ready h (fun hbar => by simp [hw] at hbar) hi]
  exact hb

/-- A well-formed vcmp breaks neither of its rules (R107). -/
theorem vcmp_legal {kd : K} {cond : Fin 6} {float : Bool} (h : ((kd.val != 0) && (!float || cond.val != 5)) = true) :
    (decide (kd.val = 0) || (float && decide (cond.val = 5))) = false := by
  simp only [Bool.and_eq_true, Bool.or_eq_true, Bool.not_eq_true', bne_iff_ne] at h
  obtain ⟨hkd, hfloat | hcond⟩ := h
  · simp [hkd, hfloat]
  · simp [hkd, hcond]

/-- Of an instruction on registers alone that is well-formed and ready, only registers change until it completes. -/
theorem exec_completes {i : Instr} {S : Shape} {s : State} (hS : shapeOf i = some S) (hwf : i.wf = true)
    (hr : s.ready S.gs S.vs S.ks = true) : Completes s (exec i s) := by
  cases i with
  | add | sub | and | or | xor | andn | orn | sll | srl | sra | rol | ror | slt | sltu | seq | sne | min | max | minu | maxu | mul | mulh |
  mulhu | mulhsu | div | divu | rem | remu | clz | ctz | popc | brev | bswap | sextB | sextH | sextW | zextW | addi | andi | ori | xori | slti
  | sltiu | slli | srli | srai | rori | lui | adpc | madr | mrel | extrK =>
    cases hS
    apply completes_issue
    case hb => apply completes_wg
    case h => exact hr
    all_goals rfl
  | bfx | bfi =>
    cases hS
    apply completes_issue
    case hb => apply completes_wg
    case h => exact hr
    case hw => rfl
    case hi => exact decide_eq_false (Nat.not_lt.mpr (of_decide_eq_true hwf))
  | extr =>
    cases hS
    apply completes_issue
    case hb => apply completes_wg
    case h => exact hr
    case hw => rfl
    case hi => exact congrArg not hwf
  | faddD | fsubD | fmulD | fdivD | fsqrtD | fminD | fmaxD | fsgnjD | fsgnjnD | fsgnjxD | fclassD | feqD | fltD | fleD | faddS | fsubS | fmulS
  | fdivS | fsqrtS | fminS | fmaxS | fsgnjS | fsgnjnS | fsgnjxS | fclassS | feqS | fltS | fleS | fmaD | fmsD | fmaS | fmsS =>
    cases hS
    apply completes_issue
    case hb => apply completes_putF
    case h => exact hr
    all_goals rfl
  | fcvt =>
    cases hS
    apply completes_issue
    case hb => apply completes_putF
    case h => exact hr
    case hw => rfl
    case hi => exact congrArg not hwf
  | vfaddD | vfsubD | vfmulD | vfdivD | vfsqrtD | vfminD | vfmaxD | vfsgnjD | vfsgnjnD | vfsgnjxD | vfclassD | vfaddS | vfsubS | vfmulS |
  vfdivS | vfsqrtS | vfminS | vfmaxS | vfsgnjS | vfsgnjnS | vfsgnjxS | vfclassS | vfmaD | vfmsD | vfnmaD | vfnmsD | vfmaS | vfmsS | vfnmaS |
  vfnmsS | vadd | vsub | vadds | vaddus | vsubs | vsubus | vmul | vmulh | vmulhu | vand | vor | vxor | vsll | vsrl | vsra | vmin | vmax |
  vminu | vmaxu | vabs | vsel | vredAdd | vredAnd | vredOr | vredXor | vredMin | vredMax | vredMinu | vredMaxu | splat | vperm =>
    cases hS
    apply completes_issue
    case hb => apply completes_putV
    case h => exact hr
    all_goals rfl
  | vredFadd | vredFmin | vredFmax | vcvt =>
    cases hS
    apply completes_issue
    case hb => apply completes_putV
    case h => exact hr
    case hw => rfl
    case hi => exact congrArg not hwf
  | ins =>
    cases hS
    apply completes_issue
    case hb => apply completes_wv
    case h => exact hr
    case hw => rfl
    case hi => exact congrArg not hwf
  | insK | kand | kor | kxor | kandn | knot | kli =>
    cases hS
    apply completes_issue
    case hb => apply completes_wk
    case h => exact hr
    case hw => rfl
    case hi => exact decide_eq_false (bne_iff_ne.mp hwf)
  | vcmp =>
    cases hS
    apply completes_issue
    case hb => apply completes_wk_flags
    case h => exact hr
    case hw => rfl
    case hi => exact vcmp_legal hwf
  | _ => cases hS

end Sys2Proof.Machine
end

section
/-! SUPPORT. Branches and jumps (R56, R57). -/

namespace Sys2Proof.Machine

/-! ### Taken transfers -/

theorem State.jumps_transfer (s : State) (a : Word) : Jumps s (s.transfer a) a :=
  ⟨congrArg Thread.pc (s.me_setMe (s.me.jump a)),
    (RegsOnly.refl s.me false).frame (Thread.jump_advanced s.me a) (Thread.jump_loops s.me a)⟩

theorem State.unwound_transfer (s : State) (a : Word) : Unwound s.me (s.transfer a).me a :=
  (s.me_setMe (s.me.jump a)).symm ▸ (RegsOnly.refl s.me false).sameLoops.unwound a

theorem State.wg_transfer (s : State) (d : Nat) (v a : Word) : (s.wg d v).transfer a = s.setMe ((s.me.wg d v).jump a) := by
  rw [State.transfer, State.wg, State.me_setMe, State.setMe_setMe]

/-- A taken transfer that leaves a value in g[d] on its way (R57). -/
theorem State.links_transfer (s : State) (d : Nat) (v a : Word) : Links s ((s.wg d v).transfer a) d v a := by
  have hr : RegsOnly s.me (s.me.wg d v) [d] [] [] false := Thread.wg_regsOnly s.me d v false
  have ha := Thread.jump_advanced (s.me.wg d v) a
  rw [State.wg_transfer]
  refine ⟨?_, congrArg Thread.pc (s.me_setMe _), hr.frame ha (Thread.jump_loops _ a)⟩
  unfold State.rg
  rw [State.me_setMe, ha.g d (Thread.wg_pending s.me d v), Thread.rg_wg]
  by_cases h : d = 0 <;> simp [h, Thread.rg_zero]

theorem State.link_unwound (s : State) (d : Nat) (v a : Word) :
    Unwound s.me ((s.wg d v).transfer a).me ((s.wg d v).transfer a).me.pc := by
  rw [(s.links_transfer d v a).pc, State.wg_transfer, State.me_setMe]
  exact (Thread.wg_regsOnly s.me d v false).sameLoops.unwound a

theorem wordsOff_eq {n : Nat} (imm : BitVec n) : wordsOff imm = BitVec.ofInt 64 (4 * imm.toInt) := by
  rw [wordsOff, signExtend_shiftLeft, Int.mul_comm]
  rfl

/-! ### Branches (R56) -/

theorem State.ready_g_iff (s : State) (gs : List Nat) : s.ready gs [] [] = true ↔
    (∀ p ∈ s.me.pending, p.left = 0 → ∀ n ∈ gs, p.reg ≠ .g n) ∧ ∀ n ∈ gs, n < (s.allot s.who).1 := by
  have hheld : s.held ⟨0, gs, [], [], false, false⟩ = none ↔ ∀ p ∈ s.me.pending, p.left = 0 → ∀ n ∈ gs, p.reg ≠ .g n := by
    simp only [State.held, Option.map_eq_none_iff, List.find?_eq_none]
    refine forall₂_congr fun p _ => ?_
    cases hr : p.reg with
    | g n => simp [List.forall_mem_ne]
    | v n => simp
  simp only [State.ready, Bool.and_eq_true, Option.isNone_iff_eq_none, hheld, State.inRange, List.all_nil, Bool.and_true, List.all_eq_true,
    decide_eq_true_eq]

/-- A thread that is ready with some operands is ready with fewer. -/
theorem State.ready_of_subset {s : State} {gs hs : List Nat} (h : s.ready gs [] [] = true) (hsub : hs ⊆ gs) : s.ready hs [] [] = true := by
  obtain ⟨hheld, hrange⟩ := (s.ready_g_iff gs).mp h
  exact (s.ready_g_iff hs).mpr ⟨fun p hp hl n hn => hheld p hp hl n (hsub hn), fun n hn => hrange n (hsub hn)⟩

theorem branch_next {s : State} {a b : G} (h : s.ready [a, b] [] [] = true) (word : Nat) (imm : BitVec 13) (cond : Word → Word → Bool) :
    s.branch word a b imm cond =
      .next (if cond (s.rg a) (s.rg b) then s.transfer (s.me.pc + BitVec.ofInt 64 (4 * imm.toInt)) else s.retire) := by
  rw [State.branch, State.issue_ready (u := useG word [a, b]) h (s.open_useG word [a, b]) rfl, wordsOff_eq]

/-- Where its condition holds a branch is a taken transfer, else the next word follows. -/
theorem branch_goes {i : Instr} {s : State} {word : Nat} {a b : G} {imm : BitVec 13} {cond : Word → Word → Bool} {taken : Prop}
    (hi : exec i s = s.branch word a b imm cond) (hc : cond (s.rg a) (s.rg b) = true ↔ taken) (h : s.ready [a, b] [] [] = true) :
    ∃ t, exec i s = .next t ∧ (taken → Jumps s t (s.me.pc + BitVec.ofInt 64 (4 * imm.toInt))) ∧ (¬ taken → Passes s t) := by
  refine ⟨_, hi.trans (branch_next h word imm cond), fun ht => ?_, fun ht => ?_⟩
  · rw [if_pos (hc.mpr ht)]; exact s.jumps_transfer _
  · rw [if_neg (ht ∘ hc.mp)]; exact s.passes_retire

/-- A taken branch pops the loop levels that its target leaves. -/
theorem branch_unwound {i : Instr} {s t : State} {word : Nat} {a b : G} {imm : BitVec 13} {cond : Word → Word → Bool}
    (hi : exec i s = s.branch word a b imm cond) (hc : cond (s.rg a) (s.rg b) = true) (h : s.ready [a, b] [] [] = true)
    (ht : exec i s = .next t) : Unwound s.me t.me t.me.pc := by
  rw [hi, branch_next h word imm cond, if_pos hc] at ht
  obtain rfl := Host.Outcome.next.inj ht
  rw [(s.jumps_transfer _).pc]
  exact s.unwound_transfer _

theorem not_slt_iff (x y : Word) : (!x.slt y) = true ↔ y.toInt ≤ x.toInt := by
  rw [Bool.not_eq_true', ← Bool.not_eq_true, slt_iff, Int.not_lt]

theorem not_ult_iff (x y : Word) : (!x.ult y) = true ↔ y.toNat ≤ x.toNat := by
  rw [Bool.not_eq_true', ← Bool.not_eq_true, ult_iff, Nat.not_lt]

/-! ### jal and jalr (R57) -/

theorem exec_jal_ready {d : G} {s : State} (far : BitVec 19) (h : s.ready [d] [] [] = true) :
    exec (.jal d far) s = .next ((s.wg d (s.me.pc + 4)).transfer (s.me.pc + BitVec.ofInt 64 (4 * far.toInt))) := by
  change execJal d far s = _
  rw [execJal, State.issue_ready (u := useG (encU 0x16 far.toNat d) [d]) h (s.open_useG _ [d]) rfl, wordsOff_eq]

theorem exec_jalr_ready {d a : G} {s : State} (imm : BitVec 13) (h : s.ready [d, a] [] [] = true) :
    exec (.jalr d a imm) s = if (s.rg a + BitVec.ofInt 64 imm.toInt).toNat % 4 ≠ 0 then s.takeTrap causeAlign (s.rg a + BitVec.ofInt 64 imm.toInt)
      else .next ((s.wg d (s.me.pc + 4)).transfer (s.rg a + BitVec.ofInt 64 imm.toInt)) := by
  change execJalr d a imm s = _
  rw [execJalr, State.issue_ready (u := useG (encI 0x17 imm.toNat d a) [d, a]) h (s.open_useG _ [d, a]) rfl]
  rfl

/-- Settles O15: a taken branch, jal and jalr are each one transfer, which unwinds the loop levels; a branch that is not taken passes. -/
theorem branchesAndJumps : Obligations.BranchesAndJumps := by
  unfold Obligations.BranchesAndJumps
  refine ⟨fun d a b imm far s => ⟨?_, ?_, ?_, ?_, ?_, ?_, ?jal, fun h => ⟨?jalr, ?align⟩⟩,
    fun d a b imm far s t h => ⟨?_, ?_, ?_, ?_, ?_, ?_, ?jalPops, ?jalrPops⟩⟩
  · exact branch_goes rfl beq_iff_eq
  · exact branch_goes rfl bne_iff_ne
  · exact branch_goes rfl (slt_iff _ _)
  · exact branch_goes (cond := fun x y => !x.slt y) rfl (not_slt_iff _ _)
  · exact branch_goes rfl (ult_iff _ _)
  · exact branch_goes (cond := fun x y => !x.ult y) rfl (not_ult_iff _ _)
  case jal => exact fun h => ⟨_, exec_jal_ready far h, s.links_transfer _ _ _⟩
  case jalr => exact fun ha => ⟨_, (exec_jalr_ready imm h).trans (if_neg (not_not.mpr ha)), s.links_transfer _ _ _⟩
  case align => exact fun ha => (exec_jalr_ready imm h).trans (if_pos ha)
  case jalPops =>
    intro ht
    rw [exec_jal_ready far (State.ready_of_subset h (by simp))] at ht
    obtain rfl := Host.Outcome.next.inj ht
    exact s.link_unwound _ _ _
  case jalrPops =>
    intro ha ht
    rw [exec_jalr_ready imm (State.ready_of_subset h (by simp)), if_neg (not_not.mpr ha)] at ht
    obtain rfl := Host.Outcome.next.inj ht
    exact s.link_unwound _ _ _
  all_goals
    have hab : s.ready [a, b] [] [] = true := State.ready_of_subset h (List.subset_cons_self _ _)
    intro hc ht
  · exact branch_unwound rfl (beq_iff_eq.mpr hc) hab ht
  · exact branch_unwound rfl (bne_iff_ne.mpr hc) hab ht
  · exact branch_unwound rfl ((slt_iff _ _).mpr hc) hab ht
  · exact branch_unwound (cond := fun x y => !x.slt y) rfl ((not_slt_iff _ _).mpr hc) hab ht
  · exact branch_unwound rfl ((ult_iff _ _).mpr hc) hab ht
  · exact branch_unwound (cond := fun x y => !x.ult y) rfl ((not_ult_iff _ _).mpr hc) hab ht

end Sys2Proof.Machine
end

section
/-! SUPPORT. The opening of loops (R58) and the end test of completed instructions (R59). -/

namespace Sys2Proof.Machine

/-! ### Opening a loop level -/

/-- The address of the last instruction of a body of e words at the issuing thread's PC (R58). -/
def State.lastOf (s : State) (e : Int) : Word := s.me.pc + BitVec.ofInt 64 (4 * e)

/-- The conditions under which a loop over e words with the count n is ILLEGAL (R58). -/
def State.BadLoop (s : State) (e : Int) (n : Word) : Prop :=
  e ≤ 0 ∨ roleOf s.who = 2 ∨ (0 < s.me.ldepth.toNat ∧ (sget 0 s.me.lend (s.me.ldepth.toNat - 1)).toNat < (s.lastOf e).toNat) ∨
    (n ≠ 0 ∧ s.me.ldepth.toNat = 4)

/-- From s to t the issuing thread has opened a loop level over the next words up to `last`, with the count n, and goes on at the next word; of every other
level and register only those that late results were due for have changed. -/
def Opens (s t : State) (last n : Word) : Prop :=
  t.me.pc = s.me.pc + 4 ∧ t.me.ldepth.toNat = s.me.ldepth.toNat + 1 ∧
  sget 0 t.me.lstart s.me.ldepth.toNat = s.me.pc + 4 ∧ sget 0 t.me.lend s.me.ldepth.toNat = last ∧ sget 0 t.me.lcount s.me.ldepth.toNat = n ∧
  (∀ l, l ≠ s.me.ldepth.toNat → sget 0 t.me.lstart l = sget 0 s.me.lstart l ∧ sget 0 t.me.lend l = sget 0 s.me.lend l ∧
    sget 0 t.me.lcount l = sget 0 s.me.lcount l) ∧
  { t.me with pc := s.me.pc, g := s.me.g, v := s.me.v, lstart := s.me.lstart, lend := s.me.lend, lcount := s.me.lcount,
              ldepth := s.me.ldepth, pending := s.me.pending, window := s.me.window, wait := s.me.wait } = s.me ∧
  (∀ m, (∀ p ∈ s.me.pending, p.reg ≠ .g m) → t.rg m = s.rg m) ∧
  (∀ m, (∀ p ∈ s.me.pending, p.reg ≠ .v m) → t.rv m = s.rv m) ∧
  { t with threads := s.threads } = s ∧ ∀ m, m ≠ s.who → t.thr m = s.thr m

theorem loopEnd_eq {s : State} {len : Nat} {e : Int} (h : (len : Int) = e) : loopEnd s.me.pc len = s.lastOf e := by
  rw [loopEnd, State.lastOf, ← h, ← BitVec.ofInt_natCast]
  push_cast
  rfl

theorem State.openLoop_zero (s : State) (last : Word) : s.openLoop last 0 = .next (s.transfer (last + 4)) := if_pos rfl

theorem State.openLoop_opens {s : State} {n : Word} (last : Word) (hn : n ≠ 0) (hd : s.me.ldepth.toNat < 2 ^ 64 - 1) :
    ∃ t, s.openLoop last n = .next t ∧ Opens s t last n := by
  have hc := s.me.count_counted
  obtain ⟨hpc, hstart, hend, hcount, hdepth⟩ := hc.sameLoops
  obtain ⟨hsame, hg, hv⟩ := hc
  refine ⟨_, if_neg hn, ?_⟩
  unfold Opens
  simp only [State.me_setMe, State.rg, State.rv]
  generalize s.me.count = c at *
  refine ⟨congrArg (· + 4) hpc, ?depth, ?_, ?_, ?_, fun l hl => ⟨?_, ?_, ?_⟩, ?same, hg, hv, rfl, fun m hm => State.thr_setMe_ne s m _ hm⟩ <;>
    simp only [Thread.pushLoop, hpc, hstart, hend, hcount, hdepth, sget_sset_self]
  case depth => rw [BitVec.toNat_add]; simp; omega
  case same => rw [← hsame]
  all_goals exact sget_sset_ne _ _ _ _ _ hl

theorem eq_four_iff (x : Word) : x = 4 ↔ x.toNat = 4 := (BitVec.toNat_inj (y := 4)).symm

theorem setWidth_eq_zero_iff (count : BitVec 10) : (count.setWidth 64 : Word) = 0 ↔ count = 0 := by
  rw [← BitVec.toNat_inj, ← BitVec.toNat_inj, BitVec.toNat_setWidth, Nat.mod_eq_of_lt (by omega)]
  rfl

/-- The ILLEGAL conditions as the model tests them: b says that the body has no words, deep that a fifth level would open. -/
theorem badLoop_iff {s : State} {e : Int} {n : Word} {len : Nat} {b deep : Bool} (hb : b = true ↔ e ≤ 0) (hlen : 0 < e → (len : Int) = e)
    (hdeep : deep = true ↔ n ≠ 0 ∧ s.me.ldepth.toNat = 4) :
    (b || decide (s.role = 2) || s.me.badNest (loopEnd s.me.pc len) || deep) = true ↔ s.BadLoop e n := by
  rw [Bool.or_eq_true, Bool.or_eq_true, Bool.or_eq_true, hb, hdeep, decide_eq_true_iff, State.BadLoop, or_assoc, or_assoc]
  by_cases he : e ≤ 0
  · simp only [he, true_or]
  · rw [loopEnd_eq (hlen (by omega)), Thread.badNest, Bool.and_eq_true, decide_eq_true_iff, decide_eq_true_iff]
    rfl

/-- What loop and loopi do on a ready thread. -/
theorem loop_claims {i : Instr} {gs : List Nat} {e : Int} {n : Word} {s : State} {len : Nat} {b deep : Bool}
    (hexec : exec i s = s.issue ((useG (encode i) gs).ill (b || decide (s.role = 2) || s.me.badNest (loopEnd s.me.pc len) || deep))
      fun s' => s'.openLoop (loopEnd s.me.pc len) n)
    (hb : b = true ↔ e ≤ 0) (hlen : 0 < e → (len : Int) = e) (hdeep : deep = true ↔ n ≠ 0 ∧ s.me.ldepth.toNat = 4)
    (h : s.ready gs [] [] = true) :
    (s.BadLoop e n → exec i s = s.takeTrap causeIllegal (BitVec.ofNat 64 (encode i))) ∧
    (¬ s.BadLoop e n → n = 0 → ∃ t, exec i s = .next t ∧ Jumps s t (s.lastOf e + 4) ∧ Unwound s.me t.me (s.lastOf e + 4)) ∧
    (¬ s.BadLoop e n → n ≠ 0 → s.me.ldepth.toNat < 2 ^ 64 - 1 → ∃ t, exec i s = .next t ∧ Opens s t (s.lastOf e) n) := by
  have hbad := badLoop_iff hb hlen hdeep
  generalize hill : (b || decide (s.role = 2) || s.me.badNest (loopEnd s.me.pc len) || deep) = ill at hexec hbad
  have hopens : ¬ s.BadLoop e n → exec i s = s.openLoop (s.lastOf e) n := fun hok => by
    have hlast : loopEnd s.me.pc len = s.lastOf e := loopEnd_eq (hlen (by by_contra he; exact hok (.inl (by omega))))
    rw [hexec, State.issue_ready (u := (useG (encode i) gs).ill ill) h (s.open_useG (encode i) gs)
      (Bool.eq_false_iff.mpr fun ht => hok (hbad.mp ht)), hlast]
  refine ⟨fun hb => ?_, fun hok hn => ?_, fun hok hn hd => ?_⟩
  · rw [hexec]
    exact State.issue_illegal (u := (useG (encode i) gs).ill ill) h (hbad.mpr hb) _
  · subst hn
    exact ⟨_, (hopens hok).trans (s.openLoop_zero _), s.jumps_transfer _, s.unwound_transfer _⟩
  · rw [hopens hok]
    exact State.openLoop_opens _ hn hd

/-- Settles O8: until an instruction on registers alone completes it changes no loop register, and the end test is what completion does to them. -/
theorem endTestsAndLoops : Obligations.EndTestsAndLoops := by
  unfold Obligations.EndTestsAndLoops
  refine ⟨fun i S s hS hwf hr => (exec_completes hS hwf hr).endTested, fun a imm count len s => ⟨fun h => ?loop, fun h => ?loopi⟩⟩
  case loop =>
    refine loop_claims (i := .loop a imm) (len := imm.toNat) rfl decide_eq_true_iff (fun he => ?_) ?_ h
    · rw [BitVec.toInt_eq_toNat_cond] at he ⊢
      omega
    · rw [State.hasG_of_ready h, Bool.true_and, decide_eq_true_iff, eq_four_iff]
  case loopi =>
    refine loop_claims (i := .loopi count len) (len := len.toNat) rfl ?_ (fun _ => rfl) ?_ h
    · rw [decide_eq_true_iff, ← BitVec.toNat_inj]
      exact Int.natCast_nonpos_iff.symm
    · rw [decide_eq_true_iff, eq_four_iff]
      exact and_congr_left' (not_congr (setWidth_eq_zero_iff count).symm)

end Sys2Proof.Machine
end

section
/-! SUPPORT. Atomics and claims at their home (R62, R140, R141). -/

namespace Sys2Proof.Machine

/-! ### Serving a message -/

/-- The state in which H of a core serves the message that stood first in its inbox. -/
def State.took (s : State) (core : Nat) : State := s.setCore core { s.core core with inbox := (s.core core).inbox.tail }

theorem pickHandle_head {s : State} {core : Nat} {m : Msg} {p : Msg → Bool} (hm : (s.core core).inbox.head? = some m) (hk : m.kind = 0)
    (ha : s.atomicBefore m.firing m.serial = false) (hp : p m = true) : s.pickHandle core p = some m := by
  unfold State.pickHandle
  generalize (s.core core).inbox = l at *
  cases l with
  | nil => cases hm
  | cons a l =>
    obtain rfl : a = m := Option.some.inj hm
    simp [hk, ha, hp]

/-- H serves the message that it serves next. -/
theorem Serves.handleKind {s : State} {core : Nat} {m : Msg} (h : Serves s core m) {p : Msg → Bool} (hp : p m = true)
    (serve : State → Msg → State) : s.handleKind core p serve = .next (serve (s.took core) m) := by
  have htail := (find_head h.first p hp).2
  simp [State.handleKind, s.arriveAt_quiet core h.quiet, h.free, h.runs, pickHandle_head h.first h.handle h.after hp, htail, State.took]

theorem Msg.isOp_iff {m : Msg} (hw : m.words = []) (op : Nat) : m.isOp op = true ↔ m.op = op := by simp [Msg.isOp, hw]

theorem State.serveAt_clean {s : State} {m : Msg} {n : Nat} (hp : s.poisoned m.key n = false) (hc : s.codeLocked m.key n = false)
    (f : State → State) : s.serveAt m n f = f s := by simp [State.serveAt, hp, hc]

/-! ### What a served operation leaves -/

/-- From s to u H has taken the first message of a core's inbox, and since then nothing but memory and what tells of it has changed. -/
def TookAndWrote (s u : State) (core : Nat) : Prop :=
  { u with mem := s.mem, poison := s.poison, codeCache := s.codeCache } = s.took core

theorem TookAndWrote.refl (s : State) (core : Nat) : TookAndWrote s (s.took core) core := rfl

theorem State.putAt_unlocked {s : State} {m : Msg} {k n : Nat} (hc : s.codeLocked k n = false) (v : Word) :
    s.putAt m k n v = (s.setBytes k n v.toNat).touched k n := by simp [State.putAt, hc]

theorem TookAndWrote.putAt (s : State) (core : Nat) {m : Msg} {k n : Nat} (hc : s.codeLocked k n = false) (v : Word) :
    TookAndWrote s ((s.took core).putAt m k n v) core := by
  rw [State.putAt_unlocked (s := s.took core) hc]
  exact congrArg (fun x : State => { x with poison := s.poison, codeCache := s.codeCache }) ((s.took core).setBytes_rest n k v.toNat)

theorem State.core_took (s : State) (core c : Nat) : (s.took core).core c =
    if c = core then { s.core core with inbox := (s.core core).inbox.tail } else s.core c := State.core_setCore _ _ _ _

section
variable {s u : State} {core : Nat} (h : TookAndWrote s u core)
include h

theorem TookAndWrote.core_eq (c : Nat) : u.core c = (s.took core).core c := by
  rw [State.core, show u.cores = (s.took core).cores from (congrArg State.cores h :)]
  rfl

theorem TookAndWrote.cap_eq (n : Nat) : u.cap n = s.cap n := by
  rw [State.cap, show u.capsules = s.capsules from (congrArg State.capsules h :)]
  rfl

theorem TookAndWrote.servedFrame : ServedFrame s u core := by
  refine ⟨?_, fun c hc => ?_, (congrArg State.threads h :), (congrArg State.tags h :), (congrArg State.outbox h :)⟩
  · rw [h.core_eq, State.core_took, if_pos rfl]
  · rw [h.core_eq, State.core_took, if_neg hc]

theorem TookAndWrote.originOf_eq (t : Nat) : u.originOf t = s.originOf t := by
  have hcoord : (u.core (coreOf t)).coord = (s.core (coreOf t)).coord := by
    rw [h.core_eq, State.core_took]
    split
    · next hc => rw [hc]
    · rfl
  rw [State.originOf, hcoord]
  rfl

/-- The old value leaves as the REPLY of the request, and it alone is on its way. -/
theorem TookAndWrote.answer_net (hq : s.net = []) (m : Msg) (v : Word) : (u.answer core m v).net =
    [{ replyMsg m.capsule core (s.originOf (hThread core)) m.reply m.firing m.request v with serial := s.nextId }] := by
  have hsame : u.net = s.net := (congrArg State.net h :)
  have hnet : u.net = [] := hsame.trans hq
  have hid : u.nextId = s.nextId := (congrArg State.nextId h :)
  rw [State.answer, h.originOf_eq, State.send, hnet, hid]
  rfl

theorem TookAndWrote.answer_frame (m : Msg) (v : Word) : ServedFrame s (u.answer core m v) core := by
  obtain ⟨inbox, others, threads, tags, outbox⟩ := h.servedFrame
  exact ⟨inbox, others, threads, tags, outbox⟩

end

/-! ### The end of a posted operation -/

theorem State.completeNumber_inbox (s : State) (core ch n c : Nat) : ((s.completeNumber core ch n).core c).inbox = (s.core c).inbox := by
  unfold State.completeNumber
  split
  · rfl
  · dsimp only
    rw [State.core_setCore]
    split
    · next h => subst h; rfl
    · rfl

/-- A posted operation ends: its unit and its number, and nothing else of what H leaves (R129, R147). -/
theorem TookAndWrote.endMessage {s u : State} {core : Nat} (h : TookAndWrote s u core) {m : Msg} (hr : m.request = 0) :
    ServedFrame s (u.endMessage m) core ∧ (u.endMessage m).net = s.net ∧ (u.endMessage m).mem = u.mem ∧
      ((u.endMessage m).cap m.capsule).outstanding = (s.cap m.capsule).outstanding - 1 := by
  have he : u.endMessage m = (u.subCount m.capsule 1).completeNumber m.sender 7 m.number := if_pos hr
  have hrest := State.completeNumber_rest (u.subCount m.capsule 1) m.sender 7 m.number
  have hinbox := State.completeNumber_inbox (u.subCount m.capsule 1) m.sender 7 m.number
  rw [← he] at hrest hinbox
  have hcaps : (u.endMessage m).capsules = (u.subCount m.capsule 1).capsules := (congrArg State.capsules hrest :)
  obtain ⟨inbox, others, threads, tags, outbox⟩ := h.servedFrame
  refine ⟨⟨(hinbox core).trans inbox, fun c hc => (hinbox c).trans (others c hc), (congrArg State.threads hrest :).trans threads,
    (congrArg State.tags hrest :).trans tags, (congrArg State.outbox hrest :).trans outbox⟩,
    (congrArg State.net hrest :).trans (congrArg State.net h :), (congrArg State.mem hrest :), ?_⟩
  rw [State.cap, hcaps]
  exact congrArg Capsule.outstanding (State.subCount_cap u m.capsule 1) |>.trans (by rw [h.cap_eq])

/-! ### What a served operation writes -/

theorem State.took_bytes (s : State) (core k n : Nat) : (s.took core).bytes k n = s.bytes k n :=
  State.bytes_of_mem (s := s.took core) (t := s) rfl k n

theorem State.answer_bytes (u : State) (core : Nat) (m : Msg) (v : Word) (k n : Nat) : (u.answer core m v).bytes k n = u.bytes k n :=
  State.bytes_of_mem (s := u.answer core m v) (t := u) rfl k n

theorem putAt_bytes {s : State} {core n k : Nat} {m : Msg} (hc : s.codeLocked k n = false) (v : Word) :
    ((s.took core).putAt m k n v).bytes k n = v.toNat % 256 ^ n := by
  rw [State.putAt_unlocked (s := s.took core) hc]
  exact (State.bytes_of_mem (s := ((s.took core).setBytes k n v.toNat).touched k n) (t := (s.took core).setBytes k n v.toNat) rfl k n).trans
    (State.bytes_setBytes _ _ _ _)

theorem putAt_frame {s : State} {core n k : Nat} {m : Msg} (hc : s.codeLocked k n = false) (v : Word) :
    MemFrame s ((s.took core).putAt m k n v) (span k n) := fun j hj => by
  rw [State.putAt_unlocked (s := s.took core) hc]
  exact (State.byte_setBytes (s.took core) n k v.toNat j).trans (if_neg hj)

theorem putAt_mem64 {s : State} {core k : Nat} {m : Msg} (hc : s.codeLocked k 8 = false) (v : Word) :
    ((s.took core).putAt m k 8 v).mem64 k = v := by
  rw [State.mem64, putAt_bytes hc, Nat.mod_eq_of_lt (show v.toNat < 256 ^ 8 from v.isLt), BitVec.ofNat_toNat, BitVec.setWidth_eq]

theorem bytes_lt (s : State) (k n : Nat) : s.bytes k n < 256 ^ n := by
  induction n generalizing k with
  | zero => exact Nat.one_pos
  | succ n ih =>
    have := ih (k + 1)
    have := (s.byte k).isLt
    rw [State.bytes, Nat.pow_succ]
    omega

/-- The rows of R140. -/
def atomicRow (w v : Word) (fn : Nat) : Word :=
  match fn with
  | 0 => w + v
  | 1 => w &&& v
  | 2 => w ||| v
  | 3 => w ^^^ v
  | 4 => if w.toInt ≤ v.toInt then w else v
  | 5 => if w.toInt ≤ v.toInt then v else w
  | 6 => v
  | _ => BitVec.ofNat 64 (fadd fmt64 0 w.toNat v.toNat).1

theorem amoResult_eq (fn : Nat) (w v : Word) : amoResult fn w v = atomicRow w v fn :=
  match fn with
  | 0 | 1 | 2 | 3 | 6 => rfl
  | 4 => (ite_slt w v).1
  | 5 => (ite_slt w v).2
  | _ + 7 => rfl

/-! ### The handlers -/

theorem amoHandler_next {s : State} {core : Nat} {m : Msg} (h : Serves s core m) (hop : m.isOp 0x30 = true)
    (hp : s.poisoned m.key 8 = false) (hc : s.codeLocked m.key 8 = false) :
    exec (.amoHandler core) s =
      .next (((s.took core).putAt m m.key 8 (atomicRow (s.mem64 m.key) m.op1 m.fn)).answer core m (s.mem64 m.key)) := by
  change execAmoHandler core s = _
  rw [execAmoHandler, h.handleKind hop, State.serveAt_clean (s := s.took core) hp hc, ← amoResult_eq]
  rfl

theorem amopHandler_next {s : State} {core : Nat} {m : Msg} (h : Serves s core m) (hop : m.isOp 0x31 = true)
    (hp : s.poisoned m.key 8 = false) (hc : s.codeLocked m.key 8 = false) :
    exec (.amopHandler core) s = .next (((s.took core).putAt m m.key 8 (atomicRow (s.mem64 m.key) m.op1 m.fn)).endMessage m) := by
  change execAmopHandler core s = _
  rw [execAmopHandler, h.handleKind hop, State.serveAt_clean (s := s.took core) hp hc, ← amoResult_eq]
  rfl

/-- A compare-and-swap writes where the old value is the low bytes of its first operand. -/
theorem casHandler_next {s : State} {core : Nat} {m : Msg} (h : Serves s core m) (hop : m.isOp 0x32 = true) (hsize : m.size ≤ 8)
    (hp : s.poisoned m.key m.size = false) (hc : s.codeLocked m.key m.size = false) :
    exec (.casHandler core) s = .next ((if s.bytes m.key m.size = m.op1.toNat % 2 ^ (8 * m.size)
      then (s.took core).putAt m m.key m.size m.op2 else s.took core).answer core m (BitVec.ofNat 64 (s.bytes m.key m.size))) := by
  have hlt : s.bytes m.key m.size < 2 ^ 64 :=
    Nat.lt_of_lt_of_le (bytes_lt s m.key m.size) (show 256 ^ m.size ≤ 256 ^ 8 from Nat.pow_le_pow_right (by decide) hsize)
  have hw : (BitVec.ofNat 64 (s.bytes m.key m.size)).toNat = s.bytes m.key m.size := by rw [BitVec.toNat_ofNat, Nat.mod_eq_of_lt hlt]
  change execCasHandler core s = _
  rw [execCasHandler, h.handleKind hop, State.serveAt_clean (s := s.took core) hp hc]
  simp only [State.took_bytes, hw, decide_eq_true_eq]

/-- A claim writes the next field where its chunk gives a new one. -/
theorem claimHandler_next {s : State} {core : Nat} {m : Msg} (h : Serves s core m) (hop : m.isOp 0x1A = true)
    (hp : s.poisoned m.key 24 = false) (hc : s.codeLocked m.key 24 = false) {r : Word × Option Word}
    (hr : claimChunk (s.mem64 m.key) (s.mem64 (m.key + 8)) (s.mem64 (m.key + 16)) = r) :
    exec (.claimHandler core) s = .next ((r.2.elim (s.took core) ((s.took core).putAt m m.key 8)).answer core m r.1) := by
  have hmem : ∀ k, (s.took core).mem64 k = s.mem64 k := fun _ => rfl
  change execClaimHandler core s = _
  rw [execClaimHandler, h.handleKind hop, State.serveAt_clean (s := s.took core) hp hc]
  simp only [hmem, hr]
  cases r.2 <;> rfl

/-- A chunk of a descriptor with nothing left is 0 and writes nothing (R62). -/
theorem claimChunk_empty {d0 d1 : Word} (d2 : Word) (h : d1.toNat % 2 ^ 40 ≤ d0.toNat % 2 ^ 40) : claimChunk d0 d1 d2 = (0, none) := if_pos h

/-- Half of what remains over P, rounded up, lies between its two bounds (R62). -/
theorem claimChunk_some {d0 d1 : Word} (d2 : Word) (h : d0.toNat % 2 ^ 40 < d1.toNat % 2 ^ 40) :
    let left := d1.toNat % 2 ^ 40 - d0.toNat % 2 ^ 40
    let p := max 1 (min d2.toNat 4096)
    ∃ c, claimChunk d0 d1 d2 = (BitVec.ofNat 64 (c * 2 ^ 40 + d0.toNat % 2 ^ 40), some (BitVec.ofNat 64 (d0.toNat % 2 ^ 40 + c))) ∧
      1 ≤ c ∧ c < 2 ^ 24 ∧ (c - 1) * (2 * p) < left ∧ (c = 2 ^ 24 - 1 ∨ left ≤ c * (2 * p)) := by
  intro left p
  have hp : 0 < 2 * p := by omega
  have hleft : 1 ≤ left := by omega
  refine ⟨_, if_neg (Nat.not_le.mpr h), ?_⟩
  change 1 ≤ min ((left + 2 * p - 1) / (2 * p)) (2 ^ 24 - 1) ∧ _
  have h1 : 1 ≤ (left + 2 * p - 1) / (2 * p) := (Nat.one_le_div_iff hp).mpr (by omega)
  have hup := Nat.div_add_mod (left + 2 * p - 1) (2 * p)
  have hmod := Nat.mod_lt (left + 2 * p - 1) hp
  generalize (left + 2 * p - 1) / (2 * p) = q at *
  have hmin : min q (2 ^ 24 - 1) ≤ q := Nat.min_le_left _ _
  have hle : (min q (2 ^ 24 - 1) - 1) * (2 * p) ≤ (q - 1) * (2 * p) := Nat.mul_le_mul_right _ (Nat.sub_le_sub_right hmin 1)
  have hq : (q - 1) * (2 * p) + 2 * p = 2 * p * q := by
    rw [← Nat.succ_mul, Nat.succ_eq_add_one, Nat.sub_add_cancel h1, Nat.mul_comm]
  refine ⟨by omega, by omega, by omega, ?_⟩
  by_cases hcap : q ≤ 2 ^ 24 - 1
  · rw [Nat.min_eq_left hcap, Nat.mul_comm q]
    omega
  · exact .inl (Nat.min_eq_right (by omega))

theorem codeLocked_shorter {s : State} {k n j : Nat} (h : s.codeLocked k n = false) (hj : j ≤ n) : s.codeLocked k j = false := by
  refine Bool.eq_false_iff.mpr fun ht => Bool.eq_false_iff.mp h ?_
  obtain ⟨e, he, hl⟩ := List.any_eq_true.mp ht
  refine List.any_eq_true.mpr ⟨e, he, ?_⟩
  simp only [Bool.and_eq_true] at hl ⊢
  obtain ⟨hstage, hext⟩ := hl
  refine ⟨hstage, ?_⟩
  cases hf : findExtent e.2.image.extents e.2.image.codeVa with
  | none => rw [hf] at hext; exact hext
  | some i =>
    rw [hf] at hext
    dsimp only at hext ⊢
    cases hx : e.2.image.extents[i]? with
    | none => rw [hx] at hext; exact hext
    | some x =>
      rw [hx] at hext
      simp only [decide_eq_true_eq] at hext ⊢
      omega

/-- What a compare-and-swap of up to 8 bytes leaves (R141). -/
theorem casHandler_spec {s : State} {core : Nat} {m : Msg} (h : Serves s core m) (hop : m.isOp 0x32 = true) (hsize : m.size ≤ 8)
    (hp : s.poisoned m.key m.size = false) (hc : s.codeLocked m.key m.size = false) :
    ∃ t, exec (.casHandler core) s = .next t ∧ MemFrame s t (span m.key m.size) ∧
      t.net = [{ replyMsg m.capsule core (s.originOf (hThread core)) m.reply m.firing m.request (BitVec.ofNat 64 (s.bytes m.key m.size))
        with serial := s.nextId }] ∧
      ServedFrame s t core ∧
      t.bytes m.key m.size = if s.bytes m.key m.size = m.op1.toNat % 2 ^ (8 * m.size) then m.op2.toNat % 256 ^ m.size else s.bytes m.key m.size := by
  refine ⟨_, casHandler_next h hop hsize hp hc, ?_⟩
  split
  · have hu := TookAndWrote.putAt s core (m := m) hc m.op2
    exact ⟨putAt_frame hc _, hu.answer_net h.quiet m _, hu.answer_frame m _, (State.answer_bytes _ _ _ _ _ _).trans (putAt_bytes hc m.op2)⟩
  · have hu := TookAndWrote.refl s core
    exact ⟨fun _ _ => rfl, hu.answer_net h.quiet m _, hu.answer_frame m _, (State.answer_bytes _ _ _ _ _ _).trans (s.took_bytes core _ _)⟩

theorem bytes8_eq_iff (s : State) (k : Nat) (v : Word) : s.bytes k 8 = v.toNat % 2 ^ (8 * 8) ↔ s.mem64 k = v := by
  rw [Nat.mod_eq_of_lt v.isLt, State.mem64, ← BitVec.toNat_inj, BitVec.toNat_ofNat, Nat.mod_eq_of_lt (show s.bytes k 8 < 2 ^ 64 from bytes_lt s k 8)]

/-- Settles O22: H takes the message, performs the operation at its home unless the place is poisoned or write-locked, and answers or ends it. -/
theorem atomicsAtHome : Obligations.AtomicsAtHome := by
  unfold Obligations.AtomicsAtHome
  refine ⟨fun s core m h hw hp hc => ⟨fun hop => ?amo, fun hop hr => ?amop, fun hop hsize => ?casD, fun hop hsize hp4 hc4 => ?casW⟩,
    fun s core m h hw hop hp hc => ?claim⟩
  case amo =>
    have hu := TookAndWrote.putAt s core (m := m) hc (atomicRow (s.mem64 m.key) m.op1 m.fn)
    exact ⟨_, amoHandler_next h ((Msg.isOp_iff hw _).mpr hop) hp hc, putAt_mem64 hc _, putAt_frame hc _, hu.answer_net h.quiet m _,
      hu.answer_frame m _⟩
  case amop =>
    have hu := TookAndWrote.putAt s core (m := m) hc (atomicRow (s.mem64 m.key) m.op1 m.fn)
    obtain ⟨hframe, hnet, hmem, hcount⟩ := hu.endMessage hr
    refine ⟨_, amopHandler_next h ((Msg.isOp_iff hw _).mpr hop) hp hc, ?_, fun k hk => ?_, hnet.trans h.quiet, hcount, hframe⟩
    · exact (congrArg (BitVec.ofNat 64) (State.bytes_of_mem hmem m.key 8)).trans (putAt_mem64 hc _)
    · exact (congrArg (sget unlisted · k) hmem).trans (putAt_frame hc _ k hk)
  case casD =>
    obtain ⟨t, ht, hmem, hnet, hframe, hval⟩ := casHandler_spec h ((Msg.isOp_iff hw _).mpr hop) (by omega) (hsize ▸ hp) (hsize ▸ hc)
    rw [hsize] at hmem hnet hval
    refine ⟨t, ht, hmem, hnet, ?_, hframe⟩
    rw [State.mem64, hval, apply_ite (BitVec.ofNat 64)]
    refine if_congr (bytes8_eq_iff s m.key m.op1) ?_ rfl
    rw [Nat.mod_eq_of_lt (show m.op2.toNat < 256 ^ 8 from m.op2.isLt), BitVec.ofNat_toNat, BitVec.setWidth_eq]
  case casW =>
    obtain ⟨t, ht, hmem, hnet, hframe, hval⟩ := casHandler_spec h ((Msg.isOp_iff hw _).mpr hop) (by omega) (hsize ▸ hp4) (hsize ▸ hc4)
    rw [hsize] at hmem hnet hval
    exact ⟨t, ht, hmem, hnet, hframe, hval⟩
  case claim =>
    have hop := (Msg.isOp_iff hw _).mpr hop
    have hc8 : s.codeLocked m.key 8 = false := codeLocked_shorter hc (by omega)
    rcases Nat.lt_or_ge ((s.mem64 m.key).toNat % 2 ^ 40) ((s.mem64 (m.key + 8)).toNat % 2 ^ 40) with hleft | hnone
    · obtain ⟨c, hchunk, hc1, hc24, hlow, hhigh⟩ := claimChunk_some (s.mem64 (m.key + 16)) hleft
      have hu := TookAndWrote.putAt s core (m := m) hc8 (BitVec.ofNat 64 ((s.mem64 m.key).toNat % 2 ^ 40 + c))
      refine ⟨_, _, claimHandler_next h hop hp hc hchunk, hu.answer_frame m _, putAt_frame hc8 _, hu.answer_net h.quiet m _,
        fun hge => absurd hge (Nat.not_le.mpr hleft), fun _ => ⟨c, rfl, ?_, hc1, hc24, hlow, hhigh⟩⟩
      refine (congrArg BitVec.toNat (putAt_mem64 hc8 _)).trans ?_
      rw [BitVec.toNat_ofNat]
      omega
    · have hu := TookAndWrote.refl s core
      exact ⟨_, 0, claimHandler_next h hop hp hc (claimChunk_empty _ hnone), hu.answer_frame m _, fun _ _ => rfl, hu.answer_net h.quiet m _,
        fun _ => ⟨rfl, rfl⟩, fun hlt => absurd hlt (Nat.not_lt.mpr hnone)⟩

end Sys2Proof.Machine
end

section
/-! SUPPORT. Rounding (R70, R71): what the machine rounds, a number whose lowest bit may stand for all the bits below it, against the
real value it stands for. -/

namespace Sys2Proof.Machine

/-! ### Rounding to an integer (R70) -/

section
variable {rm : Nat} {neg : Bool} {t : ℝ} {n : Nat}

theorem RoundsInt.near (h : RoundsInt rm neg t n) : t < n + 1 ∧ (n : ℝ) < t + 1 := by
  unfold RoundsInt at h
  split_ifs at h
  · obtain ⟨h, -⟩ := h
    rw [abs_le] at h
    constructor <;> linarith
  all_goals constructor <;> linarith [h.1, h.2]

theorem RoundsInt.le_of_lt (h : RoundsInt rm neg t n) {b : Nat} (ht : t < b) : n ≤ b := by
  have : (n : ℝ) < b + 1 := by linarith [h.near.2]
  exact Nat.lt_succ_iff.mp (by exact_mod_cast this)

theorem RoundsInt.le_of_le (h : RoundsInt rm neg t n) {b : Nat} (ht : (b : ℝ) ≤ t) : b ≤ n := by
  have : (b : ℝ) < n + 1 := by linarith [h.near.1]
  exact Nat.lt_succ_iff.mp (by exact_mod_cast this)

theorem half_of_neighbours (h : |t - n| ≤ 1 / 2) (hn : |t - (n + 1 : Nat)| ≤ 1 / 2) :
    |t - n| = 1 / 2 ∧ |t - (n + 1 : Nat)| = 1 / 2 := by
  rw [abs_le] at h hn
  push_cast at hn ⊢
  constructor
  · rw [abs_of_nonneg] <;> linarith
  · rw [abs_of_nonpos] <;> linarith

/-- A value rounds to one integer only. -/
theorem RoundsInt.unique {j : Nat} (h : RoundsInt rm neg t n) (hj : RoundsInt rm neg t j) : n = j := by
  wlog hle : n ≤ j generalizing n j
  · exact (this hj h (by omega)).symm
  by_contra hne
  have hnj := h.near
  have hjn := hj.near
  have hj1 : j = n + 1 := by
    have : (j : ℝ) < n + 2 := by linarith
    have : j < n + 2 := by exact_mod_cast this
    omega
  subst hj1
  unfold RoundsInt at h hj
  split_ifs at h hj
  · obtain ⟨e, e'⟩ := half_of_neighbours h.1 hj.1
    have := h.2 e
    have := hj.2 e'
    omega
  all_goals push_cast at hj; linarith [h.1, h.2, hj.1, hj.2]

theorem RoundsInt.self (rm : Nat) (neg : Bool) (n : Nat) : RoundsInt rm neg n n := by
  unfold RoundsInt
  split_ifs <;> norm_num

end

/-- The directed modes that take the next integer toward zero for a value of this sign (R70). -/
def Truncates (rm : Nat) (neg : Bool) : Prop := rm = 1 ∨ (rm = 2 ∧ neg = false) ∨ (rm = 3 ∧ neg = true)

/-- Whether a magnitude with this integer part, and this fraction below it, goes up to the next integer (R70). -/
def GoesUp (rm : Nat) (neg : Bool) (q : Nat) (x : ℝ) : Prop :=
  (rm = 0 ∧ (1 / 2 < x ∨ x = 1 / 2 ∧ q % 2 = 1)) ∨ (rm ≠ 0 ∧ ¬ Truncates rm neg ∧ x ≠ 0)

theorem GoesUp.ne_zero {rm : Nat} {neg : Bool} {q : Nat} {x : ℝ} (h : GoesUp rm neg q x) : x ≠ 0 := by
  rcases h with ⟨-, h | ⟨h, -⟩⟩ | ⟨-, -, h⟩
  · linarith
  · linarith
  · exact h

section
variable {rm : Nat} {neg : Bool} {q : Nat} {x : ℝ} (hx : 0 ≤ x) (h1 : x < 1)
include hx h1

theorem roundsInt_up (hup : GoesUp rm neg q x) : RoundsInt rm neg (q + x) (q + 1 : Nat) := by
  rcases hup with ⟨h0, hup⟩ | ⟨h0, ht, hne⟩
  · have hhalf : 1 / 2 ≤ x := hup.elim le_of_lt fun e => e.1.ge
    refine (if_pos h0).mpr ?_
    push_cast
    rw [abs_of_nonpos (by linarith)]
    refine ⟨by linarith, fun e => ?_⟩
    rcases hup with hlt | ⟨-, hodd⟩
    · exact absurd e (by linarith)
    · omega
  · have hpos : 0 < x := lt_of_le_of_ne hx (Ne.symm hne)
    refine (if_neg h0).mpr ((if_neg ht).mpr ?_)
    push_cast
    constructor <;> linarith

theorem roundsInt_down (hup : ¬ GoesUp rm neg q x) : RoundsInt rm neg (q + x) q := by
  unfold GoesUp at hup
  push Not at hup
  obtain ⟨heven, hdir⟩ := hup
  unfold RoundsInt
  split_ifs with h0 ht
  · obtain ⟨hle, htie⟩ := heven h0
    rw [add_sub_cancel_left, abs_of_nonneg hx]
    exact ⟨hle, fun e => by have := htie e; omega⟩
  · constructor <;> linarith
  · rw [hdir h0 ht]
    constructor <;> linarith

end

/-! ### What the machine rounds -/

/-- m stands for t: it is t, or its lowest bit, a one, stands for all that t has below it, which the unit 2^k lies above. -/
def StandsFor (m k : Nat) (t : ℝ) : Prop := t = m ∨ m % 2 = 1 ∧ 2 ≤ k ∧ (m : ℝ) - 1 < t ∧ t < m + 1

/-- Such a value and its number lie on one side of every even number, the exact value of every number. -/
theorem standsFor_side {r b : Nat} {y : ℝ} (h : y = r ∨ r % 2 = 1 ∧ b % 2 = 0 ∧ (r : ℝ) - 1 < y ∧ y < r + 1) :
    (b < r ↔ (b : ℝ) < y) ∧ (r < b ↔ y < b) ∧ (r = b ↔ y = b) := by
  rcases h with rfl | ⟨hr, hb, hlo, hhi⟩
  · exact ⟨Nat.cast_lt.symm, Nat.cast_lt.symm, Nat.cast_inj.symm⟩
  · rcases Nat.lt_or_gt_of_ne (show r ≠ b by omega) with hlt | hgt
    · have : (r : ℝ) + 1 ≤ b := by exact_mod_cast hlt
      exact ⟨iff_of_false (by omega) (by linarith), iff_of_true hlt (by linarith), iff_of_false (by omega) (by linarith)⟩
    · have : (b : ℝ) + 1 ≤ r := by exact_mod_cast hgt
      exact ⟨iff_of_true hgt (by linarith), iff_of_false (by omega) (by linarith), iff_of_false (by omega) (by linarith)⟩

/-- What m has below a unit 2^k lies as that of a value that m stands for: at zero, below, at or above the half. -/
theorem StandsFor.fraction {m k : Nat} {t : ℝ} (h : StandsFor m k t) :
    ∃ x : ℝ, 0 ≤ x ∧ x < 1 ∧ t / 2 ^ k = (m / 2 ^ k : Nat) + x ∧ (m % 2 ^ k = 0 ↔ x = 0) ∧ (2 ^ k / 2 < m % 2 ^ k ↔ 1 / 2 < x) ∧
      (m % 2 ^ k = 2 ^ k / 2 ∧ k ≠ 0 ↔ x = 1 / 2) := by
  rcases Nat.eq_zero_or_pos k with rfl | hk
  · obtain rfl : t = m := h.resolve_right fun e => absurd e.2.1 (by decide)
    exact ⟨0, le_rfl, one_pos, by simp, by simp [Nat.mod_one], by simp [Nat.mod_one], by simp⟩
  · obtain ⟨j, rfl⟩ : ∃ j, k = j + 1 := ⟨k - 1, by omega⟩
    have hd : (0 : ℝ) < 2 ^ (j + 1) := by positivity
    have hhalf : 2 ^ (j + 1) / 2 = 2 ^ j := by rw [Nat.pow_succ, Nat.mul_div_cancel _ two_pos]
    have hdm := Nat.div_add_mod m (2 ^ (j + 1))
    have hr := Nat.mod_lt m (Nat.two_pow_pos (j + 1))
    rw [hhalf]
    set q := m / 2 ^ (j + 1)
    set r := m % 2 ^ (j + 1)
    have hm : (m : ℝ) = 2 ^ (j + 1) * q + r := by exact_mod_cast hdm.symm
    have hside : ∀ b, (2 ≤ j + 1 → b % 2 = 0) → (b < r ↔ (b : ℝ) < t - 2 ^ (j + 1) * q) ∧ (r < b ↔ t - 2 ^ (j + 1) * q < b) ∧
        (r = b ↔ t - 2 ^ (j + 1) * q = b) := fun b hb => standsFor_side <| by
      rcases h with rfl | ⟨hodd, hk, hlo, hhi⟩
      · exact .inl (by rw [hm]; ring)
      · refine .inr ⟨?_, hb hk, by linarith, by linarith⟩
        rw [Nat.pow_succ, Nat.mul_comm _ 2, Nat.mul_assoc] at hdm
        omega
    have heven : 2 ≤ j + 1 → 2 ^ j % 2 = 0 := fun h => by
      rw [show j = j - 1 + 1 by omega, Nat.pow_succ, Nat.mul_mod_left]
    obtain ⟨h0, h0', h0''⟩ := hside 0 fun _ => rfl
    obtain ⟨hh, -, hh'⟩ := hside (2 ^ j) heven
    obtain ⟨-, hd, -⟩ := hside (2 ^ (j + 1)) fun h => by rw [Nat.pow_succ, Nat.mul_mod_left]
    have hpos : (0 : ℝ) < 2 ^ (j + 1) := by positivity
    refine ⟨(t - 2 ^ (j + 1) * q) / 2 ^ (j + 1), ?_, ?_, ?_, ?_, ?_, ?_⟩
    · exact div_nonneg (not_lt.mp fun hn => absurd (h0'.mpr (by exact_mod_cast hn)) (Nat.not_lt_zero r)) hpos.le
    · rw [div_lt_one hpos]
      exact_mod_cast hd.mp hr
    · field_simp
      ring
    · rw [div_eq_zero_iff, or_iff_left hpos.ne', h0'', Nat.cast_zero]
    · rw [hh, lt_div_iff₀ hpos, pow_succ]
      push_cast
      ring_nf
    · rw [and_iff_left hk.ne', hh', div_eq_iff hpos.ne', pow_succ]
      push_cast
      ring_nf

theorem roundShift_rounds {rm : Nat} (neg : Bool) {m k : Nat} {t : ℝ} (hrm : rm < 4) (h : StandsFor m k t) :
    RoundsInt rm neg (t / 2 ^ k) (roundShift rm neg m k).1 ∧ ((roundShift rm neg m k).2 = true ↔ ((roundShift rm neg m k).1 : ℝ) ≠ t / 2 ^ k) := by
  obtain ⟨x, hx, h1, ht, hzero, habove, hhalf⟩ := h.fraction
  set q := m / 2 ^ k with hq
  set r := m % 2 ^ k with hr
  obtain ⟨up, hup, heq⟩ : ∃ up : Bool, (up = true ↔ GoesUp rm neg q x) ∧ roundShift rm neg m k = (if up then q + 1 else q, decide (r ≠ 0)) := by
    refine ⟨_, ?_, rfl⟩
    obtain rfl | rfl | rfl | rfl : rm = 0 ∨ rm = 1 ∨ rm = 2 ∨ rm = 3 := by omega
    · simp only [GoesUp, ← habove, ← hhalf]
      simp [← hr, ← hq]
    · simp [GoesUp, Truncates]
    · simp [GoesUp, Truncates, ← hzero, ← hr]
    · simp [GoesUp, Truncates, ← hzero, ← hr]
  rw [heq, ht]
  dsimp only
  rw [decide_eq_true_eq, Ne, hzero]
  cases up with
  | true =>
    refine ⟨roundsInt_up hx h1 (hup.mp rfl), iff_of_true (hup.mp rfl).ne_zero fun he => ?_⟩
    rw [if_pos rfl] at he
    push_cast at he
    linarith
  | false =>
    refine ⟨roundsInt_down hx h1 fun hg => Bool.false_ne_true (hup.mpr hg), ?_⟩
    rw [if_neg Bool.false_ne_true, ne_eq, left_eq_add]

/-- m × 2^e stands for a magnitude v where a unit 2^u counts. -/
def StandsAt (m : Nat) (e u : Int) (v : ℝ) : Prop := v = m * 2 ^ e ∨ m % 2 = 1 ∧ e + 2 ≤ u ∧ ((m : ℝ) - 1) * 2 ^ e < v ∧ v < (m + 1) * 2 ^ e

theorem roundAt_rounds {rm : Nat} (neg : Bool) {m : Nat} {e u : Int} {v : ℝ} (hrm : rm < 4) (h : StandsAt m e u v) :
    RoundsInt rm neg (v / 2 ^ u) (roundAt rm neg m e u).1 ∧ ((roundAt rm neg m e u).2 = true ↔ ((roundAt rm neg m e u).1 : ℝ) * 2 ^ u ≠ v) := by
  have hu : (0 : ℝ) < 2 ^ u := by positivity
  have he : (0 : ℝ) < 2 ^ e := by positivity
  unfold roundAt
  split_ifs with hle
  · obtain rfl : v = m * 2 ^ e := h.resolve_right fun x => by omega
    have hval : (m : ℝ) * 2 ^ e / 2 ^ u = (m * 2 ^ (e - u).toNat : Nat) := by
      rw [mul_div_assoc, ← zpow_sub₀ two_ne_zero, Nat.cast_mul, Nat.cast_pow, ← zpow_natCast, Int.toNat_of_nonneg (by omega)]
      rfl
    exact ⟨hval ▸ RoundsInt.self rm neg _, iff_of_false (by simp) (not_not.mpr ((div_eq_iff hu.ne').mp hval).symm)⟩
  · have hk : (2 : ℝ) ^ u = 2 ^ e * 2 ^ (u - e).toNat := by
      rw [← zpow_natCast, ← zpow_add₀ two_ne_zero, Int.toNat_of_nonneg (by omega), add_sub_cancel]
    have hstands : StandsFor m (u - e).toNat (v / 2 ^ e) := by
      rcases h with rfl | ⟨hodd, hu, hlo, hhi⟩
      · exact .inl (by field_simp)
      · exact .inr ⟨hodd, by omega, (lt_div_iff₀ he).mpr hlo, (div_lt_iff₀ he).mpr hhi⟩
    obtain ⟨hr, hx⟩ := roundShift_rounds neg hrm hstands
    rw [div_div, ← hk] at hr hx
    exact ⟨hr, by rw [hx, ne_eq, ne_eq, eq_div_iff hu.ne']⟩

/-! ### Binary exponents -/

theorem bitLen_bounds {m : Nat} (h : m ≠ 0) : 2 ^ (bitLen m - 1) ≤ m ∧ m < 2 ^ bitLen m ∧ 1 ≤ bitLen m := by
  rw [bitLen, if_neg h]
  exact ⟨Nat.log2_self_le h, Nat.lt_log2_self, by omega⟩

theorem bitLen_eq {m n : Nat} (h : 2 ^ n ≤ m) (hlt : m < 2 ^ (n + 1)) : bitLen m = n + 1 := by
  have hm : m ≠ 0 := (Nat.lt_of_lt_of_le (Nat.two_pow_pos n) h).ne'
  rw [bitLen, if_neg hm, (Nat.log2_eq_iff hm).mpr ⟨h, hlt⟩]

theorem binade_unique {v : ℝ} {a b : Int} (ha : (2 : ℝ) ^ a ≤ v ∧ v < 2 ^ (a + 1)) (hb : (2 : ℝ) ^ b ≤ v ∧ v < 2 ^ (b + 1)) : a = b := by
  have h1 := (zpow_lt_zpow_iff_right₀ one_lt_two).mp (ha.1.trans_lt hb.2)
  have h2 := (zpow_lt_zpow_iff_right₀ one_lt_two).mp (hb.1.trans_lt ha.2)
  omega

/-! ### Formats (R68) -/

/-- A format whose exponent range holds a normal number, and that keeps no more bits than a quotient or a root has. -/
structure Fmt.Ieee (f : Fmt) : Prop where
  exponent : 2 ≤ f.eb
  precision : f.fb ≤ 52

theorem Fmt.ieee_of_format {f : Fmt} (h : f = fmt64 ∨ f = fmt32 ∨ f = fmt16 ∨ f = fmtBf) : f.Ieee := by
  rcases h with rfl | rfl | rfl | rfl <;> exact ⟨by decide, by decide⟩

theorem Fmt.Ieee.bias_spec {f : Fmt} (h : f.Ieee) : 2 ^ f.eb = 2 * f.bias + 2 ∧ 1 ≤ f.bias := by
  obtain ⟨n, hn⟩ : ∃ n, f.eb = n + 2 := ⟨f.eb - 2, by have := h.exponent; omega⟩
  have := Nat.two_pow_pos n
  rw [Fmt.bias, hn]
  simp only [Nat.pow_succ, Nat.add_succ_sub_one]
  omega

theorem Fmt.signBit_eq (f : Fmt) (neg : Bool) : f.signBit neg = (if neg then 1 else 0) * 2 ^ (f.eb + f.fb) := by
  cases neg <;> simp [Fmt.signBit]

/-- The fields of a pattern that is put together of them. -/
theorem Fmt.fields (f : Fmt) (neg : Bool) {k fr : Nat} (hk : k < 2 ^ f.eb) (hfr : fr < 2 ^ f.fb) :
    let x := f.signBit neg + (k * 2 ^ f.fb + fr)
    x / 2 ^ (f.eb + f.fb) = (if neg then 1 else 0) ∧ x / 2 ^ f.fb % 2 ^ f.eb = k ∧ x % 2 ^ f.fb = fr ∧ x < 2 ^ f.width := by
  intro x
  have hF := Nat.two_pow_pos f.fb
  have hmag : k * 2 ^ f.fb + fr < 2 ^ (f.eb + f.fb) := by
    rw [Nat.pow_add]
    calc k * 2 ^ f.fb + fr < (k + 1) * 2 ^ f.fb := by rw [Nat.succ_mul]; omega
      _ ≤ _ := Nat.mul_le_mul_right _ hk
  have hx : x = (if neg then 1 else 0) * 2 ^ (f.eb + f.fb) + (k * 2 ^ f.fb + fr) := congrArg (· + _) (f.signBit_eq neg)
  have hx' : x = ((if neg then 1 else 0) * 2 ^ f.eb + k) * 2 ^ f.fb + fr := by rw [hx, Nat.pow_add]; ring
  refine ⟨?_, ?_, ?_, ?_⟩
  · rw [hx, Nat.mul_comm, Nat.mul_add_div (Nat.two_pow_pos _), Nat.div_eq_of_lt hmag, Nat.add_zero]
  · rw [hx', Nat.mul_comm, Nat.mul_add_div hF, Nat.div_eq_of_lt hfr, Nat.add_zero, Nat.mul_comm, Nat.mul_add_mod, Nat.mod_eq_of_lt hk]
  · rw [hx', Nat.mul_comm, Nat.mul_add_mod, Nat.mod_eq_of_lt hfr]
  · rw [hx, Fmt.width, Nat.pow_succ]
    split <;> omega

theorem Fmt.decode_fields (f : Fmt) (neg : Bool) {k fr : Nat} (hk : k < 2 ^ f.eb) (hfr : fr < 2 ^ f.fb) :
    f.decode (f.signBit neg + (k * 2 ^ f.fb + fr)) =
      if k = 2 ^ f.eb - 1 then (if fr = 0 then .inf neg else .nan (fr < 2 ^ (f.fb - 1)))
      else if k = 0 then .fin neg fr (f.emin - f.fb) else .fin neg (2 ^ f.fb + fr) ((k : Int) - f.bias - f.fb) := by
  obtain ⟨hs, he, hf, -⟩ := f.fields neg hk hfr
  have hneg : ((if neg then 1 else 0) % 2 == 1) = neg := by cases neg <;> rfl
  simp only [Fmt.decode, hs, he, hf, hneg]

/-- Every pattern is put together of its fields. -/
theorem Fmt.exists_fields (f : Fmt) {x : Nat} (hx : x < 2 ^ f.width) :
    ∃ (neg : Bool) (k fr : Nat), k < 2 ^ f.eb ∧ fr < 2 ^ f.fb ∧ x = f.signBit neg + (k * 2 ^ f.fb + fr) := by
  refine ⟨decide (x / 2 ^ (f.eb + f.fb) = 1), x / 2 ^ f.fb % 2 ^ f.eb, x % 2 ^ f.fb, Nat.mod_lt _ (Nat.two_pow_pos _), Nat.mod_lt _ (Nat.two_pow_pos _), ?_⟩
  have hs : x / 2 ^ (f.eb + f.fb) < 2 := by
    rw [Nat.div_lt_iff_lt_mul (Nat.two_pow_pos _), Nat.mul_comm, ← Nat.pow_succ]
    exact hx
  have hsign : (if decide (x / 2 ^ (f.eb + f.fb) = 1) = true then 1 else 0) = x / 2 ^ f.fb / 2 ^ f.eb := by
    rw [Nat.div_div_eq_div_mul, ← Nat.pow_add, Nat.add_comm f.fb]
    generalize x / 2 ^ (f.eb + f.fb) = c at hs
    split_ifs with h <;> simp only [decide_eq_true_eq] at h <;> omega
  rw [f.signBit_eq, hsign, Nat.pow_add, ← Nat.mul_assoc, ← Nat.add_assoc, ← Nat.add_mul, Nat.mul_comm (_ / _) (2 ^ f.eb), Nat.div_add_mod, Nat.mul_comm,
    Nat.div_add_mod]

/-! ### The pattern of a rounded magnitude (R70) -/

/-- Beyond the largest number, counted in patterns or in values: F is 2^fb, J the exponent of the largest number above emin, j that of n. -/
theorem overflow_iff {F J j n : Nat} (hF : 0 < F) (hn : n ≤ 2 * F) (hlow : j = 0 ∨ F ≤ n) (hJ : 1 ≤ J) :
    (J + 2) * F ≤ j * F + n ↔ (2 * F - 1) * 2 ^ J < n * 2 ^ j := by
  have hp := Nat.two_pow_pos J
  rcases Nat.lt_trichotomy j J with hlt | rfl | hgt
  · obtain ⟨i, rfl⟩ : ∃ i, J = j + 1 + i := ⟨J - (j + 1), by omega⟩
    refine iff_of_false (Nat.not_le.mpr ?_) (Nat.not_lt.mpr ?_)
    · calc j * F + n ≤ (j + 2) * F := by rw [Nat.add_mul]; omega
        _ < (j + 1 + i + 2) * F := Nat.mul_lt_mul_of_pos_right (by omega) hF
    · calc n * 2 ^ j ≤ 2 * F * 2 ^ j := Nat.mul_le_mul_right _ hn
        _ = F * 2 ^ (j + 1) := by ring
        _ ≤ (2 * F - 1) * 2 ^ (j + 1 + i) := Nat.mul_le_mul (by omega) (Nat.pow_le_pow_right two_pos (by omega))
  · rw [Nat.mul_lt_mul_right hp, Nat.add_mul]
    omega
  · obtain ⟨i, rfl⟩ : ∃ i, j = J + 1 + i := ⟨j - (J + 1), by omega⟩
    have hn : F ≤ n := hlow.resolve_left (by omega)
    refine iff_of_true ?_ ?_
    · have : (J + 2) * F + i * F = (J + 1 + i) * F + F := by ring
      omega
    · calc (2 * F - 1) * 2 ^ J < 2 * F * 2 ^ J := Nat.mul_lt_mul_of_pos_right (by omega) hp
        _ = F * 2 ^ (J + 1) := by ring
        _ ≤ n * 2 ^ (J + 1 + i) := Nat.mul_le_mul hn (Nat.pow_le_pow_right two_pos (by omega))

theorem Fmt.infBits_lt (f : Fmt) (neg : Bool) : f.signBit neg + f.infBits < 2 ^ f.width := by
  have hk : 2 ^ f.eb - 1 < 2 ^ f.eb := Nat.sub_lt (Nat.two_pow_pos _) one_pos
  exact (f.fields neg hk (Nat.two_pow_pos f.fb)).2.2.2

theorem Fmt.overflowBits_lt (f : Fmt) (rm : Nat) (neg : Bool) : overflowBits f rm neg < 2 ^ f.width := by
  have := f.infBits_lt neg
  rw [overflowBits]
  split_ifs <;> omega

section
variable {f : Fmt} (h : f.Ieee) {j n : Nat} (hn : n ≤ 2 ^ (f.fb + 1)) (hlow : j = 0 ∨ 2 ^ f.fb ≤ n)
include h hn hlow

/-- The magnitude n units of exponent emin + j lies beyond the largest finite value just where its pattern does. -/
theorem Fmt.Ieee.infBits_le_iff : f.infBits ≤ j * 2 ^ f.fb + n ↔
    ((2 : ℝ) ^ (f.fb + 1) - 1) * 2 ^ ((f.bias : ℤ) - f.fb) < n * 2 ^ (f.emin + j - f.fb) := by
  obtain ⟨hb, hb1⟩ := h.bias_spec
  have hF := Nat.two_pow_pos f.fb
  have hinf : f.infBits = (2 * f.bias - 1 + 2) * 2 ^ f.fb := by rw [Fmt.infBits, hb]; congr 1; omega
  have hU : (0 : ℝ) < 2 ^ (f.emin - f.fb) := by positivity
  have hlargest : ((2 : ℝ) ^ (f.fb + 1) - 1) * 2 ^ ((f.bias : ℤ) - f.fb) =
      (((2 * 2 ^ f.fb - 1) * 2 ^ (2 * f.bias - 1) : Nat) : ℝ) * 2 ^ (f.emin - f.fb) := by
    have he : (f.bias : ℤ) - f.fb = (2 * f.bias - 1 : Nat) + (f.emin - f.fb) := by rw [Fmt.emin]; omega
    rw [he, zpow_add₀ two_ne_zero, zpow_natCast, Nat.cast_mul, Nat.cast_sub (by omega), pow_succ]
    push_cast
    ring
  have hvalue : (n : ℝ) * 2 ^ (f.emin + j - f.fb) = ((n * 2 ^ j : Nat) : ℝ) * 2 ^ (f.emin - f.fb) := by
    rw [show f.emin + j - f.fb = (j : ℤ) + (f.emin - f.fb) by ring, zpow_add₀ two_ne_zero, zpow_natCast]
    push_cast
    ring
  rw [hlargest, hvalue, mul_lt_mul_iff_left₀ hU, Nat.cast_lt, hinf]
  exact overflow_iff hF (by rw [Nat.pow_succ, Nat.mul_comm] at hn; exact hn) hlow (by omega)

/-- Below infinity the pattern of so many units is that of the value. -/
theorem Fmt.Ieee.decode_rounded (neg : Bool) (hfin : j * 2 ^ f.fb + n < f.infBits) :
    let r := f.signBit neg + (j * 2 ^ f.fb + n)
    r < 2 ^ f.width ∧ (f.decode r).Is ((if neg then -1 else 1) * (n * 2 ^ (f.emin + j - f.fb))) ∧ (f.decode r).neg? = neg := by
  obtain ⟨hb, hb1⟩ := h.bias_spec
  have hF := Nat.two_pow_pos f.fb
  rw [Nat.pow_succ] at hn
  rw [Fmt.infBits] at hfin
  obtain ⟨k, fr, hfr, hmag, hval⟩ : ∃ k fr, fr < 2 ^ f.fb ∧ j * 2 ^ f.fb + n = k * 2 ^ f.fb + fr ∧
      (k = 0 ∧ fr = n ∧ j = 0 ∨ ∃ i : Nat, k = j + 1 + i ∧ n = (2 ^ f.fb + fr) * 2 ^ i) := by
    rcases Nat.lt_or_ge n (2 ^ f.fb) with hlt | hge
    · have hj : j = 0 := hlow.resolve_right (Nat.not_le.mpr hlt)
      exact ⟨0, n, hlt, by rw [hj], .inl ⟨rfl, rfl, hj⟩⟩
    · rcases Nat.eq_or_lt_of_le hn with heq | hlt
      · exact ⟨j + 2, 0, hF, by rw [heq]; ring, .inr ⟨1, rfl, by rw [heq]; ring⟩⟩
      · exact ⟨j + 1, n - 2 ^ f.fb, by omega, by rw [Nat.succ_mul]; omega, .inr ⟨0, rfl, by rw [Nat.pow_zero, Nat.mul_one]; omega⟩⟩
  rw [hmag] at hfin
  have hk : k < 2 ^ f.eb - 1 := Nat.lt_of_mul_lt_mul_right (Nat.lt_of_le_of_lt (Nat.le_add_right _ _) hfin)
  have hk' : k < 2 ^ f.eb := by omega
  simp only [hmag]
  refine ⟨(f.fields neg hk' hfr).2.2.2, ?_⟩
  rw [f.decode_fields neg hk' hfr, if_neg (by omega)]
  rcases hval with ⟨rfl, rfl, rfl⟩ | ⟨i, rfl, rfl⟩
  · rw [if_pos rfl]
    exact ⟨by simp [Num.Is], rfl⟩
  · rw [if_neg (by omega)]
    refine ⟨?_, rfl⟩
    have he : ((j + 1 + i : Nat) : ℤ) - f.bias - f.fb = i + (f.emin + j - f.fb) := by rw [Fmt.emin]; push_cast; ring
    rw [Num.Is, he, zpow_add₀ two_ne_zero, zpow_natCast]
    push_cast
    ring

end

/-! ### Rounding a finite value (R70, R71) -/

/-- m × 2^e carries a magnitude w to a format: it is w, or its lowest bit stands for all that lies below it, and lies below every bit that the format keeps. -/
def Fmt.Carries (f : Fmt) (m : Nat) (e : Int) (w : ℝ) : Prop :=
  w = m * 2 ^ e ∨ m % 2 = 1 ∧ f.fb + 3 ≤ bitLen m ∧ ((m : ℝ) - 1) * 2 ^ e < w ∧ w < (m + 1) * 2 ^ e

/-- The binary exponent of m × 2^e. -/
def binExp (m : Nat) (e : Int) : Int := (bitLen m : Int) - 1 + e

theorem zpow_binExp {m : Nat} (e : Int) (hm : m ≠ 0) :
    (2 : ℝ) ^ binExp m e = (2 ^ (bitLen m - 1) : Nat) * 2 ^ e ∧ (2 : ℝ) ^ (binExp m e + 1) = (2 ^ bitLen m : Nat) * 2 ^ e := by
  obtain ⟨-, -, hl⟩ := bitLen_bounds hm
  have h1 : binExp m e = (bitLen m - 1 : Nat) + e := by rw [binExp]; omega
  have h2 : binExp m e + 1 = bitLen m + e := by rw [binExp]; omega
  rw [h2, h1, zpow_add₀ two_ne_zero, zpow_add₀ two_ne_zero, zpow_natCast, zpow_natCast]
  push_cast
  exact ⟨rfl, rfl⟩

section
variable {f : Fmt} {m : Nat} {e : Int} {w : ℝ} (hm : m ≠ 0) (h : f.Carries m e w)
include hm h

theorem Fmt.Carries.binade : (2 : ℝ) ^ binExp m e ≤ w ∧ w < 2 ^ (binExp m e + 1) := by
  obtain ⟨h1, h2⟩ := zpow_binExp e hm
  obtain ⟨hlo, hhi, -⟩ := bitLen_bounds hm
  have he : (0 : ℝ) < 2 ^ e := by positivity
  rw [h1, h2]
  rcases h with rfl | ⟨hodd, hl, hw, hw'⟩
  · exact ⟨mul_le_mul_of_nonneg_right (by exact_mod_cast hlo) he.le, mul_lt_mul_of_pos_right (by exact_mod_cast hhi) he⟩
  · have hlo' : 2 ^ (bitLen m - 1) + 1 ≤ m := by
      rw [show bitLen m - 1 = bitLen m - 2 + 1 by omega, Nat.pow_succ] at hlo ⊢
      omega
    have hlo'' : ((2 ^ (bitLen m - 1) : Nat) : ℝ) ≤ m - 1 := le_sub_iff_add_le.mpr (by exact_mod_cast hlo')
    have hhi' : (m : ℝ) + 1 ≤ (2 ^ bitLen m : Nat) := by exact_mod_cast hhi
    exact ⟨(mul_le_mul_of_nonneg_right hlo'' he.le).trans hw.le, hw'.trans_le (mul_le_mul_of_nonneg_right hhi' he.le)⟩

omit hm in
theorem Fmt.Carries.standsAt {u : Int} (hu : binExp m e - f.fb ≤ u) : StandsAt m e u w := by
  rcases h with rfl | ⟨hodd, hl, hw⟩
  · exact .inl rfl
  · exact .inr ⟨hodd, by rw [binExp] at hu; omega, hw⟩

end

/-- A magnitude of binary exponent E rounds to fb + 1 bits, or to the power of two above them. -/
theorem RoundsInt.bounds {f : Fmt} {rm : Nat} {neg : Bool} {w : ℝ} {E : Int} {n : Nat} (h : RoundsInt rm neg (w / 2 ^ (E - f.fb)) n) :
    (w < 2 ^ (E + 1) → n ≤ 2 ^ (f.fb + 1)) ∧ (2 ^ E ≤ w → 2 ^ f.fb ≤ n) := by
  have hu : (0 : ℝ) < 2 ^ (E - f.fb) := by positivity
  refine ⟨fun hw => h.le_of_lt ?_, fun hw => h.le_of_le ?_⟩
  · rw [div_lt_iff₀ hu, Nat.cast_pow, Nat.cast_ofNat, ← zpow_natCast, ← zpow_add₀ two_ne_zero]
    exact hw.trans_eq (congrArg _ (by push_cast; ring))
  · rw [le_div_iff₀ hu, Nat.cast_pow, Nat.cast_ofNat, ← zpow_natCast, ← zpow_add₀ two_ne_zero, add_sub_cancel]
    exact hw

/-- The bits of the flags that roundFin sets, OF 6, UF 7 and NX 8 (R21): beyond the largest number, and within. -/
theorem overflowFlags_bits : (flagOF + flagNX) % 64 = 0 ∧ flagOF + flagNX < 512 ∧ (flagOF + flagNX).testBit 6 = true ∧
    (flagOF + flagNX).testBit 8 = true ∧ (flagOF + flagNX).testBit 7 = false := by decide

theorem roundedFlags_bits : ∀ inexact tiny : Bool, let fl := flagIf inexact flagNX + flagIf (tiny && inexact) flagUF
    fl % 64 = 0 ∧ fl < 512 ∧ fl.testBit 6 = false ∧ fl.testBit 8 = inexact ∧ fl.testBit 7 = (inexact && tiny) := by decide

/-- Whether roundFin counts m × 2^e as tiny. -/
def Fmt.tiny (f : Fmt) (rm : Nat) (neg : Bool) (m : Nat) (e : Int) : Bool :=
  decide (binExp m e < f.emin) && !(decide (binExp m e + 1 = f.emin) && decide ((roundAt rm neg m e (binExp m e - f.fb)).1 = 2 ^ (f.fb + 1)))

section
variable {f : Fmt} {rm : Nat} {neg : Bool} {m : Nat} {e : Int} {v : ℝ} (hrm : rm < 4) (hneg : neg = true ↔ v < 0) (hm : m ≠ 0)
  (h : f.Carries m e |v|)
include hrm hneg hm h

theorem Fmt.tiny_iff : f.tiny rm neg m e = true ↔ Tiny f rm v := by
  obtain ⟨hlo, hhi⟩ := h.binade hm
  have hr := (roundAt_rounds neg hrm (h.standsAt (le_refl (binExp m e - f.fb)))).1
  obtain ⟨hn, hge⟩ := hr.bounds
  replace hn := hn hhi
  replace hge := hge hlo
  set E := binExp m e with hE
  set n := (roundAt rm neg m e (E - f.fb)).1 with hndef
  have hu : (0 : ℝ) < 2 ^ (E - f.fb) := by positivity
  have htop : (2 ^ (f.fb + 1) : ℝ) * 2 ^ (E - f.fb) = 2 ^ (E + 1) := by
    rw [← zpow_natCast, ← zpow_add₀ two_ne_zero]
    congr 1
    push_cast
    ring
  have hbot : (2 ^ f.fb : ℝ) * 2 ^ (E - f.fb) = 2 ^ E := by rw [← zpow_natCast, ← zpow_add₀ two_ne_zero, add_sub_cancel]
  have hgeR : (2 : ℝ) ^ E ≤ n * 2 ^ (E - f.fb) := hbot ▸ mul_le_mul_of_nonneg_right (by exact_mod_cast hge) hu.le
  simp only [Fmt.tiny, ← hE, ← hndef, Bool.and_eq_true, Bool.not_eq_true', Bool.and_eq_false_iff, decide_eq_true_eq, decide_eq_false_iff_not]
  constructor
  · rintro ⟨hlt, hne⟩
    refine ⟨neg, E, n, hneg, hlo, hhi, hr, ?_⟩
    rcases lt_or_eq_of_le (show E + 1 ≤ f.emin by omega) with hlt | heq
    · calc (n : ℝ) * 2 ^ (E - f.fb) ≤ 2 ^ (f.fb + 1) * 2 ^ (E - f.fb) := mul_le_mul_of_nonneg_right (by exact_mod_cast hn) hu.le
        _ = 2 ^ (E + 1) := htop
        _ < 2 ^ f.emin := zpow_lt_zpow_right₀ one_lt_two hlt
    · have : n < 2 ^ (f.fb + 1) := lt_of_le_of_ne hn (hne.resolve_left fun e => e heq)
      rw [← heq, ← htop]
      exact mul_lt_mul_of_pos_right (by exact_mod_cast this) hu
  · rintro ⟨neg', E', n', hneg', hlo', hhi', hr', hlt⟩
    obtain rfl : neg' = neg := Bool.eq_iff_iff.mpr (hneg'.trans hneg.symm)
    obtain rfl : E' = E := binade_unique ⟨hlo', hhi'⟩ ⟨hlo, hhi⟩
    obtain rfl : n' = n := hr'.unique hr
    have hEm : E < f.emin := (zpow_lt_zpow_iff_right₀ one_lt_two).mp (hgeR.trans_lt hlt)
    refine ⟨hEm, or_iff_not_imp_left.mpr fun heq hn => ?_⟩
    rw [not_not] at heq
    rw [← heq, ← htop, hn] at hlt
    push_cast at hlt
    exact lt_irrefl _ hlt

/-- roundFin rounds the value that its operand carries, and sets its flags (R70, R71). -/
theorem Fmt.Ieee.roundFin_rounds (hf : f.Ieee) : Rounds f rm v (roundFin f rm neg m e) := by
  obtain ⟨hlo, hhi⟩ := h.binade hm
  have htiny := Fmt.tiny_iff hrm hneg hm h
  set E := max (binExp m e) f.emin with hE
  have hEge : binExp m e ≤ E := le_max_left _ _
  have hemin : f.emin ≤ E := le_max_right _ _
  have hhi' : |v| < 2 ^ (E + 1) := hhi.trans_le (zpow_le_zpow_right₀ one_le_two (by omega))
  have hlo' : E = f.emin ∨ 2 ^ E ≤ |v| := (max_choice (binExp m e) f.emin).symm.imp id fun e => by rw [hE, e]; exact hlo
  obtain ⟨hr, hx⟩ := roundAt_rounds neg hrm (h.standsAt (show binExp m e - f.fb ≤ E - f.fb by omega))
  have heq : roundFin f rm neg m e =
      let r := roundAt rm neg m e (E - f.fb)
      let mag := (E - f.emin).toNat * 2 ^ f.fb + r.1
      if f.infBits ≤ mag then (overflowBits f rm neg, flagOF + flagNX)
      else (f.signBit neg + mag, flagIf r.2 flagNX + flagIf (f.tiny rm neg m e && r.2) flagUF) := rfl
  obtain ⟨j, hj⟩ : ∃ j : Nat, E = f.emin + j := ⟨(E - f.emin).toNat, by omega⟩
  rw [heq]
  generalize roundAt rm neg m e (E - f.fb) = r at hr hx
  obtain ⟨hn, hge⟩ := hr.bounds
  have hlow : j = 0 ∨ 2 ^ f.fb ≤ r.1 := hlo'.imp (fun e => by omega) hge
  have hover := hf.infBits_le_iff (hn hhi') hlow
  have hdec := hf.decode_rounded (hn hhi') hlow neg
  rw [← hj] at hover hdec
  dsimp only
  rw [show (E - f.emin).toNat = j by omega]
  obtain ⟨h64, h512, hb6, hb8, hb7⟩ := overflowFlags_bits
  split_ifs with hbig
  · have hlarge := hover.mp hbig
    refine ⟨⟨neg, E, r.1, hneg, hemin, hhi', hlo', hr, f.overflowBits_lt rm neg, fun hle => absurd hlarge hle.not_gt, fun _ => ?_⟩,
      ⟨neg, E, r.1, hneg, hemin, hhi', hlo', hr, h64, h512, iff_of_true hb6 hlarge, iff_of_true hb8 (.inl hlarge),
        iff_of_false (hb7 ▸ Bool.false_ne_true) fun hx => absurd hlarge hx.1.not_gt⟩⟩
    simp [overflowBits]
  · have hlarge := not_lt.mp (mt hover.mpr hbig)
    obtain ⟨hw, his, hsign⟩ := hdec (Nat.not_le.mp hbig)
    refine ⟨⟨neg, E, r.1, hneg, hemin, hhi', hlo', hr, hw, fun _ => ⟨his, hsign⟩, fun hlt => absurd hlt hlarge.not_gt⟩,
      ⟨neg, E, r.1, hneg, hemin, hhi', hlo', hr, ?_⟩⟩
    dsimp only
    rw [← hx, ← htiny]
    generalize f.tiny rm neg m e = tiny
    obtain ⟨h64, h512, hb6, hb8, hb7⟩ := roundedFlags_bits r.2 tiny
    refine ⟨h64, h512, iff_of_false (by rw [hb6]; decide) hlarge.not_gt, ?_, ?_⟩
    · rw [hb8, or_iff_right hlarge.not_gt]
    · rw [hb7, and_iff_right hlarge, Bool.and_eq_true]

end

end Sys2Proof.Machine
end

section
/-! SUPPORT. The exact operations and the arithmetic on patterns (R69 to R71, R92 to R95) against real arithmetic. -/

namespace Sys2Proof.Machine

/-! ### Finite values -/

/-- The sign of a finite value as a factor. -/
theorem abs_signed (neg : Bool) (x : ℝ) (hx : 0 ≤ x) : |(if neg then -1 else 1) * x| = x := by
  cases neg <;> simp [abs_of_nonneg hx]

theorem signed_neg_iff (neg : Bool) {x : ℝ} (hx : 0 < x) : neg = true ↔ (if neg then -1 else 1) * x < 0 := by
  cases neg
  · simp [hx.le]
  · simp [hx]

theorem Num.Is.exists_fin {x : Num} {v : ℝ} (h : x.Is v) :
    ∃ neg m e, x = .fin neg m e ∧ v = (if neg then -1 else 1) * ((m : ℝ) * 2 ^ e) := by
  cases x with
  | nan _ => exact h.elim
  | inf _ => exact h.elim
  | fin neg m e => exact ⟨neg, m, e, rfl, h⟩

theorem Num.Is.isNan {x : Num} {v : ℝ} (h : x.Is v) : x.isNan = false := by
  obtain ⟨neg, m, e, rfl, -⟩ := h.exists_fin
  rfl

theorem Num.Is.isSnan {x : Num} {v : ℝ} (h : x.Is v) : x.isSnan = false := by
  obtain ⟨neg, m, e, rfl, -⟩ := h.exists_fin
  rfl

theorem Num.is_zero_iff {neg : Bool} {m : Nat} {e : Int} {v : ℝ} (h : (Num.fin neg m e).Is v) : v = 0 ↔ m = 0 := by
  have he : (2 : ℝ) ^ e ≠ 0 := by positivity
  rw [show v = _ from h]
  cases neg <;> simp [he]

theorem Num.abs_of_is {neg : Bool} {m : Nat} {e : Int} {v : ℝ} (h : (Num.fin neg m e).Is v) : |v| = m * 2 ^ e := by
  rw [show v = _ from h]
  exact abs_signed _ _ (by positivity)

theorem Num.sign_of_is {neg : Bool} {m : Nat} {e : Int} {v : ℝ} (h : (Num.fin neg m e).Is v) (hv : v ≠ 0) : neg = true ↔ v < 0 := by
  have hm : (0 : ℝ) < m := Nat.cast_pos.mpr (Nat.pos_of_ne_zero (mt (Num.is_zero_iff h).mpr hv))
  rw [show v = _ from h]
  exact signed_neg_iff _ (mul_pos hm (by positivity))

theorem Num.Is.negate {x : Num} {v : ℝ} (h : x.Is v) : x.negate.Is (-v) ∧ x.negate.neg? = !x.neg? := by
  obtain ⟨neg, m, e, rfl, rfl⟩ := h.exists_fin
  cases neg <;> simp [Num.negate, Num.Is, Num.neg?]

theorem Num.Is.negateIf {x : Num} {v : ℝ} (h : x.Is v) (b : Bool) :
    (if b then x.negate else x).Is (if b then -v else v) ∧ (if b then x.negate else x).neg? = (x.neg? != b) := by
  cases b
  · simpa using h
  · simpa using h.negate

/-! ### Rounding them -/

section
variable {f : Fmt} (hf : f.Ieee) {rm : Nat} (hrm : rm < 4) {x : Num} {v : ℝ}

theorem roundNum_zero (f : Fmt) (rm : Nat) (h : x.Is 0) : roundNum f rm x = (f.signBit x.neg?, 0) := by
  obtain ⟨neg, m, e, rfl, -⟩ := h.exists_fin
  rw [(Num.is_zero_iff h).mp rfl]
  rfl

include hf hrm

theorem Fmt.Ieee.roundNum_carries {neg : Bool} {m : Nat} {e : Int} (hm : m ≠ 0) (hneg : neg = true ↔ v < 0) (h : f.Carries m e |v|) :
    Rounds f rm v (roundNum f rm (.fin neg m e)) := by
  rw [roundNum, if_neg hm]
  exact hf.roundFin_rounds hrm hneg hm h

theorem Fmt.Ieee.roundNum_rounds (h : x.Is v) (hv : v ≠ 0) : Rounds f rm v (roundNum f rm x) := by
  obtain ⟨neg, m, e, rfl, -⟩ := h.exists_fin
  have hm : m ≠ 0 := mt (Num.is_zero_iff h).mpr hv
  exact hf.roundNum_carries hrm hm (Num.sign_of_is h hv) (.inl (Num.abs_of_is h))

end

/-- Flags of the operands: none is a signalling NaN. -/
theorem nvOf_quiet {l : List Num} (h : ∀ x ∈ l, x.isSnan = false) : nvOf l = 0 := by
  have : l.any Num.isSnan = false := List.any_eq_false.mpr fun x hx => by simp [h x hx]
  rw [nvOf, this]
  rfl

theorem finish_quiet {f : Fmt} {rm : Nat} {ops : List Num} (h : ∀ x ∈ ops, x.isSnan = false) (z : Num) (fl : Nat) :
    finish f rm ops (z, fl) = ((roundNum f rm z).1, (roundNum f rm z).2 ||| fl) := by
  rw [finish, nvOf_quiet h, Nat.or_zero]

theorem finish_nan (f : Fmt) (rm : Nat) (ops : List Num) (s : Bool) (fl : Nat) : finish f rm ops (.nan s, fl) = (f.qnan, fl ||| nvOf ops) := by
  simp [finish, roundNum]

/-- What an operation whose exact result is finite gives: that result rounded once, a zero with its sign, and no flag but those of rounding. -/
theorem Fmt.Ieee.finish_is {f : Fmt} (hf : f.Ieee) {rm : Nat} (hrm : rm < 4) {ops : List Num} (hops : ∀ x ∈ ops, x.isSnan = false) {z : Num} {v : ℝ}
    (h : z.Is v) : (v ≠ 0 → Rounds f rm v (finish f rm ops (z, 0))) ∧ (v = 0 → finish f rm ops (z, 0) = (f.signBit z.neg?, 0)) := by
  rw [finish_quiet hops, Nat.or_zero]
  exact ⟨hf.roundNum_rounds hrm h, fun hv => by subst hv; exact roundNum_zero f rm h⟩

/-! ### Sums -/

/-- A finite value counted in units of a smaller exponent. -/
theorem signed_align (neg : Bool) (m : Nat) {e lo : Int} (h : lo ≤ e) :
    (if neg then (-1 : ℝ) else 1) * ((m : ℝ) * 2 ^ e) =
      ((if neg then -((m * 2 ^ (e - lo).toNat : Nat) : Int) else ((m * 2 ^ (e - lo).toNat : Nat) : Int) : Int) : ℝ) * 2 ^ lo := by
  have he : (2 : ℝ) ^ e = 2 ^ (e - lo).toNat * 2 ^ lo := by
    rw [← zpow_natCast, ← zpow_add₀ two_ne_zero, Int.toNat_of_nonneg (by omega), sub_add_cancel]
  rw [he]
  cases neg <;> push_cast <;> simp <;> ring

theorem addExact_is (rm : Nat) {x y : Num} {p q : ℝ} (hx : x.Is p) (hy : y.Is q) :
    ∃ z, addExact rm x y = (z, 0) ∧ z.Is (p + q) ∧ (p + q = 0 → z.neg? = if x.neg? = y.neg? then x.neg? else decide (rm = 2)) := by
  obtain ⟨a, m, e, rfl, rfl⟩ := hx.exists_fin
  obtain ⟨b, n, g, rfl, rfl⟩ := hy.exists_fin
  rw [signed_align a m (min_le_left e g), signed_align b n (min_le_right e g), ← add_mul, ← Int.cast_add]
  have hlo : (2 : ℝ) ^ min e g ≠ 0 := by positivity
  simp only [addExact]
  generalize (if a = true then -((m * 2 ^ (e - min e g).toNat : Nat) : Int) else _) + _ = sum
  by_cases h0 : sum = 0
  · rw [if_pos h0]
    exact ⟨_, rfl, by simp [Num.Is, h0], fun _ => rfl⟩
  · rw [if_neg h0]
    refine ⟨_, rfl, ?_, fun h => absurd (mul_eq_zero.mp h) (by simp [h0, hlo])⟩
    have hs : (sum : ℝ) = (if decide (sum < 0) = true then -1 else 1) * (sum.natAbs : ℝ) := by
      rw [Nat.cast_natAbs, Int.cast_abs]
      split_ifs with hneg <;> simp only [decide_eq_true_eq] at hneg
      · rw [abs_of_neg (by exact_mod_cast hneg)]; ring
      · rw [abs_of_nonneg (by exact_mod_cast not_lt.mp hneg)]; ring
    rw [Num.Is, ← mul_assoc, ← hs]

/-! ### Products -/

theorem mulExact_is {x y : Num} {p q : ℝ} (hx : x.Is p) (hy : y.Is q) :
    ∃ z, mulExact x y = (z, 0) ∧ z.Is (p * q) ∧ z.neg? = (x.neg? != y.neg?) := by
  obtain ⟨a, m, e, rfl, rfl⟩ := hx.exists_fin
  obtain ⟨b, n, g, rfl, rfl⟩ := hy.exists_fin
  refine ⟨_, rfl, ?_, rfl⟩
  rw [Num.Is, zpow_add₀ two_ne_zero]
  cases a <;> cases b <;> simp <;> ring

/-! ### Quotients -/

theorem le_bitLen {m j : Nat} (h : 2 ^ j ≤ m) : j + 1 ≤ bitLen m := by
  have hm : m ≠ 0 := (Nat.lt_of_lt_of_le (Nat.two_pow_pos j) h).ne'
  rw [bitLen, if_neg hm]
  exact Nat.succ_le_succ ((Nat.le_log2 hm).mpr h)

/-- A number with a bit below it for the rest carries a magnitude that lies at it, or between it and the next. -/
theorem Fmt.Ieee.carries_rest {f : Fmt} (hf : f.Ieee) {q : Nat} {e : Int} {w : ℝ} (hq : 2 ^ 66 ≤ q) {exact_ : Prop} [Decidable exact_]
    (h : exact_ → w = q * 2 ^ e) (hn : ¬ exact_ → (q : ℝ) * 2 ^ e < w ∧ w < (q + 1) * 2 ^ e) :
    f.Carries (2 * q + if exact_ then 0 else 1) (e - 1) w := by
  have he : (2 : ℝ) ^ e = 2 * 2 ^ (e - 1) := by rw [← zpow_one_add₀ two_ne_zero, add_sub_cancel]
  by_cases hx : exact_
  · rw [if_pos hx]
    exact .inl (by rw [h hx, he]; push_cast; ring)
  · obtain ⟨hlo, hhi⟩ := hn hx
    rw [if_neg hx]
    rw [he] at hlo hhi
    refine .inr ⟨by omega, ?_, ?_, ?_⟩
    · have := hf.precision
      have := le_bitLen (show 2 ^ 66 ≤ 2 * q + 1 by omega)
      omega
    · push_cast
      linarith
    · push_cast
      linarith

theorem divExact_carries {f : Fmt} (hf : f.Ieee) {x y : Num} {p q : ℝ} (hx : x.Is p) (hy : y.Is q) (hp : p ≠ 0) (hq : q ≠ 0) :
    ∃ m e, divExact x y = (.fin (x.neg? != y.neg?) m e, 0) ∧ m ≠ 0 ∧ ((x.neg? != y.neg?) = true ↔ p / q < 0) ∧ f.Carries m e |p / q| := by
  obtain ⟨a, m, e, rfl, -⟩ := hx.exists_fin
  obtain ⟨b, n, g, rfl, -⟩ := hy.exists_fin
  have hm : m ≠ 0 := mt (Num.is_zero_iff hx).mpr hp
  have hn : n ≠ 0 := mt (Num.is_zero_iff hy).mpr hq
  have hn0 : (0 : ℝ) < n := Nat.cast_pos.mpr (Nat.pos_of_ne_zero hn)
  obtain ⟨-, hnlt, -⟩ := bitLen_bounds hn
  have hdm := Nat.div_add_mod (m * 2 ^ (bitLen n + 66)) n
  have hmod := Nat.mod_lt (m * 2 ^ (bitLen n + 66)) (Nat.pos_of_ne_zero hn)
  have hw : |p / q| = (m * 2 ^ (bitLen n + 66) : Nat) / n * 2 ^ (e - g - (bitLen n + 66 : Nat)) := by
    rw [abs_div, Num.abs_of_is hx, Num.abs_of_is hy, zpow_sub₀ two_ne_zero, zpow_sub₀ two_ne_zero, zpow_natCast]
    push_cast
    field_simp
  have hq66 : 2 ^ 66 ≤ m * 2 ^ (bitLen n + 66) / n := by
    rw [Nat.le_div_iff_mul_le (Nat.pos_of_ne_zero hn), Nat.pow_add, Nat.mul_comm (2 ^ bitLen n), ← Nat.mul_assoc, Nat.mul_comm m, Nat.mul_assoc]
    exact Nat.mul_le_mul_left _ (hnlt.le.trans (Nat.le_mul_of_pos_left _ (Nat.pos_of_ne_zero hm)))
  refine ⟨_, _, by simp only [divExact, if_neg hn, if_neg hm]; rfl, by omega, ?_, ?_⟩
  · obtain ⟨z, hz, hpq, -⟩ := mulExact_is hx hy
    rw [mulExact, Prod.mk.injEq] at hz
    rw [← hz.1] at hpq
    exact (Num.sign_of_is hpq (mul_ne_zero hp hq)).trans (mul_neg_iff.trans div_neg_iff.symm)
  generalize m * 2 ^ (bitLen n + 66) = M at *
  have hM : (M : ℝ) / n = (M / n : Nat) + (M % n : Nat) / n := by
    have : (M : ℝ) = n * (M / n : Nat) + (M % n : Nat) := by exact_mod_cast hdm.symm
    field_simp
    linarith
  have hrest : ((M % n : Nat) : ℝ) / n < 1 := (div_lt_one hn0).mpr (by exact_mod_cast hmod)
  have he : (0 : ℝ) < 2 ^ (e - g - (bitLen n + 66 : Nat)) := by positivity
  rw [hw, hM]
  refine hf.carries_rest hq66 (fun h0 => ?_) fun hne => ⟨mul_lt_mul_of_pos_right ?_ he, mul_lt_mul_of_pos_right ?_ he⟩
  · rw [h0, Nat.cast_zero, zero_div, add_zero]
  · exact lt_add_of_pos_right _ (div_pos (Nat.cast_pos.mpr (Nat.pos_of_ne_zero hne)) hn0)
  · linarith

/-! ### Square roots -/

/-- The bits found so far, r, and the n bits to come hold the root of m. -/
theorem isqrtN_spec (n : Nat) {m r : Nat} (hlo : r * r ≤ m) (hhi : m < (r + 2 ^ n) * (r + 2 ^ n)) :
    isqrtN n m r * isqrtN n m r ≤ m ∧ m < (isqrtN n m r + 1) * (isqrtN n m r + 1) := by
  induction n generalizing r with
  | zero => exact ⟨hlo, hhi⟩
  | succ n ih =>
    rw [isqrtN]
    rw [Nat.pow_succ, Nat.mul_two, ← Nat.add_assoc] at hhi
    split_ifs with h
    · exact ih h hhi
    · exact ih hlo (Nat.not_le.mp h)

theorem isqrt_eq (m : Nat) : isqrt m = m.sqrt := by
  have hlt : m < 2 ^ bitLen m := by
    rcases Nat.eq_zero_or_pos m with rfl | hm
    · decide
    · exact (bitLen_bounds hm.ne').2.1
  have hle : 2 ^ bitLen m ≤ 2 ^ (bitLen m / 2 + 1) * 2 ^ (bitLen m / 2 + 1) := by
    rw [← Nat.pow_add]
    exact Nat.pow_le_pow_right two_pos (by omega)
  obtain ⟨h1, h2⟩ := isqrtN_spec (bitLen m / 2 + 1) (m := m) (r := 0) (Nat.zero_le _) (by rw [Nat.zero_add]; omega)
  exact (Nat.eq_sqrt.mpr ⟨h1, h2⟩)

theorem sqrtExact_carries {f : Fmt} (hf : f.Ieee) {x : Num} {p : ℝ} (hx : x.Is p) (hp : 0 < p) :
    ∃ m e, sqrtExact x = (.fin false m e, 0) ∧ m ≠ 0 ∧ f.Carries m e |√p| := by
  obtain ⟨a, m, e, rfl, -⟩ := hx.exists_fin
  have hm : m ≠ 0 := mt (Num.is_zero_iff hx).mpr hp.ne'
  obtain rfl : a = false := Bool.eq_false_iff.mpr fun ha => absurd ((Num.sign_of_is hx hp.ne').mp ha) hp.not_gt
  set k := 140 + (e % 2).toNat with hk
  have hV : 2 ^ 140 ≤ m * 2 ^ k :=
    (Nat.pow_le_pow_right two_pos (Nat.le_add_right 140 _)).trans (Nat.le_mul_of_pos_left _ (Nat.pos_of_ne_zero hm))
  have hr66 : 2 ^ 66 ≤ (m * 2 ^ k).sqrt := Nat.le_sqrt.mpr (le_trans (by norm_num) hV)
  have hw : |√p| = √((m * 2 ^ k : Nat) : ℝ) * 2 ^ ((e - k) / 2) := by
    have h2 : (2 : ℝ) ^ (e - k) = 2 ^ ((e - k) / 2) * 2 ^ ((e - k) / 2) := by
      rw [← zpow_add₀ two_ne_zero]
      congr 1
      omega
    have hpk : p = ((m * 2 ^ k : Nat) : ℝ) * (2 ^ ((e - k) / 2) * 2 ^ ((e - k) / 2)) := by
      rw [← abs_of_pos hp, Num.abs_of_is hx, ← h2, zpow_sub₀ two_ne_zero, zpow_natCast]
      push_cast
      field_simp
    rw [abs_of_nonneg (Real.sqrt_nonneg p), hpk, Real.sqrt_mul (by positivity), Real.sqrt_mul_self (by positivity)]
  have hlo := Nat.sqrt_le (m * 2 ^ k)
  have hhi := Nat.lt_succ_sqrt (m * 2 ^ k)
  refine ⟨2 * (m * 2 ^ k).sqrt + if (m * 2 ^ k).sqrt * (m * 2 ^ k).sqrt = m * 2 ^ k then 0 else 1, (e - k) / 2 - 1, ?_, by omega, ?_⟩
  · simp only [sqrtExact, if_neg hm, isqrt_eq]
    rfl
  generalize m * 2 ^ k = V at *
  have he : (0 : ℝ) < 2 ^ ((e - k) / 2) := by positivity
  rw [hw]
  refine hf.carries_rest hr66 (fun h0 => ?_) fun hne => ⟨mul_lt_mul_of_pos_right ?_ he, mul_lt_mul_of_pos_right ?_ he⟩
  · rw [← Real.sqrt_mul_self (Nat.cast_nonneg V.sqrt), ← Nat.cast_mul, h0]
  · refine Real.lt_sqrt_of_sq_lt ?_
    rw [sq]
    exact_mod_cast lt_of_le_of_ne hlo hne
  · rw [Real.sqrt_lt' (by positivity), sq]
    exact_mod_cast hhi

end Sys2Proof.Machine
end

section
/-! SUPPORT. What each operation on patterns gives: finite operands, infinities and NaNs, comparisons and conversions (R68 to R71, R93, R96). -/

namespace Sys2Proof.Machine

/-! ### Patterns (R68) -/

/-- The value of a pattern by its fields. -/
theorem Fmt.decode_pattern (f : Fmt) {x : Nat} (hx : x < 2 ^ f.width) :
    let u := f.decode x
    let sign := x / 2 ^ (f.eb + f.fb)
    let ex := x / 2 ^ f.fb % 2 ^ f.eb
    let fr := x % 2 ^ f.fb
    (ex = 2 ^ f.eb - 1 → u = if fr = 0 then .inf (decide (sign = 1)) else .nan (decide (fr < 2 ^ (f.fb - 1)))) ∧
    (ex ≠ 2 ^ f.eb - 1 → ex = 0 → u = .fin (decide (sign = 1)) fr (f.emin - f.fb)) ∧
    (ex ≠ 2 ^ f.eb - 1 → ex ≠ 0 → u = .fin (decide (sign = 1)) (2 ^ f.fb + fr) ((ex : ℤ) - f.bias - f.fb)) := by
  obtain ⟨neg, k, fr, hk, hfr, rfl⟩ := f.exists_fields hx
  obtain ⟨hs, he, hf, -⟩ := f.fields neg hk hfr
  have hsign : decide ((if neg then 1 else 0) = 1) = neg := by cases neg <;> rfl
  simp only [hs, he, hf, f.decode_fields neg hk hfr, hsign]
  refine ⟨fun h => if_pos h, fun h h0 => ?_, fun h h0 => ?_⟩
  · rw [if_neg h, if_pos h0]
  · rw [if_neg h, if_neg h0]

/-- A magnitude that is a whole number of units at its exponent in the format is its own pattern. -/
theorem roundFin_self (f : Fmt) (rm : Nat) (neg : Bool) {m : Nat} {e : Int} {mag : Nat} (hE : max (binExp m e) f.emin = e + f.fb)
    (hmag : (e + f.fb - f.emin).toNat * 2 ^ f.fb + m = mag) (hfin : mag < f.infBits) : roundFin f rm neg m e = (f.signBit neg + mag, 0) := by
  rw [binExp] at hE
  have hround : roundAt rm neg m e (e + f.fb - f.fb) = (m, false) := by simp [roundAt]
  simp only [roundFin, hE, hround, hmag, if_neg (Nat.not_le.mpr hfin), Bool.and_false]
  rfl

/-- A value of the format rounds to itself (R70). -/
theorem Fmt.roundNum_decode (f : Fmt) (rm : Nat) {x : Nat} (hx : x < 2 ^ f.width) (h : (f.decode x).isNan = false) :
    roundNum f rm (f.decode x) = (x, 0) := by
  obtain ⟨neg, k, fr, hk, hfr, rfl⟩ := f.exists_fields hx
  rw [f.decode_fields neg hk hfr] at h ⊢
  split_ifs at h ⊢ with hmax hfr0 h0
  · rw [roundNum, hmax, hfr0, Fmt.infBits, Nat.add_zero]
  · exact absurd h (by simp [Num.isNan])
  all_goals
    have hfin : k * 2 ^ f.fb + fr < f.infBits :=
      calc k * 2 ^ f.fb + fr < (k + 1) * 2 ^ f.fb := by rw [Nat.succ_mul]; omega
        _ ≤ f.infBits := Nat.mul_le_mul_right _ (by omega)
  · subst h0
    rcases Nat.eq_zero_or_pos fr with rfl | hpos
    · simp [roundNum]
    · have hlen : bitLen fr ≤ f.fb := by
        by_contra hlt
        have := Nat.pow_le_pow_right two_pos (show f.fb ≤ bitLen fr - 1 by omega)
        have := (bitLen_bounds hpos.ne').1
        omega
      rw [roundNum, if_neg hpos.ne']
      exact roundFin_self f rm neg (by rw [binExp, max_eq_right (by omega)]; ring) (by simp) hfin
  · have hlen : bitLen (2 ^ f.fb + fr) = f.fb + 1 := bitLen_eq (Nat.le_add_right _ _) (by rw [Nat.pow_succ]; omega)
    have hemin : f.emin = 1 - f.bias := rfl
    have hpos := Nat.two_pow_pos f.fb
    rw [roundNum, if_neg (by omega)]
    refine roundFin_self f rm neg (by rw [binExp, hlen, max_eq_left (by omega)]; push_cast; ring) ?_ hfin
    rw [show ((k : ℤ) - f.bias - f.fb + f.fb - f.emin).toNat = k - 1 by omega, ← Nat.add_assoc, ← Nat.succ_mul]
    congr 2
    omega

/-! ### Finite operands -/

section
variable {f : Fmt} (hf : f.Ieee) {rm : Nat} (hrm : rm < 4) {x y : Nat} {p q : ℝ} (hx : (f.decode x).Is p) (hy : (f.decode y).Is q)

theorem quiet_pair {a b : Num} {p q : ℝ} (ha : a.Is p) (hb : b.Is q) : ∀ z ∈ [a, b], z.isSnan = false := by
  simp [ha.isSnan, hb.isSnan]

include hf hrm hx

theorem Fmt.Ieee.fsqrt_pos (hp : 0 < p) : Rounds f rm √p (fsqrt f rm x) := by
  obtain ⟨m, e, hz, hm, hc⟩ := sqrtExact_carries hf hx hp
  rw [fsqrt, hz, finish_quiet (by simp [hx.isSnan]), Nat.or_zero]
  exact hf.roundNum_carries hrm hm (iff_of_false (by simp) (Real.sqrt_nonneg p).not_gt) hc

include hy

theorem Fmt.Ieee.fadd_is : (p + q ≠ 0 → Rounds f rm (p + q) (fadd f rm x y)) ∧
    (p + q = 0 → fadd f rm x y = (f.signBit (if (f.decode x).neg? = (f.decode y).neg? then (f.decode x).neg? else decide (rm = 2)), 0)) := by
  obtain ⟨z, hz, his, hsign⟩ := addExact_is rm hx hy
  obtain ⟨h, h0⟩ := hf.finish_is hrm (quiet_pair hx hy) his
  rw [fadd, hz]
  exact ⟨h, fun e => by rw [h0 e, hsign e]⟩

theorem Fmt.Ieee.fsub_is : (p - q ≠ 0 → Rounds f rm (p - q) (fsub f rm x y)) ∧
    (p - q = 0 → fsub f rm x y = (f.signBit (if (f.decode x).neg? = (f.decode y).neg? then decide (rm = 2) else (f.decode x).neg?), 0)) := by
  obtain ⟨hn, hns⟩ := hy.negate
  obtain ⟨z, hz, his, hsign⟩ := addExact_is rm hx hn
  obtain ⟨h, h0⟩ := hf.finish_is hrm (quiet_pair hx hy) his
  rw [fsub, hz, sub_eq_add_neg]
  refine ⟨h, fun e => ?_⟩
  rw [h0 e, hsign e, hns]
  cases (f.decode x).neg? <;> cases (f.decode y).neg? <;> rfl

theorem Fmt.Ieee.fmul_is : (p * q ≠ 0 → Rounds f rm (p * q) (fmul f rm x y)) ∧
    (p * q = 0 → fmul f rm x y = (f.signBit ((f.decode x).neg? != (f.decode y).neg?), 0)) := by
  obtain ⟨z, hz, his, hsign⟩ := mulExact_is hx hy
  obtain ⟨h, h0⟩ := hf.finish_is hrm (quiet_pair hx hy) his
  rw [fmul, hz]
  exact ⟨h, fun e => by rw [h0 e, hsign]⟩

theorem Fmt.Ieee.fdiv_rounds (hp : p ≠ 0) (hq : q ≠ 0) : Rounds f rm (p / q) (fdiv f rm x y) := by
  obtain ⟨m, e, hz, hm, hs, hc⟩ := divExact_carries hf hx hy hp hq
  rw [fdiv, hz, finish_quiet (quiet_pair hx hy), Nat.or_zero]
  exact hf.roundNum_carries hrm hm hs hc

/-- roundF(±(X × Y) ± Z) is rounded once (R95). -/
theorem Fmt.Ieee.ffma_is {z : Nat} {r : ℝ} (np nz : Bool) (hz : (f.decode z).Is r) :
    let a := (if np then -(p * q) else p * q) + (if nz then -r else r)
    let sp := ((f.decode x).neg? != (f.decode y).neg?) != np
    let sr := (f.decode z).neg? != nz
    (a ≠ 0 → Rounds f rm a (ffma f rm np nz x y z)) ∧ (a = 0 → ffma f rm np nz x y z = (f.signBit (if sp = sr then sp else decide (rm = 2)), 0)) := by
  intro a sp sr
  obtain ⟨m, hm, hpq, hms⟩ := mulExact_is hx hy
  obtain ⟨hpn, hps⟩ := hpq.negateIf np
  obtain ⟨hrn, hrs⟩ := hz.negateIf nz
  obtain ⟨w, hw, his, hsign⟩ := addExact_is rm hpn hrn
  obtain ⟨h, h0⟩ := hf.finish_is hrm (ops := [f.decode x, f.decode y, f.decode z]) (by simp [hx.isSnan, hy.isSnan, hz.isSnan]) his
  have heq : ffma f rm np nz x y z = finish f rm [f.decode x, f.decode y, f.decode z] (w, 0) := by
    simp only [ffma, hm, hw, Nat.or_zero]
  rw [heq]
  exact ⟨h, fun e => by rw [h0 e, hsign e, hps, hrs, hms]⟩

end

/-! ### NaNs and infinities as operands of the exact operations (R69) -/

@[simp] theorem Num.isSnan_inf (a : Bool) : (Num.inf a).isSnan = false := rfl
@[simp] theorem Num.negate_inf (a : Bool) : (Num.inf a).negate = .inf (!a) := rfl

theorem Num.isSnan_eq_false {x : Num} (h : x.isNan = false) : x.isSnan = false := by
  cases x with
  | nan _ => exact absurd h Bool.true_eq_false_eq_False
  | inf _ => rfl
  | fin _ _ _ => rfl

theorem Num.exists_nan {x : Num} (h : x.isNan = true) : ∃ s, x = .nan s := by
  cases x with
  | nan s => exact ⟨s, rfl⟩
  | inf _ => exact absurd h Bool.false_ne_true
  | fin _ _ _ => exact absurd h Bool.false_ne_true

theorem Num.isNan_negate (x : Num) : x.negate.isNan = x.isNan := by cases x <;> rfl

theorem addExact_nan (rm : Nat) {x y : Num} (h : (x.isNan || y.isNan) = true) : addExact rm x y = (.nan false, 0) := by
  rcases Bool.or_eq_true_iff.mp h with h | h <;> obtain ⟨s, rfl⟩ := Num.exists_nan h
  · rfl
  · cases x <;> rfl

theorem mulExact_nan {x y : Num} (h : (x.isNan || y.isNan) = true) : mulExact x y = (.nan false, 0) := by
  rcases Bool.or_eq_true_iff.mp h with h | h <;> obtain ⟨s, rfl⟩ := Num.exists_nan h
  · rfl
  · cases x <;> rfl

theorem divExact_nan {x y : Num} (h : (x.isNan || y.isNan) = true) : divExact x y = (.nan false, 0) := by
  rcases Bool.or_eq_true_iff.mp h with h | h <;> obtain ⟨s, rfl⟩ := Num.exists_nan h
  · rfl
  · cases x <;> rfl

/-! ### Zeros, infinities and invalid operations (R69, R71) -/

theorem finish_inf {f : Fmt} {rm : Nat} {ops : List Num} (h : ∀ x ∈ ops, x.isSnan = false) (neg : Bool) (fl : Nat) :
    finish f rm ops (.inf neg, fl) = (f.signBit neg + f.infBits, fl) := by
  rw [finish_quiet h, roundNum, Nat.zero_or]

theorem finish_invalid {f : Fmt} {rm : Nat} {ops : List Num} (h : ∀ x ∈ ops, x.isSnan = false) (s : Bool) (fl : Nat) :
    finish f rm ops (.nan s, fl) = (f.qnan, fl) := by
  rw [finish_nan, nvOf_quiet h, Nat.or_zero]

theorem finish_zero {f : Fmt} {rm : Nat} {ops : List Num} (h : ∀ x ∈ ops, x.isSnan = false) (neg : Bool) (e : Int) :
    finish f rm ops (.fin neg 0 e, 0) = (f.signBit neg, 0) := by
  rw [finish_quiet h, roundNum, if_pos rfl, Nat.or_zero]

section
variable {x y : Num} {p q : ℝ} (hx : x.Is p) (hy : y.Is q)
include hx

theorem sqrtExact_neg (hp : p < 0) : sqrtExact x = (.nan false, flagNV) := by
  obtain ⟨a, m, e, rfl, -⟩ := hx.exists_fin
  rw [sqrtExact, if_neg (mt (Num.is_zero_iff hx).mpr hp.ne), if_pos ((Num.sign_of_is hx hp.ne).mpr hp)]

theorem sqrtExact_zero (hp : p = 0) : sqrtExact x = (.fin x.neg? 0 0, 0) := by
  obtain ⟨a, m, e, rfl, -⟩ := hx.exists_fin
  rw [sqrtExact, if_pos ((Num.is_zero_iff hx).mp hp)]
  rfl

theorem addExact_inf_left (rm : Nat) (a : Bool) : addExact rm (.inf a) x = (.inf a, 0) := by
  obtain ⟨b, m, e, rfl, -⟩ := hx.exists_fin
  rfl

theorem addExact_inf_right (rm : Nat) (a : Bool) : addExact rm x (.inf a) = (.inf a, 0) := by
  obtain ⟨b, m, e, rfl, -⟩ := hx.exists_fin
  rfl

theorem mulExact_inf (a : Bool) : mulExact (.inf a) x = if p = 0 then (.nan false, flagNV) else (.inf (a != x.neg?), 0) := by
  obtain ⟨b, m, e, rfl, -⟩ := hx.exists_fin
  exact (if_congr (Num.is_zero_iff hx) rfl rfl).symm

theorem divExact_inf_left (a : Bool) : divExact (.inf a) x = (.inf (a != x.neg?), 0) := by
  obtain ⟨b, m, e, rfl, -⟩ := hx.exists_fin
  rfl

theorem divExact_inf_right (a : Bool) : divExact x (.inf a) = (.fin (x.neg? != a) 0 0, 0) := by
  obtain ⟨b, m, e, rfl, -⟩ := hx.exists_fin
  rfl

include hy

theorem divExact_zero_left (hp : p = 0) (hq : q ≠ 0) : divExact x y = (.fin (x.neg? != y.neg?) 0 0, 0) := by
  obtain ⟨a, m, e, rfl, -⟩ := hx.exists_fin
  obtain ⟨b, n, g, rfl, -⟩ := hy.exists_fin
  rw [divExact, if_neg (mt (Num.is_zero_iff hy).mpr hq), if_pos ((Num.is_zero_iff hx).mp hp)]
  rfl

theorem divExact_zero_right (hp : p ≠ 0) (hq : q = 0) : divExact x y = (.inf (x.neg? != y.neg?), flagDZ) := by
  obtain ⟨a, m, e, rfl, -⟩ := hx.exists_fin
  obtain ⟨b, n, g, rfl, -⟩ := hy.exists_fin
  rw [divExact, if_pos ((Num.is_zero_iff hy).mp hq), if_neg (mt (Num.is_zero_iff hx).mpr hp)]
  rfl

theorem divExact_zeros (hp : p = 0) (hq : q = 0) : divExact x y = (.nan false, flagNV) := by
  obtain ⟨a, m, e, rfl, -⟩ := hx.exists_fin
  obtain ⟨b, n, g, rfl, -⟩ := hy.exists_fin
  rw [divExact, if_pos ((Num.is_zero_iff hy).mp hq), if_pos ((Num.is_zero_iff hx).mp hp)]

end

section
variable {f : Fmt} (rm : Nat) {x y : Nat} {p q : ℝ} (hx : (f.decode x).Is p)
include hx

theorem fsqrt_neg (hp : p < 0) : fsqrt f rm x = (f.qnan, flagNV) := by
  rw [fsqrt, sqrtExact_neg hx hp, finish_invalid (by simp [hx.isSnan])]

theorem fsqrt_zero (hw : x < 2 ^ f.width) (hp : p = 0) : fsqrt f rm x = (x, 0) := by
  subst hp
  rw [fsqrt, sqrtExact_zero hx rfl, finish_zero (by simp [hx.isSnan]), ← roundNum_zero f rm hx, f.roundNum_decode rm hw hx.isNan]

variable (hy : (f.decode y).Is q)
include hy

/-- Quotients with a zero (R71). -/
theorem fdiv_zero :
    (p = 0 → q ≠ 0 → fdiv f rm x y = (f.signBit ((f.decode x).neg? != (f.decode y).neg?), 0)) ∧
    (p ≠ 0 → q = 0 → fdiv f rm x y = (f.signBit ((f.decode x).neg? != (f.decode y).neg?) + f.infBits, flagDZ)) ∧
    (p = 0 → q = 0 → fdiv f rm x y = (f.qnan, flagNV)) := by
  have hops := quiet_pair hx hy
  refine ⟨fun hp hq => ?_, fun hp hq => ?_, fun hp hq => ?_⟩
  · rw [fdiv, divExact_zero_left hx hy hp hq, finish_zero hops]
  · rw [fdiv, divExact_zero_right hx hy hp hq, finish_inf hops]
  · rw [fdiv, divExact_zeros hx hy hp hq, finish_invalid hops]

end

theorem addExact_infs (rm : Nat) (a b : Bool) : addExact rm (.inf a) (.inf b) = if a = b then (.inf a, 0) else (.nan false, flagNV) := rfl

section
variable {f : Fmt} (rm : Nat) {x y : Nat} {a b : Bool} (hx : f.decode x = .inf a)
include hx

theorem fsqrt_inf : fsqrt f rm x = if a then (f.qnan, flagNV) else (f.infBits, 0) := by
  have hops : ∀ z ∈ [Num.inf a], z.isSnan = false := by simp
  simp only [fsqrt, hx, sqrtExact]
  cases a
  · simp [finish_inf hops, Fmt.signBit]
  · simp [finish_invalid hops]

theorem arith_inf_inf (hy : f.decode y = .inf b) :
    let inf := fun neg => f.signBit neg + f.infBits
    fadd f rm x y = (if a = b then (inf a, 0) else (f.qnan, flagNV)) ∧ fsub f rm x y = (if a = b then (f.qnan, flagNV) else (inf a, 0)) ∧
      fmul f rm x y = (inf (a != b), 0) ∧ fdiv f rm x y = (f.qnan, flagNV) := by
  have hops : ∀ z ∈ [Num.inf a, Num.inf b], z.isSnan = false := by simp
  have hsum : ∀ c, finish f rm [.inf a, .inf b] (addExact rm (.inf a) (.inf c)) =
      if a = c then (f.signBit a + f.infBits, 0) else (f.qnan, flagNV) := fun c => by
    rw [addExact_infs, apply_ite (finish f rm _), finish_inf hops, finish_invalid hops]
  simp only [fadd, fsub, fmul, fdiv, hx, hy, Num.negate, hsum, mulExact, divExact, finish_inf hops, finish_invalid hops, and_true, true_and]
  cases a <;> cases b <;> rfl

variable {q : ℝ} (hy : (f.decode y).Is q)
include hy

theorem arith_inf_fin :
    let v := f.decode y
    let inf := fun neg => f.signBit neg + f.infBits
    fadd f rm x y = (inf a, 0) ∧ fsub f rm x y = (inf a, 0) ∧ fsub f rm y x = (inf !a, 0) ∧
      (q = 0 → fmul f rm x y = (f.qnan, flagNV)) ∧ (q ≠ 0 → fmul f rm x y = (inf (a != v.neg?), 0)) ∧
      fdiv f rm x y = (inf (a != v.neg?), 0) ∧ fdiv f rm y x = (f.signBit (v.neg? != a), 0) := by
  have hops : ∀ z ∈ [f.decode x, f.decode y], z.isSnan = false := by simp [hx, hy.isSnan]
  have hops' : ∀ z ∈ [f.decode y, f.decode x], z.isSnan = false := by simp [hx, hy.isSnan]
  rw [hx] at hops hops'
  simp only [fadd, fsub, fmul, fdiv, hx, Num.negate_inf]
  rw [addExact_inf_left hy, addExact_inf_left hy.negate.1, addExact_inf_right hy, mulExact_inf hy, divExact_inf_left hy, divExact_inf_right hy,
    finish_inf hops, finish_inf hops', finish_zero hops', finish_inf hops]
  refine ⟨rfl, rfl, rfl, fun hq => ?_, fun hq => ?_, rfl, rfl⟩
  · rw [if_pos hq, finish_invalid hops]
  · rw [if_neg hq, finish_inf hops]

theorem ffma_inf (z : Nat) (np nz : Bool) :
    let v := f.decode y
    let w := f.decode z
    let inf := fun neg => f.signBit neg + f.infBits
    (q = 0 → w.isNan = false → ffma f rm np nz x y z = (f.qnan, flagNV)) ∧
    (∀ c, q ≠ 0 → w = .inf c → ffma f rm np nz x y z =
      (if ((a != v.neg?) != np) = (c != nz) then (inf ((a != v.neg?) != np), 0) else (f.qnan, flagNV))) ∧
    (∀ r, q ≠ 0 → w.Is r → ffma f rm np nz x y z = (inf ((a != v.neg?) != np), 0)) := by
  have hops : ∀ w, w.isSnan = false → ∀ z ∈ [Num.inf a, f.decode y, w], z.isSnan = false := by simp [hy.isSnan]
  have hneg : ∀ s b : Bool, (if b then (Num.inf s).negate else .inf s) = .inf (s != b) := by intro s b; cases s <;> cases b <;> rfl
  simp only [ffma, hx, mulExact_inf hy]
  refine ⟨fun hq hw => ?_, fun c hq hw => ?_, fun r hq hw => ?_⟩
  · have hp : (if np then (Num.nan false).negate else .nan false) = .nan false := by cases np <;> rfl
    rw [if_pos hq, hp, addExact_nan rm rfl, finish_invalid (hops _ (Num.isSnan_eq_false hw)), Nat.zero_or]
  · rw [if_neg hq, hw, hneg, hneg, addExact_infs]
    split_ifs
    · rw [finish_inf (hops _ rfl), Nat.or_zero]
    · rw [finish_invalid (hops _ rfl), Nat.or_zero]
  · rw [if_neg hq, hneg, addExact_inf_left (hw.negateIf nz).1, finish_inf (hops _ hw.isSnan), Nat.or_zero]

end

/-! ### NaN operands (R69, R71) -/

theorem nvOf_pair (a b : Num) : nvOf [a, b] = if a.isSnan || b.isSnan then flagNV else 0 := by
  simp [nvOf, flagIf]

theorem fadd_nan (f : Fmt) (rm : Nat) {x y : Nat} (h : ((f.decode x).isNan || (f.decode y).isNan) = true) :
    let nv := if (f.decode x).isSnan || (f.decode y).isSnan then flagNV else 0
    fadd f rm x y = (f.qnan, nv) ∧ fsub f rm x y = (f.qnan, nv) ∧ fmul f rm x y = (f.qnan, nv) ∧ fdiv f rm x y = (f.qnan, nv) := by
  have hn : ((f.decode x).isNan || (f.decode y).negate.isNan) = true := by rwa [Num.isNan_negate]
  simp only [fadd, fsub, fmul, fdiv, addExact_nan rm h, addExact_nan rm hn, mulExact_nan h, divExact_nan h, finish_nan, nvOf_pair, Nat.zero_or, and_self]

theorem fsqrt_nan (f : Fmt) (rm : Nat) {x : Nat} (h : (f.decode x).isNan = true) : fsqrt f rm x = (f.qnan, if (f.decode x).isSnan then flagNV else 0) := by
  obtain ⟨s, hs⟩ := Num.exists_nan h
  simp only [fsqrt, hs, sqrtExact, finish_nan, Nat.zero_or]
  cases s <;> rfl

theorem ffma_nan (f : Fmt) (rm : Nat) (np nz : Bool) {x y z : Nat} (h : ((f.decode x).isNan || (f.decode y).isNan || (f.decode z).isNan) = true) :
    (ffma f rm np nz x y z).1 = f.qnan := by
  have hif : ∀ (b : Bool) (w : Num), (if b then w.negate else w).isNan = w.isNan := fun b w => by cases b <;> simp [Num.isNan_negate]
  have hsum : ((if np then (mulExact (f.decode x) (f.decode y)).1.negate else (mulExact (f.decode x) (f.decode y)).1).isNan ||
      (if nz then (f.decode z).negate else f.decode z).isNan) = true := by
    rw [hif, hif]
    rcases Bool.or_eq_true_iff.mp h with h | h
    · rw [mulExact_nan h]
      rfl
    · rw [h, Bool.or_true]
  simp only [ffma, addExact_nan rm hsum, finish_nan]

/-! ### Comparisons (R93) -/

theorem numLt_nan {a b : Num} (h : (a.isNan || b.isNan) = true) : numLt a b = false := by
  rcases Bool.or_eq_true_iff.mp h with h | h <;> obtain ⟨s, rfl⟩ := Num.exists_nan h
  · rfl
  · cases a <;> rfl

theorem numEq_nan {a b : Num} (h : (a.isNan || b.isNan) = true) : numEq a b = false := by
  rcases Bool.or_eq_true_iff.mp h with h | h <;> simp [numEq, h]

theorem numLt_asymm {a b : Num} (h : numLt a b = true) : numLt b a = false := by
  cases a with
  | nan _ => exact absurd h Bool.false_ne_true
  | inf n =>
    cases b with
    | nan _ => exact absurd h Bool.false_ne_true
    | inf k => cases n <;> cases k <;> simp_all [numLt]
    | fin _ _ _ => simp_all [numLt]
  | fin n m e =>
    cases b with
    | nan _ => exact absurd h Bool.false_ne_true
    | inf k => simp_all [numLt]
    | fin k j g =>
      rw [numLt, decide_eq_true_eq] at h
      rw [numLt, decide_eq_false_iff_not, min_comm]
      exact not_lt.mpr h.le

theorem compare_nan (f : Fmt) {x y : Nat} (h : ((f.decode x).isNan || (f.decode y).isNan) = true) :
    (feq f x y).1 = false ∧ flt f x y = (false, flagNV) ∧ fle f x y = (false, flagNV) := by
  simp only [feq, flt, fle, numLt_nan h, numEq_nan h, h, flagIf, if_true, Bool.or_self, and_self]

theorem compare_numbers (f : Fmt) {x y : Nat} (hx : (f.decode x).isNan = false) (hy : (f.decode y).isNan = false) :
    (flt f x y).2 = 0 ∧ (fle f x y).2 = 0 ∧ ((fle f x y).1 = ((flt f x y).1 || (feq f x y).1)) ∧ ((flt f x y).1 = !(fle f y x).1) := by
  refine ⟨by simp [flt, flagIf, hx, hy], by simp [fle, flagIf, hx, hy], rfl, ?_⟩
  simp only [flt, fle, hx, hy, numEq, Bool.not_false, Bool.true_and]
  have := @numLt_asymm (f.decode x) (f.decode y)
  revert this
  cases numLt (f.decode x) (f.decode y) <;> cases numLt (f.decode y) (f.decode x) <;> simp

theorem fminmax_nan (f : Fmt) (big : Bool) (x y : Nat) :
    let u := f.decode x
    let v := f.decode y
    (fminmax f big x y).2 = (if u.isSnan || v.isSnan then flagNV else 0) ∧
      (u.isNan → v.isNan → (fminmax f big x y).1 = f.qnan) ∧
      (u.isNan → v.isNan = false → (fminmax f big x y).1 = y) ∧
      (u.isNan = false → v.isNan → (fminmax f big x y).1 = x) := by
  refine ⟨nvOf_pair _ _, fun hu hv => ?_, fun hu hv => ?_, fun hu hv => ?_⟩ <;> simp [fminmax, hu, hv]

theorem fminmax_lt (f : Fmt) {x y : Nat} (hx : (f.decode x).isNan = false) (hy : (f.decode y).isNan = false)
    (hz : ((f.decode x).isZero && (f.decode y).isZero) = false) (h : (flt f x y).1 = true) :
    (fminmax f false x y).1 = x ∧ (fminmax f true x y).1 = y ∧ (fminmax f false y x).1 = x ∧ (fminmax f true y x).1 = y := by
  have hlt : numLt (f.decode x) (f.decode y) = true := h
  have hz' : ((f.decode y).isZero && (f.decode x).isZero) = false := by rwa [Bool.and_comm]
  simp [fminmax, hx, hy, hz, hz', hlt, numLt_asymm hlt]

/-! ### Commutation -/

theorem addExact_comm (rm : Nat) (a b : Num) : addExact rm a b = addExact rm b a := by
  cases a with
  | nan s => rw [addExact_nan rm (by rfl), addExact_nan rm (by simp [Num.isNan])]
  | inf n =>
    cases b with
    | nan _ => rfl
    | inf k => cases n <;> cases k <;> rfl
    | fin _ _ _ => rfl
  | fin n m e =>
    cases b with
    | nan _ => rfl
    | inf _ => rfl
    | fin k j g =>
      simp only [addExact, min_comm g e, add_comm (if k = true then _ else _)]
      cases n <;> cases k <;> rfl

theorem mulExact_comm (a b : Num) : mulExact a b = mulExact b a := by
  cases a with
  | nan s => rw [mulExact_nan (by rfl), mulExact_nan (by simp [Num.isNan])]
  | inf n =>
    cases b with
    | nan _ => rfl
    | inf k => simp only [mulExact, bne_comm]
    | fin k _ _ => simp only [mulExact, bne_comm]
  | fin n m e =>
    cases b with
    | nan _ => rfl
    | inf k => simp only [mulExact, bne_comm]
    | fin k j g => simp only [mulExact, Nat.mul_comm j, add_comm g, bne_comm]

theorem finish_comm (f : Fmt) (rm : Nat) (a b : Num) (r : NumFlags) : finish f rm [a, b] r = finish f rm [b, a] r := by
  rw [finish, finish, nvOf_pair, nvOf_pair, Bool.or_comm]

theorem fadd_comm (f : Fmt) (rm x y : Nat) : fadd f rm x y = fadd f rm y x := by
  rw [fadd, fadd, finish_comm, addExact_comm]

theorem fmul_comm (f : Fmt) (rm x y : Nat) : fmul f rm x y = fmul f rm y x := by
  rw [fmul, fmul, finish_comm, mulExact_comm]

/-! ### Conversions (R96) -/

theorem Num.ofInt_is (i : Int) : (Num.ofInt i).Is i ∧ (Num.ofInt i).neg? = decide (i < 0) := by
  refine ⟨?_, rfl⟩
  rw [Num.ofInt, Num.Is, Nat.cast_natAbs, Int.cast_abs, zpow_zero, mul_one]
  split_ifs with h <;> rw [decide_eq_true_eq] at h
  · rw [abs_of_neg (by exact_mod_cast h)]
    ring
  · rw [abs_of_nonneg (by exact_mod_cast not_lt.mp h), one_mul]

/-- A conversion to a float type rounds its operand once (R96). -/
theorem convert_float {rm : Nat} {rtz : Bool} (hrm : (if rtz then 1 else rm) < 4) {dst : NumTy} (src : NumTy) (x : Nat) (hd : dst.isFloat = true) (hf : (numFmt dst).Ieee) :
    let v := numRead src x
    let m := if rtz then 1 else rm
    let g := numFmt dst
    let got := convert rm rtz dst src x
    (v.isNan → got = (g.qnan, if v.isSnan then flagNV else 0)) ∧ (∀ n, v = .inf n → got = (g.signBit n + g.infBits, 0)) ∧
      ∀ p, v.Is p → (p = 0 → got = (g.signBit v.neg?, 0)) ∧ (p ≠ 0 → Rounds g m p got) := by
  intro v m g got
  have hgot : got = finish g m [v] (v, 0) := if_pos hd
  rw [hgot]
  refine ⟨fun hn => ?_, fun n hn => ?_, fun p hp => ?_⟩
  · obtain ⟨s, hs⟩ := Num.exists_nan hn
    rw [hs, finish_nan, Nat.zero_or]
    cases s <;> rfl
  · rw [hn, finish_inf (by simp)]
  · exact (hf.finish_is hrm (by simp [hp.isSnan]) hp).symm

/-- A conversion to an integer rounds to one, and gives the nearer bound beyond the range (R96). -/
theorem toIntTy_spec {rm : Nat} (hrm : rm < 4) {lo hi : Int} (hle : lo ≤ hi) (v : Num) :
    let is := fun (i : Int) (fl : Nat) => toIntTy rm lo hi v = (i, fl)
    (v.isNan → is 0 flagNV) ∧ (∀ n, v = .inf n → is (if n then lo else hi) flagNV) ∧
      ∀ p, v.Is p → ∃ i, RoundsToInt rm v.neg? p i ∧ (hi < i → is hi flagNV) ∧ (i < lo → is lo flagNV) ∧
        (lo ≤ i → i ≤ hi → ((i : ℝ) = p → is i 0) ∧ ((i : ℝ) ≠ p → is i flagNX)) := by
  refine ⟨fun hn => ?_, fun n hn => ?_, fun p hp => ?_⟩
  · obtain ⟨s, rfl⟩ := Num.exists_nan hn
    rfl
  · rw [hn]
    rfl
  · obtain ⟨neg, m, e, rfl, heq⟩ := hp.exists_fin
    obtain ⟨hr, hx⟩ := roundAt_rounds (u := 0) neg hrm (.inl (Num.abs_of_is hp))
    rw [zpow_zero, div_one] at hr
    rw [zpow_zero, mul_one] at hx
    simp only [toIntTy]
    generalize roundAt rm neg m e 0 = r at hr hx
    have hval : ((if neg then -(r.1 : Int) else r.1 : Int) : ℝ) = p ↔ r.2 = false := by
      rw [← Bool.not_eq_true, hx, not_ne_iff, Num.abs_of_is hp, heq]
      cases neg <;> simp
    refine ⟨if neg then -(r.1 : Int) else r.1, ⟨r.1, hr, rfl⟩, ?_⟩
    generalize (if neg = true then -(r.1 : Int) else r.1) = i at hval ⊢
    refine ⟨fun h => if_pos h, fun h => ?_, fun hlo hhi => ?_⟩
    · rw [if_neg (h.le.trans hle).not_gt, if_pos h]
    · rw [if_neg hhi.not_gt, if_neg hlo.not_gt, ne_eq, hval]
      cases r.2 <;> simp [flagIf]

/-- The same of the pattern that a conversion to an integer type gives. -/
theorem convert_integer {rm : Nat} {rtz : Bool} (hrm : (if rtz then 1 else rm) < 4) {dst : NumTy} (src : NumTy) (x : Nat) (hd : dst.isFloat = false)
    (hle : (numRange dst).1 ≤ (numRange dst).2) :
    let v := numRead src x
    let lo := (numRange dst).1
    let hi := (numRange dst).2
    let is := fun (i : Int) (fl : Nat) => convert rm rtz dst src x = ((BitVec.ofInt (numWidth dst) i).toNat, fl)
    (v.isNan → is 0 flagNV) ∧ (∀ n, v = .inf n → is (if n then lo else hi) flagNV) ∧
      ∀ p, v.Is p → ∃ i, RoundsToInt (if rtz then 1 else rm) v.neg? p i ∧ (hi < i → is hi flagNV) ∧ (i < lo → is lo flagNV) ∧
        (lo ≤ i → i ≤ hi → ((i : ℝ) = p → is i 0) ∧ ((i : ℝ) ≠ p → is i flagNX)) := by
  intro v lo hi is
  have his : ∀ i fl, toIntTy (if rtz then 1 else rm) lo hi v = (i, fl) → is i fl := fun i fl h => by
    simp only [is, convert, hd, Bool.false_eq_true, if_false]
    rw [show toIntTy _ (numRange dst).1 (numRange dst).2 (numRead src x) = (i, fl) from h]
  obtain ⟨hnan, hinf, hfin⟩ := toIntTy_spec hrm hle v
  refine ⟨fun h => his _ _ (hnan h), fun n h => his _ _ (hinf n h), fun p hp => ?_⟩
  obtain ⟨i, hi, hbig, hsmall, hin⟩ := hfin p hp
  exact ⟨i, hi, fun h => his _ _ (hbig h), fun h => his _ _ (hsmall h), fun h h' => ⟨fun e => his _ _ ((hin h h').1 e), fun e => his _ _ ((hin h h').2 e)⟩⟩

end Sys2Proof.Machine
end

section
/-! SUPPORT. The obligation about the rules of floating point (R68 to R71, R93, R96, R112). -/

namespace Sys2Proof.Machine

/-- The value of a pattern whose exponent field is 0 (R68). -/
theorem Fmt.decode_subnormal (f : Fmt) (hf : f.Ieee) {x : Nat} (hx : x < 2 ^ f.width) (hex : x / 2 ^ f.fb % 2 ^ f.eb = 0) :
    let neg := decide (x / 2 ^ (f.eb + f.fb) = 1)
    (f.decode x).neg? = neg ∧ (f.decode x).Is ((if x / 2 ^ (f.eb + f.fb) = 1 then -1 else 1) * ((x % 2 ^ f.fb : Nat) * 2 ^ (f.emin - f.fb))) := by
  have hb := hf.bias_spec.1
  obtain ⟨-, h, -⟩ := f.decode_pattern hx
  rw [h (by omega) hex]
  refine ⟨rfl, ?_⟩
  simp [Num.Is]

/-- The value of a pattern whose exponent field is neither 0 nor its greatest value (R68). -/
theorem Fmt.decode_normal (f : Fmt) {x : Nat} (hx : x < 2 ^ f.width) (hex : x / 2 ^ f.fb % 2 ^ f.eb ≠ 0)
    (hmax : x / 2 ^ f.fb % 2 ^ f.eb ≠ 2 ^ f.eb - 1) :
    let neg := decide (x / 2 ^ (f.eb + f.fb) = 1)
    (f.decode x).neg? = neg ∧ (f.decode x).Is ((if x / 2 ^ (f.eb + f.fb) = 1 then -1 else 1) *
      (((2 : ℝ) ^ f.fb + (x % 2 ^ f.fb : Nat)) * 2 ^ (((x / 2 ^ f.fb % 2 ^ f.eb : Nat) : ℤ) - f.bias - f.fb))) := by
  obtain ⟨-, -, h⟩ := f.decode_pattern hx
  rw [h hmax hex]
  refine ⟨rfl, ?_⟩
  simp [Num.Is]

/-- Settles O43: the value of each pattern and one rounding of the exact result, by the real value that the machine's numbers carry; corners by cases. -/
theorem floatRules : Obligations.FloatRules := by
  unfold Obligations.FloatRules
  refine ⟨fun f rm x y hfmt hx hy => ?arith, fun rm x rtz dst src hrm => ?conv⟩
  case arith =>
    have hf := Fmt.ieee_of_format hfmt
    intro u v nv sign ex fr inf
    refine ⟨(f.decode_pattern hx).1, f.decode_subnormal hf hx, f.decode_normal hx, f.roundNum_decode rm hx, fun hrm p q hp hq => ?finite,
      fun a ha => ⟨fun b hb => arith_inf_inf rm ha hb, fun q hq => ?inf, fsqrt_inf rm ha⟩, fun z np nz => ffma_nan f rm np nz, fsqrt_nan f rm, fun h => ?nan,
      nvOf_pair u v, compare_numbers f, fun big => fminmax_nan f big x y, fminmax_lt f, fadd_comm f rm x y, fmul_comm f rm x y⟩
    case finite =>
      obtain ⟨hadd, hadd0⟩ := hf.fadd_is hrm hp hq
      obtain ⟨hsub, hsub0⟩ := hf.fsub_is hrm hp hq
      obtain ⟨hmul, hmul0⟩ := hf.fmul_is hrm hp hq
      obtain ⟨hdiv0, hdivz, hdivzz⟩ := fdiv_zero rm hp hq
      exact ⟨hadd, hsub, hmul, hf.fdiv_rounds hrm hp hq, hf.fsqrt_pos hrm hp, fsqrt_neg rm hp, fsqrt_zero rm hp hx, hadd0, hsub0, hmul0, hdiv0, hdivz, hdivzz,
        fun z r np nz hz => hf.ffma_is hrm hp hq np nz hz⟩
    case inf =>
      obtain ⟨h1, h2, h3, h4, h5, h6, h7⟩ := arith_inf_fin rm ha hq
      exact ⟨h1, h2, h3, h4, h5, h6, h7, ffma_inf rm ha hq⟩
    case nan =>
      obtain ⟨h1, h2, h3, h4⟩ := fadd_nan f rm h
      exact ⟨h1, h2, h3, h4, compare_nan f h⟩
  case conv =>
    intro v m got float read range
    have hm : m < 4 := by
      cases rtz with
      | false => exact hrm
      | true => exact (by decide : 1 < 4)
    refine ⟨fun f hf => ?source, fun i hi => ?integer, fun g hg => ?toFloat, fun w lo hi hr => ?toInteger⟩
    case source => cases src <;> cases hf <;> rfl
    case integer => cases src <;> cases hi <;> exact Num.ofInt_is _
    case toFloat =>
      have hd : dst.isFloat = true ∧ g = numFmt dst := by cases dst <;> cases hg <;> exact ⟨rfl, rfl⟩
      obtain ⟨hd, rfl⟩ := hd
      exact convert_float hm src x hd (Fmt.ieee_of_format (by cases dst <;> simp [numFmt]))
    case toInteger =>
      have hd : dst.isFloat = false ∧ w = numWidth dst ∧ lo = (numRange dst).1 ∧ hi = (numRange dst).2 ∧ lo ≤ hi := by
        cases dst <;> cases hr <;> exact ⟨rfl, rfl, rfl, rfl, by decide⟩
      obtain ⟨hd, rfl, rfl, rfl, hle⟩ := hd
      exact convert_integer hm src x hd hle

end Sys2Proof.Machine
end

section
/-! SUPPORT. The sums of the matrix unit (R72, R86) against real arithmetic, and its operands' rows and columns (R83, R247, R254). -/

namespace Sys2Proof.Machine

/-! ### Sums of groups (R86) -/

/-- The exact sum of finite values is finite. -/
theorem foldl_addExact_is {l : List Num} {w : List ℝ} (h : List.Forall₂ Num.Is l w) {z : Num} {u : ℝ} (hz : z.Is u) :
    (l.foldl (fun acc p => (addExact 0 acc p).1) z).Is (u + w.sum) := by
  induction h generalizing z u with
  | nil => simpa using hz
  | cons hx _ ih =>
    obtain ⟨y, hy, his, -⟩ := addExact_is 0 hz hx
    rw [List.foldl_cons, hy, List.sum_cons, ← add_assoc]
    exact ih his

theorem any_false_of_is {l : List Num} {w : List ℝ} (h : List.Forall₂ Num.Is l w) {t : Num → Bool} (ht : ∀ x v, Num.Is x v → t x = false) :
    l.any t = false := by
  induction h with
  | nil => rfl
  | cons hx _ ih => rw [List.any_cons, ht _ _ hx, ih, Bool.or_self]

theorem Num.Is.isInf {x : Num} {v : ℝ} (h : x.Is v) (neg : Bool) : x.isInf neg = false := by
  obtain ⟨n, m, e, rfl, -⟩ := h.exists_fin
  rfl

theorem Num.Is.eq_zero_of_isZero {x : Num} {v : ℝ} (h : x.Is v) (hz : x.isZero = true) : v = 0 := by
  obtain ⟨n, m, e, rfl, -⟩ := h.exists_fin
  exact (Num.is_zero_iff h).mpr (by simpa [Num.isZero] using hz)

theorem groupSum_is {l : List Num} {w : List ℝ} (h : List.Forall₂ Num.Is l w) : (groupSum l).Is w.sum := by
  have hsum := foldl_addExact_is h (z := .fin true 0 0) (u := 0) (by simp [Num.Is])
  rw [zero_add] at hsum
  rw [groupSum, any_false_of_is h fun _ _ hx => hx.isNan, any_false_of_is h fun _ _ hx => hx.isInf true,
    any_false_of_is h fun _ _ hx => hx.isInf false]
  simp only [Bool.or_self, Bool.false_and, Bool.false_eq_true, if_false]
  split_ifs with hz
  · rw [hsum.eq_zero_of_isZero hz]
    simp [Num.Is]
  · exact hsum

/-- The products of a group of finite operands: those of the positions that the mask keeps. -/
theorem groupProducts_is {p : List (Option Num × Num)} {v : Option Num × Num → ℝ}
    (h : ∀ e ∈ p, e.1 = none ∧ v e = 0 ∨ ∃ a x y, e.1 = some a ∧ a.Is x ∧ e.2.Is y ∧ v e = x * y) :
    ∃ w, List.Forall₂ Num.Is (groupProducts (p.map Prod.fst) (p.map Prod.snd)) w ∧ w.sum = (p.map v).sum := by
  induction p with
  | nil => exact ⟨[], .nil, rfl⟩
  | cons e p ih =>
    obtain ⟨w, hw, hsum⟩ := ih fun e he => h e (List.mem_cons_of_mem _ he)
    rw [List.map_cons, List.map_cons, List.map_cons, List.sum_cons, ← hsum]
    rcases h e List.mem_cons_self with ⟨hn, hv⟩ | ⟨a, x, y, ha, hx, hy, hv⟩
    · rw [hn, hv, zero_add]
      exact ⟨w, hw, rfl⟩
    · obtain ⟨z, hz, his, -⟩ := mulExact_is hx hy
      rw [ha, hv]
      refine ⟨x * y :: w, ?_, List.sum_cons⟩
      have hcons : groupProducts (some a :: p.map Prod.fst) (e.2 :: p.map Prod.snd) =
          (mulExact a e.2).1 :: groupProducts (p.map Prod.fst) (p.map Prod.snd) := rfl
      rw [hcons, hz]
      exact .cons his hw

theorem groupProducts_length_le (a : List (Option Num)) (b : List Num) : (groupProducts a b).length ≤ a.length := by
  refine (List.length_filterMap_le _ _).trans ?_
  rw [List.length_zip]
  exact Nat.min_le_left _ _

/-- A pattern of the format is the value that it has, rounded (R70). -/
theorem Fmt.Ieee.roundsTo_self {f : Fmt} (hf : f.Ieee) {c : Nat} {u : ℝ} (hc : c < 2 ^ f.width) (hu : (f.decode c).Is u) (h0 : u ≠ 0) : RoundsTo f 0 u c := by
  have h := (hf.roundNum_rounds (rm := 0) (by decide) hu h0).1
  rwa [f.roundNum_decode 0 hc hu.isNan] at h

/-- One group: its exact sum with the element, rounded once (R72, R86). -/
theorem accumulate_group {f : Fmt} (hf : f.Ieee) {wide : Bool} {z c : Nat} {u : ℝ} {a : List (Option Num)} {b : List Num} {w : List ℝ}
    (hc : c < 2 ^ f.width) (hu : (f.decode c).Is u) (ha : a.length ≤ z) (hb : b.length ≤ z) (hwide : wide = true → a.length ≤ 1)
    (hw : List.Forall₂ Num.Is (groupProducts a b) w) (h0 : u + w.sum ≠ 0) : RoundsTo f 0 (u + w.sum) (accumulate f wide z 1 a b c) := by
  have hround : ∀ {x : Num}, x.Is (u + w.sum) → RoundsTo f 0 (u + w.sum) (roundNum f 0 x).1 := fun hx => (hf.roundNum_rounds (by decide) hx h0).1
  have hlen := groupProducts_length_le a b
  simp only [accumulate, List.take_of_length_le ha, List.take_of_length_le hb]
  generalize groupProducts a b = l at hw hlen
  cases wide with
  | false =>
    obtain ⟨x, hx, his, -⟩ := addExact_is 0 hu (groupSum_is hw)
    rw [if_neg Bool.false_ne_true, hx]
    exact hround his
  | true =>
    have hle := hlen.trans (hwide rfl)
    rw [if_pos rfl]
    cases hw with
    | nil =>
      rw [List.sum_nil, add_zero] at h0 ⊢
      exact hf.roundsTo_self hc hu h0
    | @cons p v l w hp hl =>
      obtain rfl : l = [] := List.eq_nil_of_length_eq_zero (Nat.le_zero.mp (Nat.le_of_succ_le_succ hle))
      cases hl
      obtain ⟨x, hx, his, -⟩ := addExact_is 0 hp hu
      rw [List.foldl_cons, List.foldl_nil, hx]
      rw [add_comm] at his
      exact hround (by simpa using his)

theorem accumulate_succ (f : Fmt) (wide : Bool) (z n c : Nat) (a : List (Option Num)) (b : List Num) :
    accumulate f wide z (n + 1) a b c = accumulate f wide z n (a.drop z) (b.drop z) (accumulate f wide z 1 a b c) := rfl

/-! ### Rows and columns (R83, R247, R254) -/

theorem getD_map_of_getElem? {α β : Type} {l : List α} {j : Nat} {x : α} (h : l[j]? = some x) (g : α → β) (d : β) : (l.map g).getD j d = g x := by
  rw [List.getD_eq_getElem?_getD, List.getElem?_map, h]
  rfl

theorem columnsOf_plain {t b j : Nat} {rows : List (List Byte)} {r : List Byte} (ht : tcwTrb t = 0) (h : rows[j]? = some r) :
    (columnsOf t b rows).getD j [] = decodeRow b (tcwK t) r := by
  rw [columnsOf, if_pos ht]
  exact getD_map_of_getElem? h _ _

theorem columnsOf_transposed {t b j k : Nat} {rows : List (List Byte)} {r : List Byte} (hj : j < 32) (ht : tcwTrb t ≠ 0) (h : rows[k]? = some r) :
    ((columnsOf t b rows).getD j []).length = rows.length ∧ ((columnsOf t b rows).getD j [])[k]? = some ((decodeRow b 32 r).getD j (.nan false)) := by
  have hcol : (columnsOf t b rows).getD j [] = (rows.map (decodeRow b 32)).map fun x => x.getD j (.nan false) := by
    rw [columnsOf, if_neg ht]
    exact getD_map_of_getElem? (List.getElem?_range hj) _ _
  rw [hcol, List.getElem?_map, List.getElem?_map, h]
  simp

theorem rowsOf_getD {t j : Nat} {rows : List (List Byte)} {r : List Byte} (h : rows[j]? = some r) :
    (rowsOf t rows).getD j [] =
      if tcwTop t = 2 then decodeSparse (tcwAfmtc t) (tcwK t) (tcwKeep t) r else (decodeRow (tcwAfmtc t) (tcwK t) r).map some :=
  getD_map_of_getElem? h _ _

end Sys2Proof.Machine
end

section
/-! SUPPORT. The start of a tile command by the arbiter, and what its end and its tile leave of the machine (R29, R246, R250, R251, R254, R255). -/

namespace Sys2Proof.Machine

/-! ### The arbiter's choice (R250) -/

/-- The arbiter picks where no TCW of the cluster is in MULTIPLY. -/
theorem State.inMultiply_of_pick {s : State} {cl : Nat} {c : Nat × Nat × Nat} (h : s.pick cl = some c) : s.inMultiply cl = none := by
  have hfree : s.arrayFree cl = true := by
    by_contra hb
    rw [State.pick, if_pos (by simpa using hb)] at h
    cases h
  rw [State.arrayFree, List.all_eq_true] at hfree
  rw [State.inMultiply, List.findSome?_eq_none_iff]
  intro q hq
  have hall := List.all_eq_true.mp (hfree q hq)
  rw [Option.map_eq_none_iff, List.findIdx?_eq_none_iff]
  intro x hx
  have := of_decide_eq_true (hall x hx)
  exact decide_eq_false this.1

/-- The machine with the arbiter's choice noted in its cluster. -/
def State.chosen (s : State) (cl q credit : Nat) : State := s.setCluster cl { s.cluster cl with cur := q, credit := credit }

/-- The command that the arbiter picks starts, or waits for the drain in progress (R251). -/
theorem State.startTcw_of_pick {s : State} {cl q i credit : Nat} {x : Slot} (hpick : s.pick cl = some (q, i, credit))
    (hslot : (s.core (cl * 8 + q)).slots[i]? = some x) (hruns : (s.cap (s.capOf (cl * 8 + q))).runs = true) {ok : Slot → Bool} (hok : ok x = true)
    (f : State → Nat → Nat → Slot → State) :
    s.startTcw cl ok f =
      if (s.cluster cl).drain.isSome then (s.chosen cl q credit).setSlot (cl * 8 + q) i { x with state := .multiply }
      else f (s.chosen cl q credit) (cl * 8 + q) i { x with state := .multiply } := by
  simp only [State.startTcw, State.inMultiply_of_pick hpick, hpick, hslot, hok, hruns, Bool.not_true, Bool.or_self, Bool.false_eq_true, if_false,
    State.cluster_setCluster_self, State.chosen]

/-! ### What the choice leaves alone -/

section
variable (s : State) (cl q credit : Nat)

@[simp] theorem State.core_chosen (c : Nat) : (s.chosen cl q credit).core c = s.core c := rfl
@[simp] theorem State.cluster_chosen : (s.chosen cl q credit).cluster cl = { s.cluster cl with cur := q, credit := credit } :=
  State.cluster_setCluster_self _ _ _

theorem State.openTiles_chosen (c : Nat) : ((s.chosen cl q credit).cluster c).openTiles = (s.cluster c).openTiles := by
  rw [State.chosen, State.cluster_setCluster]
  split
  · next h => rw [h]
  · rfl

theorem State.tileOpen_chosen (k : Nat) : (s.chosen cl q credit).tileOpen k = s.tileOpen k := by
  rw [State.tileOpen, State.openTiles_chosen]
  rfl

theorem State.bytes_chosen (k n : Nat) : (s.chosen cl q credit).bytes k n = s.bytes k n :=
  State.bytes_of_mem (s := s.chosen cl q credit) (t := s) rfl k n

theorem State.locate_chosen (core : Nat) (acc : Acc) (allows : Mesh → Bool) (n : Nat) (a : Word) :
    (s.chosen cl q credit).locate core acc allows n a = s.locate core acc allows n a := by
  induction n generalizing a with
  | zero => rfl
  | succ n ih =>
    have hreach : (s.chosen cl q credit).reachIf core a 1 acc allows = s.reachIf core a 1 acc allows := rfl
    rw [State.locate, State.locate, hreach, ih]

theorem State.readPlace_chosen (p : Place) (n : Nat) : (s.chosen cl q credit).readPlace p n = s.readPlace p n := by
  cases p with
  | peer _ _ => rfl
  | here k e => simp only [State.readPlace, State.tileOpen_chosen, State.bytes_chosen]; rfl

theorem State.readRange_chosen (core : Nat) (acc : Acc) (allows : Mesh → Bool) (n : Nat) (a : Word) :
    (s.chosen cl q credit).readRange core acc allows n a = s.readRange core acc allows n a := by
  have hpoison : ∀ p, (s.chosen cl q credit).poisonedAt p 1 = s.poisonedAt p 1 := fun p => by cases p <;> rfl
  simp only [State.readRange, State.locate_chosen, State.readPlace_chosen, hpoison]

theorem State.readRows_chosen (core n stride count : Nat) (a : Word) :
    (s.chosen cl q credit).readRows core n stride count a = s.readRows core n stride count a := by
  induction count generalizing a with
  | zero => rfl
  | succ count ih => rw [State.readRows, State.readRows, State.readRange_chosen, ih]

end

/-! ### The state of a started command -/

/-- The command of slot i of queue q has been started, and its slot has reached this state. -/
def State.StartedTo (s u : State) (cl q i credit : Nat) (x : Slot) (state : SlotState) : Prop :=
  ∃ y, (u.core (cl * 8 + q)).slots = (s.core (cl * 8 + q)).slots.set i y ∧ y.state = state ∧ y.tcw = x.tcw ∧ y.first = x.first ∧
    (u.cluster cl).cur = q ∧ (u.cluster cl).credit = credit

/-- From s to u the arbiter has made its choice, and the slots of the chosen queue are as they were. -/
structure State.Arbitrated (s u : State) (cl q credit : Nat) : Prop where
  slots : (u.core (cl * 8 + q)).slots = (s.core (cl * 8 + q)).slots
  cur : (u.cluster cl).cur = q
  credit : (u.cluster cl).credit = credit

theorem State.arbitrated_chosen (s : State) (cl q credit : Nat) : s.Arbitrated (s.chosen cl q credit) cl q credit := by
  constructor <;> simp

theorem State.Arbitrated.setSlot {s u : State} {cl q credit : Nat} (h : s.Arbitrated u cl q credit) (i : Nat) {x y : Slot} (ht : y.tcw = x.tcw)
    (hf : y.first = x.first) : s.StartedTo (u.setSlot (cl * 8 + q) i y) cl q i credit x y.state :=
  ⟨y, by rw [State.setSlot, State.core_setCore_self, h.slots], rfl, ht, hf, h.cur, h.credit⟩

/-! ### A tile that is written -/

/-- The bytes l are written from key k. -/
def State.overwrite (s : State) (k : Nat) (l : List Byte) : State := (s.setByteList k l).touched k l.length

section
variable (s : State) (k : Nat) (l : List Byte)

theorem State.overwrite_cores : (s.overwrite k l).cores = s.cores := (congrArg State.cores (s.setByteList_rest l k) :)
theorem State.overwrite_clusters : (s.overwrite k l).clusters = s.clusters := (congrArg State.clusters (s.setByteList_rest l k) :)

@[simp] theorem State.core_overwrite (c : Nat) : (s.overwrite k l).core c = s.core c := by
  rw [State.core, State.overwrite_cores]
  rfl
@[simp] theorem State.cluster_overwrite (c : Nat) : (s.overwrite k l).cluster c = s.cluster c := by
  rw [State.cluster, State.overwrite_clusters]
  rfl

theorem State.byte_overwrite (j : Nat) :
    (s.overwrite k l).byte j = if k ≤ j ∧ j < k + l.length then l.getD (j - k) 0 else s.byte j := s.byte_setByteList l k j

theorem State.memFrame_overwrite {n : Nat} (hl : l.length = n) : MemFrame s (s.overwrite k l) (span k n) := fun j hj => by
  rw [State.byte_overwrite, if_neg (hl ▸ hj)]

theorem State.byteList_overwrite {n : Nat} (hl : l.length = n) : (s.overwrite k l).byteList k n = l := by
  refine List.ext_getElem (by simp [State.byteList, hl]) fun i hi _ => ?_
  simp only [State.byteList, List.length_map, List.length_range] at hi
  simp only [State.byteList, List.getElem_map, List.getElem_range, State.byte_overwrite]
  rw [if_pos (by omega), Nat.add_sub_cancel_left, List.getD_eq_getElem?_getD, List.getElem?_eq_getElem]
  rfl

/-- The bytes read back are a field of those written. -/
theorem State.bytes_overwrite {o n : Nat} (h : o + n ≤ l.length) : (s.overwrite k l).bytes (k + o) n = fieldB l o n := by
  induction n generalizing o with
  | zero => simp [State.bytes, fieldB, ofBytes]
  | succ n ih =>
    have hd : l.drop o = l[o] :: l.drop (o + 1) := List.drop_eq_getElem_cons (by omega)
    rw [State.bytes, Nat.add_assoc, ih (by omega), State.byte_overwrite, if_pos (by omega), Nat.add_sub_cancel_left, fieldB, fieldB, hd,
      List.take_succ_cons, ofBytes, List.getD_eq_getElem?_getD, List.getElem?_eq_getElem (by omega)]
    rfl

/-- No line of bytes that have been written whole is poisoned, nor lies in CXL memory (R213, R230). -/
theorem State.poisoned_overwrite {o n : Nat} (hk : 2 ^ 47 ≤ k) (ha : k % 64 = 0) (hn : l.length % 64 = 0) (h : o + n ≤ l.length) :
    (s.overwrite k l).poisoned (k + o) n = false := by
  have hp : (s.overwrite k l).poison = (s.setByteList k l).poison.filter fun j => !decide (k ≤ j * 64 ∧ j * 64 + 64 ≤ k + l.length) := rfl
  rw [State.poisoned, hp, Bool.or_eq_false_iff]
  constructor
  · rw [List.any_eq_false]
    intro j hj
    have := of_decide_eq_false (Bool.not_eq_true' _ ▸ (List.mem_filter.mp hj).2)
    rw [decide_eq_true_eq]
    omega
  · rw [Bool.and_eq_false_iff]
    exact .inr (decide_eq_false (by omega))

end

theorem State.Arbitrated.overwrite {s u : State} {cl q credit : Nat} (h : s.Arbitrated u cl q credit) (k : Nat) (l : List Byte) :
    s.Arbitrated (u.overwrite k l) cl q credit := by
  obtain ⟨hs, hc, hr⟩ := h
  constructor <;> simpa

end Sys2Proof.Machine
end

section
/-! SUPPORT. What the matrix unit's operations do once the arbiter has picked their command (R247, R251, R254, R255, R268). -/

namespace Sys2Proof.Machine

/-! ### The end of an operation: finished, or on with its drain (R248, R254) -/

theorem clusterOf_queue {cl q : Nat} (hq : q < 8) : clusterOf (cl * 8 + q) = cl := by
  rw [clusterOf]
  omega

theorem tileKey_aligned (core t : Nat) : 2 ^ 47 ≤ tileKey core t ∧ tileKey core t % 64 = 0 := by
  rw [tileKey, accKey]
  omega

theorem State.writeTile_eq {u : State} {core i : Nat} {y : Slot} (l : List Byte)
    (hspoil : (u.cluster (clusterOf core)).openTiles.any (fun o => o.spoiled) = false) :
    u.writeTile core i y l = if tcwDrains y.tcw then (u.overwrite (tileKey core y.tcw) l).startDrain core i y
      else (u.overwrite (tileKey core y.tcw) l).finishTcw core i y := by
  have hany : (u.cluster (clusterOf core)).openTiles.any (fun o => decide (o.core = core ∧ o.tile = tcwTile y.tcw) && o.spoiled) = false :=
    List.any_eq_false.mpr fun o ho => by simp [Bool.eq_false_iff.mpr (List.any_eq_false.mp hspoil o ho)]
  have hopen : (((u.setByteList (tileKey core y.tcw) l).touched (tileKey core y.tcw) l.length).cluster (clusterOf core)).openTiles =
      (u.cluster (clusterOf core)).openTiles := congrArg Cluster.openTiles (u.cluster_overwrite (tileKey core y.tcw) l (clusterOf core))
  simp only [State.writeTile, hopen, hany]
  rfl

theorem State.openSegment_clean {u : State} {g : Segment} (hp : u.poisoned (accKey g.cl (tcwTile g.slot.tcw * 4096)) (32 * g.size) = false) :
    u.openSegment g 0 = u.putDrain g (u.newSegment g 0) := by
  have hrow : (u.newSegment g 0).row = 0 := rfl
  simp only [State.openSegment, State.enterSegment, hrow, Nat.zero_mul, Nat.add_zero, hp, Bool.false_eq_true, if_false]

/-- A drain that starts over a tile whose first row is not poisoned stands at its first word, with the row's elements (R243, R270). -/
theorem State.Arbitrated.startDrain {s u : State} {cl q credit : Nat} (h : s.Arbitrated u cl q credit) (hq : q < 8) (i : Nat) {x y : Slot}
    (ht : y.tcw = x.tcw) (hf : y.first = x.first) (hdir : (u.cluster cl).directory.contains (tcwDrain x.tcw) = true)
    (hp : u.poisoned (tileKey (cl * 8 + q) x.tcw) (32 * tcwSize x.tcw) = false) :
    let v := u.startDrain (cl * 8 + q) i y
    s.StartedTo v cl q i credit x .drain ∧ v.mem = u.mem ∧ ∃ dr, (v.cluster cl).drain = some dr ∧ dr.core = cl * 8 + q ∧ dr.row = 0 ∧ dr.word = 0 ∧
      dr.column = 0 ∧ dr.e = (List.range 32).map (fun j => BitVec.ofNat 64 (u.bytes (tileKey (cl * 8 + q) x.tcw + j * tcwSize x.tcw) (tcwSize x.tcw))) := by
  intro v
  set w := u.setSlot (cl * 8 + q) i { y with state := .drain } with hw
  set g : Segment := ⟨cl, cl * 8 + q, i, { y with state := .drain }, ⟨cl * 8 + q, 0, 0, [], [], none, [], 0⟩⟩ with hg
  have hv : v = w.putDrain g (w.newSegment g 0) := by
    have hp' : w.poisoned (accKey g.cl (tcwTile g.slot.tcw * 4096)) (32 * g.size) = false := by
      rw [tileKey, clusterOf_queue hq, ← ht] at hp
      exact hp
    rw [← State.openSegment_clean hp']
    simp only [v, State.startDrain, clusterOf_queue hq, ht, hdir, if_true, hw, hg]
  have hcl : w.cluster cl = u.cluster cl := rfl
  have hdrain : (v.cluster cl).drain = some (w.newSegment g 0) := by
    rw [hv, State.putDrain, State.cluster_setCluster_self]
  obtain ⟨y', hslots, hstate, hty, hfy, hcur, hcredit⟩ := h.setSlot i (y := { y with state := .drain }) ht hf
  refine ⟨⟨y', ?_, hstate, hty, hfy, ?_, ?_⟩, by rw [hv]; rfl, _, hdrain, rfl, rfl, rfl, rfl, ?_⟩
  · rw [hv]
    exact hslots
  · rw [hv, State.putDrain, State.cluster_setCluster_self]
    exact hcur
  · rw [hv, State.putDrain, State.cluster_setCluster_self]
    exact hcredit
  · refine List.map_congr_left fun j _ => congrArg (BitVec.ofNat 64) ?_
    have hsize : g.size = tcwSize x.tcw := congrArg tcwSize ht
    rw [hsize, Nat.zero_mul, Nat.zero_add, show g.slot.tcw = x.tcw from ht]
    exact State.bytes_of_mem (s := w) (t := u) rfl _ _

/-! ### A command that has been picked -/

/-- Whether a slot's command drains over its tile, when it is a multiply (R248, R254). -/
theorem tcwDrains_of_top {t : Nat} :
    (bits t 7 0 = 3 ∨ bits t 7 0 = 4 → tcwDrains t = false) ∧ (bits t 7 0 = 1 ∨ bits t 7 0 = 2 → tcwDrains t = !decide (bits t 39 32 = 0xFF)) := by
  constructor <;> rintro (h | h)
  · simp [tcwDrains, tcwTop, h]
  · simp [tcwDrains, tcwTop, h]
  all_goals by_cases hd : bits t 39 32 = 0xFF <;> simp [tcwDrains, tcwTop, tcwDrain, h, hd]

section
variable {s : State} {cl q i credit : Nat} {x : Slot} (hpick : s.pick cl = some (q, i, credit)) (hq : q < 8)
  (hslot : (s.core (cl * 8 + q)).slots[i]? = some x) (hruns : (s.cap (s.capOf (cl * 8 + q))).runs = true)
include hpick hslot hruns

/-- A picked command waits while a drain runs (R251). -/
theorem State.runTop_busy {top : Nat} (htop : bits x.tcw 7 0 = top) (hd : (s.cluster cl).drain ≠ none) (f : State → Nat → Nat → Slot → State) :
    ∃ u, s.runTop cl top f = .next u ∧ s.StartedTo u cl q i credit x .multiply ∧ u.mem = s.mem ∧ (u.cluster cl).drain = (s.cluster cl).drain := by
  have hok : (fun x : Slot => decide (tcwTop x.tcw = top)) x = true := decide_eq_true htop
  rw [State.runTop, State.startTcw_of_pick hpick hslot hruns hok, if_pos (Option.isSome_iff_ne_none.mpr hd)]
  exact ⟨_, rfl, (s.arbitrated_chosen cl q credit).setSlot i rfl rfl, rfl, (congrArg Cluster.drain (s.cluster_chosen cl q credit) :)⟩

/-- Else it is performed (R250). -/
theorem State.startTcw_idle {ok : Slot → Bool} (hok : ok x = true) (hd : (s.cluster cl).drain = none) (f : State → Nat → Nat → Slot → State) :
    s.startTcw cl ok f = f (s.chosen cl q credit) (cl * 8 + q) i { x with state := .multiply } := by
  rw [State.startTcw_of_pick hpick hslot hruns hok, hd, Option.isSome_none, if_neg Bool.false_ne_true]

theorem State.runTop_idle {top : Nat} (htop : bits x.tcw 7 0 = top) (hd : (s.cluster cl).drain = none) (f : State → Nat → Nat → Slot → State) :
    s.runTop cl top f = .next (f (s.chosen cl q credit) (cl * 8 + q) i { x with state := .multiply }) := by
  have hok : (fun x : Slot => decide (tcwTop x.tcw = top)) x = true := decide_eq_true htop
  rw [State.runTop, State.startTcw_idle hpick hslot hruns hok hd]

end

/-! ### Tiles that are cleared and loaded (R255) -/

theorem State.locate_length {s : State} {core n : Nat} {acc : Acc} {allows : Mesh → Bool} {a : Word} {l : List Place}
    (h : s.locate core acc allows n a = .ok l) : l.length = n := by
  induction n generalizing a l with
  | zero =>
    cases h
    rfl
  | succ n ih =>
    rw [State.locate] at h
    split at h
    · next h' =>
      cases h
      rw [List.length_cons, ih h']
    all_goals cases h

theorem State.readRange_length {s : State} {core n : Nat} {acc : Acc} {allows : Mesh → Bool} {a : Word} {l : List (Place × Byte)}
    (h : s.readRange core acc allows n a = .ok l) : l.length = n := by
  rw [State.readRange] at h
  split at h
  · cases h
  · next h' =>
    split at h
    · cases h
    · cases h
      rw [List.length_map, State.locate_length h']

theorem State.readRows_length {s : State} {core n stride count : Nat} {a : Word} {rows : List (List Byte)}
    (h : s.readRows core n stride count a = .ok rows) : rows.length = count ∧ ∀ r ∈ rows, r.length = n := by
  induction count generalizing a rows with
  | zero =>
    cases h
    exact ⟨rfl, fun r hr => absurd hr List.not_mem_nil⟩
  | succ count ih =>
    rw [State.readRows] at h
    split at h
    · cases h
    · next hl =>
      split at h
      · cases h
      · next hr =>
        cases h
        obtain ⟨hlen, hall⟩ := ih hr
        refine ⟨by rw [List.length_cons, hlen], fun r hr => ?_⟩
        rcases List.mem_cons.mp hr with rfl | hr
        · rw [List.length_map, State.readRange_length hl]
        · exact hall r hr

theorem tcwRows_mul_size (t : Nat) : tcwRows t * (32 * tcwSize t) = 4096 := by
  rw [tcwRows, tcwSize]
  split <;> rfl

/-- A list of rows of n bytes laid one after another holds each row at its place. -/
theorem length_flatMap_const {α β : Type} {l : List α} {g : α → List β} {n : Nat} (h : ∀ x ∈ l, (g x).length = n) : (l.flatMap g).length = l.length * n := by
  rw [List.length_flatMap, List.map_congr_left h, List.map_const', List.sum_replicate, smul_eq_mul]

section
variable {s : State} {cl q i credit : Nat} {x : Slot} (hpick : s.pick cl = some (q, i, credit)) (hq : q < 8)
  (hslot : (s.core (cl * 8 + q)).slots[i]? = some x) (hruns : (s.cap (s.capOf (cl * 8 + q))).runs = true)
  (hspoil : (s.cluster cl).openTiles.any (fun o => o.spoiled) = false) (hd : (s.cluster cl).drain = none)

theorem State.finishTcw_started {u : State} (h : s.Arbitrated u cl q credit) {y : Slot} (ht : y.tcw = x.tcw) (hf : y.first = x.first) :
    s.StartedTo (u.finishTcw (cl * 8 + q) i y) cl q i credit x .finished := h.setSlot i ht hf

include hspoil in
theorem State.spoiled_chosen : ((s.chosen cl q credit).cluster cl).openTiles.any (fun o => o.spoiled) = false := by
  rwa [State.openTiles_chosen]

/-- What a machine reads whose memory is that of the chosen one with l written from key k. -/
theorem State.reads_overwritten {u : State} {k n : Nat} {l : List Byte} (hu : u.mem = ((s.chosen cl q credit).overwrite k l).mem) (hl : l.length = n) :
    MemFrame s u (span k n) ∧ u.byteList k n = l ∧ (∀ j, j < n → u.byte (k + j) = l.getD j 0) ∧
      ∀ o m, o + m ≤ n → u.bytes (k + o) m = fieldB l o m := by
  set v := (s.chosen cl q credit).overwrite k l
  have hbyte : ∀ j, u.byte j = v.byte j := fun j => congrArg (sget unlisted · j) hu
  refine ⟨fun j hj => (hbyte j).trans (State.memFrame_overwrite _ _ _ hl j hj), ?_, fun j hj => ?_, fun o m h => ?_⟩
  · rw [← State.byteList_overwrite (s.chosen cl q credit) k l hl]
    exact List.map_congr_left fun j _ => hbyte (k + j)
  · rw [hbyte, State.byte_overwrite, if_pos (by omega), Nat.add_sub_cancel_left]
  · rw [State.bytes_of_mem hu, State.bytes_overwrite _ _ _ (hl ▸ h)]

include hq hspoil in
/-- A tile that is written without a drain: its command is finished. -/
theorem State.writeTile_finishes {y : Slot} {l : List Byte} (ht : y.tcw = x.tcw) (hf : y.first = x.first) (hdr : tcwDrains x.tcw = false) :
    let u := (s.chosen cl q credit).writeTile (cl * 8 + q) i y l
    s.StartedTo u cl q i credit x .finished ∧ u.mem = ((s.chosen cl q credit).overwrite (tileKey (cl * 8 + q) x.tcw) l).mem := by
  intro u
  have hu : u = ((s.chosen cl q credit).overwrite (tileKey (cl * 8 + q) x.tcw) l).finishTcw (cl * 8 + q) i y := by
    rw [show u = _ from State.writeTile_eq l (by rw [clusterOf_queue hq]; exact State.spoiled_chosen hspoil), ht, hdr, if_neg Bool.false_ne_true]
  rw [hu]
  exact ⟨State.finishTcw_started ((s.arbitrated_chosen cl q credit).overwrite _ l) ht hf, rfl⟩

include hq hspoil in
/-- With one: its drain stands at the first word of row 0 with the elements just formed. -/
theorem State.writeTile_drains {y : Slot} {l : List Byte} (ht : y.tcw = x.tcw) (hf : y.first = x.first) (hl : l.length = 4096)
    (hdr : tcwDrains x.tcw = true) (hdir : (s.cluster cl).directory.contains (tcwDrain x.tcw) = true) :
    let k := tileKey (cl * 8 + q) x.tcw
    let u := (s.chosen cl q credit).writeTile (cl * 8 + q) i y l
    s.StartedTo u cl q i credit x .drain ∧ u.mem = ((s.chosen cl q credit).overwrite k l).mem ∧ ∃ dr, (u.cluster cl).drain = some dr ∧
      dr.core = cl * 8 + q ∧ dr.row = 0 ∧ dr.word = 0 ∧ dr.column = 0 ∧
      dr.e = (List.range 32).map (fun j => BitVec.ofNat 64 (u.bytes (k + j * tcwSize x.tcw) (tcwSize x.tcw))) := by
  intro k u
  have hu : u = ((s.chosen cl q credit).overwrite k l).startDrain (cl * 8 + q) i y := by
    rw [show u = _ from State.writeTile_eq l (by rw [clusterOf_queue hq]; exact State.spoiled_chosen hspoil), ht, hdr, if_pos rfl]
  have hrow : 0 + 32 * tcwSize x.tcw ≤ l.length := by
    rw [hl, tcwSize]
    split <;> decide
  obtain ⟨hk, ha⟩ := tileKey_aligned (cl * 8 + q) x.tcw
  have hclean := State.poisoned_overwrite (s.chosen cl q credit) k l (o := 0) hk ha (by rw [hl]) hrow
  have hdir' : (((s.chosen cl q credit).overwrite k l).cluster cl).directory.contains (tcwDrain x.tcw) = true := by simpa using hdir
  obtain ⟨hs, hm, dr, h1, h2, h3, h4, h5, h6⟩ := ((s.arbitrated_chosen cl q credit).overwrite k l).startDrain hq i ht hf hdir' hclean
  rw [← hu] at hs hm h1
  refine ⟨hs, hm, dr, h1, h2, h3, h4, h5, h6.trans (List.map_congr_left fun j _ => ?_)⟩
  rw [State.bytes_of_mem hm]

include hpick hq hslot hruns hspoil hd

theorem exec_mzero_picked (htop : bits x.tcw 7 0 = 3) : let k := tileKey (cl * 8 + q) x.tcw
    ∃ u, exec (.mzero cl) s = .next u ∧ s.StartedTo u cl q i credit x .finished ∧ MemFrame s u (span k 4096) ∧ ∀ j, j < 4096 → u.byte (k + j) = 0 := by
  have hlen : (List.replicate 4096 (0 : Byte)).length = 4096 := List.length_replicate
  obtain ⟨hs, hm⟩ := State.writeTile_finishes hq hspoil (i := i) (credit := credit) (x := x) (y := { x with state := .multiply })
    (l := List.replicate 4096 0) rfl rfl (tcwDrains_of_top.1 (.inl htop))
  obtain ⟨hframe, -, hbyte, -⟩ := State.reads_overwritten hm hlen
  refine ⟨_, State.runTop_idle hpick hslot hruns htop hd _, hs, hframe, fun j hj => ?_⟩
  rw [hbyte j hj, List.getD_replicate _ hj]

theorem exec_maccld_picked (htop : bits x.tcw 7 0 = 4) {rows : List (List Byte)}
    (hrows : s.readRows (cl * 8 + q) (32 * tcwSize x.tcw) (tcwAstride x.tcw) (tcwRows x.tcw) (tcwAaddr x.tcw) = .ok rows) :
    let k := tileKey (cl * 8 + q) x.tcw
    ∃ u, exec (.maccld cl) s = .next u ∧ s.StartedTo u cl q i credit x .finished ∧ MemFrame s u (span k 4096) ∧ u.byteList k 4096 = rows.flatten := by
  obtain ⟨hcount, hrow⟩ := State.readRows_length hrows
  have hlen : rows.flatten.length = 4096 := by
    rw [← List.flatMap_id', length_flatMap_const hrow, hcount, tcwRows_mul_size]
  obtain ⟨hs, hm⟩ := State.writeTile_finishes hq hspoil (i := i) (credit := credit) (x := x) (y := { x with state := .multiply })
    (l := rows.flatten) rfl rfl (tcwDrains_of_top.1 (.inr htop))
  obtain ⟨hframe, hlist, -⟩ := State.reads_overwritten hm hlen
  refine ⟨_, State.runTop_idle hpick hslot hruns htop hd _, ?_⟩
  rw [← State.readRows_chosen s cl q credit] at hrows
  dsimp only
  rw [hrows]
  exact ⟨hs, hframe, hlist⟩

end

/-! ### The tile of a multiply (R254, R256) -/

/-- A field within row r of rows of n bytes each. -/
theorem fieldB_flatMap {α : Type} {l : List α} {g : α → List Byte} {n o m r : Nat} {x : α} (h : ∀ x ∈ l, (g x).length = n) (hx : l[r]? = some x)
    (ho : o + m ≤ n) : fieldB (l.flatMap g) (n * r + o) m = fieldB (g x) o m := by
  induction l generalizing r with
  | nil => cases hx
  | cons y l ih =>
    have hy := h y List.mem_cons_self
    cases r with
    | zero =>
      cases hx
      rw [List.flatMap_cons, fieldB, fieldB, Nat.mul_zero, Nat.zero_add, List.drop_append_of_le_length (by omega),
        List.take_append_of_le_length (by rw [List.length_drop]; omega)]
    | succ r =>
      have hdrop : (g y ++ l.flatMap g).drop (n * (r + 1) + o) = (l.flatMap g).drop (n * r + o) := by
        rw [List.drop_append, List.drop_eq_nil_of_le (by rw [hy, Nat.mul_succ]; omega), List.nil_append, hy, Nat.mul_succ]
        congr 1
        omega
      rw [List.flatMap_cons, fieldB, hdrop]
      exact ih (fun x hx => h x (List.mem_cons_of_mem _ hx)) (by simpa using hx)

theorem getElem?_zipIdx_of {α : Type} {l : List α} {r : Nat} {x : α} (h : l[r]? = some x) : l.zipIdx[r]? = some (x, r) := by
  rw [List.getElem?_zipIdx, h]
  simp

section
variable {t progress n : Nat} {a : List (List (Option Num))} {b : List (List Num)} {old : Nat → Nat}

theorem multiply_length (hb : b.length = 32) : (multiply t progress n a b old).length = a.length * (32 * tcwSize t) := by
  rw [multiply, length_flatMap_const (n := 32 * tcwSize t), List.length_zipIdx]
  intro r _
  rw [length_flatMap_const (n := tcwSize t), List.length_zipIdx, hb]
  intro c _
  exact length_toBytes _ _

/-- Element c of row r of the tile. -/
theorem multiply_field (hb : b.length = 32) {r c : Nat} {x : List (Option Num)} {y : List Num} (hx : a[r]? = some x) (hy : b[c]? = some y) :
    fieldB (multiply t progress n a b old) ((32 * r + c) * tcwSize t) (tcwSize t) =
      accumulate (tcwFmt t) (decide (fmtClass (tcwAfmtc t) = .wide)) (stepSize (tcwAfmtc t)) n (x.drop progress) (y.drop progress)
        (if tcwAcc t = 1 ∨ progress ≠ 0 then old (r * 32 + c) else 0) % 256 ^ tcwSize t := by
  have hc : c < 32 := hb ▸ (List.getElem?_eq_some_iff.mp hy).1
  have hcell : ∀ r : List (Option Num) × Nat, ∀ c ∈ b.zipIdx, (toBytes (tcwSize t) (accumulate (tcwFmt t) (decide (fmtClass (tcwAfmtc t) = .wide))
      (stepSize (tcwAfmtc t)) n (r.1.drop progress) (c.1.drop progress) (if tcwAcc t = 1 ∨ progress ≠ 0 then old (r.2 * 32 + c.2) else 0))).length =
      tcwSize t := fun _ _ _ => length_toBytes _ _
  have hplace : (32 * r + c) * tcwSize t = 32 * tcwSize t * r + (tcwSize t * c + 0) := by ring
  rw [multiply, hplace, fieldB_flatMap (n := 32 * tcwSize t) _ (getElem?_zipIdx_of hx), fieldB_flatMap (hcell _) (getElem?_zipIdx_of hy) (by omega)]
  · rw [← List.append_nil (toBytes _ _), ← List.nil_append (toBytes _ _ ++ []), fieldB_toBytes (p := []) (o := 0) rfl]
  · calc tcwSize t * c + 0 + tcwSize t = tcwSize t * (c + 1) := by ring
      _ ≤ tcwSize t * 32 := Nat.mul_le_mul_left _ hc
      _ = _ := Nat.mul_comm _ _
  · intro r _
    rw [length_flatMap_const (hcell r), List.length_zipIdx, hb]

end

/-- What a multiply's tile is formed of (R247, R252): the rows of A and B have been read, no mask is wrong, and an element that is added to is not poisoned. -/
structure State.Formable (s : State) (core t : Nat) (a b : List (List Byte)) : Prop where
  readA : s.readRows core (tcwARow t) (tcwAstride t) (tcwRows t) (tcwAaddr t) = .ok a
  readB : s.readRows core (if tcwTrb t = 1 then 32 * fmtWidth (tcwBfmt t) / 8 else rowBytes (tcwBfmt t) (tcwK t)) (tcwBstride t)
    (if tcwTrb t = 1 then tcwK t else 32) (tcwBaddr t) = .ok b
  masks : badMask t a = none
  clean : tcwAcc t = 1 → s.poisoned (tileKey core t) 4096 = false

/-- The tile after so many K-steps. -/
def State.formedTile (s : State) (core t steps : Nat) (a b : List (List Byte)) : List Byte :=
  multiply t 0 steps (rowsOf t a) (columnsOf t (tcwBfmt t) b) fun e => s.bytes (tileKey core t + e * tcwSize t) (tcwSize t)

theorem tcwTrb_lt (t : Nat) : tcwTrb t < 2 := by
  rw [tcwTrb, bits]
  exact Nat.mod_lt _ (by decide)

theorem columnsOf_length {s : State} {core t : Nat} {a b : List (List Byte)} (h : s.Formable core t a b) : (columnsOf t (tcwBfmt t) b).length = 32 := by
  have hb := (State.readRows_length h.readB).1
  have hlt := tcwTrb_lt t
  rw [columnsOf]
  split_ifs with h0
  · rw [List.length_map, hb, if_neg (by omega)]
  · rw [List.length_map, List.length_range]

theorem formedTile_length {s : State} {core t : Nat} {a b : List (List Byte)} (h : s.Formable core t a b) (steps : Nat) :
    (s.formedTile core t steps a b).length = 4096 := by
  rw [State.formedTile, multiply_length (columnsOf_length h), rowsOf, List.length_map, (State.readRows_length h.readA).1, tcwRows_mul_size]

theorem formedTile_field {s : State} {core t : Nat} {a b : List (List Byte)} (h : s.Formable core t a b) (steps : Nat) {r c : Nat} (hr : r < tcwRows t)
    (hc : c < 32) : fieldB (s.formedTile core t steps a b) ((32 * r + c) * tcwSize t) (tcwSize t) =
      accumulate (tcwFmt t) (decide (fmtClass (tcwAfmtc t) = .wide)) (stepSize (tcwAfmtc t)) steps ((rowsOf t a).getD r [])
        ((columnsOf t (tcwBfmt t) b).getD c [])
        (if tcwAcc t = 1 then s.bytes (tileKey core t + (32 * r + c) * tcwSize t) (tcwSize t) else 0) % 256 ^ tcwSize t := by
  have hlen := columnsOf_length h
  have hrow : (rowsOf t a)[r]? = some ((rowsOf t a).getD r []) := by
    have hlt : r < (rowsOf t a).length := by rw [rowsOf, List.length_map, (State.readRows_length h.readA).1]; exact hr
    rw [List.getD_eq_getElem?_getD, List.getElem?_eq_getElem hlt]
    rfl
  have hcol : (columnsOf t (tcwBfmt t) b)[c]? = some ((columnsOf t (tcwBfmt t) b).getD c []) := by
    rw [List.getD_eq_getElem?_getD, List.getElem?_eq_getElem (hlen ▸ hc)]
    rfl
  rw [State.formedTile, multiply_field hlen hrow hcol, List.drop_zero, List.drop_zero, Nat.mul_comm r]
  simp

/-- K-steps from the start: the tile after them, and the row progress behind them, or the end of the multiply. -/
theorem State.kSteps_of_formable {s : State} {core t i : Nat} {a b : List (List Byte)} (h : s.Formable core t a b) {y : Slot} (ht : y.tcw = t)
    (h0 : y.rowProgress = 0) (limit : Nat) :
    State.kSteps limit s core i y =
      if min limit (stepsLeft t 0) = stepsLeft t 0 then
        s.writeTile core i { y with rowProgress := tcwK t } (s.formedTile core t (min limit (stepsLeft t 0)) a b)
      else (s.overwrite (tileKey core t) (s.formedTile core t (min limit (stepsLeft t 0)) a b)).setSlot core i
        { y with rowProgress := 0 + min limit (stepsLeft t 0) * stepSize (tcwAfmtc t) } := by
  obtain ⟨hA, hB, hmask, hclean⟩ := h
  subst ht
  have hp : ¬ ((tcwAcc y.tcw = 1 ∨ 0 ≠ 0) ∧ s.poisoned (tileKey core y.tcw) 4096 = true) := by
    rintro ⟨hacc | hne, hp⟩
    · exact Bool.false_ne_true ((hclean hacc).symm.trans hp)
    · exact hne rfl
  simp only [State.kSteps, hA, hB, hmask, h0, if_neg hp]
  rfl

theorem stepSize_pos (code : Nat) : 0 < stepSize code := by
  rw [stepSize]
  split <;> decide

theorem stepsLeft_le (t : Nat) : stepsLeft t 0 ≤ tcwK t := by
  have hz := stepSize_pos (tcwAfmtc t)
  have hle := Nat.le_mul_of_pos_right (tcwK t) hz
  refine Nat.lt_succ_iff.mp ((Nat.div_lt_iff_lt_mul hz).mpr ?_)
  rw [Nat.succ_mul]
  omega

theorem two_le_stepsLeft {t : Nat} (h : stepSize (tcwAfmtc t) < tcwK t) : 2 ≤ stepsLeft t 0 := by
  rw [stepsLeft, Nat.le_div_iff_mul_le (stepSize_pos _)]
  omega

/-- The tile of u holds the elements after so many K-steps, and no other byte has changed. -/
def State.HoldsProduct (s u : State) (core t steps : Nat) (a b : List (List Byte)) : Prop :=
  MemFrame s u (span (tileKey core t) 4096) ∧ ∀ r c, r < tcwRows t → c < 32 →
    let e := tileKey core t + (32 * r + c) * tcwSize t
    u.bytes e (tcwSize t) = accumulate (tcwFmt t) (decide (fmtClass (tcwAfmtc t) = .wide)) (stepSize (tcwAfmtc t)) steps ((rowsOf t a).getD r [])
      ((columnsOf t (tcwBfmt t) b).getD c []) (if tcwAcc t = 1 then s.bytes e (tcwSize t) else 0) % 256 ^ tcwSize t

section
variable {s : State} {cl q i credit : Nat} {x : Slot} {a b : List (List Byte)} (hpick : s.pick cl = some (q, i, credit)) (hq : q < 8)
  (hslot : (s.core (cl * 8 + q)).slots[i]? = some x) (hruns : (s.cap (s.capOf (cl * 8 + q))).runs = true)
  (hspoil : (s.cluster cl).openTiles.any (fun o => o.spoiled) = false) (hd : (s.cluster cl).drain = none)
  (htop : bits x.tcw 7 0 = 1 ∨ bits x.tcw 7 0 = 2) (h0 : x.rowProgress = 0) (h : s.Formable (cl * 8 + q) x.tcw a b)

theorem State.Formable.chosen (h : s.Formable (cl * 8 + q) x.tcw a b) (credit : Nat) : (s.chosen cl q credit).Formable (cl * 8 + q) x.tcw a b where
  readA := (s.readRows_chosen cl q credit _ _ _ _ _).trans h.readA
  readB := (s.readRows_chosen cl q credit _ _ _ _ _).trans h.readB
  masks := h.masks
  clean := h.clean

theorem State.formedTile_chosen (core t steps : Nat) : (s.chosen cl q credit).formedTile core t steps a b = s.formedTile core t steps a b := by
  simp only [State.formedTile, State.bytes_chosen]

include h in
theorem State.holdsProduct {u : State} {steps : Nat}
    (hu : u.mem = ((s.chosen cl q credit).overwrite (tileKey (cl * 8 + q) x.tcw) (s.formedTile (cl * 8 + q) x.tcw steps a b)).mem) :
    s.HoldsProduct u (cl * 8 + q) x.tcw steps a b := by
  obtain ⟨hframe, -, -, hfield⟩ := State.reads_overwritten hu (formedTile_length h steps)
  refine ⟨hframe, fun r c hr hc => (hfield _ _ ?_).trans (formedTile_field h steps hr hc)⟩
  calc (32 * r + c) * tcwSize x.tcw + tcwSize x.tcw = (32 * r + (c + 1)) * tcwSize x.tcw := by ring
    _ ≤ tcwRows x.tcw * 32 * tcwSize x.tcw := Nat.mul_le_mul_right _ (by omega)
    _ = 4096 := by rw [Nat.mul_assoc, tcwRows_mul_size]

include htop h0 h

include hq hspoil in
/-- Every K-step, then the drain if one is named (R248, R254). -/
theorem State.runMultiply_picked (hdir : bits x.tcw 39 32 = 0xFF ∨ (s.cluster cl).directory.contains (bits x.tcw 39 32) = true) :
    let t := x.tcw
    let k := tileKey (cl * 8 + q) t
    let u := (s.chosen cl q credit).runMultiply (cl * 8 + q) i { x with state := .multiply }
    s.HoldsProduct u (cl * 8 + q) t (stepsLeft t 0) a b ∧
      (bits t 39 32 = 0xFF → s.StartedTo u cl q i credit x .finished) ∧
      (bits t 39 32 ≠ 0xFF → s.StartedTo u cl q i credit x .drain ∧ ∃ dr, (u.cluster cl).drain = some dr ∧ dr.core = cl * 8 + q ∧ dr.row = 0 ∧
        dr.word = 0 ∧ dr.column = 0 ∧ dr.e = (List.range 32).map (fun j => BitVec.ofNat 64 (u.bytes (k + j * tcwSize t) (tcwSize t)))) := by
  intro t k u
  have hu : u = (s.chosen cl q credit).writeTile (cl * 8 + q) i { x with state := .multiply, rowProgress := tcwK t }
      (s.formedTile (cl * 8 + q) t (stepsLeft t 0) a b) := by
    have hk := State.kSteps_of_formable (h.chosen credit) (i := i) (y := { x with state := .multiply }) rfl h0 (tcwK t)
    rw [Nat.min_eq_right (stepsLeft_le t), if_pos rfl, State.formedTile_chosen] at hk
    exact hk
  have hlen := formedTile_length h (stepsLeft t 0)
  have hdrains := tcwDrains_of_top.2 htop
  by_cases hff : bits t 39 32 = 0xFF
  · obtain ⟨hs, hm⟩ := State.writeTile_finishes hq hspoil (i := i) (credit := credit) (x := x)
      (y := { x with state := .multiply, rowProgress := tcwK t }) (l := s.formedTile (cl * 8 + q) t (stepsLeft t 0) a b) rfl rfl
      (by rw [hdrains, decide_eq_true hff]; rfl)
    rw [← hu] at hs hm
    exact ⟨State.holdsProduct h hm, fun _ => hs, fun hne => absurd hff hne⟩
  · obtain ⟨hs, hm, hdr⟩ := State.writeTile_drains hq hspoil (i := i) (credit := credit) (x := x)
      (y := { x with state := .multiply, rowProgress := tcwK t }) (l := s.formedTile (cl * 8 + q) t (stepsLeft t 0) a b) rfl rfl hlen
      (by rw [hdrains, decide_eq_false hff]; rfl) (hdir.resolve_left hff)
    rw [← hu] at hs hm hdr
    exact ⟨State.holdsProduct h hm, fun he => absurd he hff, fun _ => ⟨hs, hdr⟩⟩

include hpick hslot hruns hd in
/-- One K-step leaves the tile after its first group, and the row progress behind it (R256). -/
theorem State.kStep_picked (hlt : stepSize (tcwAfmtc x.tcw) < tcwK x.tcw) :
    s.StartedTo (s.kStep cl) cl q i credit x .multiply ∧ s.HoldsProduct (s.kStep cl) (cl * 8 + q) x.tcw 1 a b ∧
      ∃ y, ((s.kStep cl).core (cl * 8 + q)).slots[i]? = some y ∧ y.rowProgress = stepSize (tcwAfmtc x.tcw) := by
  have htwo := two_le_stepsLeft hlt
  set y : Slot := { x with state := .multiply, rowProgress := 0 + 1 * stepSize (tcwAfmtc x.tcw) } with hy
  have hu : s.kStep cl = ((s.chosen cl q credit).overwrite (tileKey (cl * 8 + q) x.tcw) (s.formedTile (cl * 8 + q) x.tcw 1 a b)).setSlot (cl * 8 + q) i y := by
    rw [State.kStep, State.startTcw_idle hpick hslot hruns (decide_eq_true htop) hd,
      State.kSteps_of_formable (h.chosen credit) (y := { x with state := .multiply }) rfl h0, Nat.min_eq_left (by omega), if_neg (by omega),
      State.formedTile_chosen]
  have hs := ((s.arbitrated_chosen cl q credit).overwrite (tileKey (cl * 8 + q) x.tcw) (s.formedTile (cl * 8 + q) x.tcw 1 a b)).setSlot i
    (x := x) (y := y) rfl rfl
  rw [hu]
  refine ⟨hs, State.holdsProduct h rfl, y, ?_, by rw [hy, Nat.zero_add, Nat.one_mul]⟩
  rw [State.setSlot, State.core_setCore_self]
  exact List.getElem?_set_self (by simpa using (List.getElem?_eq_some_iff.mp hslot).1)

end

/-! ### Drain programs (R257, R268) -/

/-- Values that are written at different keys are read there. -/
theorem sget_foldl_keys {α : Type} [DecidableEq α] (d : α) (key : Nat → Nat) (f : Nat → α) {n : Nat} (m : Sparse α)
    (hinj : ∀ i j, i < n → j < n → key i = key j → i = j) {j : Nat} (hj : j < n) :
    sget d ((List.range n).foldl (fun acc i => sset d acc (key i) (f i)) m) (key j) = f j := by
  induction n with
  | zero => omega
  | succ n ih =>
    rw [List.range_succ, List.foldl_append, List.foldl_cons, List.foldl_nil, sget_sset]
    split
    · next h => rw [hinj j n hj (Nat.lt_succ_self n) h]
    · next h =>
      have hne : j ≠ n := fun e => h (by rw [e])
      exact ih (fun i j hi hj => hinj i j (by omega) (by omega)) (by omega)

/-- An mdpl's words pass where all are valid up to a gz.end among them (R268). -/
theorem checkWords_none {l : List Nat} {p n : Nat} (hn : n < l.length) (hend : l.getD n 0 % 256 = 0x16) (hv : ∀ j, j ≤ n → glazeValid (l.getD j 0) = true) :
    checkWords p l = none := by
  induction l generalizing p n with
  | nil => exact absurd hn (Nat.not_lt_zero n)
  | cons w l ih =>
    have hw : glazeValid w = true := hv 0 (Nat.zero_le n)
    rw [checkWords, hw]
    simp only [Bool.not_true, Bool.false_eq_true, if_false]
    split
    · rfl
    · next hne =>
      cases n with
      | zero => exact absurd hend hne
      | succ n => exact ih (Nat.lt_of_succ_lt_succ hn) hend fun j hj => hv (j + 1) (Nat.succ_le_succ hj)

theorem bits_low_byte (w : Nat) : bits w 7 0 = w % 256 := by
  simp [bits]

theorem wordsOf_getD {k : Nat} (l : List Byte) {n : Nat} (h : n < k) : (wordsOf k l).getD n 0 = fieldB l (4 * n) 4 :=
  getD_map_of_getElem? (List.getElem?_range h) _ _

/-- The drain memory that an mdpl leaves. -/
theorem drainWord_loaded (k : Cluster) (d : Nat) (l : List Nat) (dir : List Nat) (hl : l.length ≤ 32) {n : Nat} (hn : n < l.length) :
    ({ k with drainMem := l.zipIdx.foldl (fun m w => sset 0 m ((8 * d + w.2) % 2048) (BitVec.ofNat 32 w.1)) k.drainMem, directory := dir } :
      Cluster).drainWord (8 * d + n) = l.getD n 0 % 2 ^ 32 := by
  rw [Cluster.drainWord, zipIdx_eq_map_range 0, List.foldl_map]
  dsimp only
  rw [sget_foldl_keys 0 (fun i => (8 * d + i) % 2048) (fun i => BitVec.ofNat 32 (l.getD i 0)) _ (fun i j hi hj h => by omega) hn, BitVec.toNat_ofNat]

/-- A failure of a running capsule's command ends the capsule, unless it is a fault of a drain that ends the firing only (R257). -/
theorem State.tcwFault_kills {u : State} {core i : Nat} {y : Slot} (cause sub : Nat) (value : Word) (stores : List Nat)
    (hrun : (u.cap (u.capOf core)).stage = .running) (hend : (u.cap (u.capOf core)).onFiring = false) :
    let v := u.tcwFault core i y cause sub value stores
    (v.cap (u.capOf core)).stage = .killing ∧ ∃ f, (v.cap (u.capOf core)).kill = some f ∧ f.final.cause = cause + 256 * sub ∧ f.final.value = value := by
  intro v
  set r := u.engineRecord (u.capOf core) y.thread (cause + 256 * sub) y.code value 4 ((u.core core).slotNumber i) with hr
  set w := (u.setCluster (clusterOf core) { u.cluster (clusterOf core) with drain := none }).setSlot core i { y with state := .ending } with hw
  have hwrun : (w.cap (u.capOf core)).stage = .running := hrun
  have hv : v = w.startKill (u.capOf core) r := by
    have hfail : v = w.failCapsule (u.capOf core) r := by
      simp only [v, State.tcwFault, show ((u.setCluster (clusterOf core) { u.cluster (clusterOf core) with drain := none }).cap (u.capOf core)).onFiring = false from hend,
        Bool.and_false, Bool.false_eq_true, if_false, hw, hr]
    rw [hfail, State.failCapsule, hwrun, if_neg (by decide)]
  have hcap : (v.cap (u.capOf core)) = { w.cap (u.capOf core) with stage := .killing, kill := some ⟨r, 0, []⟩ } := by
    simp only [hv, State.startKill, hwrun, State.cap_setCap_self]
  rw [hcap]
  exact ⟨rfl, _, rfl, rfl, rfl⟩

section
variable {s : State} {cl q i credit : Nat} {x : Slot} (hpick : s.pick cl = some (q, i, credit)) (hq : q < 8)
  (hslot : (s.core (cl * 8 + q)).slots[i]? = some x) (hruns : (s.cap (s.capOf (cl * 8 + q))).runs = true) (hd : (s.cluster cl).drain = none)
include hpick hslot hruns hd

theorem exec_msig_picked (htop : bits x.tcw 7 0 = 7) : ∃ u, exec (.msig cl) s = .next u ∧ s.StartedTo u cl q i credit x .finished ∧ u.mem = s.mem :=
  ⟨_, State.runTop_idle hpick hslot hruns htop hd _, State.finishTcw_started (s.arbitrated_chosen cl q credit) rfl rfl, rfl⟩

theorem exec_mdpl_picked (htop : bits x.tcw 7 0 = 6) {l : List (Place × Byte)}
    (hl : s.readRange (cl * 8 + q) accLoad pipeAllows (4 * tcwK x.tcw) (tcwAaddr x.tcw) = .ok l) (hk : tcwK x.tcw ≤ 32)
    (hwords : ∃ n, n < tcwK x.tcw ∧ bits (fieldB (l.map Prod.snd) (4 * n) 4) 7 0 = 0x16 ∧ ∀ j, j ≤ n → glazeValid (fieldB (l.map Prod.snd) (4 * j) 4) = true) :
    ∃ u, exec (.mdpl cl) s = .next u ∧ s.StartedTo u cl q i credit x .finished ∧ u.mem = s.mem ∧ (u.cluster cl).directory.contains (tcwDrain x.tcw) = true ∧
      ∀ n, n < tcwK x.tcw → (u.cluster cl).drainWord (8 * tcwDrain x.tcw + n) = fieldB (l.map Prod.snd) (4 * n) 4 % 2 ^ 32 := by
  obtain ⟨n, hn, hend, hvalid⟩ := hwords
  have hlen : (wordsOf (tcwK x.tcw) (l.map Prod.snd)).length = tcwK x.tcw := by simp [wordsOf]
  have hcheck : checkWords 0 (wordsOf (tcwK x.tcw) (l.map Prod.snd)) = none := by
    refine checkWords_none (hlen.symm ▸ hn) ?_ fun j hj => ?_
    · rw [wordsOf_getD _ hn, ← bits_low_byte, hend]
    · rw [wordsOf_getD _ (by omega), hvalid j hj]
  refine ⟨_, State.runTop_idle hpick hslot hruns htop hd _, ?_⟩
  rw [← State.readRange_chosen s cl q credit] at hl
  dsimp only
  rw [hl]
  dsimp only
  rw [hcheck]
  dsimp only
  set words := wordsOf (tcwK x.tcw) (l.map Prod.snd)
  set k' : Cluster := { (s.chosen cl q credit).cluster cl with
    drainMem := words.zipIdx.foldl (fun m w => sset 0 m ((8 * tcwDrain x.tcw + w.2) % 2048) (BitVec.ofNat 32 w.1)) ((s.chosen cl q credit).cluster cl).drainMem,
    directory := if ((s.chosen cl q credit).cluster cl).directory.contains (tcwDrain x.tcw) then ((s.chosen cl q credit).cluster cl).directory
      else tcwDrain x.tcw :: ((s.chosen cl q credit).cluster cl).directory } with hk'
  have hcl : ((s.chosen cl q credit).setCluster cl k').cluster cl = k' := State.cluster_setCluster_self _ _ _
  have harb : s.Arbitrated ((s.chosen cl q credit).setCluster cl k') cl q credit :=
    ⟨rfl, by rw [hcl, hk', State.cluster_chosen], by rw [hcl, hk', State.cluster_chosen]⟩
  have hcl' : (((s.chosen cl q credit).setCluster cl k').finishTcw (cl * 8 + q) i { x with state := .multiply }).cluster cl = k' := hcl
  refine ⟨State.finishTcw_started harb rfl rfl, rfl, ?_, fun n hn => ?_⟩
  · rw [hcl', hk']
    dsimp only
    split
    · assumption
    · simp
  · rw [hcl', hk', drainWord_loaded _ _ _ _ (by omega) (by omega), wordsOf_getD _ hn]

include hq in
theorem exec_mdrain_picked (htop : bits x.tcw 7 0 = 5) (hdir : (s.cluster cl).directory.contains (tcwDrain x.tcw) = true)
    (hp : s.poisoned (tileKey (cl * 8 + q) x.tcw) (32 * tcwSize x.tcw) = false) :
    let t := x.tcw
    ∃ u dr, exec (.mdrain cl) s = .next u ∧ s.StartedTo u cl q i credit x .drain ∧ (u.cluster cl).drain = some dr ∧ dr.core = cl * 8 + q ∧ dr.row = 0 ∧
      dr.word = 0 ∧ dr.e = (List.range 32).map (fun j => BitVec.ofNat 64 (s.bytes (tileKey (cl * 8 + q) t + j * tcwSize t) (tcwSize t))) ∧ u.mem = s.mem := by
  have hdir' : ((s.chosen cl q credit).cluster cl).directory.contains (tcwDrain x.tcw) = true := by rwa [State.cluster_chosen]
  obtain ⟨hs, hm, dr, h1, h2, h3, h4, -, h6⟩ :=
    (s.arbitrated_chosen cl q credit).startDrain hq i (x := x) (y := { x with state := .multiply }) rfl rfl hdir' hp
  simp only [State.bytes_chosen] at h6
  exact ⟨_, dr, State.runTop_idle hpick hslot hruns htop hd _, hs, h1, h2, h3, h4, h6, hm⟩

include hq in
/-- A drain whose entry no mdpl has filled ends the capsule with NOPROG (R257). -/
theorem exec_mdrain_noprog (htop : bits x.tcw 7 0 = 5) (hdir : (s.cluster cl).directory.contains (tcwDrain x.tcw) = false)
    (hrun : (s.cap (s.capOf (cl * 8 + q))).stage = .running) (hend : (s.cap (s.capOf (cl * 8 + q))).onFiring = false) :
    ∃ u f, exec (.mdrain cl) s = .next u ∧ (u.cap (s.capOf (cl * 8 + q))).stage = .killing ∧ (u.cap (s.capOf (cl * 8 + q))).kill = some f ∧
      f.final.cause = causeDrain + 256 * 2 ∧ f.final.value = BitVec.ofNat 64 (tcwTile x.tcw * 2 ^ 32) := by
  have hdir' : ((s.chosen cl q credit).cluster cl).directory.contains (tcwDrain x.tcw) = false := by rwa [State.cluster_chosen]
  have hfault : (s.chosen cl q credit).startDrain (cl * 8 + q) i { x with state := .multiply } =
      (s.chosen cl q credit).tcwFault (cl * 8 + q) i { x with state := .multiply } causeDrain 0x02 (drainValue (tcwTile x.tcw) 0 0) [] := by
    simp only [State.startDrain, clusterOf_queue hq, hdir', Bool.false_eq_true, if_false]
  obtain ⟨hstage, f, hkill, hcause, hvalue⟩ := State.tcwFault_kills (u := s.chosen cl q credit) (core := cl * 8 + q) (i := i)
    (y := { x with state := .multiply }) causeDrain 0x02 (drainValue (tcwTile x.tcw) 0 0) [] hrun hend
  rw [← hfault] at hstage hkill
  refine ⟨_, f, State.runTop_idle hpick hslot hruns htop hd _, hstage, hkill, hcause, hvalue.trans ?_⟩
  rw [drainValue, Nat.zero_mul, Nat.add_zero]

end

/-- Settles O39: the picked command is performed on the machine with the arbiter's choice noted, and the group's sum by the real values of its products. -/
theorem matrixOperations : Obligations.MatrixOperations := by
  unfold Obligations.MatrixOperations
  refine ⟨fun s cl q i credit x hpick => ?operations, fun f wide z c u p v hf hc hu hp hwide hprod => ?group, accumulate_succ, fun t b j k rows r hj => ?shapes⟩
  case operations =>
    intro core t k old hq hslot hruns hspoil started tile
    refine ⟨fun hd i' top hi htop => ?busy, fun hd => ⟨?mzero, fun rows htop hrows => ?maccld, fun a b i' hi h0 hdir hclean hmask hA hB => ?multiply,
      exec_msig_picked hpick hslot hruns hd, fun l htop hl hk hwords => exec_mdpl_picked hpick hslot hruns hd htop hl hk hwords,
      fun htop hdir hp => exec_mdrain_picked hpick hq hslot hruns hd htop hdir hp,
      fun htop hdir hrun hend => exec_mdrain_noprog hpick hq hslot hruns hd htop hdir hrun hend⟩⟩
    case busy =>
      have hrun : ∃ f, exec i' s = s.runTop cl top f := by
        simp only [List.mem_cons, List.not_mem_nil, or_false, Prod.mk.injEq] at hi
        rcases hi with ⟨rfl, rfl⟩ | ⟨rfl, rfl⟩ | ⟨rfl, rfl⟩ | ⟨rfl, rfl⟩ | ⟨rfl, rfl⟩ | ⟨rfl, rfl⟩ | ⟨rfl, rfl⟩ <;> exact ⟨_, rfl⟩
      obtain ⟨f, hf⟩ := hrun
      rw [hf]
      exact State.runTop_busy hpick hslot hruns htop hd f
    case mzero => exact exec_mzero_picked hpick hq hslot hruns hspoil hd
    case maccld => exact exec_maccld_picked hpick hq hslot hruns hspoil hd htop hrows
    case multiply =>
      have htop : bits t 7 0 = 1 ∨ bits t 7 0 = 2 := hi.imp And.right And.right
      have hrun : exec i' s = .next ((s.chosen cl q credit).runMultiply core i { x with state := .multiply }) := by
        rcases hi with ⟨rfl, htop⟩ | ⟨rfl, htop⟩
        · exact State.runTop_idle hpick hslot hruns htop hd _
        · exact State.runTop_idle hpick hslot hruns htop hd _
      have h : s.Formable core t a b := ⟨hA, hB, hmask, hclean⟩
      exact ⟨⟨_, hrun, State.runMultiply_picked hq hspoil htop h0 h hdir⟩, State.kStep_picked hpick hslot hruns hd htop h0 h⟩
  case group =>
    obtain ⟨w, hw, hsum⟩ := groupProducts_is hprod
    have hieee : f.Ieee := Fmt.ieee_of_format (hf.elim (fun h => .inr (.inl h)) .inl)
    intro sum h0
    rw [show sum = u + w.sum from congrArg (u + ·) hsum.symm] at h0 ⊢
    exact accumulate_group hieee hc hu (by rwa [List.length_map]) (by rwa [List.length_map]) (by rwa [List.length_map]) hw h0
  case shapes =>
    exact ⟨columnsOf_plain, columnsOf_transposed hj, fun ht h => by rw [rowsOf_getD h, if_neg ht], fun ht h => by rw [rowsOf_getD h, if_pos ht]⟩

end Sys2Proof.Machine
end

section
/-! SUPPORT. The flags that the floating-point operations raise lie above FCR.RM (R21, R71). -/

namespace Sys2Proof.Machine

/-! ### Flag sets -/

theorem flagNV_mod_four : flagNV % 4 = 0 := by decide
theorem flagDZ_mod_four : flagDZ % 4 = 0 := by decide
theorem flagNX_mod_four : flagNX % 4 = 0 := by decide
theorem flagUF_mod_four : flagUF % 4 = 0 := by decide

theorem or_mod_four {a b : Nat} (ha : a % 4 = 0) (hb : b % 4 = 0) : (a ||| b) % 4 = 0 := by
  rw [show (4 : Nat) = 2 ^ 2 from rfl, Nat.or_mod_two_pow] at *
  rw [ha, hb, Nat.or_zero]

theorem foldl_or_mod_four {β : Type} {f : Nat → β × Nat} (h : ∀ i, (f i).2 % 4 = 0) (l : List Nat) {a : Nat} (ha : a % 4 = 0) :
    l.foldl (fun fl i => fl ||| (f i).2) a % 4 = 0 := by
  induction l generalizing a with
  | nil => exact ha
  | cons i l ih => exact ih (or_mod_four ha (h i))

theorem flagIf_mod_four (b : Bool) {f : Nat} (h : f % 4 = 0) : flagIf b f % 4 = 0 := by
  cases b
  · rfl
  · exact h

theorem nvOf_mod_four (l : List Num) : nvOf l % 4 = 0 := flagIf_mod_four _ flagNV_mod_four

/-! ### Rounding and the exact operations -/

theorem roundFin_flags (f : Fmt) (rm : Nat) (neg : Bool) (m : Nat) (e : Int) : (roundFin f rm neg m e).2 % 4 = 0 := by
  simp only [roundFin]
  split
  · exact (by decide : (flagOF + flagNX) % 4 = 0)
  · exact (Nat.add_mod _ _ 4).trans (by rw [flagIf_mod_four _ flagNX_mod_four, flagIf_mod_four _ flagUF_mod_four])

theorem roundNum_flags (f : Fmt) (rm : Nat) (x : Num) : (roundNum f rm x).2 % 4 = 0 := by
  cases x with
  | nan | inf => rfl
  | fin n m e =>
    simp only [roundNum]
    split
    · rfl
    · exact roundFin_flags f rm n m e

theorem finish_flags (f : Fmt) (rm : Nat) (ops : List Num) {r : NumFlags} (h : r.2 % 4 = 0) : (finish f rm ops r).2 % 4 = 0 :=
  or_mod_four (or_mod_four (roundNum_flags f rm r.1) h) (nvOf_mod_four ops)

theorem addExact_flags (rm : Nat) (x y : Num) : (addExact rm x y).2 % 4 = 0 := by
  unfold addExact
  split
  case h_3 => split <;> rfl
  case h_6 =>
    dsimp only
    rw [apply_ite Prod.snd, ite_self]
    rfl
  all_goals rfl

theorem mulExact_flags (x y : Num) : (mulExact x y).2 % 4 = 0 := by
  unfold mulExact
  split
  case h_4 | h_5 => split <;> rfl
  all_goals rfl

theorem divExact_flags (x y : Num) : (divExact x y).2 % 4 = 0 := by
  unfold divExact
  split
  case h_6 =>
    split
    · split
      · exact flagNV_mod_four
      · exact flagDZ_mod_four
    · split <;> rfl
  all_goals rfl

theorem sqrtExact_flags (x : Num) : (sqrtExact x).2 % 4 = 0 := by
  unfold sqrtExact
  split
  case h_2 => split <;> rfl
  case h_3 =>
    split
    · rfl
    · split <;> rfl
  all_goals rfl

/-! ### The operations on patterns -/

theorem fadd_flags (f : Fmt) (rm x y : Nat) : (fadd f rm x y).2 % 4 = 0 := finish_flags f rm _ (addExact_flags rm _ _)
theorem fsub_flags (f : Fmt) (rm x y : Nat) : (fsub f rm x y).2 % 4 = 0 := finish_flags f rm _ (addExact_flags rm _ _)
theorem fmul_flags (f : Fmt) (rm x y : Nat) : (fmul f rm x y).2 % 4 = 0 := finish_flags f rm _ (mulExact_flags _ _)
theorem fdiv_flags (f : Fmt) (rm x y : Nat) : (fdiv f rm x y).2 % 4 = 0 := finish_flags f rm _ (divExact_flags _ _)
theorem fsqrt_flags (f : Fmt) (rm x : Nat) : (fsqrt f rm x).2 % 4 = 0 := finish_flags f rm _ (sqrtExact_flags _)
theorem ffma_flags (f : Fmt) (rm : Nat) (np nz : Bool) (x y z : Nat) : (ffma f rm np nz x y z).2 % 4 = 0 :=
  finish_flags f rm _ (or_mod_four (addExact_flags rm _ _) (mulExact_flags _ _))
theorem fminmax_flags (f : Fmt) (big : Bool) (x y : Nat) : (fminmax f big x y).2 % 4 = 0 := nvOf_mod_four _
theorem feq_flags (f : Fmt) (x y : Nat) : (feq f x y).2 % 4 = 0 := nvOf_mod_four _
theorem flt_flags (f : Fmt) (x y : Nat) : (flt f x y).2 % 4 = 0 := flagIf_mod_four _ flagNV_mod_four
theorem fle_flags (f : Fmt) (x y : Nat) : (fle f x y).2 % 4 = 0 := flagIf_mod_four _ flagNV_mod_four

theorem toIntTy_flags (rm : Nat) (lo hi : Int) (v : Num) : (toIntTy rm lo hi v).2 % 4 = 0 := by
  cases v with
  | nan | inf => exact flagNV_mod_four
  | fin n m e =>
    simp only [toIntTy]
    generalize (if n then _ else _ : Int) = i
    split
    · exact flagNV_mod_four
    · split
      · exact flagNV_mod_four
      · exact flagIf_mod_four _ flagNX_mod_four

theorem convert_flags (rm : Nat) (rtz : Bool) (dst src : NumTy) (x : Nat) : (convert rm rtz dst src x).2 % 4 = 0 := by
  simp only [convert]
  split
  · exact finish_flags _ _ _ rfl
  · exact toIntTy_flags _ _ _ _

end Sys2Proof.Machine
end

section
/-! SUPPORT. What the scalar floating-point instructions do (R91 to R97), and the obligations about them. -/

namespace Sys2Proof.Machine

/-! ### The forms that write a result with flags -/

/-- A ready thread's instruction that writes q to g[d], with flags above FCR.RM, and breaks no rule of its own completes with any result equal to q's. -/
theorem givesF_issue {i : Instr} {word d : Nat} {gs : List Nat} {ill : Bool} {q r : State → Nat × Nat}
    (hi : ∀ s, exec i s = s.issue ((useG word gs).ill ill) fun s => s.putF d (q s)) (hill : ill = false)
    (hfl : ∀ s, (q s).2 % 4 = 0) (h : ∀ s, q s = r s) : GivesF i gs d r := fun s hr => by
  obtain ⟨t, ht, hw⟩ := s.writesF_putF d (q s) (hfl s)
  refine ⟨t, ?_, h s ▸ hw⟩
  rw [hi, State.issue_ready (u := (useG word gs).ill ill) hr (s.open_useG word gs) hill]
  exact ht

/-- A ready thread's instruction that no window and no rule of its own bars has its effect. -/
theorem exec_ready {i : Instr} {s : State} (r : Result) {u : Use} {body : State → Result} (hi : exec i s = r) (hu : r = s.issue u body)
    (hr : s.ready u.gs u.vs u.ks = true) (hbar : u.barred = false) (hill : u.illegal = false) : exec i s = body s := by
  rw [hi, hu, State.issue_ready hr (fun h => by rw [hbar] at h; cases h) hill]

/-- A ready thread's instruction that breaks a rule of its own traps ILLEGAL with its word (R38). -/
theorem exec_illegal {i : Instr} {s : State} (r : Result) {u : Use} {body : State → Result} (hi : exec i s = r) (hu : r = s.issue u body)
    (hw : u.word = encode i) (hr : s.ready u.gs u.vs u.ks = true) (hill : u.illegal = true) :
    exec i s = s.takeTrap causeIllegal (BitVec.ofNat 64 (encode i)) := by
  rw [hi, hu, State.issue_illegal hr hill, hw]

/-! ### Sign operations (R92) -/

section
variable (f : Fmt) {x y : Nat}

/-- The sign of a pattern of the format is its top bit. -/
theorem Fmt.sign_cases (h : y < 2 ^ f.width) : (y / 2 ^ (f.width - 1) = 0 ∧ signOf f y = false) ∨ (y / 2 ^ (f.width - 1) = 1 ∧ signOf f y = true) := by
  have hlt : y / 2 ^ (f.width - 1) < 2 := Nat.div_lt_of_lt_mul ((Nat.pow_succ (n := 2) (m := f.width - 1)) ▸ h)
  have hs : signOf f y = (y / 2 ^ (f.width - 1) % 2 == 1) := rfl
  rw [hs]
  generalize y / 2 ^ (f.width - 1) = q at *
  obtain rfl | rfl : q = 0 ∨ q = 1 := by omega
  · exact .inl ⟨rfl, rfl⟩
  · exact .inr ⟨rfl, rfl⟩

theorem withSign_eq (x : Nat) (neg : Bool) : withSign f x neg = x % 2 ^ (f.width - 1) + neg.toNat * 2 ^ (f.width - 1) := by
  cases neg
  · exact congrArg (x % 2 ^ (f.width - 1) + ·) (Nat.zero_mul _).symm
  · exact congrArg (x % 2 ^ (f.width - 1) + ·) (Nat.one_mul _).symm

theorem fsgnj_eq (x : Nat) (hy : y < 2 ^ f.width) : fsgnj f x y = x % 2 ^ (f.width - 1) + y / 2 ^ (f.width - 1) * 2 ^ (f.width - 1) := by
  rw [fsgnj, withSign_eq]
  rcases f.sign_cases hy with ⟨h, hs⟩ | ⟨h, hs⟩ <;> rw [h, hs] <;> rfl

theorem fsgnjn_eq (x : Nat) (hy : y < 2 ^ f.width) :
    fsgnjn f x y = x % 2 ^ (f.width - 1) + (1 - y / 2 ^ (f.width - 1)) * 2 ^ (f.width - 1) := by
  rw [fsgnjn, withSign_eq]
  rcases f.sign_cases hy with ⟨h, hs⟩ | ⟨h, hs⟩ <;> rw [h, hs] <;> rfl

theorem fsgnjx_eq (hx : x < 2 ^ f.width) (hy : y < 2 ^ f.width) :
    fsgnjx f x y = x % 2 ^ (f.width - 1) + (x / 2 ^ (f.width - 1) + y / 2 ^ (f.width - 1)) % 2 * 2 ^ (f.width - 1) := by
  rw [fsgnjx, withSign_eq]
  rcases f.sign_cases hx with ⟨h, hs⟩ | ⟨h, hs⟩ <;> rcases f.sign_cases hy with ⟨h', hs'⟩ | ⟨h', hs'⟩ <;> rw [h, hs, h', hs'] <;> rfl

end

/-! ### The scalar forms (R92, R93, R95) -/

theorem operandF_lt (f : Fmt) (x : Word) : operandF f x < 2 ^ f.width := Nat.mod_lt _ (Nat.two_pow_pos _)

section
variable {i : Instr} {word : Nat} {d a b c : G} {f : Fmt}

theorem givesF_fp3 {op : Nat → Nat → Nat → Nat × Nat} (hi : ∀ s, exec i s = s.fp3 word d a b f op) (hfl : ∀ rm x y, (op rm x y).2 % 4 = 0) :
    GivesF i [d, a, b] d fun s => op s.me.rm ((s.rg a).toNat % 2 ^ f.width) ((s.rg b).toNat % 2 ^ f.width) :=
  givesF_issue (ill := false) hi rfl (fun _ => hfl _ _ _) fun _ => rfl

theorem givesF_fp2 {op : Nat → Nat → Nat × Nat} (hi : ∀ s, exec i s = s.fp2 word d a f op) (hfl : ∀ rm x, (op rm x).2 % 4 = 0) :
    GivesF i [d, a] d fun s => op s.me.rm ((s.rg a).toNat % 2 ^ f.width) :=
  givesF_issue (ill := false) hi rfl (fun _ => hfl _ _) fun _ => rfl

theorem givesF_fp4 {nz : Bool} (hi : ∀ s, exec i s = s.fp4 word d a b c f nz) :
    GivesF i [d, a, b, c] d fun s =>
      ffma f s.me.rm false nz ((s.rg a).toNat % 2 ^ f.width) ((s.rg b).toNat % 2 ^ f.width) ((s.rg c).toNat % 2 ^ f.width) :=
  givesF_issue (ill := false) hi rfl (fun _ => ffma_flags _ _ _ _ _ _ _) fun _ => rfl

/-- An operation on the bits of its operands raises no flag. -/
theorem givesF_bits {op r : Nat → Nat → Nat} (hi : ∀ s, exec i s = s.fp3 word d a b f fun _ x y => quietF (op x y))
    (h : ∀ x y, x < 2 ^ f.width → y < 2 ^ f.width → op x y = r x y) :
    GivesF i [d, a, b] d fun s => (r ((s.rg a).toNat % 2 ^ f.width) ((s.rg b).toNat % 2 ^ f.width), 0) :=
  givesF_issue (ill := false) hi rfl (fun _ => rfl) fun _ => congrArg quietF (h _ _ (operandF_lt f _) (operandF_lt f _))

theorem givesF_minmax {big : Bool} (hi : ∀ s, exec i s = s.fp3 word d a b f fun _ x y => fminmax f big x y) :
    GivesF i [d, a, b] d fun s => fminmax f big ((s.rg a).toNat % 2 ^ f.width) ((s.rg b).toNat % 2 ^ f.width) :=
  givesF_issue (ill := false) hi rfl (fun _ => fminmax_flags _ _ _ _) fun _ => rfl

theorem givesF_truth {op : Nat → Nat → Bool × Nat} (hi : ∀ s, exec i s = s.fp3 word d a b f fun _ x y => boolF (op x y))
    (hfl : ∀ x y, (op x y).2 % 4 = 0) :
    GivesF i [d, a, b] d fun s => boolF (op ((s.rg a).toNat % 2 ^ f.width) ((s.rg b).toNat % 2 ^ f.width)) :=
  givesF_issue (ill := false) hi rfl (fun _ => hfl _ _) fun _ => rfl

end

/-- A converted pattern as a register's value: an i32 is sign-extended (R96). -/
theorem extendTy_eq (t : NumTy) (v : Nat) : extendTy t v = if t = .i32 then ((BitVec.ofNat 32 v).signExtend 64).toNat else v := by
  by_cases h : t = .i32
  · rw [if_pos h, h]
    rfl
  · rw [if_neg h]
    cases t
    case i32 => exact absurd rfl h
    all_goals rfl

/-! ### The obligations -/

/-- Settles O41: each operation is the form that writes the format's result and flags; the sign operations move the top bit. -/
theorem scalarFloat : Obligations.ScalarFloat := by
  unfold Obligations.ScalarFloat
  intro d a b c family
  refine ⟨?double, ?single, fun rtz dst src => ⟨fun hok => ?converts, fun hbad s hr => ?refuses⟩⟩
  case double | single =>
    exact ⟨
      givesF_fp3 (fun _ => rfl) (fadd_flags _),
      givesF_fp3 (fun _ => rfl) (fsub_flags _),
      givesF_fp3 (fun _ => rfl) (fmul_flags _),
      givesF_fp3 (fun _ => rfl) (fdiv_flags _),
      givesF_fp2 (fun _ => rfl) (fsqrt_flags _),
      givesF_minmax fun _ => rfl,
      givesF_minmax fun _ => rfl,
      givesF_truth (fun _ => rfl) (feq_flags _),
      givesF_truth (fun _ => rfl) (flt_flags _),
      givesF_truth (fun _ => rfl) (fle_flags _),
      givesF_bits (fun _ => rfl) fun x _ _ => fsgnj_eq _ x,
      givesF_bits (fun _ => rfl) fun x _ _ => fsgnjn_eq _ x,
      givesF_bits (fun _ => rfl) fun _ _ => fsgnjx_eq _,
      givesF_fp4 fun _ => rfl,
      givesF_fp4 fun _ => rfl⟩
  case converts =>
    exact givesF_issue (i := .fcvt d a rtz dst src) (fun _ => rfl) (congrArg not hok) (fun _ => convert_flags _ _ _ _ _)
      fun s => congrArg (·, _) (extendTy_eq dst _)
  case refuses =>
    exact exec_illegal (execFcvt d a rtz dst src s) rfl rfl rfl hr (congrArg not hbad)

end Sys2Proof.Machine
end

section
/-! SUPPORT. The class masks of fclass (R94), and the obligation about them. -/

namespace Sys2Proof.Machine

/-- The bit of fclass for a pattern of a format with eb exponent and fb fraction bits (R94). -/
def classBit (eb fb x : Nat) : Nat :=
  let neg := x / 2 ^ (eb + fb) % 2 = 1
  let e := x / 2 ^ fb % 2 ^ eb
  let m := x % 2 ^ fb
  if e = 2 ^ eb - 1 then (if m = 0 then (if neg then 0 else 7) else if m < 2 ^ (fb - 1) then 8 else 9)
  else if e = 0 then (if m = 0 then (if neg then 3 else 4) else if neg then 2 else 5)
  else if neg then 1 else 6

/-- The decoder reads no bit above the format's sign. -/
theorem Fmt.decode_mod (f : Fmt) (x : Nat) : f.decode (x % 2 ^ f.width) = f.decode x := by
  have hsign : x % 2 ^ f.width / 2 ^ (f.eb + f.fb) % 2 = x / 2 ^ (f.eb + f.fb) % 2 := by
    rw [Fmt.width, Nat.pow_succ, Nat.mod_mul_right_div_self, Nat.mod_mod]
  have hex : x % 2 ^ f.width / 2 ^ f.fb % 2 ^ f.eb = x / 2 ^ f.fb % 2 ^ f.eb := by
    rw [show f.width = f.fb + (f.eb + 1) by unfold Fmt.width; omega, Nat.pow_add, Nat.mod_mul_right_div_self,
      Nat.mod_mod_of_dvd _ (Nat.pow_dvd_pow 2 (Nat.le_succ f.eb))]
  have hfr : x % 2 ^ f.width % 2 ^ f.fb = x % 2 ^ f.fb := Nat.mod_mod_of_dvd _ (Nat.pow_dvd_pow 2 (by unfold Fmt.width; omega))
  unfold Fmt.decode
  rw [hsign, hex, hfr]

/-- fclass sets the one bit of the pattern's class. -/
theorem fclass_eq (f : Fmt) (x : Nat) : fclass f x = 2 ^ classBit f.eb f.fb x := by
  have hfr : x % 2 ^ f.fb < 2 ^ f.fb := Nat.mod_lt _ (Nat.two_pow_pos _)
  unfold fclass classBit Fmt.decode
  dsimp only
  generalize x % 2 ^ f.fb = m at *
  generalize x / 2 ^ f.fb % 2 ^ f.eb = e
  have hneg : (x / 2 ^ (f.eb + f.fb) % 2 == 1) = decide (x / 2 ^ (f.eb + f.fb) % 2 = 1) := rfl
  rw [hneg]
  generalize x / 2 ^ (f.eb + f.fb) % 2 = n
  by_cases hmax : e = 2 ^ f.eb - 1
  · rw [if_pos hmax, if_pos hmax]
    by_cases h0 : m = 0
    · by_cases hn : n = 1 <;> simp [h0, hn]
    · by_cases hs : m < 2 ^ (f.fb - 1) <;> simp [h0, hs]
  · rw [if_neg hmax, if_neg hmax]
    by_cases he : e = 0
    · by_cases h0 : m = 0
      · by_cases hn : n = 1 <;> simp [he, h0, hn]
      · by_cases hn : n = 1 <;> simp [he, h0, hn, hfr]
    · by_cases hn : n = 1 <;> simp [he, hn]

theorem fclass_mod (f : Fmt) (x : Nat) : fclass f (x % 2 ^ f.width) = fclass f x := by
  unfold fclass
  rw [f.decode_mod]

theorem givesF_fclass {i : Instr} {word : Nat} {d a : G} {f : Fmt} (hi : ∀ s, exec i s = s.fp2 word d a f fun _ x => quietF (fclass f x)) :
    GivesF i [d, a] d fun s => (2 ^ classBit f.eb f.fb (s.rg a).toNat, 0) :=
  givesF_issue (ill := false) hi rfl (fun _ => rfl) fun _ =>
    congrArg quietF ((fclass_mod f _).trans (fclass_eq f _))

/-- Settles O42: the mask is 2 to the class's bit, which the exponent, the fraction and the sign decide. -/
theorem classMasks : Obligations.ClassMasks := by
  unfold Obligations.ClassMasks
  intro d a class_
  exact ⟨givesF_fclass (f := fmt64) fun _ => rfl, givesF_fclass (f := fmt32) fun _ => rfl⟩

end Sys2Proof.Machine
end

section
/-! SUPPORT. The integer operations of R106 on patterns, and what the element-wise vector instructions do (R99, R100, R104 to R106, R110, R111). -/

namespace Sys2Proof.Machine

/-! ### Patterns as signed numbers (R106) -/

theorem Width.bitsOf_pos (wc : Width) : 0 < Width.bitsOf wc := by cases wc <;> decide

/-- Half of the patterns of a width are those without its top bit. -/
theorem two_pow_eq_half {w : Nat} (hw : 0 < w) : 2 ^ w = 2 * 2 ^ (w - 1) := by rw [← Nat.pow_succ', Nat.succ_eq_add_one, Nat.sub_add_cancel hw]

theorem wrapN_eq (w : Nat) (i : Int) : wrapN w i = (BitVec.ofInt w i).toNat := by
  rw [BitVec.toNat_ofInt, Nat.cast_pow]
  rfl

/-- A number of the unsigned range is its own pattern. -/
theorem wrapN_natCast {w n : Nat} (h : n < 2 ^ w) : wrapN w n = n := by
  rw [wrapN_eq, BitVec.ofInt_natCast, BitVec.toNat_ofNat, Nat.mod_eq_of_lt h]

section
variable {w x y : Nat}

theorem signedN_eq (hw : 0 < w) (hx : x < 2 ^ w) : signedN w x = (BitVec.ofNat w x).toInt := by
  have h2 := two_pow_eq_half hw
  rw [BitVec.toInt_eq_toNat_cond, BitVec.toNat_ofNat, Nat.mod_eq_of_lt hx, signedN, Nat.cast_pow]
  exact if_congr (by omega) rfl rfl

/-- The pattern of a pattern's signed number is the pattern. -/
theorem ofInt_toInt_toNat (hx : x < 2 ^ w) : (BitVec.ofInt w (BitVec.ofNat w x).toInt).toNat = x := by
  rw [BitVec.ofInt_toInt, BitVec.toNat_ofNat, Nat.mod_eq_of_lt hx]

theorem clampN_eq (w : Nat) {lo hi : Int} (h : lo ≤ hi) (i : Int) : clampN w lo hi i = (BitVec.ofInt w (max lo (min hi i))).toNat := by
  rw [clampN, wrapN_eq]
  congr 2
  split
  · omega
  · split <;> omega

theorem clampS_eq (w : Nat) (i : Int) : clampS w i = (BitVec.ofInt w (max (-2 ^ (w - 1)) (min (2 ^ (w - 1) - 1) i))).toNat :=
  clampN_eq w (by have : (0 : Int) < 2 ^ (w - 1) := by positivity
                  omega) i

/-- A natural number modulo 2^w. -/
theorem wrapN_mod (w n : Nat) : wrapN w n = n % 2 ^ w := by rw [wrapN_eq, BitVec.ofInt_natCast, BitVec.toNat_ofNat]

theorem clampU_natCast (w n : Nat) : clampU w n = min n (2 ^ w - 1) := by
  have hpos : 0 < 2 ^ w := Nat.two_pow_pos w
  rw [clampU, clampN_eq w (by have : (0 : Int) < 2 ^ w := by positivity
                              omega), ← wrapN_eq]
  have hcast : max 0 (min (2 ^ w - 1) (n : Int)) = (min n (2 ^ w - 1) : Nat) := by
    rw [show (2 : Int) ^ w = (2 ^ w : Nat) by norm_cast]
    omega
  rw [hcast, wrapN_natCast (by omega)]

/-! ### The rows of R106 -/

theorem wrapN_add (w x y : Nat) : wrapN w ((x : Int) + y) = (x + y) % 2 ^ w := by rw [← Nat.cast_add, wrapN_mod]

theorem wrapN_mul (w x y : Nat) : wrapN w ((x : Int) * y) = x * y % 2 ^ w := by rw [← Nat.cast_mul, wrapN_mod]

theorem wrapN_sub (x : Nat) (hy : y < 2 ^ w) : wrapN w ((x : Int) - y) = (x + 2 ^ w - y) % 2 ^ w := by
  rw [← wrapN_mod, Nat.cast_sub (by omega), Nat.cast_add, Nat.cast_pow]
  unfold wrapN
  rw [show ((x : Int) + (2 : Nat) ^ w - y) = x - y + 2 ^ w by push_cast; ring, Int.add_emod_right]

theorem clampU_add (w x y : Nat) : clampU w ((x : Int) + y) = min (x + y) (2 ^ w - 1) := by rw [← Nat.cast_add, clampU_natCast]

theorem clampU_sub (hx : x < 2 ^ w) (y : Nat) : clampU w ((x : Int) - y) = x - y := by
  by_cases h : y ≤ x
  · rw [← Nat.cast_sub h, clampU_natCast]
    omega
  · have hneg : (x : Int) - y < 0 := by omega
    rw [clampU, clampN, if_pos hneg, Nat.sub_eq_zero_of_le (by omega)]
    exact wrapN_natCast (n := 0) (Nat.two_pow_pos w)

section
variable (hw : 0 < w) (hx : x < 2 ^ w) (hy : y < 2 ^ w)
include hw hx hy

/-- The lesser pattern as a signed number. -/
theorem ite_signedN_lt : (if signedN w x < signedN w y then x else y) =
    (BitVec.ofInt w (min (BitVec.ofNat w x).toInt (BitVec.ofNat w y).toInt)).toNat := by
  rw [signedN_eq hw hx, signedN_eq hw hy]
  split
  · next h => rw [min_eq_left h.le, ofInt_toInt_toNat hx]
  · next h => rw [min_eq_right (not_lt.mp h), ofInt_toInt_toNat hy]

/-- The greater pattern as a signed number. -/
theorem ite_signedN_gt : (if signedN w x < signedN w y then y else x) =
    (BitVec.ofInt w (max (BitVec.ofNat w x).toInt (BitVec.ofNat w y).toInt)).toNat := by
  rw [signedN_eq hw hx, signedN_eq hw hy]
  split
  · next h => rw [max_eq_right h.le, ofInt_toInt_toNat hy]
  · next h => rw [max_eq_left (not_lt.mp h), ofInt_toInt_toNat hx]

theorem wrapN_mulh : wrapN w (signedN w x * signedN w y / 2 ^ w) =
    (BitVec.ofInt w ((BitVec.ofNat w x).toInt * (BitVec.ofNat w y).toInt / 2 ^ w)).toNat := by
  rw [wrapN_eq, signedN_eq hw hx, signedN_eq hw hy]

theorem clampS_add : clampS w (signedN w x + signedN w y) =
    (BitVec.ofInt w (max (-2 ^ (w - 1)) (min (2 ^ (w - 1) - 1) ((BitVec.ofNat w x).toInt + (BitVec.ofNat w y).toInt)))).toNat := by
  rw [clampS_eq, signedN_eq hw hx, signedN_eq hw hy]

theorem clampS_sub : clampS w (signedN w x - signedN w y) =
    (BitVec.ofInt w (max (-2 ^ (w - 1)) (min (2 ^ (w - 1) - 1) ((BitVec.ofNat w x).toInt - (BitVec.ofNat w y).toInt)))).toNat := by
  rw [clampS_eq, signedN_eq hw hx, signedN_eq hw hy]

omit hy in
theorem wrapN_sra (n : Nat) : wrapN w (signedN w x / 2 ^ n) = (BitVec.ofInt w ((BitVec.ofNat w x).toInt / 2 ^ n)).toNat := by
  rw [wrapN_eq, signedN_eq hw hx]

end

end

/-! ### The element-wise forms (R100) -/

/-- A ready thread's element-wise instruction that raises flags above FCR.RM gives every element any result equal to q's. -/
theorem givesLanes_vmap {i : Instr} {word d k w : Nat} {gs vs : List Nat} {q r : State → Nat → Nat × Nat}
    (hi : ∀ s, exec i s = s.vmap ⟨word, gs, vs, [k], false, false⟩ d k w q) (hfl : ∀ s j, (q s j).2 % 4 = 0) (h : ∀ s j, q s j = r s j) :
    GivesLanes i gs vs d k w r := fun s hr => by
  obtain ⟨t, ht, hw⟩ := s.writesLanes d k w (q s) (hfl s)
  refine ⟨t, ?_, funext (h s) ▸ hw⟩
  rw [hi, State.vmap, State.issue_ready (u := ⟨word, gs, vs, [k], false, false⟩) hr (fun hbar => by cases hbar) rfl]
  exact ht

section
variable {i : Instr} {word : Nat} {d a b c : V} {k : K} {w : Nat} {f : Fmt} {wc : Width}

theorem givesLanes_vop3 {op : Nat → Nat → Nat → Nat × Nat} (hi : ∀ s, exec i s = s.vop3 word d a b k w op) (hfl : ∀ rm x y, (op rm x y).2 % 4 = 0) :
    GivesLanes i [] [d, a, b] d k w fun s j => op s.me.rm (elem (s.rv a) w j) (elem (s.rv b) w j) :=
  givesLanes_vmap hi (fun _ _ => hfl _ _ _) fun _ _ => rfl

theorem givesLanes_vop2 {op : Nat → Nat → Nat × Nat} (hi : ∀ s, exec i s = s.vop2 word d a k w op) (hfl : ∀ rm x, (op rm x).2 % 4 = 0) :
    GivesLanes i [] [d, a] d k w fun s j => op s.me.rm (elem (s.rv a) w j) :=
  givesLanes_vmap hi (fun _ _ => hfl _ _) fun _ _ => rfl

theorem givesLanes_vop4 {np nz : Bool} (hi : ∀ s, exec i s = s.vop4 word d a b c k f np nz) :
    GivesLanes i [] [d, a, b, c] d k f.width fun s j =>
      ffma f s.me.rm np nz (elem (s.rv a) f.width j) (elem (s.rv b) f.width j) (elem (s.rv c) f.width j) :=
  givesLanes_vmap hi (fun _ _ => ffma_flags _ _ _ _ _ _ _) fun _ _ => rfl

/-- An operation on patterns raises no flag. -/
theorem givesLanes_bits {op r : Nat → Nat → Nat} (hi : ∀ s, exec i s = s.vop3 word d a b k w fun _ x y => quietF (op x y))
    (h : ∀ x y, x < 2 ^ w → y < 2 ^ w → op x y = r x y) :
    GivesLanes i [] [d, a, b] d k w fun s j => (r (elem (s.rv a) w j) (elem (s.rv b) w j), 0) :=
  givesLanes_vmap hi (fun _ _ => rfl) fun _ _ => congrArg quietF (h _ _ (elem_lt _ _ _) (elem_lt _ _ _))

theorem givesLanes_minmax {big : Bool} (hi : ∀ s, exec i s = s.vop3 word d a b k w fun _ x y => fminmax f big x y) :
    GivesLanes i [] [d, a, b] d k w fun s j => fminmax f big (elem (s.rv a) w j) (elem (s.rv b) w j) :=
  givesLanes_vmap hi (fun _ _ => fminmax_flags _ _ _ _) fun _ _ => rfl

/-- The same for an instruction of R106, whose meaning is e. -/
theorem givesLanes_vint3 (e : State → Result) {op : Nat → Nat → Nat → Nat} {r : Nat → Nat → Nat} (hi : ∀ s, exec i s = e s)
    (he : ∀ s, e s = s.vint3 word d a b wc k op) (h : ∀ x y, x < 2 ^ Width.bitsOf wc → y < 2 ^ Width.bitsOf wc → op (Width.bitsOf wc) x y = r x y) :
    GivesLanes i [] [d, a, b] d k (Width.bitsOf wc) fun s j => (r (elem (s.rv a) (Width.bitsOf wc) j) (elem (s.rv b) (Width.bitsOf wc) j), 0) :=
  givesLanes_bits (fun s => (hi s).trans (he s)) h

end

/-! ### The obligation -/

/-- Settles O44: each instruction is the element-wise form of its operation, and the operation's value is the row's. -/
theorem vectorElements : Obligations.VectorElements := by
  unfold Obligations.VectorElements
  intro d a b c k wc g
  refine ⟨?integer, ?float⟩
  case integer =>
    have hw := Width.bitsOf_pos wc
    intro w s_ wrap low high two
    exact ⟨
      givesLanes_vint3 (execVadd d a b wc k) (fun _ => rfl) (fun _ => rfl) fun x y _ _ => wrapN_add w x y,
      givesLanes_vint3 (execVsub d a b wc k) (fun _ => rfl) (fun _ => rfl) fun x y _ hy => wrapN_sub x hy,
      givesLanes_vint3 (execVadds d a b wc k) (fun _ => rfl) (fun _ => rfl) fun x y hx hy => clampS_add hw hx hy,
      givesLanes_vint3 (execVaddus d a b wc k) (fun _ => rfl) (fun _ => rfl) fun x y _ _ => clampU_add w x y,
      givesLanes_vint3 (execVsubs d a b wc k) (fun _ => rfl) (fun _ => rfl) fun x y hx hy => clampS_sub hw hx hy,
      givesLanes_vint3 (execVsubus d a b wc k) (fun _ => rfl) (fun _ => rfl) fun x y hx _ => clampU_sub hx y,
      givesLanes_vint3 (execVmul d a b wc k) (fun _ => rfl) (fun _ => rfl) fun x y _ _ => wrapN_mul w x y,
      givesLanes_vint3 (execVmulh d a b wc k) (fun _ => rfl) (fun _ => rfl) fun x y hx hy => wrapN_mulh hw hx hy,
      givesLanes_vint3 (execVmulhu d a b wc k) (fun _ => rfl) (fun _ => rfl) fun _ _ _ _ => rfl,
      givesLanes_vint3 (execVand d a b wc k) (fun _ => rfl) (fun _ => rfl) fun _ _ _ _ => rfl,
      givesLanes_vint3 (execVor d a b wc k) (fun _ => rfl) (fun _ => rfl) fun _ _ _ _ => rfl,
      givesLanes_vint3 (execVxor d a b wc k) (fun _ => rfl) (fun _ => rfl) fun _ _ _ _ => rfl,
      givesLanes_vint3 (execVsll d a b wc k) (fun _ => rfl) (fun _ => rfl) fun _ _ _ _ => rfl,
      givesLanes_vint3 (execVsrl d a b wc k) (fun _ => rfl) (fun _ => rfl) fun _ _ _ _ => rfl,
      givesLanes_vint3 (execVsra d a b wc k) (fun _ => rfl) (fun _ => rfl) fun x y hx _ => wrapN_sra hw hx (y % w),
      givesLanes_vint3 (execVmin d a b wc k) (fun _ => rfl) (fun _ => rfl) fun x y hx hy => ite_signedN_lt hw hx hy,
      givesLanes_vint3 (execVmax d a b wc k) (fun _ => rfl) (fun _ => rfl) fun x y hx hy => ite_signedN_gt hw hx hy,
      givesLanes_vint3 (execVminu d a b wc k) (fun _ => rfl) (fun _ => rfl) fun _ _ _ _ => rfl,
      givesLanes_vint3 (execVmaxu d a b wc k) (fun _ => rfl) (fun _ => rfl) fun _ _ _ _ => rfl,
      givesLanes_vmap (fun _ => rfl) (fun _ _ => rfl) fun _ _ =>
        congrArg (fun i => quietF (min (Int.natAbs i) (2 ^ (w - 1) - 1))) (signedN_eq hw (elem_lt _ _ _)),
      givesLanes_vmap (fun _ => rfl) (fun _ _ => rfl) fun _ _ => rfl,
      givesLanes_vmap (fun _ => rfl) (fun _ _ => rfl) fun _ _ => rfl⟩
  case float =>
    intro family
    refine ⟨?double, ?single⟩
    case double | single =>
      exact ⟨
        givesLanes_vop3 (fun _ => rfl) (fadd_flags _),
        givesLanes_vop3 (fun _ => rfl) (fsub_flags _),
        givesLanes_vop3 (fun _ => rfl) (fmul_flags _),
        givesLanes_vop3 (fun _ => rfl) (fdiv_flags _),
        givesLanes_vop2 (fun _ => rfl) (fsqrt_flags _),
        givesLanes_minmax fun _ => rfl,
        givesLanes_minmax fun _ => rfl,
        givesLanes_bits (fun _ => rfl) fun x _ _ => fsgnj_eq _ x,
        givesLanes_bits (fun _ => rfl) fun x _ _ => fsgnjn_eq _ x,
        givesLanes_bits (fun _ => rfl) fun _ _ => fsgnjx_eq _,
        givesLanes_vmap (fun _ => rfl) (fun _ _ => rfl) fun _ _ => rfl,
        givesLanes_vop4 fun _ => rfl,
        givesLanes_vop4 fun _ => rfl,
        givesLanes_vop4 fun _ => rfl,
        givesLanes_vop4 fun _ => rfl⟩

end Sys2Proof.Machine
end

section
/-! SUPPORT. Comparisons of elements and the masks they give (R107), and the folds of the reductions (R84, R109). -/

namespace Sys2Proof.Machine

/-! ### Conditions (R107) -/

theorem cmpElem_int {ty : CmpTy} (h : ty.isFloat = false) (cond x y : Nat) : cmpElem ty cond x y = (cmpInt (CmpTy.bitsOf ty) cond x y, 0) := by
  cases ty
  case f64 | f32 => cases h
  all_goals rfl

theorem cmpElem_float {ty : CmpTy} (h : ty.isFloat = true) (cond x y : Nat) :
    cmpElem ty cond x y = cmpFloat (if CmpTy.bitsOf ty = 64 then fmt64 else fmt32) cond x y := by
  cases ty
  case f64 | f32 => rfl
  all_goals cases h

theorem CmpTy.bitsOf_pos (ty : CmpTy) : 0 < CmpTy.bitsOf ty := by cases ty <;> decide

theorem cmpFloat_flags (f : Fmt) (cond x y : Nat) : (cmpFloat f cond x y).2 % 4 = 0 := by
  unfold cmpFloat
  dsimp only
  split
  · exact feq_flags f x y
  · split
    · exact feq_flags f x y
    · split
      · exact flt_flags f x y
      · split
        · exact fle_flags f x y
        · exact nvOf_mod_four _

theorem cmpElem_flags (ty : CmpTy) (cond x y : Nat) : (cmpElem ty cond x y).2 % 4 = 0 := by
  cases h : ty.isFloat with
  | false => exact congrArg (fun p : Bool × Nat => p.2 % 4) (cmpElem_int h cond x y)
  | true =>
    rw [cmpElem_float h]
    exact cmpFloat_flags _ _ _ _

/-! ### Lane masks (R107) -/

/-- The mask of the lanes below n on which f holds has those bits alone. -/
theorem foldl_lanes (f : Nat → Bool) (n : Nat) :
    let m := (List.range n).foldl (fun v l => if f l then v + 2 ^ l else v) 0
    m < 2 ^ n ∧ ∀ l, l < n → m.testBit l = f l := by
  induction n with
  | zero => exact ⟨Nat.one_pos, fun l h => absurd h (Nat.not_lt_zero l)⟩
  | succ n ih =>
    obtain ⟨hlt, hbits⟩ := ih
    rw [List.range_succ, List.foldl_append]
    simp only [List.foldl_cons, List.foldl_nil]
    generalize (List.range n).foldl _ 0 = m at *
    have hsucc : 2 ^ (n + 1) = 2 ^ n + 2 ^ n := by rw [Nat.pow_succ]; omega
    refine ⟨by split <;> omega, fun l hl => ?_⟩
    rcases Nat.lt_succ_iff_lt_or_eq.mp hl with hl | rfl
    · rw [← hbits l hl]
      split
      · rw [Nat.add_comm, Nat.testBit_two_pow_add_gt hl]
      · rfl
    · have htop : m.testBit l = false := Nat.testBit_lt_two_pow hlt
      cases hf : f l
      · exact htop
      · rw [if_pos rfl, Nat.add_comm, Nat.testBit_two_pow_add_eq, htop]
        rfl

theorem getLsbD_maskOf (f : Nat → Bool) {l : Nat} (h : l < 8) : (maskOf f).getLsbD l = f l := by
  rw [maskOf, BitVec.getLsbD_ofNat, (foldl_lanes f 8).2 l h, decide_eq_true h, Bool.true_and]

/-- A lane's bit of a compare: the lane has an active element, and the condition holds on one of them or on all. -/
theorem cmpLane_iff (w : Nat) (any : Bool) (act : List Nat) (f : Nat → Bool) (l : Nat) : cmpLane w any act f l = true ↔
    (∃ j ∈ act, j * w / 64 = l) ∧ if any then ∃ j ∈ act, j * w / 64 = l ∧ f j = true else ∀ j ∈ act, j * w / 64 = l → f j = true := by
  have hempty : (act.filter fun i => decide (i * w / 64 = l)).isEmpty = true ↔ ¬ ∃ j ∈ act, j * w / 64 = l := by
    simp [List.isEmpty_iff, List.filter_eq_nil_iff]
  unfold cmpLane
  dsimp only
  split
  · next h => simp [hempty.mp h]
  · next h =>
    rw [hempty, not_not] at h
    cases any
    · simp [h, or_iff_not_imp_left]
    · simp [h]

/-! ### Trees (R84) -/

section
variable {op : Nat → Nat → Nat} (hassoc : ∀ x y z, op (op x y) z = op x (op y z))

theorem treeLevel_quiet_flags : ∀ l : List Nat, (treeLevel (fun x y => quietF (op x y)) l).2 = 0
  | [] | [_] => rfl
  | _ :: _ :: r => congrArg (0 ||| ·) (treeLevel_quiet_flags r)

theorem length_treeLevel (op : Nat → Nat → Nat × Nat) : ∀ l : List Nat, (treeLevel op l).1.length = (l.length + 1) / 2
  | [] => rfl
  | [_] => Nat.div_self (n := 2) Nat.two_pos |>.symm
  | _ :: _ :: r => by
    simp only [treeLevel, List.length_cons, length_treeLevel op r]
    omega

include hassoc

theorem foldl_treeLevel : ∀ (l : List Nat) (acc : Nat), (treeLevel (fun x y => quietF (op x y)) l).1.foldl op acc = l.foldl op acc
  | [], _ | [_], _ => rfl
  | x :: y :: r, acc => (foldl_treeLevel r _).trans (congrArg (List.foldl op · r) (hassoc acc x y).symm)

/-- The tree over an associative operation gives the value of the fold from the left. -/
theorem tree_foldl (n : Nat) (a : Nat) (r : List Nat) (h : r.length + 1 ≤ 2 ^ n) :
    tree (fun x y => quietF (op x y)) n (a :: r) 0 = ([r.foldl op a], 0) := by
  induction n generalizing a r with
  | zero =>
    obtain rfl : r = [] := List.length_eq_zero_iff.mp (by simpa using h)
    rfl
  | succ n ih =>
    have hfl : 0 ||| (treeLevel (fun x y => quietF (op x y)) (a :: r)).2 = 0 := by rw [treeLevel_quiet_flags]; rfl
    simp only [tree, hfl]
    cases r with
    | nil => exact ih a [] Nat.one_le_two_pow
    | cons b r =>
      have hlen := length_treeLevel (fun x y => quietF (op x y)) r
      rw [List.length_cons, Nat.pow_succ] at h
      refine (ih (op a b) (treeLevel (fun x y => quietF (op x y)) r).1 (by omega)).trans ?_
      rw [foldl_treeLevel hassoc]
      rfl

end

/-! ### The operations of the integer reductions (R109) -/

/-- What a reduction needs of its operation: an order of the tree that does not matter, and a value that an empty reduction may start from. -/
structure Folds (w : Nat) (op : Nat → Nat → Nat) (empty : Nat) : Prop where
  assoc : ∀ x y z, op (op x y) z = op x (op y z)
  start : ∀ x, x < 2 ^ w → op empty x = x

theorem folds_add (w : Nat) : Folds w (fun x y => (x + y) % 2 ^ w) 0 :=
  ⟨fun x y z => by rw [Nat.mod_add_mod, Nat.add_mod_mod, Nat.add_assoc], fun x hx => by rw [Nat.zero_add, Nat.mod_eq_of_lt hx]⟩

theorem folds_and (w : Nat) : Folds w (fun x y => x &&& y) (2 ^ w - 1) :=
  ⟨Nat.and_assoc, fun x hx => by rw [Nat.and_comm, Nat.and_two_pow_sub_one_of_lt_two_pow hx]⟩

theorem folds_or (w : Nat) : Folds w (fun x y => x ||| y) 0 := ⟨Nat.or_assoc, fun x _ => Nat.zero_or x⟩

theorem folds_xor (w : Nat) : Folds w (fun x y => x ^^^ y) 0 := ⟨Nat.xor_assoc, fun x _ => Nat.zero_xor x⟩

theorem folds_minu (w : Nat) : Folds w min (2 ^ w - 1) := ⟨Nat.min_assoc, fun x hx => Nat.min_eq_right (by omega)⟩

theorem folds_maxu (w : Nat) : Folds w max 0 := ⟨Nat.max_assoc, fun x _ => Nat.zero_max x⟩

/-- The one of two patterns that a strict order of their numbers prefers, the second where it does not decide. -/
theorem ite_lt_assoc (m : Nat → Int) (x y z : Nat) :
    (if m (if m x < m y then x else y) < m z then (if m x < m y then x else y) else z) =
      if m x < m (if m y < m z then y else z) then x else if m y < m z then y else z := by
  by_cases hxy : m x < m y <;> by_cases hyz : m y < m z <;> simp only [hxy, hyz, if_true, if_false]
  · rw [if_pos (hxy.trans hyz)]
  · rw [if_neg (by omega)]

theorem ite_gt_assoc (m : Nat → Int) (x y z : Nat) :
    (if m (if m x < m y then y else x) < m z then z else (if m x < m y then y else x)) =
      if m x < m (if m y < m z then z else y) then (if m y < m z then z else y) else x := by
  by_cases hxy : m x < m y <;> by_cases hyz : m y < m z <;> simp only [hxy, hyz, if_true, if_false]
  · rw [if_pos (hxy.trans hyz)]
  · rw [if_neg (by omega)]

section
variable {w : Nat} (hw : 0 < w)
include hw

theorem folds_min : Folds w (fun x y => if signedN w x < signedN w y then x else y) (2 ^ (w - 1) - 1) :=
  ⟨ite_lt_assoc (signedN w), fun x hx => if_neg (by
    have h2 := two_pow_eq_half hw
    have hpos := Nat.two_pow_pos (w - 1)
    unfold signedN
    rw [if_pos (by omega)]
    zify [hpos] at h2 hx ⊢
    split <;> omega)⟩

theorem folds_max : Folds w (fun x y => if signedN w x < signedN w y then y else x) (2 ^ (w - 1)) :=
  ⟨ite_gt_assoc (signedN w), fun x hx => by
    have h2 := two_pow_eq_half hw
    split
    · rfl
    · next h =>
      unfold signedN at h
      rw [if_neg (Nat.lt_irrefl _)] at h
      push_cast at h
      split at h <;> next hlt =>
        zify at h2 hx hlt ⊢
        omega⟩

end

/-- Folds agree whose operations agree on the patterns of a width. -/
theorem foldl_congr_lt {n : Nat} {f g : Nat → Nat → Nat} (h : ∀ x y, x < n → y < n → f x y = g x y) (hlt : ∀ x y, x < n → y < n → f x y < n)
    (l : List Nat) (hl : ∀ x ∈ l, x < n) {acc : Nat} (hacc : acc < n) : l.foldl f acc = l.foldl g acc := by
  induction l generalizing acc with
  | nil => rfl
  | cons x l ih =>
    have hx := hl x List.mem_cons_self
    rw [List.foldl_cons, List.foldl_cons, ← h acc x hacc hx]
    exact ih (fun y hy => hl y (List.mem_cons_of_mem x hy)) (hlt acc x hacc hx)

end Sys2Proof.Machine
end

section
/-! SUPPORT. What comparison, selection, reductions, moves, conversion and the mask operations do (R107 to R113), and the obligation about them. -/

namespace Sys2Proof.Machine

/-! ### Writes without flags -/

theorem Thread.setFlags_zero (t : Thread) : t.setFlags 0 = t := by
  have h : t.fcr ||| BitVec.ofNat 64 0 = t.fcr := BitVec.or_zero
  unfold Thread.setFlags
  rw [h]

theorem State.wv_retire (s : State) (d : Nat) (v : Vec) : .next (s.wv d v).retire = s.putV d (v, 0) := by
  unfold State.putV State.retire State.wv
  simp only [Thread.setFlags_zero, State.me_setMe, State.setMe_setMe]

theorem State.writesK_retire (s : State) (d : Nat) (v : BitVec 8) (hd : d ≠ 0) : WritesK s (s.wk d v).retire d v 0 := by
  have h := s.writesK_putK d v 0 hd rfl
  unfold State.retire State.wk at *
  simp only [Thread.setFlags_zero, State.me_setMe, State.setMe_setMe] at *
  exact h

/-! ### Ready instructions -/

/-- A thread that is ready with some mask registers is ready with fewer. -/
theorem State.ready_masks {s : State} {gs vs ks ls : List Nat} (h : s.ready gs vs ks = true)
    (hls : ∀ n ∈ ls, n ∈ ks) : s.ready gs vs ls = true := by
  unfold State.ready State.inRange at *
  simp only [Bool.and_eq_true, List.all_eq_true] at *
  obtain ⟨hheld, hrange, hks⟩ := h
  exact ⟨hheld, hrange, fun n hn => hks n (hls n hn)⟩

theorem givesV_putV {i : Instr} {gs vs ks : List Nat} {d : Nat} {q : State → Vec × Nat}
    (h : ∀ s, s.ready gs vs ks = true → exec i s = s.putV d (q s)) (hfl : ∀ s, (q s).2 % 4 = 0) : GivesV i gs vs ks d q := fun s hr => by
  obtain ⟨t, ht, hw⟩ := s.writesV_putV d (q s) (hfl s)
  exact ⟨t, (h s hr).trans ht, hw⟩

/-! ### Reductions (R109) -/

/-- The active elements of a source of width w in rising order. -/
def State.activeElems (s : State) (a k w : Nat) : List Nat := (s.actives k w).map fun j => elem (s.rv a) w j

theorem State.activeElems_lt {s : State} {a k w x : Nat} (h : x ∈ s.activeElems a k w) : x < 2 ^ w := by
  obtain ⟨j, -, rfl⟩ := List.mem_map.mp h
  exact elem_lt _ _ _

theorem State.length_activeElems_le (s : State) (a k : Nat) (wc : Width) : (s.activeElems a k (Width.bitsOf wc)).length ≤ 64 := by
  rw [State.activeElems, List.length_map]
  refine (List.length_filter_le _ _).trans ?_
  rw [List.length_range]
  cases wc <;> decide

/-- The tree of at least one value leaves at least one. -/
theorem tree_ne_nil (op : Nat → Nat → Nat × Nat) (n : Nat) {l : List Nat} (fl : Nat) (h : l ≠ []) : (tree op n l fl).1 ≠ [] := by
  induction n generalizing l fl with
  | zero => exact h
  | succ n ih =>
    refine ih _ fun hnil => h ?_
    have hlen := length_treeLevel op l
    rw [hnil, List.length_nil] at hlen
    exact List.length_eq_zero_iff.mp (by omega)

theorem treeLevel_flags {op : Nat → Nat → Nat × Nat} (h : ∀ x y, (op x y).2 % 4 = 0) : ∀ l : List Nat, (treeLevel op l).2 % 4 = 0
  | [] | [_] => rfl
  | x :: y :: r => or_mod_four (h x y) (treeLevel_flags h r)

theorem tree_flags {op : Nat → Nat → Nat × Nat} (h : ∀ x y, (op x y).2 % 4 = 0) (n : Nat) (l : List Nat) {fl : Nat} (hfl : fl % 4 = 0) :
    (tree op n l fl).2 % 4 = 0 := by
  induction n generalizing l fl with
  | zero => exact hfl
  | succ n ih => exact ih _ (or_mod_four hfl (treeLevel_flags h l))

/-- The value and flags of a floating reduction: of no element, of one, and of the tree (R84, R109). -/
def reducedF (f : Fmt) (empty : Nat) (op : Nat → Nat → Nat × Nat) (l : List Nat) : Nat × Nat :=
  match l with
  | [] => (empty, 0)
  | [x] => if (f.decode x).isNan then (f.qnan, if (f.decode x).isSnan then flagNV else 0) else (x, 0)
  | _ => ((tree op 6 l 0).1.headD 0, (tree op 6 l 0).2)

theorem reducedF_singleton (f : Fmt) (empty : Nat) (op : Nat → Nat → Nat × Nat) (x : Nat) : reducedF f empty op [x] = oneF f x := by
  unfold oneF reducedF nvOf flagIf
  simp

theorem reducedF_flags (f : Fmt) (empty : Nat) {op : Nat → Nat → Nat × Nat} (h : ∀ x y, (op x y).2 % 4 = 0) :
    ∀ l, (reducedF f empty op l).2 % 4 = 0
  | [] => rfl
  | [x] => by
    unfold reducedF
    dsimp only
    split
    · split
      · exact flagNV_mod_four
      · rfl
    · rfl
  | _ :: _ :: _ => tree_flags h 6 _ rfl

section
variable {i : Instr} {word : Nat} {d a : V} {wc : Width} {k : K}

theorem State.reduceI_ready {s : State} {op : Nat → Nat → Nat → Nat} {empty : Nat → Nat} (hr : s.ready [] [d, a] [k] = true)
    (h : Folds (Width.bitsOf wc) (op (Width.bitsOf wc)) (empty (Width.bitsOf wc))) : s.reduceI word d a wc k empty op =
      s.putV d (setElem (s.rv d) (Width.bitsOf wc) 0 ((s.activeElems a k (Width.bitsOf wc)).foldl (op (Width.bitsOf wc)) (empty (Width.bitsOf wc))), 0) := by
  have hlt := fun x (hx : x ∈ s.activeElems a k (Width.bitsOf wc)) => State.activeElems_lt hx
  have hlen := s.length_activeElems_le a k wc
  unfold State.reduceI State.reduce
  rw [State.issue_ready (u := (useV word [d, a] k).ill false) hr (fun hbar => by cases hbar) rfl]
  unfold State.activeElems at *
  dsimp only
  generalize (s.actives k (Width.bitsOf wc)).map (fun j => elem (s.rv a) (Width.bitsOf wc) j) = l at *
  cases l with
  | nil => rfl
  | cons x r =>
    rw [tree_foldl h.assoc 6 x r hlen, List.foldl_cons, h.start x (hlt x List.mem_cons_self)]
    have hone : (if (x :: r).length = 1 then quietF (r.foldl (op (Width.bitsOf wc)) x) else (r.foldl (op (Width.bitsOf wc)) x, 0)) =
      (r.foldl (op (Width.bitsOf wc)) x, 0) := ite_self _
    dsimp only
    rw [hone]

theorem State.reduceF_ready {s : State} {op : Fmt → Nat → Nat → Nat → Nat × Nat} {empty : Fmt → Nat} (hr : s.ready [] [d, a] [k] = true)
    (hok : floatWidth wc = true) : s.reduceF word d a wc k empty op =
      let r := reducedF (floatOf wc) (empty (floatOf wc)) (op (floatOf wc) s.me.rm) (s.activeElems a k (Width.bitsOf wc))
      s.putV d (setElem (s.rv d) (Width.bitsOf wc) 0 r.1, r.2) := by
  unfold State.reduceF State.reduce
  rw [State.issue_ready (u := (useV word [d, a] k).ill (!floatWidth wc)) hr (fun hbar => by cases hbar) (congrArg not hok)]
  unfold State.activeElems
  dsimp only
  generalize (s.actives k (Width.bitsOf wc)).map (fun j => elem (s.rv a) (Width.bitsOf wc) j) = l
  match l with
  | [] => rfl
  | [x] =>
    rw [reducedF_singleton]
    rfl
  | x :: y :: r =>
    have hne := tree_ne_nil (op (floatOf wc) s.me.rm) 6 0 (List.cons_ne_nil x (y :: r))
    unfold reducedF
    dsimp only
    generalize tree (op (floatOf wc) s.me.rm) 6 (x :: y :: r) 0 = t at *
    obtain ⟨_ | ⟨z, q⟩, fl⟩ := t
    · exact absurd rfl hne
    · dsimp only
      rw [if_neg (by simp)]
      rfl

theorem givesV_reduceI (e : State → Result) {op : Nat → Nat → Nat → Nat} {empty : Nat → Nat} {op' : Nat → Nat → Nat} {empty' : Nat}
    (hi : ∀ s, exec i s = e s) (he : ∀ s, e s = s.reduceI word d a wc k empty op)
    (h : Folds (Width.bitsOf wc) (op (Width.bitsOf wc)) (empty (Width.bitsOf wc)))
    (hop : ∀ l : List Nat, (∀ x ∈ l, x < 2 ^ Width.bitsOf wc) → l.foldl (op (Width.bitsOf wc)) (empty (Width.bitsOf wc)) = l.foldl op' empty') :
    GivesV i [] [d, a] [k] d fun s => (setElem (s.rv d) (Width.bitsOf wc) 0 ((s.activeElems a k (Width.bitsOf wc)).foldl op' empty'), 0) :=
  givesV_putV (fun s hr => by rw [hi, he, State.reduceI_ready hr h, hop _ fun x hx => State.activeElems_lt hx]) fun _ => rfl

theorem givesV_reduceF (e : State → Result) {op : Fmt → Nat → Nat → Nat → Nat × Nat} {empty : Fmt → Nat} (hi : ∀ s, exec i s = e s)
    (he : ∀ s, e s = s.reduceF word d a wc k empty op) (hok : floatWidth wc = true) (hfl : ∀ rm x y, (op (floatOf wc) rm x y).2 % 4 = 0) :
    GivesV i [] [d, a] [k] d fun s =>
      let r := reducedF (floatOf wc) (empty (floatOf wc)) (op (floatOf wc) s.me.rm) (s.activeElems a k (Width.bitsOf wc))
      (setElem (s.rv d) (Width.bitsOf wc) 0 r.1, r.2) :=
  givesV_putV (fun s hr => by rw [hi, he, State.reduceF_ready hr hok]) fun s => reducedF_flags _ _ (hfl s.me.rm) _

/-- A floating reduction of 8-bit or 16-bit elements is ILLEGAL (R109). -/
theorem exec_reduceF_illegal (e : State → Result) {op : Fmt → Nat → Nat → Nat → Nat × Nat} {empty : Fmt → Nat} (hi : ∀ s, exec i s = e s)
    (he : ∀ s, e s = s.reduceF word d a wc k empty op) (hword : word = encode i) (hbad : floatWidth wc = false) (s : State)
    (hr : s.ready [] [d, a] [k] = true) : exec i s = s.takeTrap causeIllegal (BitVec.ofNat 64 (encode i)) := by
  rw [hi, he, ← hword]
  unfold State.reduceF State.reduce
  exact State.issue_illegal (u := (useV word [d, a] k).ill (!floatWidth wc)) hr (congrArg not hbad) _

theorem floatOf_eq (wc : Width) : floatOf wc = if wc = .w then fmt32 else fmt64 := by cases wc <;> rfl

end

/-! ### Mask operations (R113) -/

theorem givesK_kop {i : Instr} {word : Nat} {kd : K} {ks : List Nat} {f : State → BitVec 8} (hd : kd.val ≠ 0)
    (hi : ∀ s, exec i s = s.kop word kd ks f) : GivesK i [] [] (kd.val :: ks) kd fun s => (f s, 0) := fun s hr => by
  refine ⟨_, ?_, s.writesK_retire kd (f s) hd⟩
  rw [hi, State.kop, State.issue_ready (u := ((useV word [] kd).addK (kd.val :: ks)).ill (decide (kd.val = 0))) hr (fun h => by cases h)
    (decide_eq_false hd)]

/-- A mask operation that names k0 as its destination is ILLEGAL (R113). -/
theorem exec_kop_illegal {i : Instr} {s : State} (e : Result) {word : Nat} {kd : K} {ks : List Nat} {f : State → BitVec 8} (hi : exec i s = e)
    (he : e = s.kop word kd ks f) (hword : word = encode i) (hd : kd.val = 0) (hr : s.ready [] [] (kd.val :: ks) = true) :
    exec i s = s.takeTrap causeIllegal (BitVec.ofNat 64 (encode i)) := by
  rw [hi, he, ← hword]
  exact State.issue_illegal (u := ((useV word [] kd).addK (kd.val :: ks)).ill (decide (kd.val = 0))) hr (decide_eq_true hd) _

/-! ### Comparison, selection and conversion -/

/-- What a vcmp uses, and the rules of its own: it does not name k0, and condition 5 is none of a float type (R107). -/
def vcmpUse (kd : K) (a b : V) (cond : Fin 6) (ty : CmpTy) (any : Bool) (k : K) : Use :=
  ((useV (encV 0x6B (ty.code + 8 * cond.val + 64 * any.toNat) k kd a b) [a, b] k).addK [kd, k]).ill
    (decide (kd.val = 0) || (ty.isFloat && decide (cond.val = 5)))

theorem execVcmp_eq (kd : K) (a b : V) (cond : Fin 6) (ty : CmpTy) (any : Bool) (k : K) (s : State) :
    execVcmp kd a b cond ty any k s = s.issue (vcmpUse kd a b cond ty any k) fun s =>
      let w := CmpTy.bitsOf ty
      let act := s.actives k w
      let c := fun j => cmpElem ty cond (elem (s.rv a) w j) (elem (s.rv b) w j)
      let t := s.wk kd (maskOf (cmpLane w any act fun j => (c j).1))
      .next (t.setMe (t.me.setFlags (act.foldl (fun fl j => fl ||| (c j).2) 0))).retire := rfl

section
variable {s : State} {d a b : V} {kd k : K}

theorem exec_vcmp {cond : Fin 6} {ty : CmpTy} {any : Bool} (hr : s.ready [] [a, b] [kd, k] = true)
    (hbad : ¬ (kd.val = 0 ∨ (ty.isFloat = true ∧ cond.val = 5))) :
    let w := CmpTy.bitsOf ty
    let act := s.actives k w
    let c := fun j => cmpElem ty cond (elem (s.rv a) w j) (elem (s.rv b) w j)
    ∃ t, exec (.vcmp kd a b cond ty any k) s = .next t ∧
      WritesK s t kd (maskOf (cmpLane w any act fun j => (c j).1)) (act.foldl (fun fl j => fl ||| (c j).2) 0) := by
  have hill : (decide (kd.val = 0) || (ty.isFloat && decide (cond.val = 5))) = false := by
    rw [not_or, not_and] at hbad
    obtain ⟨hkd, hcond⟩ := hbad
    cases hf : ty.isFloat
    · simp [hkd]
    · simp [hkd, hcond hf]
  intro w act c
  have hexec := exec_ready (i := .vcmp kd a b cond ty any k) _ rfl (execVcmp_eq kd a b cond ty any k s) hr rfl hill
  have hfl : act.foldl (fun fl j => fl ||| (c j).2) 0 % 4 = 0 := foldl_or_mod_four (f := c) (fun _ => cmpElem_flags _ _ _ _) act rfl
  exact ⟨_, hexec, s.writesK_putK kd _ _ (fun h => hbad (.inl h)) hfl⟩

/-- Flags of operations that raise none. -/
theorem foldl_or_zero (f : Nat → Nat) (l : List Nat) : l.foldl (fun fl i => fl ||| (quietF (f i)).2) 0 = 0 := by
  induction l with
  | nil => rfl
  | cons i l ih =>
    rw [List.foldl_cons, show (quietF (f i)).2 = 0 from rfl, Nat.or_zero]
    exact ih

theorem exec_vsel (hr : s.ready [] [d, a, b] [k] = true) : ∃ t v, exec (.vsel d a b k) s = .next t ∧ WritesV s t d v 0 ∧
    ∀ l, l < 8 → elem v 64 l = if (s.rk k).getLsbD l then elem (s.rv a) 64 l else elem (s.rv b) 64 l := by
  have hflags := fun f v => (fillElems_flags 64 (fun l => quietF (f l)) (List.range 8) v 0).trans (foldl_or_zero f (List.range 8))
  obtain ⟨t, ht, hw⟩ := s.writesV_putV d (fillElems 64 (fun l => quietF (elem (if (s.rk k).getLsbD l then s.rv a else s.rv b) 64 l)) (List.range 8) (s.rv d) 0)
    (by rw [hflags])
  rw [hflags] at hw
  refine ⟨t, _, (exec_ready (execVsel d a b k s) rfl rfl hr rfl rfl).trans ht, hw, fun l hl => ?_⟩
  rw [fillElems_active 64 _ _ _ _ l (by omega) (List.mem_range.mpr hl)]
  refine (Nat.mod_eq_of_lt (elem_lt _ 64 l)).trans ?_
  split <;> rfl

theorem exec_vcvt {rtz : Bool} {dst src : NumTy} (hr : s.ready [] [d, a] [k] = true) (hok : cvtOk dst src = true) :
    let act := s.actives k (max (numWidth dst) (numWidth src))
    let r := fun (j : Nat) => convert s.me.rm rtz dst src (elem (s.rv a) (numWidth src) j)
    ∃ t v, exec (.vcvt d a rtz dst src k) s = .next t ∧ WritesV s t d v (act.foldl (fun fl j => fl ||| (r j).2) 0) ∧
      ∀ j, j < 512 / numWidth dst → elem v (numWidth dst) j = if j ∈ act then (r j).1 % 2 ^ numWidth dst else elem (s.rv d) (numWidth dst) j := by
  intro act r
  have hflags := fillElems_flags (numWidth dst) r act (s.rv d) 0
  obtain ⟨t, ht, hw⟩ := s.writesV_putV d (fillElems (numWidth dst) r act (s.rv d) 0)
    (by rw [hflags]; exact foldl_or_mod_four (fun _ => convert_flags _ _ _ _ _) _ rfl)
  rw [hflags] at hw
  refine ⟨t, _, (exec_ready (execVcvt d a rtz dst src k s) rfl rfl hr rfl (congrArg not hok)).trans ht, hw, fun j hj => ?_⟩
  split
  · next hact => exact fillElems_active _ _ _ _ _ j (lane_fits hj) hact
  · next hact => exact fillElems_idle _ _ _ _ _ j (lane_fits hj) hact

end

/-! ### Moves between register files (R110) -/

section
variable {s : State} {g : G} {d : V} {kd : K} {idx : Fin 16} {wc : Width}

theorem exec_extr (hr : s.ready [g] [d] [] = true) (hok : idxOk idx wc = true) :
    ∃ t, exec (.extr g d idx wc) s = .next t ∧ Writes s t g (BitVec.ofNat 64 (elem (s.rv d) (Width.bitsOf wc) idx)) :=
  ⟨(s.wg g (BitVec.ofNat 64 (elem (s.rv d) (Width.bitsOf wc) idx))).retire, exec_ready (execExtr g d idx wc s) rfl rfl hr rfl (congrArg not hok),
    s.writes_retire g _⟩

theorem exec_ins (hr : s.ready [g] [d] [] = true) (hok : idxOk idx wc = true) :
    ∃ t, exec (.ins d g idx wc) s = .next t ∧ WritesV s t d (setElem (s.rv d) (Width.bitsOf wc) idx (s.rg g).toNat) 0 := by
  obtain ⟨t, ht, hw⟩ := s.writesV_putV d (setElem (s.rv d) (Width.bitsOf wc) idx (s.rg g).toNat, 0) rfl
  rw [← State.wv_retire] at ht
  exact ⟨t, (exec_ready (execIns d g idx wc s) rfl rfl hr rfl (congrArg not hok)).trans ht, hw⟩

theorem exec_extrK (hr : s.ready [g] [] [kd] = true) : ∃ t, exec (.extrK g kd) s = .next t ∧ Writes s t g ((s.rk kd).setWidth 64) :=
  ⟨(s.wg g ((s.rk kd).setWidth 64)).retire, exec_ready (execExtrK g kd s) rfl rfl hr rfl rfl, s.writes_retire g _⟩

theorem exec_insK (hr : s.ready [g] [] [kd] = true) (hkd : kd.val ≠ 0) :
    ∃ t, exec (.insK kd g) s = .next t ∧ WritesK s t kd ((s.rg g).setWidth 8) 0 :=
  ⟨(s.wk kd ((s.rg g).setWidth 8)).retire, exec_ready (execInsK kd g s) rfl rfl hr rfl (decide_eq_false hkd), s.writesK_retire kd _ hkd⟩

end

/-! ### The obligation -/

/-- The conditions of vcmp on a pair of elements (R107). -/
theorem cmpElem_conditions (ty : CmpTy) (x y : Nat) :
    let w := CmpTy.bitsOf ty
    (ty.isFloat = false → x < 2 ^ w → y < 2 ^ w →
      let p := (BitVec.ofNat w x).toInt
      let q := (BitVec.ofNat w y).toInt
      cmpElem ty 0 x y = (decide (x = y), 0) ∧ cmpElem ty 1 x y = (decide (x ≠ y), 0) ∧ cmpElem ty 2 x y = (decide (p < q), 0) ∧
      cmpElem ty 3 x y = (decide (p ≤ q), 0) ∧ cmpElem ty 4 x y = (decide (x < y), 0) ∧ cmpElem ty 5 x y = (decide (x ≤ y), 0)) ∧
    (ty.isFloat = true →
      let f := if w = 64 then fmt64 else fmt32
      let nv := if (f.decode x).isSnan || (f.decode y).isSnan then flagNV else 0
      cmpElem ty 0 x y = feq f x y ∧ cmpElem ty 1 x y = (!(feq f x y).1, nv) ∧ cmpElem ty 2 x y = flt f x y ∧ cmpElem ty 3 x y = fle f x y ∧
      cmpElem ty 4 x y = ((f.decode x).isNan || (f.decode y).isNan, nv)) := by
  intro w
  refine ⟨fun hty hx hy => ?integer, fun hty => ?float⟩
  case integer =>
    intro p q
    simp only [cmpElem_int hty, cmpInt, signedN_eq (CmpTy.bitsOf_pos ty) hx, signedN_eq (CmpTy.bitsOf_pos ty) hy]
    refine ⟨rfl, ?_, rfl, rfl, rfl, rfl⟩
    simp [bne, beq_eq_decide]
  case float =>
    intro f nv
    have hnv : nv = nvOf [f.decode x, f.decode y] := (nvOf_pair _ _).symm
    simp only [cmpElem_float hty, hnv]
    exact ⟨rfl, rfl, rfl, rfl, rfl⟩

/-- Settles O45: each instruction is its form, a lane's bit is what cmpLane says, and the tree of an associative operation is the fold from the left. -/
theorem vectorWholes : Obligations.VectorWholes := by
  unfold Obligations.VectorWholes
  refine ⟨cmpElem_conditions, fun d a b kd ka kb k wc g idx => ?_⟩
  have hw := Width.bitsOf_pos wc
  intro w illegal
  refine ⟨fun s cond ty any hr => ?vcmp, fun s hr => exec_vsel hr, ?integer, ?float, fun s hr => ?moves, fun s hr => ?masks,
    fun s rtz dst src hr => ⟨fun hbad => ?badCvt, fun hok => exec_vcvt hr hok⟩, fun hkd => ?maskOps, fun hkd s imm hr => ?maskZero⟩
  case vcmp =>
    intro i w act holds bad
    refine ⟨fun hbad => ?_, fun hbad => ?_⟩
    · exact exec_illegal _ rfl (execVcmp_eq kd a b cond ty any k s) rfl hr (by
        rcases hbad with hkd | ⟨hfloat, hcond⟩
        · simp [vcmpUse, Use.ill, hkd]
        · simp [vcmpUse, Use.ill, hfloat, hcond])
    · obtain ⟨t, ht, hw⟩ := exec_vcmp hr hbad
      exact ⟨t, _, ht, hw, fun l hl => by rw [getLsbD_maskOf _ hl]; exact cmpLane_iff _ _ _ _ _⟩
  case integer =>
    intro s_ fold
    have hmin : ∀ x y, x < 2 ^ w → y < 2 ^ w → (if signedN w x < signedN w y then x else y) = if s_ x < s_ y then x else y :=
      fun x y hx hy => by rw [signedN_eq hw hx, signedN_eq hw hy]
    have hmax : ∀ x y, x < 2 ^ w → y < 2 ^ w → (if signedN w x < signedN w y then y else x) = if s_ x < s_ y then y else x :=
      fun x y hx hy => by rw [signedN_eq hw hx, signedN_eq hw hy]
    have h2 : 2 ^ w = 2 * 2 ^ (Width.bitsOf wc - 1) := two_pow_eq_half hw
    have hpos := Nat.two_pow_pos (Width.bitsOf wc - 1)
    exact ⟨
      givesV_reduceI (execVredAdd d a wc k) (fun _ => rfl) (fun _ => rfl) (folds_add w) fun _ _ => rfl,
      givesV_reduceI (execVredAnd d a wc k) (fun _ => rfl) (fun _ => rfl) (folds_and w) fun _ _ => rfl,
      givesV_reduceI (execVredOr d a wc k) (fun _ => rfl) (fun _ => rfl) (folds_or w) fun _ _ => rfl,
      givesV_reduceI (execVredXor d a wc k) (fun _ => rfl) (fun _ => rfl) (folds_xor w) fun _ _ => rfl,
      givesV_reduceI (execVredMin d a wc k) (fun _ => rfl) (fun _ => rfl) (folds_min hw)
        fun l hl => foldl_congr_lt hmin (fun x y hx hy => by split <;> assumption) l hl (by omega),
      givesV_reduceI (execVredMax d a wc k) (fun _ => rfl) (fun _ => rfl) (folds_max hw)
        fun l hl => foldl_congr_lt hmax (fun x y hx hy => by split <;> assumption) l hl (by omega),
      givesV_reduceI (execVredMinu d a wc k) (fun _ => rfl) (fun _ => rfl) (folds_minu w) fun _ _ => rfl,
      givesV_reduceI (execVredMaxu d a wc k) (fun _ => rfl) (fun _ => rfl) (folds_maxu w) fun _ _ => rfl⟩
  case float =>
    intro f
    have hf : f = floatOf wc := (floatOf_eq wc).symm
    clear_value f
    subst hf
    intro float
    exact ⟨
      ⟨exec_reduceF_illegal (execVredFadd d a wc k) (fun _ => rfl) (fun _ => rfl) rfl,
        fun hok => givesV_reduceF (op := fadd) (empty := fun _ => 0) (execVredFadd d a wc k) (fun _ => rfl) (fun _ => rfl) hok (fadd_flags _)⟩,
      ⟨exec_reduceF_illegal (execVredFmin d a wc k) (fun _ => rfl) (fun _ => rfl) rfl,
        fun hok => givesV_reduceF (op := fun f _ => fminmax f false) (empty := Fmt.infBits)
          (execVredFmin d a wc k) (fun _ => rfl) (fun _ => rfl) hok fun _ => fminmax_flags _ _⟩,
      ⟨exec_reduceF_illegal (execVredFmax d a wc k) (fun _ => rfl) (fun _ => rfl) rfl,
        fun hok => givesV_reduceF (op := fun f _ => fminmax f true) (empty := fun f => f.signBit true + f.infBits)
          (execVredFmax d a wc k) (fun _ => rfl) (fun _ => rfl) hok fun _ => fminmax_flags _ _⟩⟩
  case moves =>
    refine ⟨fun hok => ⟨exec_extr hr hok, exec_ins hr hok⟩, fun hbad => ⟨?_, ?_⟩⟩
    · exact exec_illegal (execExtr g d idx wc s) rfl rfl rfl hr (congrArg not hbad)
    · exact exec_illegal (execIns d g idx wc s) rfl rfl rfl hr (congrArg not hbad)
  case masks =>
    exact ⟨exec_extrK hr, fun hkd => exec_illegal (execInsK kd g s) rfl rfl rfl hr (decide_eq_true hkd), exec_insK hr⟩
  case badCvt => exact exec_illegal (execVcvt d a rtz dst src k s) rfl rfl rfl hr (congrArg not hbad)
  case maskOps =>
    intro gives
    exact ⟨givesK_kop hkd fun _ => rfl, givesK_kop hkd fun _ => rfl, givesK_kop hkd fun _ => rfl, givesK_kop hkd fun _ => rfl,
      givesK_kop hkd fun _ => rfl, fun _ => givesK_kop hkd fun _ => rfl⟩
  case maskZero =>
    have hone : s.ready [] [] [kd, ka] = true := State.ready_masks hr (by simp)
    have hnone : s.ready [] [] [kd] = true := State.ready_masks hr (by simp)
    exact ⟨exec_kop_illegal (execKand kd ka kb s) rfl rfl rfl hkd hr, exec_kop_illegal (execKor kd ka kb s) rfl rfl rfl hkd hr,
      exec_kop_illegal (execKxor kd ka kb s) rfl rfl rfl hkd hr, exec_kop_illegal (execKandn kd ka kb s) rfl rfl rfl hkd hr,
      exec_kop_illegal (execKnot kd ka s) rfl rfl rfl hkd hone, exec_kop_illegal (execKli kd imm s) rfl rfl rfl hkd hnone⟩

end Sys2Proof.Machine
end

section
/-! SUPPORT. A vst that meets a failed CXL set (R101, R213, R230), and the obligation about vector memory. -/

namespace Sys2Proof.Machine

/-! ### A poisoned line of a failed CXL set -/

/-- The line of CXL memory at which the extent of `failedLine` begins, as a key. -/
def failedKey : Nat := cxlKey 0x1000

/-- One live thread with a length of eight lanes and the base of an extent of CXL memory in g6. The interleave set has failed after its first line was
poisoned. -/
def failedLine : State :=
  let s := State.reset.placeWord 0
  let c := s.cap 1
  let t := (s.setCap 1 { c with image := { c.image with extents := ⟨0x1000, 0x1000, 2 ^ 62 + 0x1000, rightR + rightW, 0⟩ :: c.image.extents } }).setMe
    { s.me.wg 6 0x1000 with vl := 8 }
  { t with mgmt := { t.mgmt with cxlFailed := true }, poison := [failedKey / 64] }

/-- The base of the store below, in the form of its instruction. -/
def failedAddr : Word := failedLine.rg (6 : G) + BitVec.ofInt 64 (64 * (0 : BitVec 8).toInt)

/-- The bytes of the store below, in the form of its instruction. -/
def failedLength : Nat := min 64 (activeCount failedLine.me.vl.toNat (Width.bitsOf .d) * (Width.bitsOf .d / 8))

/-- The place of word i of the line. -/
def failedPlace (i : Nat) : Place := .here (failedKey + 8 * i) (some 0)

/-- The poisoned lines after an outcome. -/
def poisonAfter : Result → List Nat
  | .next t => t.poison
  | _ => []

theorem failedLength_eq : failedLength = 64 := by decide +kernel

/-- The store passes its checks. -/
theorem failedLine_reach {i : Nat} (h : 8 * i < failedLength) :
    failedLine.reach (coreOf failedLine.who) (failedAddr + BitVec.ofNat 64 (8 * i)) (min 8 (failedLength - 8 * i)) accStore = .ok (failedPlace i) := by
  have all : ∀ i : Fin 8, (match failedLine.reach (coreOf failedLine.who) (failedAddr + BitVec.ofNat 64 (8 * i)) 8 accStore with
      | .ok p => decide (p = failedPlace i)
      | .error _ => false) = true := by decide +kernel
  rw [failedLength_eq] at *
  have hi := all ⟨i, by omega⟩
  rw [show min 8 (64 - 8 * i) = 8 by omega]
  dsimp only at hi
  split at hi
  · next p hp => rw [hp, of_decide_eq_true hi]
  · cases hi

/-- The vst clears the poison of the line that it covers before it ends in MEMERR. -/
theorem poisonAfter_vst : poisonAfter (exec (.vst 0 6 0 .d 0) failedLine) = [] := by decide +kernel

/-- A trap clears no poison. -/
theorem poisonAfter_trap : poisonAfter (failedLine.takeTrap causeMemerr (failedAddr + BitVec.ofNat 64 (8 * 0))) = [failedKey / 64] := by decide +kernel

/-- Refutes O46: a vst to a poisoned line of a failed CXL set traps MEMERR, but the model has cleared the line's poison before, though no byte is
written (R101, R213). -/
theorem not_vectorMemory : ¬ Obligations.VectorMemory := by
  unfold Obligations.VectorMemory
  intro h
  obtain ⟨hunit, -⟩ := h 0 0 6 0 0 .d 0 0 failedLine (fun _ => 0) failedPlace
  obtain ⟨-, -, haccess⟩ := hunit (by decide +kernel)
  obtain ⟨-, ⟨-, hstore⟩, -⟩ := haccess (by decide +kernel) (by decide +kernel)
  obtain ⟨-, hmemerr⟩ := hstore fun i hi => failedLine_reach hi
  have htrap : exec (.vst 0 6 0 .d 0) failedLine = failedLine.takeTrap causeMemerr (failedAddr + BitVec.ofNat 64 (8 * 0)) :=
    hmemerr (fun _ _ => rfl) 0 (by decide +kernel) rfl fun j hj => absurd hj (Nat.not_lt_zero j)
  have hpoison := poisonAfter_vst
  rw [htrap, poisonAfter_trap] at hpoison
  cases hpoison

end Sys2Proof.Machine
end
